-- ==== Sys2Proof/Word.lean ====
section
/-! DEFINITION. The word types of the HX7: bit vectors where the manual treats a value as bits
(register words, addresses while they are computed, encoded fields). -/

namespace Sys2Proof

/-- A 64-bit register word, and a unified module address while it is computed (R26, R82). -/
abbrev Word := BitVec 64

/-- One byte of memory, of a packet or of a message. -/
abbrev Byte := BitVec 8

/-- A byte string: message bodies, packet payloads, key material. -/
abbrev Bytes := List Byte

end Sys2Proof
end

