-- ==== Sys2Proof/Syntax.lean ====
section
/-! DEFINITION. The commands of the block: one constructor of `Instr` for each row of the opcode table.
An easel core instruction carries the fields of its format (Tables 3-5, 3-6 and 4-1), that is every bit
of its word but the major and minor opcode; an event carries what its occurrence names and what the
hardware measured. -/

namespace Sys2Proof

/-- Physical index of an easel, 0–207 (R22). -/
abbrev EaselId := Fin 208
/-- Context ID, 0–63 (R412). -/
abbrev CtxId := Fin 64
/-- PCIe function: 0 the PF, 1–63 the VFs (R389). -/
abbrev FnId := Fin 64
/-- Partition, 0–3 (R20). -/
abbrev PartId := Fin 4
/-- Glaze slot (R195) or collective slot (R363), 0–63. -/
abbrev SlotId := Fin 64
/-- Errair port, E0–E11 (R296). -/
abbrev PortId := Fin 12

/-- Format A (Table 3-6) with the guard of Table 3-5; `low` is bits [27:0], zero unless an instruction
defines them. -/
structure FmtA where
  pneg : Bool
  pred : BitVec 3
  rd : BitVec 5
  rs1 : BitVec 5
  rs2 : BitVec 5
  rs3 : BitVec 5
  low : BitVec 28
  deriving DecidableEq, Repr

/-- Format I: a 38-bit two's complement immediate. -/
structure FmtI where
  pneg : Bool
  pred : BitVec 3
  rd : BitVec 5
  rs1 : BitVec 5
  imm : BitVec 38
  deriving DecidableEq, Repr

/-- Format B: a 33-bit offset in units of 8 bytes. -/
structure FmtB where
  pneg : Bool
  pred : BitVec 3
  rd : BitVec 5
  rs1 : BitVec 5
  rs2 : BitVec 5
  off : BitVec 33
  deriving DecidableEq, Repr

/-- Format C: a control register number; `low` is bits [25:0], zero. -/
structure FmtC where
  pneg : Bool
  pred : BitVec 3
  rd : BitVec 5
  rs1 : BitVec 5
  csr : BitVec 12
  low : BitVec 26
  deriving DecidableEq, Repr

/-- Format T: two descriptor numbers and a word number; `low` is bits [23:0], zero. -/
structure FmtT where
  pneg : Bool
  pred : BitVec 3
  rd : BitVec 5
  rs1 : BitVec 5
  td : BitVec 6
  td2 : BitVec 6
  word : BitVec 2
  low : BitVec 24
  deriving DecidableEq, Repr

/-- Format E (Table 4-1), the engine instructions. -/
structure FmtE where
  pneg : Bool
  pred : BitVec 3
  tda : BitVec 6
  tdb : BitVec 6
  tdc : BitVec 6
  rs : BitVec 5
  sig : Bool
  so : BitVec 9
  func : BitVec 15
  deriving DecidableEq, Repr

/-- A scalar or compare instruction that has a register form and an immediate form (Table 3-8, R90). -/
inductive FmtAI where
  | reg (f : FmtA)
  | imm (f : FmtI)
  deriving DecidableEq, Repr

/-- The three engines of an easel (R118). -/
inductive Engine where
  | me | vu | ce
  deriving DecidableEq, Repr

/-- Who accesses a register (R43): a PCIe function or an on-module agent (R28), or the tray controller. -/
inductive Requester where
  | fn (f : FnId)
  | cp (core : Fin 8)
  | sup (i : Fin 2)
  | ihlel
  | tray
  deriving DecidableEq, Repr

/-- A register block instance (Tables 0-8 and 13-3). -/
inductive BlockId where
  | hif (i : Fin 64) | evc | ctx | sec | pwr | thm | sup (i : Fin 2) | bru | fwu | tray | ftc
  | cnv (i : Fin 2) | lpm (i : Fin 2) | glz (i : Fin 2) | skt (i : Fin 4) | col
  | err (i : Fin 12) | syn (i : Fin 2) | rte | easel (i : Fin 208)
  deriving DecidableEq, Repr

/-- A flit: header, 240 data bytes, CRC-64 (Table 10-2). -/
structure Flit where
  hdr : Word
  data : Bytes
  crc : Word
  deriving DecidableEq, Repr

/-- What the decoder of the FEC reports with a flit (R300, R328): the codewords that end with it and could not be
corrected, and of each corrected one the lanes of the symbols that it corrected. -/
structure FecReport where
  bad : Nat
  fixed : List (List (Fin 8))
  deriving DecidableEq, Repr

/-- The four timestamps of an exchange, in units of 0.25 ns (R323). -/
structure TimingStamp where
  t1 : Nat
  t2 : Nat
  t3 : Nat
  t4 : Nat
  deriving DecidableEq, Repr

/-- How port training ended (Table 10-6): lanes in use, the partner's FA and port, and the equalisation
that training found, or no success. -/
inductive TrainResult where
  | up (lanes : BitVec 8) (fa : BitVec 10) (port : BitVec 4) (eq : Word)
  | failed
  deriving DecidableEq, Repr

/-- The memories that the patrol scrub visits (R186). -/
inductive ScrubMem where
  | palette (e : EaselId)
  | canvas (die : Fin 2)
  | lpddr6
  deriving DecidableEq, Repr

/-- An LPDDR6 channel loses training, or its retrain ends (R180). -/
inductive RetrainPhase where
  | lost | done | failed
  deriving DecidableEq, Repr

/-- What an LPDDR6 package reports (R184): its temperature and the refresh rate that it requests, as the device
encodes it. -/
inductive PkgTemp where
  | celsius (t : Nat) (rate : Nat)
  | beyondRange (t : Nat)
  | unreadable
  deriving DecidableEq, Repr

/-- Errors that have appeared in the storage of an accumulator entry since it was last read (R159, R168): the entry
as set × 12288 + row × 128 + column, bits turned in its low and its high word, bits turned in the copies of its
tag, and tag bits of which a copy cannot be read. -/
structure AccErr where
  entry : Nat
  low : Nat
  high : Nat
  t1 : BitVec 2
  t2 : BitVec 2
  t3 : BitVec 2
  lost : BitVec 2
  deriving DecidableEq, Repr

/-- A request that the host makes of a doorbell of BAR4 (R392, R409), `off` bytes after the doorbell's address. -/
inductive DbAccess where
  | write (off size : Nat) (data : Word) (poisoned : Bool)
  | read (off size : Nat)
  deriving DecidableEq, Repr

/-- Errors that have appeared in a word of memory since it was last checked (R159, R164): the bits that have turned, and
whether its next crossing of an on-die path meets an uncorrectable codeword. -/
structure WordErrors where
  bits : Nat
  path : Bool
  deriving DecidableEq, Repr

/-- State of the PCIe link (R387, R388): `down` is every state in which it carries nothing but L1. -/
inductive LinkPm where
  | l0 | l0p | l1 | down
  deriving DecidableEq, Repr

/-- The PCIe link (R388, Table 13-10): its state, rate code, width, FLIT mode. -/
structure LinkState where
  pm : LinkPm
  gen : BitVec 3
  width : BitVec 5
  flit : Bool
  deriving DecidableEq, Repr

/-- The two SPDM transports (R434). -/
inductive Transport where
  | doe | service
  deriving DecidableEq, Repr

/-- What an SPDM requester offers (R435): extended algorithms as registry and algorithm ID pairs. -/
structure AlgOffer where
  extHash : List (BitVec 8 × BitVec 16)
  extAsym : List (BitVec 8 × BitVec 16)
  kex : List (BitVec 8 × BitVec 16)
  aesGcm : Bool
  deriving DecidableEq, Repr

/-- IDE_KM requests (R442): stream 0 is the link stream, 1–64 the selective streams. -/
inductive IdeReq where
  | query
  | keyProg (stream : Fin 65) (vf : Option FnId) (key : Bytes)
  | setGo (stream : Fin 65)
  | setStop (stream : Fin 65)
  deriving DecidableEq, Repr

/-- TDISP requests (R442). -/
inductive TdispReq where
  | getState | lockInterface | getReport | startInterface | stopInterface
  deriving DecidableEq, Repr

/-- What ends quietness (R466). -/
inductive WakeCause where
  | doorbell | bar2 | command | event | signal | timeout | quantum | remote | snapshot | ready
  deriving DecidableEq, Repr

/-- A leak trace's state (R472), codes 0–3. -/
inductive LeakCode where
  | dry | wet | openFault | excitation
  deriving DecidableEq, Repr

/-- A trip condition (R471). -/
inductive TripCause where
  | junction (s : Fin 48)
  | canvas (s : Fin 32)
  | pin
  | supervisor (zone : Fin 48)
  deriving DecidableEq, Repr

/-- One sample set (R474): sensor readings in °C, the share of estimated power of each zone in watts,
inlet and outlet in 0.1 °C. -/
structure SampleSet where
  junction : List Int
  canvas : List Int
  zonePower : List Nat
  inlet : Int
  outlet : Int
  deriving DecidableEq, Repr

/-- The unit of a recovery (R497). -/
inductive RecUnit where
  | engine (e : EaselId)
  | partition (p : PartId)
  | chip
  deriving DecidableEq, Repr

/-- What a cold boot meets in the hardware (R513, R516): channels failing at each rate, a Canvas die
beyond repair, the supervisors that start, whether the runtime reaches phase 3 and the Ihlel firmware
runs, easels failing the start-of-day test and the known-answer run, and repair outcomes (R529). -/
structure BootEnv where
  bad14 : List (Fin 96)
  bad12 : List (Fin 96)
  canvasBad : Option (Fin 2)
  sup0 : Bool
  sup1 : Bool
  runtimeOk : Bool
  ihlelOk : Bool
  sodFail : List EaselId
  katFail : List EaselId
  repair : List (BitVec 2)
  deriving DecidableEq, Repr

/-- The header of a service message (R533) as received, and the sender's address. -/
structure SvcHdr where
  magic : BitVec 16
  version : BitVec 8
  session : BitVec 32
  seq : BitVec 32
  len : BitVec 32
  src : Word
  deriving DecidableEq, Repr

/-- How a PCIe completion for a module-issued request ends (R388, R401). -/
inductive PcieResult where
  | data (d : Bytes)
  | poisoned
  | error
  deriving DecidableEq, Repr

/-- Capabilities of PCIe configuration space: those of Table 13-1, those it says are not supported, and every other
by its number. -/
inductive PcieCap where
  | pcie | msix | aer | ari | doe | ide | sriov | resizableBar | vfResizableBar
  | msi | l1Substates | ats | pri | pasid | expansionRom
  | other (id : Nat)
  deriving DecidableEq, Repr

/-- A PCIe configuration request (R515), `reg` being the number of a dword.  The fields of configuration space that
the manual reads or bounds are named; every other register is plain storage. -/
inductive ConfigReq where
  | read (reg : Nat)
  | write (reg : Nat) (data : BitVec 32)
  | findCap (c : PcieCap)
  | maxPayload (bytes : Nat)
  | maxRead (bytes : Nat)
  | bar2Size (vf : Bool) (log2 : Nat)
  | relaxedOrdering (on : Bool)
  | vfEnable (on : Bool)
  | msixMask (vector : Fin 3) (masked : Bool)
  deriving DecidableEq, Repr

/-- The commands of the HX7: one constructor per row of the opcode table. -/
inductive Instr where
  /-- ADD (R88). -/
  | add (e : EaselId) (f : FmtAI)
  /-- SUB (R88). -/
  | sub (e : EaselId) (f : FmtAI)
  /-- AND (R88). -/
  | and (e : EaselId) (f : FmtAI)
  /-- OR (R88). -/
  | or (e : EaselId) (f : FmtAI)
  /-- XOR (R88). -/
  | xor (e : EaselId) (f : FmtAI)
  /-- ANDN (R88). -/
  | andn (e : EaselId) (f : FmtAI)
  /-- SHL (R88). -/
  | shl (e : EaselId) (f : FmtAI)
  /-- SHR (R88). -/
  | shr (e : EaselId) (f : FmtAI)
  /-- SAR (R88). -/
  | sar (e : EaselId) (f : FmtAI)
  /-- ROR (R88). -/
  | ror (e : EaselId) (f : FmtAI)
  /-- MIN (R88). -/
  | min (e : EaselId) (f : FmtAI)
  /-- MAX (R88). -/
  | max (e : EaselId) (f : FmtAI)
  /-- MINU (R88). -/
  | minu (e : EaselId) (f : FmtAI)
  /-- MAXU (R88). -/
  | maxu (e : EaselId) (f : FmtAI)
  /-- CLZ (R88). -/
  | clz (e : EaselId) (f : FmtA)
  /-- CTZ (R88). -/
  | ctz (e : EaselId) (f : FmtA)
  /-- POPC (R88). -/
  | popc (e : EaselId) (f : FmtA)
  /-- SEL (R88). -/
  | sel (e : EaselId) (f : FmtA)
  /-- MUL (R88). -/
  | mul (e : EaselId) (f : FmtA)
  /-- MULH (R88). -/
  | mulh (e : EaselId) (f : FmtA)
  /-- MULHU (R88). -/
  | mulhu (e : EaselId) (f : FmtA)
  /-- MADD (R88). -/
  | madd (e : EaselId) (f : FmtA)
  /-- DIV (R89). -/
  | div (e : EaselId) (f : FmtA)
  /-- DIVU (R89). -/
  | divu (e : EaselId) (f : FmtA)
  /-- REM (R89). -/
  | rem (e : EaselId) (f : FmtA)
  /-- REMU (R89). -/
  | remu (e : EaselId) (f : FmtA)
  /-- MOVI (R88). -/
  | movi (e : EaselId) (f : FmtI)
  /-- MOVHI (R88). -/
  | movhi (e : EaselId) (f : FmtI)
  /-- EQ (R90). -/
  | eq (e : EaselId) (f : FmtAI)
  /-- NE (R90). -/
  | ne (e : EaselId) (f : FmtAI)
  /-- LT (R90). -/
  | lt (e : EaselId) (f : FmtAI)
  /-- GE (R90). -/
  | ge (e : EaselId) (f : FmtAI)
  /-- LTU (R90). -/
  | ltu (e : EaselId) (f : FmtAI)
  /-- GEU (R90). -/
  | geu (e : EaselId) (f : FmtAI)
  /-- TEST (R90). -/
  | test (e : EaselId) (f : FmtAI)
  /-- PAND (R91). -/
  | pand (e : EaselId) (f : FmtA)
  /-- POR (R91). -/
  | por (e : EaselId) (f : FmtA)
  /-- PXOR (R91). -/
  | pxor (e : EaselId) (f : FmtA)
  /-- PANDN (R91). -/
  | pandn (e : EaselId) (f : FmtA)
  /-- PNOT (R91). -/
  | pnot (e : EaselId) (f : FmtA)
  /-- PGET (R91). -/
  | pget (e : EaselId) (f : FmtA)
  /-- PSET (R91). -/
  | pset (e : EaselId) (f : FmtA)
  /-- B (R92). -/
  | b (e : EaselId) (f : FmtB)
  /-- BZ (R92). -/
  | bz (e : EaselId) (f : FmtB)
  /-- BNZ (R92). -/
  | bnz (e : EaselId) (f : FmtB)
  /-- BEQ (R92). -/
  | beq (e : EaselId) (f : FmtB)
  /-- BNE (R92). -/
  | bne (e : EaselId) (f : FmtB)
  /-- BLT (R92). -/
  | blt (e : EaselId) (f : FmtB)
  /-- BGE (R92). -/
  | bge (e : EaselId) (f : FmtB)
  /-- BLTU (R92). -/
  | bltu (e : EaselId) (f : FmtB)
  /-- BGEU (R92). -/
  | bgeu (e : EaselId) (f : FmtB)
  /-- CALL (R93). -/
  | call (e : EaselId) (f : FmtB)
  /-- JALR (R93). -/
  | jalr (e : EaselId) (f : FmtI)
  /-- LDB (R97). -/
  | ldb (e : EaselId) (f : FmtI)
  /-- LDBU (R97). -/
  | ldbu (e : EaselId) (f : FmtI)
  /-- LDH (R97). -/
  | ldh (e : EaselId) (f : FmtI)
  /-- LDHU (R97). -/
  | ldhu (e : EaselId) (f : FmtI)
  /-- LDW (R97). -/
  | ldw (e : EaselId) (f : FmtI)
  /-- LDWU (R97). -/
  | ldwu (e : EaselId) (f : FmtI)
  /-- LDD (R97). -/
  | ldd (e : EaselId) (f : FmtI)
  /-- STB (R100). -/
  | stb (e : EaselId) (f : FmtI)
  /-- STH (R100). -/
  | sth (e : EaselId) (f : FmtI)
  /-- STW (R100). -/
  | stw (e : EaselId) (f : FmtI)
  /-- STD (R100). -/
  | std (e : EaselId) (f : FmtI)
  /-- STORE_DEFERRED_FAULT (R101). -/
  | storeDeferredFault (e : EaselId) (entry : Nat) (cls : BitVec 8)
  /-- CSRR (R103). -/
  | csrr (e : EaselId) (f : FmtC)
  /-- CSRW (R103). -/
  | csrw (e : EaselId) (f : FmtC)
  /-- CSRS (R103). -/
  | csrs (e : EaselId) (f : FmtC)
  /-- CSRC (R103). -/
  | csrc (e : EaselId) (f : FmtC)
  /-- TDW (R105). -/
  | tdw (e : EaselId) (f : FmtT)
  /-- TDR (R105). -/
  | tdr (e : EaselId) (f : FmtT)
  /-- TDMOV (R105). -/
  | tdmov (e : EaselId) (f : FmtT)
  /-- TDADD (R105). -/
  | tdadd (e : EaselId) (f : FmtT)
  /-- TDCLR (R105). -/
  | tdclr (e : EaselId) (f : FmtT)
  /-- NOP (R107). -/
  | nop (e : EaselId) (f : FmtI)
  /-- EXIT (R107). -/
  | exit (e : EaselId) (f : FmtI)
  /-- SVC (R107). -/
  | svc (e : EaselId) (f : FmtI)
  /-- TRAP (R107). -/
  | trap (e : EaselId) (f : FmtI)
  /-- IFENCE (R107). -/
  | ifence (e : EaselId) (f : FmtI)
  /-- SRVSAVE (R108). -/
  | srvsave (e : EaselId) (f : FmtI)
  /-- SRVLOAD (R108). -/
  | srvload (e : EaselId) (f : FmtI)
  /-- SRVSETCTX (R108). -/
  | srvsetctx (e : EaselId) (f : FmtI)
  /-- SRVRET (R108). -/
  | srvret (e : EaselId) (f : FmtI)
  /-- SRVSTOP (R108). -/
  | srvstop (e : EaselId) (f : FmtI)
  /-- SERVICE_MODE_COMMAND (R80). -/
  | serviceModeCommand (e : EaselId) (entry : Word)
  /-- MMA (R129). -/
  | mma (e : EaselId) (f : FmtE)
  /-- ACCLOAD (R130). -/
  | accload (e : EaselId) (f : FmtE)
  /-- ACCSTORE (R131). -/
  | accstore (e : EaselId) (f : FmtE)
  /-- CONVERT (R132). -/
  | convert (e : EaselId) (f : FmtE)
  /-- ANCHOR (R134). -/
  | anchor (e : EaselId) (f : FmtE)
  /-- VADD (R136). -/
  | vadd (e : EaselId) (f : FmtE)
  /-- VSUB (R136). -/
  | vsub (e : EaselId) (f : FmtE)
  /-- VMUL (R136). -/
  | vmul (e : EaselId) (f : FmtE)
  /-- VFMA (R136). -/
  | vfma (e : EaselId) (f : FmtE)
  /-- VDIV (R136). -/
  | vdiv (e : EaselId) (f : FmtE)
  /-- VMIN (R136). -/
  | vmin (e : EaselId) (f : FmtE)
  /-- VMAX (R136). -/
  | vmax (e : EaselId) (f : FmtE)
  /-- VSQRT (R136). -/
  | vsqrt (e : EaselId) (f : FmtE)
  /-- VCVT (R138). -/
  | vcvt (e : EaselId) (f : FmtE)
  /-- VRSUM (R139). -/
  | vrsum (e : EaselId) (f : FmtE)
  /-- VRMAX (R139). -/
  | vrmax (e : EaselId) (f : FmtE)
  /-- VRMIN (R139). -/
  | vrmin (e : EaselId) (f : FmtE)
  /-- VCMPLT (R136). -/
  | vcmplt (e : EaselId) (f : FmtE)
  /-- VCMPEQ (R136). -/
  | vcmpeq (e : EaselId) (f : FmtE)
  /-- VEXP (R140). -/
  | vexp (e : EaselId) (f : FmtE)
  /-- VEXP2 (R140). -/
  | vexp2 (e : EaselId) (f : FmtE)
  /-- VLOG2 (R140). -/
  | vlog2 (e : EaselId) (f : FmtE)
  /-- VLN (R140). -/
  | vln (e : EaselId) (f : FmtE)
  /-- VRCP (R140). -/
  | vrcp (e : EaselId) (f : FmtE)
  /-- VRSQRT (R140). -/
  | vrsqrt (e : EaselId) (f : FmtE)
  /-- VTANH (R140). -/
  | vtanh (e : EaselId) (f : FmtE)
  /-- VSIGM (R140). -/
  | vsigm (e : EaselId) (f : FmtE)
  /-- VSILU (R140). -/
  | vsilu (e : EaselId) (f : FmtE)
  /-- VGELU (R140). -/
  | vgelu (e : EaselId) (f : FmtE)
  /-- VSIN (R140). -/
  | vsin (e : EaselId) (f : FmtE)
  /-- VCOS (R140). -/
  | vcos (e : EaselId) (f : FmtE)
  /-- COPY (R142). -/
  | copy (e : EaselId) (f : FmtE)
  /-- GATHER (R145). -/
  | gather (e : EaselId) (f : FmtE)
  /-- SCATTER (R145). -/
  | scatter (e : EaselId) (f : FmtE)
  /-- ENGINE_START (R122). -/
  | engineStart (e : EaselId) (q : Engine)
  /-- ME_IDLE_TIMEOUT (R153). -/
  | meIdleTimeout (e : EaselId)
  /-- ENGINE_INSTRUCTION_COMPLETE (R120). -/
  | engineInstructionComplete (e : EaselId) (q : Engine) (serial : Word) (errors : List AccErr)
  /-- ENGINE_FAULT (R156). -/
  | engineFault (e : EaselId) (q : Engine) (serial : Word) (cls : BitVec 8) (addr : Word) (done : List Nat)
  /-- SIGNAL (R275). -/
  | signal (e : EaselId) (f : FmtI)
  /-- WAIT (R278). -/
  | wait (e : EaselId) (f : FmtI)
  /-- SYNCRD (R283). -/
  | syncrd (e : EaselId) (f : FmtI)
  /-- SYNCSET (R283). -/
  | syncset (e : EaselId) (f : FmtI)
  /-- SYNC_WAIT_TIMEOUT (R284). -/
  | syncWaitTimeout (e : EaselId)
  /-- BARRIER_RELEASE_TIME (R281). -/
  | barrierReleaseTime (obj : Fin 32768)
  /-- REMOTE_TRANSACTION_TIMEOUT (R285). -/
  | remoteTransactionTimeout (tag : BitVec 16)
  /-- SWAP (R286). -/
  | swap (e : EaselId) (scope : BitVec 2) (f : FmtA)
  /-- CAS (R286). -/
  | cas (e : EaselId) (scope : BitVec 2) (f : FmtA)
  /-- AADD (R286). -/
  | aadd (e : EaselId) (scope : BitVec 2) (f : FmtA)
  /-- AAND (R286). -/
  | aand (e : EaselId) (scope : BitVec 2) (f : FmtA)
  /-- AOR (R286). -/
  | aor (e : EaselId) (scope : BitVec 2) (f : FmtA)
  /-- AXOR (R286). -/
  | axor (e : EaselId) (scope : BitVec 2) (f : FmtA)
  /-- AMIN (R286). -/
  | amin (e : EaselId) (scope : BitVec 2) (f : FmtA)
  /-- AMAX (R286). -/
  | amax (e : EaselId) (scope : BitVec 2) (f : FmtA)
  /-- AMINU (R286). -/
  | aminu (e : EaselId) (scope : BitVec 2) (f : FmtA)
  /-- AMAXU (R286). -/
  | amaxu (e : EaselId) (scope : BitVec 2) (f : FmtA)
  /-- ANADD64 (R287). -/
  | anadd64 (e : EaselId) (scope : BitVec 2) (f : FmtA)
  /-- ANADD128 (R287). -/
  | anadd128 (e : EaselId) (scope : BitVec 2) (f : FmtA)
  /-- RELEASE (R253). -/
  | release (e : EaselId) (f : FmtI)
  /-- RELEASE_ACTION (R253). -/
  | releaseAction (e : EaselId) (q : Engine) (serial : Word)
  /-- ACQUIRE (R257). -/
  | acquire (e : EaselId) (f : FmtI)
  /-- FENCE (R258). -/
  | fence (e : EaselId) (f : FmtI)
  /-- SKETCH (R227). -/
  | sketch (e : EaselId) (f : FmtI)
  /-- SKETCHR (R227). -/
  | sketchr (e : EaselId) (f : FmtI)
  /-- VARNISH (R235). -/
  | varnish (e : EaselId) (f : FmtI)
  /-- VARNISH_POINT (R236). -/
  | varnishPoint (e : EaselId)
  /-- SCRAPE (R239). -/
  | scrape (e : EaselId) (f : FmtI)
  /-- SCRAPE_POINT (R239). -/
  | scrapePoint (e : EaselId)
  /-- SKOCC (R227). -/
  | skocc (e : EaselId) (f : FmtI)
  /-- SKETCH_FOLD (R237). -/
  | sketchFold (p : PartId) (slotBad : Bool)
  /-- SKETCH_SLOT_ZERO (R239). -/
  | sketchSlotZero (p : PartId)
  /-- COLL (R362). -/
  | coll (e : EaselId) (f : FmtI)
  /-- COLL_ACCEPT (R363). -/
  | collAccept (e : EaselId) (slot : SlotId)
  /-- COLL_READY_RECEIVE (R371). -/
  | collReadyReceive (i : Nat)
  /-- COLL_GRANT_RECEIVE (R371). -/
  | collGrantReceive (i : Nat)
  /-- COLL_READY_RESEND (R371). -/
  | collReadyResend (slot : SlotId)
  /-- COLL_COUNTS_RECEIVE (R376). -/
  | collCountsReceive (i : Nat)
  /-- COLL_DATA_RECEIVE (R374). -/
  | collDataReceive (i : Nat)
  /-- COLL_COMPLETE (R381). -/
  | collComplete (slot : SlotId)
  /-- COLL_TIMEOUT (R382). -/
  | collTimeout (slot : SlotId)
  /-- GLZBIND (R199). -/
  | glzbind (e : EaselId) (f : FmtI)
  /-- GLZSTAT (R200). -/
  | glzstat (e : EaselId) (f : FmtI)
  /-- GLZSTOP (R201). -/
  | glzstop (e : EaselId) (f : FmtI)
  /-- GLAZE_BIND (R203). -/
  | glazeBind (slot : SlotId)
  /-- GLAZE_BLOCK_VERIFY (R210). -/
  | glazeBlockVerify (slot : SlotId) (pathError : Bool)
  /-- GLAZE_GATE_TAKE (R207). -/
  | glazeGateTake (slot : SlotId)
  /-- GLAZE_ENTRY_COMPLETE (R207). -/
  | glazeEntryComplete (slot : SlotId)
  /-- GLZ_SLOT_RELEASE (R220). -/
  | glzSlotRelease (r : Requester) (slot : SlotId)
  /-- PACKET_ROUTE (R335). -/
  | packetRoute (i : Nat)
  /-- MCAST_FORWARD (R343). -/
  | mcastForward (i : Nat)
  /-- CIRCUIT_FORWARD (R347). -/
  | circuitForward (i : Nat)
  /-- REMOTE_WRITE_RECEIVE (R30). -/
  | remoteWriteReceive (i : Nat)
  /-- REMOTE_WRITE_FINAL_RECEIVE (R249). -/
  | remoteWriteFinalReceive (i : Nat)
  /-- FINAL_STREAM_ABANDON (R251). -/
  | finalStreamAbandon (i : Nat)
  /-- REMOTE_READ_REQUEST_RECEIVE (R418). -/
  | remoteReadRequestReceive (i : Nat)
  /-- READ_RESPONSE_RECEIVE (R99). -/
  | readResponseReceive (i : Nat)
  /-- ATOMIC_REQUEST_RECEIVE (R290). -/
  | atomicRequestReceive (i : Nat)
  /-- WRITE_RESPONSE_RECEIVE (R244). -/
  | writeResponseReceive (i : Nat)
  /-- SYNC_OPERATION_RECEIVE (R271). -/
  | syncOperationReceive (i : Nat)
  /-- SYNC_RESPONSE_RECEIVE (R283). -/
  | syncResponseReceive (i : Nat)
  /-- CIRCUIT_DOWN_NOTICE (R351). -/
  | circuitDownNotice (i : Nat)
  /-- FLIT_RECEIVE (R302). -/
  | flitReceive (port : PortId) (flit : Flit) (fecTouched : Bool) (fec : FecReport)
  /-- FLIT_TRANSMIT (R309). -/
  | flitTransmit (port : PortId)
  /-- TIMING_FLIT_RECEIVE (R323). -/
  | timingFlitReceive (port : PortId) (stamp : TimingStamp)
  /-- FTC_EXCHANGE_PERIOD (R323). -/
  | ftcExchangePeriod
  /-- FTC_HOLDOVER_SWITCH (R325). -/
  | ftcHoldoverSwitch
  /-- FTC_MASTER_SYNC_TIMEOUT (R322). -/
  | ftcMasterSyncTimeout
  /-- FTC_SET (R322). -/
  | ftcSet (r : Requester) (value : Word)
  /-- FTC_SNAP_ARM (R326). -/
  | ftcSnapArm (r : Requester) (value : Word)
  /-- FTC_SNAPSHOT (R326). -/
  | ftcSnapshot
  /-- PORT_TRAINING_COMPLETE (R310). -/
  | portTrainingComplete (port : PortId) (result : TrainResult)
  /-- PORT_TRAINING_TIMEOUT (R310). -/
  | portTrainingTimeout (port : PortId)
  /-- PORT_AUTO_UP_RETRY (R310). -/
  | portAutoUpRetry (port : PortId)
  /-- DEGRADE_WINDOW_END (R312). -/
  | degradeWindowEnd (port : PortId)
  /-- LANE_DEGRADE (R312). -/
  | laneDegrade (port : PortId)
  /-- LANE_LOSS_OF_LOCK (R312). -/
  | laneLossOfLock (port : PortId) (lane : Fin 8)
  /-- RETRAIN_COMPLETE (R313). -/
  | retrainComplete (port : PortId) (good : BitVec 8)
  /-- RETRAIN_TIMEOUT (R310). -/
  | retrainTimeout (port : PortId)
  /-- LINK_DOWN (R314). -/
  | linkDown (port : PortId)
  /-- ERR_RETRAIN_FULL (R313). -/
  | errRetrainFull (r : Requester) (port : PortId)
  /-- ERR_SAVE_EQ (R311). -/
  | errSaveEq (r : Requester) (port : PortId)
  /-- ERR_ACCEPT_MISWIRE (R310). -/
  | errAcceptMiswire (r : Requester) (port : PortId)
  /-- STALL_WATCHDOG_EXPIRE (R353). -/
  | stallWatchdogExpire (port : PortId) (vc : Fin 8)
  /-- CMAP_SAMPLE (R354). -/
  | cmapSample
  /-- CMAP_WINDOW_END (R355). -/
  | cmapWindowEnd
  /-- COMMIT_GO (R36). -/
  | commitGo (r : Requester) (blk : BlockId)
  /-- COMMIT_GO_LOCK (R40). -/
  | commitGoLock (r : Requester) (blk : BlockId)
  /-- COMMIT_DISCARD (R34). -/
  | commitDiscard (r : Requester) (blk : BlockId)
  /-- COMMIT_APPLY (R37). -/
  | commitApply (blk : BlockId)
  /-- REGISTER_WRITE (R43). -/
  | registerWrite (r : Requester) (off : Nat) (size : Nat) (data : Word) (poisoned : Bool)
  /-- REGISTER_READ_LOW_HALF (R43). -/
  | registerReadLowHalf (r : Requester) (off : Nat) (size : Nat)
  /-- COUNTER_WRITE_CLEAR (R193). -/
  | counterWriteClear (r : Requester) (off : Nat)
  /-- PATROL_SCRUB_READ (R186). -/
  | patrolScrubRead (m : ScrubMem) (errors : WordErrors)
  /-- CANVAS_TEMP_SAMPLE (R173). -/
  | canvasTempSample (sensor : Fin 32) (reading : Int)
  /-- CANVAS_REFRESH_RESTORE (R173). -/
  | canvasRefreshRestore (die : Fin 2)
  /-- LPDDR6_RECENTRE (R180). -/
  | lpddr6Recentre (ch : Fin 96)
  /-- LPDDR6_CHANNEL_RETRAIN (R180). -/
  | lpddr6ChannelRetrain (ch : Fin 96) (phase : RetrainPhase)
  /-- LPDDR6_RETRAIN_TIMEOUT (R180). -/
  | lpddr6RetrainTimeout (ch : Fin 96)
  /-- LPDDR6_TEMP_READ (R184). -/
  | lpddr6TempRead (pkg : Fin 24) (reading : PkgTemp)
  /-- CMD_NOP (R396). -/
  | cmdNop (fn : FnId)
  /-- CMD_SYNC_SIGNAL (R396). -/
  | cmdSyncSignal (fn : FnId)
  /-- CMD_FENCE (R396). -/
  | cmdFence (fn : FnId)
  /-- COMMAND_FETCH (R397). -/
  | commandFetch (fn : FnId)
  /-- HIF_DB_CMDQ_TAIL (R409). -/
  | hifDbCmdqTail (fn : FnId) (a : DbAccess)
  /-- HIF_DB_CPLQ_HEAD (R409). -/
  | hifDbCplqHead (fn : FnId) (a : DbAccess)
  /-- HIF_DB_EVR_HEAD (R409). -/
  | hifDbEvrHead (fn : FnId) (a : DbAccess)
  /-- HIF_CMDQ_ENABLE (R399). -/
  | hifCmdqEnable (fn : FnId) (ctl : Word)
  /-- BAR2_READ (R395). -/
  | bar2Read (fn : FnId) (off : Nat) (len : Nat)
  /-- BAR2_WRITE (R395). -/
  | bar2Write (fn : FnId) (off : Nat) (data : Bytes) (poisoned : Bool)
  /-- FUNCTION_LEVEL_RESET (R401). -/
  | functionLevelReset (fn : FnId)
  /-- PERST_ASSERT (R556). -/
  | perstAssert
  /-- PERST_DEASSERT (R556). -/
  | perstDeassert
  /-- PCIE_LINK_STATE_CHANGE (R388). -/
  | pcieLinkStateChange (link : LinkState)
  /-- EVENT_RAISE (R402). -/
  | eventRaise (src : BitVec 10) (payload : BitVec 32)
  /-- PIN_FILTER_ACCEPT (R404). -/
  | pinFilterAccept (pin : Fin 4) (asserted : Bool)
  /-- EVENT_ARBITRATE (R405). -/
  | eventArbitrate
  /-- EVENT_RECORD_DELIVER (R569). -/
  | eventRecordDeliver
  /-- CTX_CREATE (R420). -/
  | ctxCreate (fn : FnId)
  /-- CTX_ALLOC (R419). -/
  | ctxAlloc (fn : FnId)
  /-- CTX_RELEASE (R419). -/
  | ctxRelease (fn : FnId)
  /-- CTX_START (R421). -/
  | ctxStart (fn : FnId)
  /-- CTX_STOP (R421). -/
  | ctxStop (fn : FnId)
  /-- CTX_RESUME (R421). -/
  | ctxResume (fn : FnId)
  /-- CTX_DESTROY (R427). -/
  | ctxDestroy (fn : FnId)
  /-- CTX_SCHED (R421). -/
  | ctxSched (fn : FnId)
  /-- CTX_ASSIGN (R421). -/
  | ctxAssign (fn : FnId)
  /-- CTX_PERF_READ (R444). -/
  | ctxPerfRead (fn : FnId)
  /-- CTX_QUERY (R421). -/
  | ctxQuery (fn : FnId)
  /-- WKEY_GENKEM (R437). -/
  | wkeyGenkem (fn : FnId)
  /-- WKEY_INSTALL (R438). -/
  | wkeyInstall (fn : FnId)
  /-- WKEY_CLEAR (R421). -/
  | wkeyClear (fn : FnId)
  /-- JOBKEY_INSTALL (R439). -/
  | jobkeyInstall (fn : FnId)
  /-- JOBKEY_SEND (R439). -/
  | jobkeySend (fn : FnId)
  /-- JOBKEY_RETIRE (R439). -/
  | jobkeyRetire (fn : FnId)
  /-- CAP_LIST (R507). -/
  | capList (fn : FnId)
  /-- CAP_READ (R507). -/
  | capRead (fn : FnId)
  /-- CAP_RELEASE (R507). -/
  | capRelease (fn : FnId)
  /-- CTX_RECOVER (R500). -/
  | ctxRecover (fn : FnId)
  /-- ENGINE_RESET (R501). -/
  | engineReset (fn : FnId)
  /-- PARTITION_RESET (R502). -/
  | partitionReset (fn : FnId)
  /-- CHIP_RESET (R503). -/
  | chipReset (fn : FnId)
  /-- CAP_CONFIG (R507). -/
  | capConfig (fn : FnId)
  /-- SKETCH_REGION (R424). -/
  | sketchRegion (e : EaselId)
  /-- SYNC_RANGE (R424). -/
  | syncRange (e : EaselId)
  /-- GROUP (R424). -/
  | group (e : EaselId)
  /-- NOTIFY (R424). -/
  | notify (e : EaselId)
  /-- YIELD (R424). -/
  | yield (e : EaselId)
  /-- QUANTUM_EXPIRE (R415). -/
  | quantumExpire (p : PartId)
  /-- CONTEXT_SWITCH (R425). -/
  | contextSwitch (ps : BitVec 4) (target : Option CtxId)
  /-- COPY_TRANSACTION_ABANDON (R425). -/
  | copyTransactionAbandon (tag : BitVec 16)
  /-- CONTEXT_EXIT_COMPLETE (R414). -/
  | contextExitComplete (c : CtxId)
  /-- GESSO_STEPS_END (R428). -/
  | gessoStepsEnd (c : CtxId)
  /-- ZEROING_PAGE_FREE (R427). -/
  | zeroingPageFree (page : Nat)
  /-- GET_VERSION (R434). -/
  | getVersion (t : Transport) (session : Option (Fin 4))
  /-- GET_CAPABILITIES (R434). -/
  | getCapabilities (t : Transport) (session : Option (Fin 4))
  /-- NEGOTIATE_ALGORITHMS (R435). -/
  | negotiateAlgorithms (t : Transport) (session : Option (Fin 4)) (offer : AlgOffer)
  /-- GET_DIGESTS (R434). -/
  | getDigests (t : Transport) (session : Option (Fin 4))
  /-- GET_CERTIFICATE (R432). -/
  | getCertificate (t : Transport) (session : Option (Fin 4))
  /-- CHALLENGE (R434). -/
  | challenge (t : Transport) (session : Option (Fin 4)) (nonce : Bytes)
  /-- GET_MEASUREMENTS (R436). -/
  | getMeasurements (t : Transport) (session : Option (Fin 4)) (index : BitVec 8) (nonce : Bytes)
  /-- KEY_EXCHANGE (R435). -/
  | keyExchange (t : Transport) (session : Option (Fin 4)) (ek : Bytes)
  /-- FINISH (R434). -/
  | finish (t : Transport) (session : Option (Fin 4)) (verify : Bytes)
  /-- HEARTBEAT (R434). -/
  | heartbeat (t : Transport) (session : Option (Fin 4))
  /-- KEY_UPDATE (R434). -/
  | keyUpdate (t : Transport) (session : Option (Fin 4))
  /-- END_SESSION (R433). -/
  | endSession (t : Transport) (session : Option (Fin 4))
  /-- GET_CTX_EVIDENCE (R437). -/
  | getCtxEvidence (t : Transport) (session : Option (Fin 4)) (c : CtxId) (nonce : Bytes)
  /-- IDE_KM (R442). -/
  | ideKm (session : Option (Fin 4)) (req : IdeReq)
  /-- TDISP (R442). -/
  | tdisp (session : Option (Fin 4)) (vf : FnId) (req : TdispReq)
  /-- POWER_ESTIMATE (R452). -/
  | powerEstimate (est : Nat) (me : Nat)
  /-- POWER_MEASURE (R453). -/
  | powerMeasure (mv : Nat) (ma : Nat)
  /-- GAIN_RECALIBRATE (R454). -/
  | gainRecalibrate
  /-- SHORT_LOOP_UPDATE (R457). -/
  | shortLoopUpdate
  /-- SUSTAINED_LOOP_UPDATE (R457). -/
  | sustainedLoopUpdate
  /-- BOOST_TARGET_UPDATE (R460). -/
  | boostTargetUpdate
  /-- THROTTLE_INTERVAL_END (R461). -/
  | throttleIntervalEnd
  /-- PWR_CAP_WRITE (R456). -/
  | pwrCapWrite (r : Requester) (short : Bool) (watts : BitVec 12)
  /-- PWR_LAT_TOL_WRITE (R464). -/
  | pwrLatTolWrite (r : Requester) (tol : BitVec 32)
  /-- IDLE_ENTRY (R464). -/
  | idleEntry
  /-- IDLE_EXIT (R466). -/
  | idleExit (cause : WakeCause)
  /-- PWRWARN_ASSERT (R463). -/
  | pwrwarnAssert
  /-- PWRWARN_RELEASE (R463). -/
  | pwrwarnRelease
  /-- UNDERVOLTAGE_WARNING (R463). -/
  | undervoltageWarning (mv : Nat)
  /-- UNDERVOLTAGE_RELEASE (R463). -/
  | undervoltageRelease
  /-- DROOP_CUT (R463). -/
  | droopCut (die : Fin 2)
  /-- DROOP_RELEASE (R463). -/
  | droopRelease (die : Fin 2)
  /-- LEAK_TRACE_MEASURE (R472). -/
  | leakTraceMeasure (a b : LeakCode)
  /-- LEAK_TRACE_CHANGE (R473). -/
  | leakTraceChange (trace : Fin 2)
  /-- THERMAL_LOOP_UPDATE (R468). -/
  | thermalLoopUpdate
  /-- SENSOR_CHECK (R469). -/
  | sensorCheck (faulty : List Nat)
  /-- THERMAL_TRIP (R471). -/
  | thermalTrip (cause : TripCause)
  /-- SAMPLE_SET_PUBLISH (R474). -/
  | sampleSetPublish (set : SampleSet)
  /-- DIGEST_COMPARE (R476). -/
  | digestCompare (d0 d1 : Option Word) (pass0 pass1 : Bool)
  /-- LEASE_RENEW (R475). -/
  | leaseRenew (i : Fin 2)
  /-- LEASE_EXPIRE (R477). -/
  | leaseExpire
  /-- SUP_SWAP (R478). -/
  | supSwap (r : Requester) (i : Fin 2)
  /-- SUP_RESTART (R479). -/
  | supRestart (r : Requester) (i : Fin 2)
  /-- SUP_SYNC_COMPLETE (R479). -/
  | supSyncComplete (i : Fin 2)
  /-- ENGINE_WATCHDOG_EXPIRE (R489). -/
  | engineWatchdogExpire (e : EaselId) (q : Engine) (serial : Word)
  /-- KNOWN_ANSWER_RUN (R490). -/
  | knownAnswerRun (e : EaselId) (first second : Bool)
  /-- ENGINE_RECOVERY (R501). -/
  | engineRecovery (e : EaselId) (trigger : BitVec 8) (kat : Bool) (kat2 : Bool)
  /-- PARTITION_RECOVERY (R502). -/
  | partitionRecovery (p : PartId) (trigger : BitVec 8) (failing : List EaselId)
  /-- CHIP_RECOVERY (R503). -/
  | chipRecovery (trigger : BitVec 8) (failing : List EaselId)
  /-- CAPTURE_BOUND_EXPIRE (R495). -/
  | captureBoundExpire (id : BitVec 16)
  /-- RECOVERY_ESCALATION_TIMEOUT (R497). -/
  | recoveryEscalationTimeout (u : RecUnit)
  /-- CP_SILENCE_TIMEOUT (R497). -/
  | cpSilenceTimeout (core : Fin 8)
  /-- POWER_CYCLE_REQUEST (R504). -/
  | powerCycleRequest (trigger : BitVec 8)
  /-- POWER_ON (R554). -/
  | powerOn (pos : BitVec 6) (refclk : Bool)
  /-- COLD_BOOT (R513). -/
  | coldBoot (env : BootEnv)
  /-- BOOT_READY (R514). -/
  | bootReady
  /-- SUPPLY_SHUTDOWN (R552). -/
  | supplyShutdown (high : Bool)
  /-- REFCLK_LOSS (R17). -/
  | refclkLoss
  /-- REFCLK_RESTORE (R17). -/
  | refclkRestore
  /-- BRU_FIELD_CLEAR (R528). -/
  | bruFieldClear (r : Requester) (index : BitVec 8)
  /-- FWU_RAISE_FLOOR (R522). -/
  | fwuRaiseFloor (r : Requester)
  /-- RAISE_FLOOR (R522). -/
  | raiseFloor (m : SvcHdr)
  /-- FWU_ACTIVATE (R537). -/
  | fwuActivate (r : Requester) (slot : Fin 2) (mode : BitVec 2)
  /-- ACTIVATE (R537). -/
  | activate (m : SvcHdr) (slot : BitVec 8) (mode : BitVec 8)
  /-- UPD_BEGIN (R535). -/
  | updBegin (m : SvcHdr) (header : Bytes)
  /-- UPD_DATA (R535). -/
  | updData (m : SvcHdr) (off : BitVec 32) (data : Bytes) (flashOk : Bool)
  /-- UPD_END (R535). -/
  | updEnd (m : SvcHdr) (readBack : Bool)
  /-- UPD_ABORT (R536). -/
  | updAbort (m : SvcHdr)
  /-- QUERY (R534). -/
  | query (m : SvcHdr)
  /-- UPD_SESSION_TIMEOUT (R535). -/
  | updSessionTimeout
  /-- HANDOVER_QUIESCENT (R539). -/
  | handoverQuiescent
  /-- HANDOVER_RECORD_READ (R541). -/
  | handoverRecordRead (accept : Bool)
  /-- ACTIVATION_QUIESCE_TIMEOUT (R539). -/
  | activationQuiesceTimeout
  /-- SUPERVISOR_UPDATE (R542). -/
  | supervisorUpdate
  /-- I3C_WRITE (R560). -/
  | i3cWrite (off : BitVec 16) (data : Word)
  /-- I3C_READ (R560). -/
  | i3cRead (off : BitVec 16)
  /-- I3C_LOST_TRANSACTION (R560). -/
  | i3cLostTransaction
  /-- SETDASA (R559). -/
  | setdasa (static : BitVec 7) (dynamic : BitVec 7)
  /-- ENTDAA (R559). -/
  | entdaa (dynamic : BitVec 7)
  /-- TELEMETRY_RECORD (R562). -/
  | telemetryRecord
  /-- POWER_ON_HOUR (R567). -/
  | powerOnHour
  /-- PCIE_COMPLETION (R401). -/
  | pcieCompletion (tag : BitVec 16) (result : PcieResult)
  /-- CONFIGURATION_REQUEST (R515). -/
  | configurationRequest (fn : FnId) (req : ConfigReq)
  /-- ENGINE_BOUNDARY_TIMEOUT (R497). -/
  | engineBoundaryTimeout (e : EaselId)
  /-- SUPERVISOR_SYNC_TIMEOUT (R542). -/
  | supervisorSyncTimeout (i : Fin 2)
  /-- HOLDOVER_SYNCED_CLEAR (R325). -/
  | holdoverSyncedClear
  /-- NEIGHBOUR_DISCOVERY (R563). -/
  | neighbourDiscovery (msg : Bytes)
  /-- ICMPV6_ECHO (R563). -/
  | icmpv6Echo (msg : Bytes)
  deriving DecidableEq, Repr

end Sys2Proof
end

