-- ==== Sys2Proof/WellFormed.lean ====
section
/-! DEFINITION. Which commands are well formed: byte strings of the lengths that the manual fixes, and
values that their fields can hold. -/

namespace Sys2Proof

/-- A flit carries 240 data bytes (Table 10-2). -/
def Flit.wf (f : Flit) : Bool := f.data.length == 240

/-- An access that R392 performs: 4 or 8 bytes, naturally aligned, within BAR0. -/
def regAccessWf (off size : Nat) : Bool :=
  (size == 4 || size == 8) && off % size == 0 && decide (off < 0x4000000)

/-- A command is well formed. -/
def Instr.wf : Instr → Bool
  | .flitReceive _ f _ fec => f.wf && decide (fec.fixed.length ≤ 4) && fec.fixed.all (fun c => decide (c.length ≤ 15))
  | .registerReadLowHalf _ off size => regAccessWf off size
  | .counterWriteClear _ off => regAccessWf off 8
  | .registerWrite _ _ size _ _ => decide (size ≤ 8)
  | .challenge _ _ nonce => nonce.length == 32
  | .getMeasurements _ _ _ nonce => nonce.length == 32
  | .getCtxEvidence _ _ _ nonce => nonce.length == 32
  | .keyExchange _ _ ek => ek.length == 1184
  | .updBegin _ header => decide (header.length ≤ 4096)
  | .bar2Write _ _ data _ => decide (0 < data.length ∧ data.length ≤ 4096)
  | .sampleSetPublish set => set.junction.length == 48 && set.canvas.length == 32 &&
      set.zonePower.length == 48
  | .canvasTempSample _ t => decide (-64 ≤ t ∧ t ≤ 255)
  | .engineInstructionComplete _ _ _ l => l.all (fun x => decide (x.entry < 49152))
  | .sensorCheck l => l.all (fun n => decide (n < 48 ∨ (64 ≤ n ∧ n < 96)))
  | .zeroingPageFree p => decide (p < 393216)
  | .powerMeasure mv _ => decide (mv < 2 ^ 16)
  | .coldBoot env => decide (env.repair.length ≤ 32)
  | _ => true

end Sys2Proof
end

