-- ==== Sys2Proof/Decode.lean ====
section
/-! DEFINITION. Words of the opcode table, and the encoding of easel instructions (Tables 3-5 to 3-8 and 4-1, and
the instruction tables of the chapters that Table 3-7 names). -/

namespace Sys2Proof

/-- The command that a word spells by the table's bits.  The opcode table of this block gives no row any
bits: its rows are easel instructions of one easel, host commands and events (assumption 14). -/
def decodeTableWord (_nbits _w : Nat) : Option Instr := none

/-! ### Formats -/

/-- The common fields: major, pneg, pred, minor (Table 3-5). -/
def wordHead (major : BitVec 6) (pneg : Bool) (pred : BitVec 3) (minor : BitVec 6) : BitVec 16 :=
  major ++ BitVec.ofBool pneg ++ pred ++ minor

def wordA (major minor : BitVec 6) (f : FmtA) : Word :=
  wordHead major f.pneg f.pred minor ++ f.rd ++ f.rs1 ++ f.rs2 ++ f.rs3 ++ f.low

def wordI (major minor : BitVec 6) (f : FmtI) : Word :=
  wordHead major f.pneg f.pred minor ++ f.rd ++ f.rs1 ++ f.imm

def wordB (major minor : BitVec 6) (f : FmtB) : Word :=
  wordHead major f.pneg f.pred minor ++ f.rd ++ f.rs1 ++ f.rs2 ++ f.off

def wordC (major minor : BitVec 6) (f : FmtC) : Word :=
  wordHead major f.pneg f.pred minor ++ f.rd ++ f.rs1 ++ f.csr ++ f.low

def wordT (major minor : BitVec 6) (f : FmtT) : Word :=
  wordHead major f.pneg f.pred minor ++ f.rd ++ f.rs1 ++ f.td ++ f.td2 ++ f.word ++ f.low

def wordE (major minor : BitVec 6) (f : FmtE) : Word :=
  wordHead major f.pneg f.pred minor ++ f.tda ++ f.tdb ++ f.tdc ++ f.rs ++ BitVec.ofBool f.sig ++ f.so ++
    f.func

def majorOf (w : Word) : BitVec 6 := w.extractLsb' 58 6
def minorOf (w : Word) : BitVec 6 := w.extractLsb' 48 6
def scopeBits (w : Word) : BitVec 2 := w.extractLsb' 48 2

def fmtA (w : Word) : FmtA :=
  { pneg := w.getLsbD 57, pred := w.extractLsb' 54 3, rd := w.extractLsb' 43 5, rs1 := w.extractLsb' 38 5
    rs2 := w.extractLsb' 33 5, rs3 := w.extractLsb' 28 5, low := w.extractLsb' 0 28 }

def fmtI (w : Word) : FmtI :=
  { pneg := w.getLsbD 57, pred := w.extractLsb' 54 3, rd := w.extractLsb' 43 5, rs1 := w.extractLsb' 38 5
    imm := w.extractLsb' 0 38 }

def fmtB (w : Word) : FmtB :=
  { pneg := w.getLsbD 57, pred := w.extractLsb' 54 3, rd := w.extractLsb' 43 5, rs1 := w.extractLsb' 38 5
    rs2 := w.extractLsb' 33 5, off := w.extractLsb' 0 33 }

def fmtC (w : Word) : FmtC :=
  { pneg := w.getLsbD 57, pred := w.extractLsb' 54 3, rd := w.extractLsb' 43 5, rs1 := w.extractLsb' 38 5
    csr := w.extractLsb' 26 12, low := w.extractLsb' 0 26 }

def fmtT (w : Word) : FmtT :=
  { pneg := w.getLsbD 57, pred := w.extractLsb' 54 3, rd := w.extractLsb' 43 5, rs1 := w.extractLsb' 38 5
    td := w.extractLsb' 32 6, td2 := w.extractLsb' 26 6, word := w.extractLsb' 24 2, low := w.extractLsb' 0 24 }

def fmtE (w : Word) : FmtE :=
  { pneg := w.getLsbD 57, pred := w.extractLsb' 54 3, tda := w.extractLsb' 42 6, tdb := w.extractLsb' 36 6
    tdc := w.extractLsb' 30 6, rs := w.extractLsb' 25 5, sig := w.getLsbD 24, so := w.extractLsb' 15 9
    func := w.extractLsb' 0 15 }

/-! ### Encoding -/

/-- The word of an easel instruction; none for a command that is no instruction. -/
def encodeWord : Instr → Option Word
  | .add _ (.reg f) => some (wordA 0x01 0x00 f)
  | .add _ (.imm f) => some (wordI 0x02 0x00 f)
  | .sub _ (.reg f) => some (wordA 0x01 0x01 f)
  | .sub _ (.imm f) => some (wordI 0x02 0x01 f)
  | .and _ (.reg f) => some (wordA 0x01 0x02 f)
  | .and _ (.imm f) => some (wordI 0x02 0x02 f)
  | .or _ (.reg f) => some (wordA 0x01 0x03 f)
  | .or _ (.imm f) => some (wordI 0x02 0x03 f)
  | .xor _ (.reg f) => some (wordA 0x01 0x04 f)
  | .xor _ (.imm f) => some (wordI 0x02 0x04 f)
  | .andn _ (.reg f) => some (wordA 0x01 0x05 f)
  | .andn _ (.imm f) => some (wordI 0x02 0x05 f)
  | .shl _ (.reg f) => some (wordA 0x01 0x06 f)
  | .shl _ (.imm f) => some (wordI 0x02 0x06 f)
  | .shr _ (.reg f) => some (wordA 0x01 0x07 f)
  | .shr _ (.imm f) => some (wordI 0x02 0x07 f)
  | .sar _ (.reg f) => some (wordA 0x01 0x08 f)
  | .sar _ (.imm f) => some (wordI 0x02 0x08 f)
  | .ror _ (.reg f) => some (wordA 0x01 0x09 f)
  | .ror _ (.imm f) => some (wordI 0x02 0x09 f)
  | .min _ (.reg f) => some (wordA 0x01 0x0A f)
  | .min _ (.imm f) => some (wordI 0x02 0x0A f)
  | .max _ (.reg f) => some (wordA 0x01 0x0B f)
  | .max _ (.imm f) => some (wordI 0x02 0x0B f)
  | .minu _ (.reg f) => some (wordA 0x01 0x0C f)
  | .minu _ (.imm f) => some (wordI 0x02 0x0C f)
  | .maxu _ (.reg f) => some (wordA 0x01 0x0D f)
  | .maxu _ (.imm f) => some (wordI 0x02 0x0D f)
  | .clz _ f => some (wordA 0x01 0x0E f)
  | .ctz _ f => some (wordA 0x01 0x0F f)
  | .popc _ f => some (wordA 0x01 0x10 f)
  | .sel _ f => some (wordA 0x01 0x11 f)
  | .mul _ f => some (wordA 0x03 0x00 f)
  | .mulh _ f => some (wordA 0x03 0x01 f)
  | .mulhu _ f => some (wordA 0x03 0x02 f)
  | .madd _ f => some (wordA 0x03 0x03 f)
  | .div _ f => some (wordA 0x03 0x04 f)
  | .divu _ f => some (wordA 0x03 0x05 f)
  | .rem _ f => some (wordA 0x03 0x06 f)
  | .remu _ f => some (wordA 0x03 0x07 f)
  | .movi _ f => some (wordI 0x04 0x00 f)
  | .movhi _ f => some (wordI 0x04 0x01 f)
  | .eq _ (.reg f) => some (wordA 0x05 0x00 f)
  | .eq _ (.imm f) => some (wordI 0x06 0x00 f)
  | .ne _ (.reg f) => some (wordA 0x05 0x01 f)
  | .ne _ (.imm f) => some (wordI 0x06 0x01 f)
  | .lt _ (.reg f) => some (wordA 0x05 0x02 f)
  | .lt _ (.imm f) => some (wordI 0x06 0x02 f)
  | .ge _ (.reg f) => some (wordA 0x05 0x03 f)
  | .ge _ (.imm f) => some (wordI 0x06 0x03 f)
  | .ltu _ (.reg f) => some (wordA 0x05 0x04 f)
  | .ltu _ (.imm f) => some (wordI 0x06 0x04 f)
  | .geu _ (.reg f) => some (wordA 0x05 0x05 f)
  | .geu _ (.imm f) => some (wordI 0x06 0x05 f)
  | .test _ (.reg f) => some (wordA 0x05 0x06 f)
  | .test _ (.imm f) => some (wordI 0x06 0x06 f)
  | .pand _ f => some (wordA 0x07 0x00 f)
  | .por _ f => some (wordA 0x07 0x01 f)
  | .pxor _ f => some (wordA 0x07 0x02 f)
  | .pandn _ f => some (wordA 0x07 0x03 f)
  | .pnot _ f => some (wordA 0x07 0x04 f)
  | .pget _ f => some (wordA 0x07 0x05 f)
  | .pset _ f => some (wordA 0x07 0x06 f)
  | .b _ f => some (wordB 0x08 0x00 f)
  | .bz _ f => some (wordB 0x08 0x01 f)
  | .bnz _ f => some (wordB 0x08 0x02 f)
  | .beq _ f => some (wordB 0x08 0x03 f)
  | .bne _ f => some (wordB 0x08 0x04 f)
  | .blt _ f => some (wordB 0x08 0x05 f)
  | .bge _ f => some (wordB 0x08 0x06 f)
  | .bltu _ f => some (wordB 0x08 0x07 f)
  | .bgeu _ f => some (wordB 0x08 0x08 f)
  | .call _ f => some (wordB 0x09 0x00 f)
  | .jalr _ f => some (wordI 0x09 0x01 f)
  | .ldb _ f => some (wordI 0x0C 0x00 f)
  | .ldbu _ f => some (wordI 0x0C 0x01 f)
  | .ldh _ f => some (wordI 0x0C 0x02 f)
  | .ldhu _ f => some (wordI 0x0C 0x03 f)
  | .ldw _ f => some (wordI 0x0C 0x04 f)
  | .ldwu _ f => some (wordI 0x0C 0x05 f)
  | .ldd _ f => some (wordI 0x0C 0x06 f)
  | .stb _ f => some (wordI 0x0D 0x00 f)
  | .sth _ f => some (wordI 0x0D 0x01 f)
  | .stw _ f => some (wordI 0x0D 0x02 f)
  | .std _ f => some (wordI 0x0D 0x03 f)
  | .csrr _ f => some (wordC 0x10 0x00 f)
  | .csrw _ f => some (wordC 0x10 0x01 f)
  | .csrs _ f => some (wordC 0x10 0x02 f)
  | .csrc _ f => some (wordC 0x10 0x03 f)
  | .tdw _ f => some (wordT 0x11 0x00 f)
  | .tdr _ f => some (wordT 0x11 0x01 f)
  | .tdmov _ f => some (wordT 0x11 0x02 f)
  | .tdadd _ f => some (wordT 0x11 0x03 f)
  | .tdclr _ f => some (wordT 0x11 0x04 f)
  | .mma _ f => some (wordE 0x14 0x00 f)
  | .accload _ f => some (wordE 0x14 0x01 f)
  | .accstore _ f => some (wordE 0x14 0x02 f)
  | .convert _ f => some (wordE 0x14 0x03 f)
  | .anchor _ f => some (wordE 0x14 0x04 f)
  | .vadd _ f => some (wordE 0x15 0x00 f)
  | .vsub _ f => some (wordE 0x15 0x01 f)
  | .vmul _ f => some (wordE 0x15 0x02 f)
  | .vfma _ f => some (wordE 0x15 0x03 f)
  | .vdiv _ f => some (wordE 0x15 0x04 f)
  | .vmin _ f => some (wordE 0x15 0x05 f)
  | .vmax _ f => some (wordE 0x15 0x06 f)
  | .vsqrt _ f => some (wordE 0x15 0x07 f)
  | .vcvt _ f => some (wordE 0x15 0x08 f)
  | .vrsum _ f => some (wordE 0x15 0x09 f)
  | .vrmax _ f => some (wordE 0x15 0x0A f)
  | .vrmin _ f => some (wordE 0x15 0x0B f)
  | .vcmplt _ f => some (wordE 0x15 0x0C f)
  | .vcmpeq _ f => some (wordE 0x15 0x0D f)
  | .vexp _ f => some (wordE 0x15 0x10 f)
  | .vexp2 _ f => some (wordE 0x15 0x11 f)
  | .vlog2 _ f => some (wordE 0x15 0x12 f)
  | .vln _ f => some (wordE 0x15 0x13 f)
  | .vrcp _ f => some (wordE 0x15 0x14 f)
  | .vrsqrt _ f => some (wordE 0x15 0x15 f)
  | .vtanh _ f => some (wordE 0x15 0x16 f)
  | .vsigm _ f => some (wordE 0x15 0x17 f)
  | .vsilu _ f => some (wordE 0x15 0x18 f)
  | .vgelu _ f => some (wordE 0x15 0x19 f)
  | .vsin _ f => some (wordE 0x15 0x1A f)
  | .vcos _ f => some (wordE 0x15 0x1B f)
  | .copy _ f => some (wordE 0x18 0x00 f)
  | .gather _ f => some (wordE 0x18 0x01 f)
  | .scatter _ f => some (wordE 0x18 0x02 f)
  | .signal _ f => some (wordI 0x1C 0x00 f)
  | .wait _ f => some (wordI 0x1C 0x01 f)
  | .syncrd _ f => some (wordI 0x1C 0x02 f)
  | .syncset _ f => some (wordI 0x1C 0x03 f)
  | .release _ f => some (wordI 0x1D 0x00 f)
  | .acquire _ f => some (wordI 0x1D 0x01 f)
  | .fence _ f => some (wordI 0x1D 0x02 f)
  | .sketch _ f => some (wordI 0x20 0x00 f)
  | .sketchr _ f => some (wordI 0x20 0x01 f)
  | .varnish _ f => some (wordI 0x20 0x02 f)
  | .scrape _ f => some (wordI 0x20 0x03 f)
  | .skocc _ f => some (wordI 0x20 0x04 f)
  | .coll _ f => some (wordI 0x24 0x00 f)
  | .glzbind _ f => some (wordI 0x25 0x00 f)
  | .glzstat _ f => some (wordI 0x25 0x01 f)
  | .glzstop _ f => some (wordI 0x25 0x02 f)
  | .nop _ f => some (wordI 0x3C 0x00 f)
  | .exit _ f => some (wordI 0x3C 0x01 f)
  | .svc _ f => some (wordI 0x3C 0x02 f)
  | .trap _ f => some (wordI 0x3C 0x03 f)
  | .ifence _ f => some (wordI 0x3C 0x04 f)
  | .srvsave _ f => some (wordI 0x3E 0x00 f)
  | .srvload _ f => some (wordI 0x3E 0x01 f)
  | .srvsetctx _ f => some (wordI 0x3E 0x02 f)
  | .srvret _ f => some (wordI 0x3E 0x03 f)
  | .srvstop _ f => some (wordI 0x3E 0x04 f)
  | .swap _ scope f => some (wordA 0x1E (0x0#4 ++ scope) f)
  | .cas _ scope f => some (wordA 0x1E (0x1#4 ++ scope) f)
  | .aadd _ scope f => some (wordA 0x1E (0x2#4 ++ scope) f)
  | .aand _ scope f => some (wordA 0x1E (0x3#4 ++ scope) f)
  | .aor _ scope f => some (wordA 0x1E (0x4#4 ++ scope) f)
  | .axor _ scope f => some (wordA 0x1E (0x5#4 ++ scope) f)
  | .amin _ scope f => some (wordA 0x1E (0x6#4 ++ scope) f)
  | .amax _ scope f => some (wordA 0x1E (0x7#4 ++ scope) f)
  | .aminu _ scope f => some (wordA 0x1E (0x8#4 ++ scope) f)
  | .amaxu _ scope f => some (wordA 0x1E (0x9#4 ++ scope) f)
  | .anadd64 _ scope f => some (wordA 0x1E (0xA#4 ++ scope) f)
  | .anadd128 _ scope f => some (wordA 0x1E (0xB#4 ++ scope) f)
  | _ => none

/-! ### Decoding -/

/-- Major 0x01, scalar, register (Table 3-7). -/
def decScalarA (e : EaselId) (w : Word) : Option Instr :=
  match (minorOf w).toNat with
  | 0x00 => some (.add e (.reg (fmtA w)))
  | 0x01 => some (.sub e (.reg (fmtA w)))
  | 0x02 => some (.and e (.reg (fmtA w)))
  | 0x03 => some (.or e (.reg (fmtA w)))
  | 0x04 => some (.xor e (.reg (fmtA w)))
  | 0x05 => some (.andn e (.reg (fmtA w)))
  | 0x06 => some (.shl e (.reg (fmtA w)))
  | 0x07 => some (.shr e (.reg (fmtA w)))
  | 0x08 => some (.sar e (.reg (fmtA w)))
  | 0x09 => some (.ror e (.reg (fmtA w)))
  | 0x0A => some (.min e (.reg (fmtA w)))
  | 0x0B => some (.max e (.reg (fmtA w)))
  | 0x0C => some (.minu e (.reg (fmtA w)))
  | 0x0D => some (.maxu e (.reg (fmtA w)))
  | 0x0E => some (.clz e (fmtA w))
  | 0x0F => some (.ctz e (fmtA w))
  | 0x10 => some (.popc e (fmtA w))
  | 0x11 => some (.sel e (fmtA w))
  | _ => none

/-- Major 0x02, scalar, immediate (Table 3-7). -/
def decScalarI (e : EaselId) (w : Word) : Option Instr :=
  match (minorOf w).toNat with
  | 0x00 => some (.add e (.imm (fmtI w)))
  | 0x01 => some (.sub e (.imm (fmtI w)))
  | 0x02 => some (.and e (.imm (fmtI w)))
  | 0x03 => some (.or e (.imm (fmtI w)))
  | 0x04 => some (.xor e (.imm (fmtI w)))
  | 0x05 => some (.andn e (.imm (fmtI w)))
  | 0x06 => some (.shl e (.imm (fmtI w)))
  | 0x07 => some (.shr e (.imm (fmtI w)))
  | 0x08 => some (.sar e (.imm (fmtI w)))
  | 0x09 => some (.ror e (.imm (fmtI w)))
  | 0x0A => some (.min e (.imm (fmtI w)))
  | 0x0B => some (.max e (.imm (fmtI w)))
  | 0x0C => some (.minu e (.imm (fmtI w)))
  | 0x0D => some (.maxu e (.imm (fmtI w)))
  | _ => none

/-- Major 0x03, multiply and divide (Table 3-7). -/
def decMulDiv (e : EaselId) (w : Word) : Option Instr :=
  match (minorOf w).toNat with
  | 0x00 => some (.mul e (fmtA w))
  | 0x01 => some (.mulh e (fmtA w))
  | 0x02 => some (.mulhu e (fmtA w))
  | 0x03 => some (.madd e (fmtA w))
  | 0x04 => some (.div e (fmtA w))
  | 0x05 => some (.divu e (fmtA w))
  | 0x06 => some (.rem e (fmtA w))
  | 0x07 => some (.remu e (fmtA w))
  | _ => none

/-- Major 0x04, move immediate (Table 3-7). -/
def decMove (e : EaselId) (w : Word) : Option Instr :=
  match (minorOf w).toNat with
  | 0x00 => some (.movi e (fmtI w))
  | 0x01 => some (.movhi e (fmtI w))
  | _ => none

/-- Major 0x05, compare, register (Table 3-7). -/
def decCmpA (e : EaselId) (w : Word) : Option Instr :=
  match (minorOf w).toNat with
  | 0x00 => some (.eq e (.reg (fmtA w)))
  | 0x01 => some (.ne e (.reg (fmtA w)))
  | 0x02 => some (.lt e (.reg (fmtA w)))
  | 0x03 => some (.ge e (.reg (fmtA w)))
  | 0x04 => some (.ltu e (.reg (fmtA w)))
  | 0x05 => some (.geu e (.reg (fmtA w)))
  | 0x06 => some (.test e (.reg (fmtA w)))
  | _ => none

/-- Major 0x06, compare, immediate (Table 3-7). -/
def decCmpI (e : EaselId) (w : Word) : Option Instr :=
  match (minorOf w).toNat with
  | 0x00 => some (.eq e (.imm (fmtI w)))
  | 0x01 => some (.ne e (.imm (fmtI w)))
  | 0x02 => some (.lt e (.imm (fmtI w)))
  | 0x03 => some (.ge e (.imm (fmtI w)))
  | 0x04 => some (.ltu e (.imm (fmtI w)))
  | 0x05 => some (.geu e (.imm (fmtI w)))
  | 0x06 => some (.test e (.imm (fmtI w)))
  | _ => none

/-- Major 0x07, predicate logic (Table 3-7). -/
def decPred (e : EaselId) (w : Word) : Option Instr :=
  match (minorOf w).toNat with
  | 0x00 => some (.pand e (fmtA w))
  | 0x01 => some (.por e (fmtA w))
  | 0x02 => some (.pxor e (fmtA w))
  | 0x03 => some (.pandn e (fmtA w))
  | 0x04 => some (.pnot e (fmtA w))
  | 0x05 => some (.pget e (fmtA w))
  | 0x06 => some (.pset e (fmtA w))
  | _ => none

/-- Major 0x08, conditional branch (Table 3-7). -/
def decBranch (e : EaselId) (w : Word) : Option Instr :=
  match (minorOf w).toNat with
  | 0x00 => some (.b e (fmtB w))
  | 0x01 => some (.bz e (fmtB w))
  | 0x02 => some (.bnz e (fmtB w))
  | 0x03 => some (.beq e (fmtB w))
  | 0x04 => some (.bne e (fmtB w))
  | 0x05 => some (.blt e (fmtB w))
  | 0x06 => some (.bge e (fmtB w))
  | 0x07 => some (.bltu e (fmtB w))
  | 0x08 => some (.bgeu e (fmtB w))
  | _ => none

/-- Major 0x09, jump and call (Table 3-7). -/
def decJump (e : EaselId) (w : Word) : Option Instr :=
  match (minorOf w).toNat with
  | 0x00 => some (.call e (fmtB w))
  | 0x01 => some (.jalr e (fmtI w))
  | _ => none

/-- Major 0x0C, load (Table 3-7). -/
def decLoad (e : EaselId) (w : Word) : Option Instr :=
  match (minorOf w).toNat with
  | 0x00 => some (.ldb e (fmtI w))
  | 0x01 => some (.ldbu e (fmtI w))
  | 0x02 => some (.ldh e (fmtI w))
  | 0x03 => some (.ldhu e (fmtI w))
  | 0x04 => some (.ldw e (fmtI w))
  | 0x05 => some (.ldwu e (fmtI w))
  | 0x06 => some (.ldd e (fmtI w))
  | _ => none

/-- Major 0x0D, store (Table 3-7). -/
def decStore (e : EaselId) (w : Word) : Option Instr :=
  match (minorOf w).toNat with
  | 0x00 => some (.stb e (fmtI w))
  | 0x01 => some (.sth e (fmtI w))
  | 0x02 => some (.stw e (fmtI w))
  | 0x03 => some (.std e (fmtI w))
  | _ => none

/-- Major 0x10, control register access (Table 3-7). -/
def decCsr (e : EaselId) (w : Word) : Option Instr :=
  match (minorOf w).toNat with
  | 0x00 => some (.csrr e (fmtC w))
  | 0x01 => some (.csrw e (fmtC w))
  | 0x02 => some (.csrs e (fmtC w))
  | 0x03 => some (.csrc e (fmtC w))
  | _ => none

/-- Major 0x11, tile descriptor (Table 3-7). -/
def decTile (e : EaselId) (w : Word) : Option Instr :=
  match (minorOf w).toNat with
  | 0x00 => some (.tdw e (fmtT w))
  | 0x01 => some (.tdr e (fmtT w))
  | 0x02 => some (.tdmov e (fmtT w))
  | 0x03 => some (.tdadd e (fmtT w))
  | 0x04 => some (.tdclr e (fmtT w))
  | _ => none

/-- Major 0x14, matrix engine (Table 3-7). -/
def decMatrix (e : EaselId) (w : Word) : Option Instr :=
  match (minorOf w).toNat with
  | 0x00 => some (.mma e (fmtE w))
  | 0x01 => some (.accload e (fmtE w))
  | 0x02 => some (.accstore e (fmtE w))
  | 0x03 => some (.convert e (fmtE w))
  | 0x04 => some (.anchor e (fmtE w))
  | _ => none

/-- Major 0x15, vector unit (Table 3-7). -/
def decVector (e : EaselId) (w : Word) : Option Instr :=
  match (minorOf w).toNat with
  | 0x00 => some (.vadd e (fmtE w))
  | 0x01 => some (.vsub e (fmtE w))
  | 0x02 => some (.vmul e (fmtE w))
  | 0x03 => some (.vfma e (fmtE w))
  | 0x04 => some (.vdiv e (fmtE w))
  | 0x05 => some (.vmin e (fmtE w))
  | 0x06 => some (.vmax e (fmtE w))
  | 0x07 => some (.vsqrt e (fmtE w))
  | 0x08 => some (.vcvt e (fmtE w))
  | 0x09 => some (.vrsum e (fmtE w))
  | 0x0A => some (.vrmax e (fmtE w))
  | 0x0B => some (.vrmin e (fmtE w))
  | 0x0C => some (.vcmplt e (fmtE w))
  | 0x0D => some (.vcmpeq e (fmtE w))
  | 0x10 => some (.vexp e (fmtE w))
  | 0x11 => some (.vexp2 e (fmtE w))
  | 0x12 => some (.vlog2 e (fmtE w))
  | 0x13 => some (.vln e (fmtE w))
  | 0x14 => some (.vrcp e (fmtE w))
  | 0x15 => some (.vrsqrt e (fmtE w))
  | 0x16 => some (.vtanh e (fmtE w))
  | 0x17 => some (.vsigm e (fmtE w))
  | 0x18 => some (.vsilu e (fmtE w))
  | 0x19 => some (.vgelu e (fmtE w))
  | 0x1A => some (.vsin e (fmtE w))
  | 0x1B => some (.vcos e (fmtE w))
  | _ => none

/-- Major 0x18, copy engine (Table 3-7). -/
def decCopy (e : EaselId) (w : Word) : Option Instr :=
  match (minorOf w).toNat with
  | 0x00 => some (.copy e (fmtE w))
  | 0x01 => some (.gather e (fmtE w))
  | 0x02 => some (.scatter e (fmtE w))
  | _ => none

/-- Major 0x1C, SYNC (Table 3-7). -/
def decSync (e : EaselId) (w : Word) : Option Instr :=
  match (minorOf w).toNat with
  | 0x00 => some (.signal e (fmtI w))
  | 0x01 => some (.wait e (fmtI w))
  | 0x02 => some (.syncrd e (fmtI w))
  | 0x03 => some (.syncset e (fmtI w))
  | _ => none

/-- Major 0x1D, ordering (Table 3-7). -/
def decOrder (e : EaselId) (w : Word) : Option Instr :=
  match (minorOf w).toNat with
  | 0x00 => some (.release e (fmtI w))
  | 0x01 => some (.acquire e (fmtI w))
  | 0x02 => some (.fence e (fmtI w))
  | _ => none

/-- Major 0x20, sketch (Table 3-7). -/
def decSketch (e : EaselId) (w : Word) : Option Instr :=
  match (minorOf w).toNat with
  | 0x00 => some (.sketch e (fmtI w))
  | 0x01 => some (.sketchr e (fmtI w))
  | 0x02 => some (.varnish e (fmtI w))
  | 0x03 => some (.scrape e (fmtI w))
  | 0x04 => some (.skocc e (fmtI w))
  | _ => none

/-- Major 0x24, COLL (Table 3-7). -/
def decColl (e : EaselId) (w : Word) : Option Instr :=
  match (minorOf w).toNat with
  | 0x00 => some (.coll e (fmtI w))
  | _ => none

/-- Major 0x25, GLAZE (Table 3-7). -/
def decGlaze (e : EaselId) (w : Word) : Option Instr :=
  match (minorOf w).toNat with
  | 0x00 => some (.glzbind e (fmtI w))
  | 0x01 => some (.glzstat e (fmtI w))
  | 0x02 => some (.glzstop e (fmtI w))
  | _ => none

/-- Major 0x3C, system (Table 3-7). -/
def decSystem (e : EaselId) (w : Word) : Option Instr :=
  match (minorOf w).toNat with
  | 0x00 => some (.nop e (fmtI w))
  | 0x01 => some (.exit e (fmtI w))
  | 0x02 => some (.svc e (fmtI w))
  | 0x03 => some (.trap e (fmtI w))
  | 0x04 => some (.ifence e (fmtI w))
  | _ => none

/-- Major 0x3E, privileged (Table 3-7). -/
def decPriv (e : EaselId) (w : Word) : Option Instr :=
  match (minorOf w).toNat with
  | 0x00 => some (.srvsave e (fmtI w))
  | 0x01 => some (.srvload e (fmtI w))
  | 0x02 => some (.srvsetctx e (fmtI w))
  | 0x03 => some (.srvret e (fmtI w))
  | 0x04 => some (.srvstop e (fmtI w))
  | _ => none

/-- Major 0x1E, ATOM: the operation in minor [5:2], the scope in [1:0] (R286). -/
def decAtom (e : EaselId) (w : Word) : Option Instr :=
  match w.toNat / 2 ^ 50 % 16 with
  | 0x0 => some (.swap e (scopeBits w) (fmtA w))
  | 0x1 => some (.cas e (scopeBits w) (fmtA w))
  | 0x2 => some (.aadd e (scopeBits w) (fmtA w))
  | 0x3 => some (.aand e (scopeBits w) (fmtA w))
  | 0x4 => some (.aor e (scopeBits w) (fmtA w))
  | 0x5 => some (.axor e (scopeBits w) (fmtA w))
  | 0x6 => some (.amin e (scopeBits w) (fmtA w))
  | 0x7 => some (.amax e (scopeBits w) (fmtA w))
  | 0x8 => some (.aminu e (scopeBits w) (fmtA w))
  | 0x9 => some (.amaxu e (scopeBits w) (fmtA w))
  | 0xA => some (.anadd64 e (scopeBits w) (fmtA w))
  | 0xB => some (.anadd128 e (scopeBits w) (fmtA w))
  | _ => none

/-- The instruction that a word spells on easel `e`; none for an unassigned major or minor opcode, which faults
with 0x30 (R87, Table 3-7). -/
def decodeWord (e : EaselId) (w : Word) : Option Instr :=
  match (majorOf w).toNat with
  | 0x01 => decScalarA e w
  | 0x02 => decScalarI e w
  | 0x03 => decMulDiv e w
  | 0x04 => decMove e w
  | 0x05 => decCmpA e w
  | 0x06 => decCmpI e w
  | 0x07 => decPred e w
  | 0x08 => decBranch e w
  | 0x09 => decJump e w
  | 0x0C => decLoad e w
  | 0x0D => decStore e w
  | 0x10 => decCsr e w
  | 0x11 => decTile e w
  | 0x14 => decMatrix e w
  | 0x15 => decVector e w
  | 0x18 => decCopy e w
  | 0x1C => decSync e w
  | 0x1D => decOrder e w
  | 0x1E => decAtom e w
  | 0x20 => decSketch e w
  | 0x24 => decColl e w
  | 0x25 => decGlaze e w
  | 0x3C => decSystem e w
  | 0x3E => decPriv e w
  | _ => none

end Sys2Proof
end

