-- ==== Sys2Proof/Machine/Bits.lean ====
section
/-! DEFINITION. Bit fields, sign extension and byte order (R85, R49: little-endian throughout). -/

namespace Sys2Proof.Machine

/-- Bits [lo+len-1:lo] of a number. -/
def fld (n lo len : Nat) : Nat := n >>> lo % 2 ^ len

/-- Bits [lo+len-1:lo] of a register word. -/
def wfld (w : Word) (lo len : Nat) : Nat := fld w.toNat lo len

/-- Bit `i` of a word. -/
def bit (w : Word) (i : Nat) : Bool := w.toNat.testBit i

/-- A Bool as a number. -/
def b2n (b : Bool) : Nat := if b then 1 else 0

/-- A word whose bit `i` is `b`. -/
def bitw (b : Bool) (i : Nat) : Word := BitVec.ofNat 64 (b2n b <<< i)

/-- The value `v` of `len` bits placed at bit `lo` of a word. -/
def put (v lo len : Nat) : Word := BitVec.ofNat 64 ((v % 2 ^ len) <<< lo)

/-- `w` with `v` in bits [lo+len-1:lo]. -/
def setFld (w : Word) (lo len v : Nat) : Word :=
  (w &&& ~~~ (put (2 ^ len - 1) lo len)) ||| put v lo len

/-- Number of bits set among the low `n`. -/
def popc : Nat → Nat → Nat
  | 0, _ => 0
  | n + 1, v => v % 2 + popc n (v / 2)

/-- Leading zeros of an `n`-bit number. -/
def leadZ : Nat → Nat → Nat
  | 0, _ => 0
  | n + 1, v => if v.testBit n then 0 else 1 + leadZ n v

/-- Trailing zeros of an `n`-bit number. -/
def trailZ : Nat → Nat → Nat
  | 0, _ => 0
  | n + 1, v => if v % 2 = 1 then 0 else 1 + trailZ n (v / 2)

/-- Number of bits that `v` needs, for `v` below 2 ^ n. -/
def bitLen : Nat → Nat → Nat
  | 0, _ => 0
  | n + 1, v => if v = 0 then 0 else 1 + bitLen n (v / 2)

/-- Signed reading of the low `n` bits. -/
def sgn (n v : Nat) : Int :=
  let m := v % 2 ^ n
  if n ≠ 0 ∧ 2 ^ (n - 1) ≤ m then (m : Int) - 2 ^ n else m

/-- The low `n` bits of an integer. -/
def wrapInt (n : Nat) (x : Int) : Nat := (x % (2 ^ n : Nat)).toNat

/-- The number of a little-endian byte string. -/
def leNat : Bytes → Nat
  | [] => 0
  | b :: bs => b.toNat + 256 * leNat bs

/-- The `n` low bytes of a number, lowest first. -/
def leBytes : Nat → Nat → Bytes
  | 0, _ => []
  | n + 1, v => BitVec.ofNat 8 v :: leBytes n (v / 256)

/-- A word as eight bytes, lowest first. -/
def wBytes (w : Word) : Bytes := leBytes 8 w.toNat

/-- Words as bytes. -/
def wordsBytes (ws : List Word) : Bytes := ws.flatMap wBytes

/-- The word of the first eight bytes. -/
def bWord (b : Bytes) : Word := BitVec.ofNat 64 (leNat (b.take 8))

/-- A byte string as `n` words. -/
def bytesWords : Nat → Bytes → List Word
  | 0, _ => []
  | n + 1, b => bWord b :: bytesWords n (b.drop 8)

/-- `len` bytes of `b` from position `i`, zeros past its end. -/
def sub (b : Bytes) (i len : Nat) : Bytes :=
  let t := (b.drop i).take len
  t ++ List.replicate (len - t.length) 0

/-- The `i`-th word of a list, zero past its end. -/
def nthW (ws : List Word) (i : Nat) : Word := (ws[i]?).getD 0

/-- Ceiling of a quotient. -/
def cdiv (a b : Nat) : Nat := (a + b - 1) / b

/-- A count that stops at 2^32 - 1 (R193). -/
def sat32 (n : Nat) : Word := BitVec.ofNat 64 (Nat.min n 0xFFFFFFFF)

/-- Replaces the `i`-th element. -/
def setNth {α : Type} (l : List α) (i : Nat) (x : α) : List α := l.set i x

/-- Removes the `i`-th element. -/
def dropNth {α : Type} (l : List α) (i : Nat) : List α := l.eraseIdx i

/-- Removes the first element that satisfies `p`. -/
def removeFirst {α : Type} (p : α → Bool) : List α → List α
  | [] => []
  | x :: l => if p x then l else x :: removeFirst p l

/-- Inserts an element before the first that it does not follow. -/
def insertBy {α : Type} (le : α → α → Bool) (x : α) : List α → List α
  | [] => [x]
  | y :: l => if le x y then x :: y :: l else y :: insertBy le x l

/-- Sorts a list, keeping the order of equals. -/
def sortBy {α : Type} (le : α → α → Bool) (l : List α) : List α := l.foldr (insertBy le) []

/-- Position of a number in a list; the list's length where it is absent. -/
def position (l : List Nat) (x : Nat) : Nat := (l.takeWhile (fun y => y != x)).length

end Sys2Proof.Machine
end

