-- ==== Sys2Proof/Machine/Arith.lean ====
section
/-! DEFINITION. Number formats (R45–R50), exact values, rounding (R67–R69, R74), status tags (R60), and
the anchored and float accumulation of a block (R62, R72). -/

namespace Sys2Proof.Machine

/-! ### Exact values -/

/-- A value read from an element: NaN, an infinity, or (−1)^neg × m × 2^k exactly. -/
inductive Num where
  | nan
  | inf (neg : Bool)
  | fin (neg : Bool) (m : Nat) (k : Int)
  deriving DecidableEq, Repr

/-- A floating-point element format (Table 2-1): exponent and mantissa bits, bias, and which encodings are
special: 0 none, 1 only all-ones NaN (E4M3), 2 IEEE infinities and NaNs. -/
structure FFmt where
  eb : Nat
  mb : Nat
  bias : Nat
  spec : Nat
  deriving DecidableEq, Repr

def fE4M3 : FFmt := { eb := 4, mb := 3, bias := 7, spec := 1 }
def fE5M2 : FFmt := { eb := 5, mb := 2, bias := 15, spec := 2 }
def fE3M2 : FFmt := { eb := 3, mb := 2, bias := 3, spec := 0 }
def fE2M3 : FFmt := { eb := 2, mb := 3, bias := 1, spec := 0 }
def fE2M1 : FFmt := { eb := 2, mb := 1, bias := 1, spec := 0 }
def fBF16 : FFmt := { eb := 8, mb := 7, bias := 127, spec := 2 }
def fFP16 : FFmt := { eb := 5, mb := 10, bias := 15, spec := 2 }
def fFP32 : FFmt := { eb := 8, mb := 23, bias := 127, spec := 2 }

/-- How the elements of a format code are read (Table 3-10). -/
inductive Elem where
  | flt (f : FFmt)
  | int (bits : Nat) (k : Int)
  | other
  deriving DecidableEq, Repr

def elemOf (code : Nat) : Elem :=
  match code with
  | 0x01 | 0x03 => .flt fE4M3
  | 0x02 | 0x04 => .flt fE5M2
  | 0x05 => .flt fE3M2
  | 0x06 => .flt fE2M3
  | 0x07 => .flt fE2M1
  | 0x08 => .int 8 (-6)
  | 0x09 => .int 8 0
  | 0x0A => .int 4 0
  | 0x0B => .flt fBF16
  | 0x0C => .flt fFP16
  | 0x0D => .flt fFP32
  | 0x0E => .int 32 0
  | _ => .other

/-- Formats with a scale array (codes 0x03–0x08). -/
def isMx (code : Nat) : Bool := decide (0x03 ≤ code ∧ code ≤ 0x08)

/-- Bits of one element (Table 3-10). -/
def elemBits (code : Nat) : Nat :=
  match code with
  | 0x05 | 0x06 => 6
  | 0x07 | 0x0A => 4
  | 0x0B | 0x0C => 16
  | 0x0D | 0x0E => 32
  | 0x0F => 64
  | 0x10 => 128
  | _ => 8

/-- Value of a floating-point encoding (R45). -/
def readFlt (f : FFmt) (v : Nat) : Num :=
  let neg := v.testBit (f.eb + f.mb)
  let e := fld v f.mb f.eb
  let m := fld v 0 f.mb
  if f.spec = 1 ∧ e = 2 ^ f.eb - 1 ∧ m = 2 ^ f.mb - 1 then .nan
  else if f.spec = 2 ∧ e = 2 ^ f.eb - 1 then (if m = 0 then .inf neg else .nan)
  else if e = 0 then .fin neg m (1 - f.bias - f.mb : Int)
  else .fin neg (2 ^ f.mb + m) ((e : Int) - f.bias - f.mb)

/-- Value of an element (R45, R46). -/
def readElem (code v : Nat) : Num :=
  match elemOf code with
  | .flt f => readFlt f v
  | .int n k =>
    let i := sgn n v
    .fin (decide (i < 0)) i.natAbs k
  | .other => .nan

/-- Unit exponent of a format: the least k of Table 2-4. -/
def kMin (code : Nat) : Int :=
  match elemOf code with
  | .flt f => (1 : Int) - f.bias - f.mb
  | .int _ k => k
  | .other => 0

/-! ### Rounding -/

/-- Rounding directions of the vector unit (R74): to nearest even, toward zero, up, down. -/
inductive Rnd where
  | rne | rtz | rup | rdn
  deriving DecidableEq, Repr

/-- Whether a truncated magnitude is rounded up: twice the remainder `r` against the divisor `d`. -/
def roundUp (rm : Rnd) (neg odd : Bool) (r2 d : Nat) : Bool :=
  match rm with
  | .rne => decide (d < r2) || (decide (d = r2) && odd)
  | .rtz => false
  | .rup => !neg && decide (0 < r2)
  | .rdn => neg && decide (0 < r2)

/-- A magnitude rounded to q × 2^e, whether it was inexact. -/
structure Rounded where
  q : Nat
  e : Int
  inexact : Bool
  deriving DecidableEq, Repr

/-- Rounds m × 2^k, or a value just above it where `sticky`, to a multiple of 2^e. -/
def roundAt (rm : Rnd) (neg : Bool) (m : Nat) (k : Int) (sticky : Bool) (e : Int) : Rounded :=
  if e ≤ k then
    { q := m * 2 ^ (k - e).toNat, e := e, inexact := sticky }
  else
    let d := 2 ^ (e - k).toNat
    let q := m / d
    let r2 := 2 * (m % d) + b2n sticky
    { q := if roundUp rm neg (q % 2 == 1) r2 d then q + 1 else q, e := e, inexact := r2 != 0 }

/-- floor(log2) of m × 2^k for m > 0. -/
def ilog (m : Nat) (k : Int) : Int := (Nat.log2 m : Int) + k

/-- Least exponent of a normal value. -/
def FFmt.emin (f : FFmt) : Int := 1 - (f.bias : Int)

/-- Encoding of q × 2^e, a value that the format's precision holds; the exponent field may exceed its
width. -/
def FFmt.pack (f : FFmt) (q : Nat) (e : Int) : Nat :=
  if q = 0 then 0
  else
    let l := ilog q e
    if l < f.emin then q * 2 ^ (e - (f.emin - f.mb)).toNat
    else
      let m := q * 2 ^ ((f.mb : Int) - (Nat.log2 q : Int)).toNat / 2 ^ ((Nat.log2 q : Int) - f.mb).toNat
      (l + f.bias).toNat * 2 ^ f.mb + (m - 2 ^ f.mb)

/-- Encoding of the largest finite value (Table 2-1). -/
def FFmt.maxBits (f : FFmt) : Nat :=
  if f.spec = 0 then 2 ^ (f.eb + f.mb) - 1
  else if f.spec = 1 then 2 ^ (f.eb + f.mb) - 2
  else (2 ^ f.eb - 1) * 2 ^ f.mb - 1

/-- Canonical NaN (R48). -/
def FFmt.nanBits (f : FFmt) : Nat :=
  if f.spec = 1 then 2 ^ (f.eb + f.mb) - 1
  else (2 ^ f.eb - 1) * 2 ^ f.mb + 2 ^ (f.mb - 1)

def FFmt.infBits (f : FFmt) : Nat := (2 ^ f.eb - 1) * 2 ^ f.mb

def FFmt.signBit (f : FFmt) (neg : Bool) : Nat := if neg then 2 ^ (f.eb + f.mb) else 0

/-- A rounded magnitude in a format: its encoding, beyond the largest finite value or not, inexact,
underflow as R74 detects it after rounding. -/
structure RFlt where
  bits : Nat
  ovf : Bool
  inexact : Bool
  under : Bool
  deriving DecidableEq, Repr

/-- Rounds m × 2^k (with `sticky`) to the format's precision, subnormals included. -/
def FFmt.round (f : FFmt) (rm : Rnd) (neg : Bool) (m : Nat) (k : Int) (sticky : Bool) : RFlt :=
  if m = 0 then { bits := 0, ovf := false, inexact := sticky, under := sticky }
  else
    let l := ilog m k
    let r := roundAt rm neg m k sticky (max l f.emin - f.mb)
    let u := roundAt rm neg m k sticky (l - f.mb)
    let b := f.pack r.q r.e
    { bits := b, ovf := decide (f.maxBits < b), inexact := r.inexact,
      under := r.inexact && decide (ilog u.q u.e < f.emin) }

/-! ### Conversion (R67–R69) -/

/-- An encoding and whether it sets cvt_ovf. -/
abbrev Cvt := Nat × Bool

/-- Conversion to a floating-point format (Table 2-8): saturating or not. -/
def cvtFlt (f : FFmt) (sat : Bool) (rm : Rnd) (x : Num) : Cvt :=
  match x with
  | .nan => (f.nanBits, false)
  | .inf neg =>
    if f.spec = 2 then (f.signBit neg + f.infBits, false)
    else if f.spec = 1 ∧ sat = false then (f.nanBits, true)
    else (f.signBit neg + f.maxBits, true)
  | .fin neg m k =>
    if m = 0 then (0, false)
    else
      let r := f.round rm neg m k false
      if r.ovf then
        if f.spec = 0 ∨ sat then (f.signBit neg + f.maxBits, true)
        else if f.spec = 1 then (f.nanBits, true)
        else (f.signBit neg + f.infBits, true)
      else (f.signBit neg + r.bits, false)

/-- Rounds to an integer and clamps it to `n` bits, two's complement (R69). -/
def cvtInt (n : Nat) (rm : Rnd) (x : Num) : Cvt :=
  let hi : Nat := 2 ^ (n - 1) - 1
  match x with
  | .nan => (0, true)
  | .inf neg => (if neg then hi + 1 else hi, true)
  | .fin neg m k =>
    let q := (roundAt rm neg m k false 0).q
    if neg then (if hi + 1 < q then (hi + 1, true) else (wrapInt n (-(q : Int)), false))
    else (if hi < q then (hi, true) else (q, false))

/-- A zero keeps no sign where it comes from an accumulator (R47). -/
def Num.posZero : Num → Num
  | .fin _ 0 _ => .fin false 0 0
  | x => x

/-- A zero result produced from an accumulator is +0: an encoding that is only the sign bit loses it
(R47). -/
def cvtPlusZero (code : Nat) (b : Nat) : Nat :=
  match elemOf code with
  | .flt f => if b = f.signBit true then 0 else b
  | .int _ _ => b
  | .other => b

/-- Conversion of one value to a plain element format. -/
def cvtElem (code : Nat) (sat : Bool) (rm : Rnd) (x : Num) : Cvt :=
  match elemOf code with
  | .flt f => cvtFlt f sat rm x
  | .int n _ => cvtInt n rm x
  | .other => (0, false)

/-- x / 2^s. -/
def Num.scale (x : Num) (s : Int) : Num :=
  match x with
  | .fin neg m k => .fin neg m (k - s)
  | y => y

/-- e_max,elem of R68. -/
def mxEmax (code : Nat) : Int :=
  match code with
  | 0x03 => 8
  | 0x04 => 15
  | 0x05 => 4
  | 0x08 => 0
  | _ => 2

/-- Largest of two finite magnitudes as a floor(log2), none for zero. -/
def numLog (x : Num) : Option Int :=
  match x with
  | .fin _ m k => if m = 0 then none else some (ilog m k)
  | _ => none

def maxLog : List Num → Option Int
  | [] => none
  | x :: xs =>
    match numLog x, maxLog xs with
    | some a, some b => some (max a b)
    | some a, none => some a
    | none, b => b

/-- An element of an MX output block, from its value divided by 2^X: an infinity is ±max finite in every element
format (R68), the rest saturates. -/
def mxElem (code : Nat) (rm : Rnd) (x : Num) : Cvt :=
  match x, elemOf code with
  | .inf neg, .flt f => (f.signBit neg + f.maxBits, true)
  | _, _ => cvtElem code true rm x

/-- An MX output block (R68): its scale byte, its elements, and whether cvt_ovf is set.  In a block that holds a
NaN, which the manual writes as zero bits throughout, no element sets cvt_ovf (DESIGN CHOICE, log entry 110). -/
def cvtMx (code : Nat) (rm : Rnd) (xs : List Num) : Nat × List Nat × Bool :=
  if xs.contains .nan then (0xFF, xs.map (fun _ => 0), false)
  else
    let s : Int := match maxLog xs with
      | none => -127
      | some l => max (-127) (min 127 (l - mxEmax code))
    let cs := xs.map (fun x => mxElem code rm (x.scale s))
    ((s + 127).toNat, cs.map (·.1), cs.any (·.2))

/-! ### Status tags (R60, R61) -/

/-- Tags: 0 finite, 1 +Inf, 2 −Inf, 3 NaN. -/
def combineTag (a b : BitVec 2) : BitVec 2 :=
  if a = 0 then b else if b = 0 then a else if a = b then a else 3

/-- The combination forms a NaN from opposite infinities (R61). -/
def tagGen (a b : BitVec 2) : Bool := (a == 1 && b == 2) || (a == 2 && b == 1)

def tagOf : Num → BitVec 2
  | .nan => 3
  | .inf neg => if neg then 2 else 1
  | .fin _ _ _ => 0

/-- A product with the exponent `s` of the block's scales (none: a NaN scale), and whether it is a NaN
made of inputs that are none (R61). -/
def mulNum (a b : Num) (s : Option Int) : Num × Bool :=
  match s with
  | none => (.nan, false)
  | some s =>
    match a, b with
    | .nan, _ => (.nan, false)
    | _, .nan => (.nan, false)
    | .inf n, .inf n' => (.inf (n != n'), false)
    | .inf n, .fin n' m _ => if m = 0 then (.nan, true) else (.inf (n != n'), false)
    | .fin n m _, .inf n' => if m = 0 then (.nan, true) else (.inf (n != n'), false)
    | .fin n m k, .fin n' m' k' => (.fin (n != n') (m * m') (k + k' + s), false)

/-- The tag of a block's products and whether a NaN was generated among them (assumption 29). -/
def blockTag (ps : List (Num × Bool)) : BitVec 2 × Bool :=
  let tags := ps.map (fun p => tagOf p.1)
  let t := tags.foldl combineTag 0
  (t, ps.any (·.2) || (tags.contains 1 && tags.contains 2 && !tags.contains 3))

/-! ### A block in the accumulator (R62, R72) -/

/-- Signed m × 2^k / 2^t truncated toward zero. -/
def truncAt (t : Int) (x : Num) : Int :=
  match x with
  | .fin neg m k =>
    let q : Nat := if t ≤ k then m * 2 ^ (k - t).toNat else m / 2 ^ (t - k).toNat
    if neg then -(q : Int) else q
  | _ => 0

/-- Pairs that are windowed (Table 2-3, R56). -/
def windowed (ca cb : Nat) : Bool :=
  let e5 (c : Nat) : Bool := c == 0x02 || c == 0x04
  let f8 (c : Nat) : Bool := decide (1 ≤ c ∧ c ≤ 4)
  (e5 ca && f8 cb) || (f8 ca && e5 cb) || (ca == 0x0B && cb == 0x0B) || (ca == 0x0C && cb == 0x0C)

/-- The unit exponent w of a block: exact pairs by their formats, windowed pairs by their largest product;
none where no product is non-zero. -/
def blockUnit (ca cb : Nat) (s : Option Int) (ps : List Num) : Option Int :=
  if windowed ca cb then (maxLog ps).map (fun m => m - 45)
  else some (kMin ca + kMin cb + s.getD 0)

/-- The block sum in units of 2^t. -/
def blockSum (t : Int) (ps : List Num) : Int := (ps.map (truncAt t)).foldl (· + ·) 0

/-- Saturates to the span limit; whether it did (R62). -/
def satTo (lim v : Int) : Int × Bool :=
  if lim < v then (lim, true) else if v < -lim then (-lim, true) else (v, false)

/-- The term that one block adds to an entry anchored at L with limit lim (R62). -/
def anchoredTerm (L lim : Int) (ca cb : Nat) (s : Option Int) (ps : List Num) : Int × Bool :=
  match blockUnit ca cb s ps with
  | none => (0, false)
  | some w =>
    let t := max w L
    satTo lim (blockSum t ps * 2 ^ (t - L).toNat)

/-- An anchored entry while an MMA runs: value, tag, aovf, minv. -/
structure Acc where
  v : Int
  tag : BitVec 2
  aovf : Bool
  minv : Bool
  deriving DecidableEq, Repr

/-- v wrapped to 128 bits, signed (R62). -/
def wrap128 (v : Int) : Int := sgn 128 (wrapInt 128 v)

/-- One block of an anchored MMA (R62). -/
def anchoredBlock (L lim : Int) (ca cb : Nat) (s : Option Int) (ps : List (Num × Bool)) (a : Acc) : Acc :=
  let bt := blockTag ps
  let term := anchoredTerm L lim ca cb s (ps.map (·.1))
  { v := wrap128 (a.v + term.1), tag := combineTag a.tag bt.1, aovf := a.aovf || term.2,
    minv := a.minv || bt.2 || tagGen a.tag bt.1 }

/-- The end of an anchored MMA: a non-finite entry holds zero, a finite one saturates (R60, R62). -/
def anchoredEnd (lim : Int) (a : Acc) : Acc :=
  if a.tag ≠ 0 then { a with v := 0 }
  else
    let r := satTo lim a.v
    { a with v := r.1, aovf := a.aovf || r.2 }

/-! ### IEEE operations (R72, R74) -/

/-- Flags of one vector operation. -/
structure VFlags where
  invalid : Bool
  divzero : Bool
  ovf : Bool
  under : Bool
  inexact : Bool
  deriving DecidableEq, Repr

def VFlags.none : VFlags :=
  { invalid := false, divzero := false, ovf := false, under := false, inexact := false }

def VFlags.or (a b : VFlags) : VFlags :=
  { invalid := a.invalid || b.invalid, divzero := a.divzero || b.divzero, ovf := a.ovf || b.ovf,
    under := a.under || b.under, inexact := a.inexact || b.inexact }

/-- A result encoding with its flags. -/
abbrev VRes := Nat × VFlags

def vNan (f : FFmt) (inv : Bool) : VRes := (f.nanBits, { VFlags.none with invalid := inv })

def vInf (f : FFmt) (neg : Bool) : VRes := (f.signBit neg + f.infBits, VFlags.none)

/-- The IEEE result of an exact magnitude: overflow goes to infinity or to the largest finite value by the
rounding direction. -/
def vRound (f : FFmt) (rm : Rnd) (neg : Bool) (m : Nat) (k : Int) (sticky : Bool) : VRes :=
  let r := f.round rm neg m k sticky
  if r.ovf then
    let toInf := match rm with
      | .rne => true
      | .rtz => false
      | .rup => !neg
      | .rdn => neg
    (f.signBit neg + (if toInf then f.infBits else f.maxBits),
      { VFlags.none with ovf := true, inexact := true })
  else (f.signBit neg + r.bits, { VFlags.none with under := r.under, inexact := r.inexact })

/-- Exact sum of two finite values, as a signed integer at an exponent. -/
def addExact (n m : Int) (a : Nat × Int) (b : Nat × Int) : Int × Int :=
  let k := min a.2 b.2
  (n * (a.1 * 2 ^ (a.2 - k).toNat : Nat) + m * (b.1 * 2 ^ (b.2 - k).toNat : Nat), k)

def sgnOf (neg : Bool) : Int := if neg then -1 else 1

/-- The rounded sum of finite values x and y, with IEEE zero signs. -/
def addFin (f : FFmt) (rm : Rnd) (nx : Bool) (mx : Nat) (kx : Int) (ny : Bool) (my : Nat) (ky : Int) : VRes :=
  let s := addExact (sgnOf nx) (sgnOf ny) (mx, kx) (my, ky)
  if s.1 = 0 then
    let neg := if mx = 0 ∧ my = 0 ∧ nx = ny then nx else rm == .rdn
    (f.signBit neg, VFlags.none)
  else vRound f rm (decide (s.1 < 0)) s.1.natAbs s.2 false

/-- IEEE addition. -/
def vAdd (f : FFmt) (rm : Rnd) (x y : Num) : VRes :=
  match x, y with
  | .nan, _ => vNan f false
  | _, .nan => vNan f false
  | .inf a, .inf b => if a = b then vInf f a else vNan f true
  | .inf a, _ => vInf f a
  | _, .inf b => vInf f b
  | .fin nx mx kx, .fin ny my ky => addFin f rm nx mx kx ny my ky

def Num.neg : Num → Num
  | .nan => .nan
  | .inf n => .inf (!n)
  | .fin n m k => .fin (!n) m k

/-- IEEE multiplication. -/
def vMul (f : FFmt) (rm : Rnd) (x y : Num) : VRes :=
  match x, y with
  | .nan, _ => vNan f false
  | _, .nan => vNan f false
  | .inf a, .inf b => vInf f (a != b)
  | .inf a, .fin b m _ => if m = 0 then vNan f true else vInf f (a != b)
  | .fin a m _, .inf b => if m = 0 then vNan f true else vInf f (a != b)
  | .fin a m k, .fin b m' k' =>
    if m = 0 ∨ m' = 0 then (f.signBit (a != b), VFlags.none)
    else vRound f rm (a != b) (m * m') (k + k') false

/-- Fused x × y + z; zero times an infinity is invalid even with a NaN addend (R74). -/
def vFma (f : FFmt) (rm : Rnd) (x y z : Num) : VRes :=
  let p := mulNum x y (some 0)
  if p.2 then vNan f true
  else
    match p.1, z with
    | .nan, _ => vNan f false
    | _, .nan => vNan f false
    | .inf a, .inf b => if a = b then vInf f a else vNan f true
    | .inf a, _ => vInf f a
    | _, .inf b => vInf f b
    | .fin nx mx kx, .fin ny my ky => addFin f rm nx mx kx ny my ky

/-- IEEE division: the quotient to enough bits, with a sticky remainder. -/
def vDiv (f : FFmt) (rm : Rnd) (x y : Num) : VRes :=
  match x, y with
  | .nan, _ => vNan f false
  | _, .nan => vNan f false
  | .inf _, .inf _ => vNan f true
  | .inf a, .fin b _ _ => vInf f (a != b)
  | .fin a _ _, .inf b => (f.signBit (a != b), VFlags.none)
  | .fin a m k, .fin b m' k' =>
    if m' = 0 then
      if m = 0 then vNan f true
      else (f.signBit (a != b) + f.infBits, { VFlags.none with divzero := true })
    else if m = 0 then (f.signBit (a != b), VFlags.none)
    else
      let sh := f.mb + 4 + Nat.log2 m' + 1
      let n := m * 2 ^ sh
      vRound f rm (a != b) (n / m') (k - k' - sh) (n % m' != 0)

/-- Integer square root, bit by bit from bit `n`. -/
def isqrt : Nat → Nat → Nat → Nat
  | 0, _, r => r
  | n + 1, v, r => if (r + 2 ^ n) * (r + 2 ^ n) ≤ v then isqrt n v (r + 2 ^ n) else isqrt n v r

/-- IEEE square root. -/
def vSqrt (f : FFmt) (rm : Rnd) (x : Num) : VRes :=
  match x with
  | .nan => vNan f false
  | .inf neg => if neg then vNan f true else vInf f false
  | .fin neg m k =>
    if m = 0 then (f.signBit neg, VFlags.none)
    else if neg then vNan f true
    else
      let sh := 2 * (f.mb + 4) + (if (k % 2) = 0 then 0 else 1)
      let n := m * 2 ^ sh
      let r := isqrt (Nat.log2 n / 2 + 1) n 0
      vRound f rm false r ((k - sh) / 2) (r * r != n)

/-- x < y of two numbers, as signed exact values; false with NaN. -/
def numLt (x y : Num) : Bool :=
  match x, y with
  | .nan, _ => false
  | _, .nan => false
  | .inf a, .inf b => a && !b
  | .inf a, _ => a
  | _, .inf b => !b
  | .fin nx mx kx, .fin ny my ky =>
    decide ((addExact (sgnOf nx) (-(sgnOf ny)) (mx, kx) (my, ky)).1 < 0)

/-- x = y; false with NaN. -/
def numEq (x y : Num) : Bool :=
  match x, y with
  | .nan, _ => false
  | _, .nan => false
  | .inf a, .inf b => a == b
  | .inf _, _ => false
  | _, .inf _ => false
  | .fin nx mx kx, .fin ny my ky =>
    decide ((addExact (sgnOf nx) (-(sgnOf ny)) (mx, kx) (my, ky)).1 = 0)

/-- Encoding of a value that the format holds. -/
def FFmt.enc (f : FFmt) (x : Num) : Nat :=
  match x with
  | .nan => f.nanBits
  | .inf n => f.signBit n + f.infBits
  | .fin n m k => f.signBit n + f.pack m k

/-- The value is negative, or a negative zero. -/
def Num.isNeg : Num → Bool
  | .nan => false
  | .inf n => n
  | .fin n _ _ => n

/-- x orders before y, with −0 below +0 (R74). -/
def numBelow (x y : Num) : Bool := numLt x y || (numEq x y && x.isNeg && !y.isNeg)

/-- IEEE 754-2019 minimum: NaN propagates, −0 is below +0 (R74). -/
def vMin (f : FFmt) (x y : Num) : VRes :=
  if x = .nan ∨ y = .nan then vNan f false
  else if numBelow y x then (f.enc y, VFlags.none) else (f.enc x, VFlags.none)

def vMax (f : FFmt) (x y : Num) : VRes :=
  if x = .nan ∨ y = .nan then vNan f false
  else if numBelow x y then (f.enc y, VFlags.none) else (f.enc x, VFlags.none)

/-- A float-mode entry takes one block: the block sum rounded once to FP32 and added, to nearest even;
whether a NaN was generated (R72). -/
def floatBlock (ca cb : Nat) (s : Option Int) (ps : List (Num × Bool)) (entry : Nat) : Nat × Bool :=
  let bt := blockTag ps
  let x : Num :=
    if bt.1 = 3 then .nan
    else if bt.1 ≠ 0 then .inf (bt.1 == 2)
    else match blockUnit ca cb s (ps.map (·.1)) with
      | none => .fin false 0 0
      | some w =>
        let b := blockSum w (ps.map (·.1))
        readFlt fFP32 (cvtFlt fFP32 false .rne (.fin (decide (b < 0)) b.natAbs w)).1
  let r := vAdd fFP32 .rne (readFlt fFP32 entry) x
  (r.1, bt.2 || r.2.invalid)

/-! ### A64 and A128 words (R70, R287) -/

/-- Reads an anchored word of `n` bits: status and v. -/
def readA (n v : Nat) : BitVec 2 × Int := (BitVec.ofNat 2 (v >>> (n - 2)), sgn (n - 2) (v % 2 ^ (n - 2)))

/-- Writes an anchored word of `n` bits. -/
def writeA (n : Nat) (t : BitVec 2) (v : Int) : Nat := t.toNat * 2 ^ (n - 2) + wrapInt (n - 2) v

/-- Anchored addition of two words (R287): outside the range the status becomes NaN; a non-finite word
holds 0. -/
def addA (n a b : Nat) : Nat :=
  let x := readA n a
  let y := readA n b
  let t := combineTag x.1 y.1
  let v := x.2 + y.2
  let lim : Int := 2 ^ (n - 3) - 1
  if t ≠ 0 then writeA n t 0
  else if lim < v ∨ v < -lim then writeA n 3 0
  else writeA n 0 v

end Sys2Proof.Machine
end

