-- ==== Sys2Proof/Machine/Crypto.lean ====
section
/-! DEFINITION. The symmetric primitives that the manual names: AES-256-GCM as NIST SP 800-38D and FIPS 197 define
it (R209, R316), SHA3-256 as FIPS 202 does (R431), and the KDF over HMAC with SHA3-256 (R431). -/

namespace Sys2Proof.Machine

/-! ### AES-256 (FIPS 197) -/

/-- Multiplication by x in GF(2^8) modulo x^8 + x^4 + x^3 + x + 1. -/
def xtime (a : Byte) : Byte := (a <<< 1) ^^^ (if a.getLsbD 7 then 0x1B else 0)

/-- The S-box of each quarter of the byte values, the lowest value in the most significant byte. -/
def sboxRows : List Nat :=
  [ 0x637c777bf26b6fc53001672bfed7ab76ca82c97dfa5947f0add4a2af9ca472c0b7fd9326363ff7cc34a5e5f171d8311504c723c31896059a071280e2eb27b275,
    0x09832c1a1b6e5aa0523bd6b329e32f8453d100ed20fcb15b6acbbe394a4c58cfd0efaafb434d338545f9027f503c9fa851a3408f929d38f5bcb6da2110fff3d2,
    0xcd0c13ec5f974417c4a77e3d645d197360814fdc222a908846eeb814de5e0bdbe0323a0a4906245cc2d3ac629195e479e7c8376d8dd54ea96c56f4ea657aae08,
    0xba78252e1ca6b4c6e8dd741f4bbd8b8a703eb5664803f60e613557b986c11d9ee1f8981169d98e949b1e87e9ce5528df8ca1890dbfe6426841992d0fb054bb16 ]

/-- The S-box. -/
def sbox (b : Byte) : Byte :=
  BitVec.ofNat 8 ((sboxRows.getD (b.toNat / 64) 0) >>> (8 * (63 - b.toNat % 64)))

/-- Exclusive or of two byte strings. -/
def xorBytes (a b : Bytes) : Bytes := List.zipWith (· ^^^ ·) a b

/-- The next word of the key schedule: word `i` from the words so far, newest first. -/
def nextKeyWord (rcon : Byte) (i : Nat) (ws : List Bytes) : Bytes :=
  let t := ws.headD []
  let u := if i % 8 = 0 then
      match (t.drop 1 ++ t.take 1).map sbox with
      | x :: l => (x ^^^ rcon) :: l
      | [] => []
    else if i % 8 = 4 then t.map sbox else t
  xorBytes (ws.getD 7 []) u

/-- `n` more words of the key schedule. -/
def keyWords : Nat → Byte → Nat → List Bytes → List Bytes
  | 0, _, _, ws => ws
  | n + 1, rcon, i, ws =>
    keyWords n (if i % 8 = 0 then xtime rcon else rcon) (i + 1) (nextKeyWord rcon i ws :: ws)

/-- A byte string cut into cutBytes of `k` bytes, `n` of them. -/
def cutBytes (k : Nat) : Nat → Bytes → List Bytes
  | 0, _ => []
  | n + 1, b => b.take k :: cutBytes k n (b.drop k)

/-- The fifteen round keys of a 32-byte key. -/
def roundKeys (key : Bytes) : List Bytes :=
  let ws := (keyWords 52 0x01 8 (cutBytes 4 8 key).reverse).reverse
  (List.range 15).map (fun i => ((ws.drop (4 * i)).take 4).flatten)

/-- Row `r` of column `c` comes from column c + r. -/
def shiftRows (s : Bytes) : Bytes :=
  (List.range 16).map (fun i => s.getD ((4 * (i % 4) + i) % 16) 0)

/-- MixColumns on one column. -/
def mixColumn (c : Bytes) : Bytes :=
  let t := c.foldl (· ^^^ ·) 0
  (List.range 4).map (fun i => c.getD i 0 ^^^ t ^^^ xtime (c.getD i 0 ^^^ c.getD ((i + 1) % 4) 0))

/-- A middle round. -/
def aesRound (s k : Bytes) : Bytes :=
  xorBytes ((cutBytes 4 4 (shiftRows (s.map sbox))).flatMap mixColumn) k

/-- The rounds after the first key, of which the last mixes no columns. -/
def aesRounds : List Bytes → Bytes → Bytes
  | [], s => s
  | [k], s => xorBytes (shiftRows (s.map sbox)) k
  | k :: ks, s => aesRounds ks (aesRound s k)

/-- AES-256 of one block under round keys. -/
def aesBlock (ks : List Bytes) (b : Bytes) : Bytes :=
  match ks with
  | [] => b
  | k :: l => aesRounds l (xorBytes b k)

/-! ### GCM (SP 800-38D) -/

/-- A byte string as a number, first byte most significant. -/
def beNat (b : Bytes) : Nat := leNat b.reverse

/-- `n` bytes of a number, most significant first. -/
def beBytes (n v : Nat) : Bytes := (leBytes n v).reverse

/-- Multiplication in GF(2^128): bit 127 of a number is the first bit of its block. -/
def gfMulFrom (x : Nat) : Nat → Nat → Nat → Nat
  | 0, _, z => z
  | n + 1, v, z =>
    gfMulFrom x n (if v % 2 = 1 then v / 2 ^^^ (0xE1 <<< 120) else v / 2) (if x.testBit n then z ^^^ v else z)

def gfMul (x y : Nat) : Nat := gfMulFrom x 128 y 0

/-- Zeros up to a whole number of 16-byte blocks. -/
def padBlock (b : Bytes) : Bytes := b ++ List.replicate ((16 - b.length % 16) % 16) 0

/-- GHASH of a string of whole blocks under hash subkey `k`. -/
def ghash (k : Nat) (b : Bytes) : Nat :=
  (cutBytes 16 (b.length / 16) b).foldl (fun y x => gfMul (y ^^^ beNat x) k) 0

/-- Counter mode from counter value `ctr` of a 12-byte nonce. -/
def gctr (ks : List Bytes) (nonce : Bytes) (ctr : Nat) (b : Bytes) : Bytes :=
  ((cutBytes 16 ((b.length + 15) / 16) b).zipIdx).flatMap (fun p =>
    xorBytes p.1 (aesBlock ks (nonce ++ beBytes 4 (ctr + p.2))))

/-- The 16-byte tag over additional data and ciphertext. -/
def gcmTag (ks : List Bytes) (nonce aad ct : Bytes) : Bytes :=
  let k := beNat (aesBlock ks (List.replicate 16 0))
  let s := ghash k (padBlock aad ++ padBlock ct ++ beBytes 8 (8 * aad.length) ++ beBytes 8 (8 * ct.length))
  gctr ks nonce 1 (beBytes 16 s)

/-- AES-256-GCM encryption: key, nonce, additional data and plaintext give ciphertext and tag. -/
def gcmSeal (key nonce aad pt : Bytes) : Bytes × Bytes :=
  let ks := roundKeys key
  let ct := gctr ks nonce 2 pt
  (ct, gcmTag ks nonce aad ct)

/-- AES-256-GCM decryption: key, nonce, additional data, ciphertext and tag; none when the tag fails. -/
def gcmOpen (key nonce aad ct tag : Bytes) : Option Bytes :=
  let ks := roundKeys key
  if tag = gcmTag ks nonce aad ct then some (gctr ks nonce 2 ct) else none

/-! ### SHA3-256 (FIPS 202) -/

/-- Rotation offsets of the lanes, lane (x, y) at 5y + x. -/
def kecRot : List Nat :=
  [0, 1, 62, 28, 27, 36, 44, 6, 55, 20, 3, 10, 43, 25, 39, 41, 45, 15, 21, 8, 18, 2, 61, 56, 14]

/-- Round constants. -/
def kecRc : List Word :=
  [0x0000000000000001, 0x0000000000008082, 0x800000000000808A, 0x8000000080008000, 0x000000000000808B,
   0x0000000080000001, 0x8000000080008081, 0x8000000000008009, 0x000000000000008A, 0x0000000000000088,
   0x0000000080008009, 0x000000008000000A, 0x000000008000808B, 0x800000000000008B, 0x8000000000008089,
   0x8000000000008003, 0x8000000000008002, 0x8000000000000080, 0x000000000000800A, 0x800000008000000A,
   0x8000000080008081, 0x8000000000008080, 0x0000000080000001, 0x8000000080008008]

/-- One round of Keccak-f[1600]. -/
def kecRound (a : List Word) (rc : Word) : List Word :=
  let g (l : List Word) (i : Nat) : Word := l.getD i 0
  let c := (List.range 5).map (fun x => g a x ^^^ g a (x + 5) ^^^ g a (x + 10) ^^^ g a (x + 15) ^^^ g a (x + 20))
  let d := (List.range 5).map (fun x => g c ((x + 4) % 5) ^^^ (g c ((x + 1) % 5)).rotateLeft 1)
  let r := (List.range 25).map (fun i => (g a i ^^^ g d (i % 5)).rotateLeft (kecRot.getD i 0))
  let b := (List.range 25).map (fun i => g r (5 * (i % 5) + (i % 5 + 3 * (i / 5)) % 5))
  let e := (List.range 25).map (fun i =>
    let y := i / 5
    g b i ^^^ (~~~ g b (5 * y + (i + 1) % 5) &&& g b (5 * y + (i + 2) % 5)))
  match e with
  | x :: l => (x ^^^ rc) :: l
  | [] => []

/-- Absorbs blocks of 136 bytes. -/
def kecAbsorb (bs : List Bytes) : List Word :=
  bs.foldl (fun a b =>
    kecRc.foldl kecRound (List.zipWith (· ^^^ ·) a (bytesWords 17 b ++ List.replicate 8 0)))
    (List.replicate 25 0)

/-- SHA3-256 of a byte string, 32 bytes. -/
def sha3 (m : Bytes) : Bytes :=
  let n := 135 - m.length % 136
  let p := if n = 0 then m ++ [0x86] else m ++ [0x06] ++ List.replicate (n - 1) 0 ++ [0x80]
  wordsBytes ((kecAbsorb (cutBytes 136 (p.length / 136) p)).take 4)

/-- KDF(k, m) = HMAC-SHA3-256(k, m) (R431), over SHA3-256's block of 136 bytes. -/
def kdf (k m : Bytes) : Bytes :=
  let k0 := if 136 < k.length then sha3 k else k
  let kp := k0 ++ List.replicate (136 - k0.length) 0
  sha3 (kp.map (· ^^^ 0x5C) ++ sha3 (kp.map (· ^^^ 0x36) ++ m))

end Sys2Proof.Machine
end

