-- ==== Sys2Proof/Config.lean ====
section
/-! DEFINITION. What one implementation fixes and what the manual leaves open, as constants with no
body: nothing can evaluate them, so a statement about them holds whatever they are.  Cryptographic
primitives of outside standards (FIPS 203, FIPS 204, SP 800-90A) are uninterpreted too: the manual names
them and gives only their inputs. -/

namespace Sys2Proof

/-- The supply of free values: the `n`-th value that the manual leaves open (`Hw.free` counts them).
FREE VALUE, assumption 5. -/
opaque Config.freeValue : Nat → Word

/-- A free byte string: the `n`-th content of the given length that the manual leaves open, such as a
certificate or a published body layout.  FREE VALUE, assumption 5. -/
opaque Config.freeBytes : Nat → Nat → Bytes

/-- The layout that the runtime firmware's release gives the body of a capture section of a type, from the words that
say its content (R496). -/
opaque Config.capLayout : Nat → List Word → Bytes

/-- The vector unit's special functions (R140, minors 0x10–0x1B) on an FP32 input whose result Table 4-8
does not fix: not correctly rounded (R75), identical on every module of one major release.  A firmware image of another
major release may change them; the model takes one function for every firmware that it runs (assumption 35). -/
opaque Config.vuSpecial : Nat → BitVec 32 → BitVec 32

/-- ML-DSA-44 public key of a 32-byte seed (R431). -/
opaque Config.mldsaPublic : Bytes → Bytes

/-- ML-DSA-44 signature under the key of a seed, hedged with randomness (R435). -/
opaque Config.mldsaSign : Bytes → Bytes → Bytes → Bytes

/-- ML-DSA-44 verification: public key, message, signature (R520). -/
opaque Config.mldsaVerify : Bytes → Bytes → Bytes → Bool

/-- ML-KEM-768 key pair from random bytes: encapsulation key and decapsulation key (R437). -/
opaque Config.kemKeygen : Bytes → Bytes × Bytes

/-- ML-KEM-768 encapsulation: key and randomness give ciphertext and shared secret (R435). -/
opaque Config.kemEncaps : Bytes → Bytes → Bytes × Bytes

/-- ML-KEM-768 decapsulation: decapsulation key and ciphertext; none where it fails (R438). -/
opaque Config.kemDecaps : Bytes → Bytes → Option Bytes

/-- The `n`-th output block of Ihlel's CTR_DRBG (R430). -/
opaque Config.drbg : Nat → Bytes

/-- The unique device secret fused at manufacture (R431). -/
opaque Config.uds : Bytes

/-- Silicon revision, fused (Table 18-7). -/
opaque Config.siRev : BitVec 8

/-- The OTP key hashes of the four firmware signing keys, and whether each is revoked (R520). -/
opaque Config.otpKeyHash : Nat → Bytes
opaque Config.otpKeyRevoked : Nat → Bool

/-- Serial number bytes, service MAC address and manufacture date of the module (Table 18-7). -/
opaque Config.serialWord : Nat → Word
opaque Config.mac : BitVec 48
opaque Config.mfgDate : BitVec 32

/-- The device certificate stored at manufacture (R431, Table 14-6). -/
opaque Config.deviceCert : Bytes

/-- What a configuration register of a function holds before anything writes it (Table 13-1). -/
opaque Config.cfgReset : Nat → Nat → BitVec 32

/-- The encoding of an alias certificate: the issuer's seed and the certified seed (R432). -/
opaque Config.aliasCert : Bytes → Bytes → Bytes

/-- SHA3-256 of Ihlel's ROM (Table 14-9, index 1). -/
opaque Config.romDigest : Bytes

/-- The stored bytes of a settings record: version, numbering, policy, lpddr_14g4, sequence number (R530). -/
opaque Config.settingsBytes : Nat → Bool → Bool → Bool → Nat → Bytes

/-- The measured bytes of the fuse map and the field defect list (Table 14-9, index 7). -/
opaque Config.defectBytes : List Nat → List Nat → Bytes

/-- The verify data that an SPDM FINISH must carry under a session's secret (SPDM 1.3). -/
opaque Config.spdmVerify : Bytes → Bytes

/-- The image with which the module leaves manufacture: header and body (R517). -/
opaque Config.factoryHeader : Bytes
opaque Config.factoryBody : Bytes

/-- The estimator's fixed coefficients weigh the activity counters (R452); the thermal resistance of a
zone measured at manufacture (R469), in thousandths of a degree per watt. -/
opaque Config.zoneTheta : Nat → Nat

end Sys2Proof
end

