-- ==== Sys2Proof/Machine/State.lean ====
section
/-! DEFINITION. The state of the module as plain data: every register, queue, buffer, mode, latch and
pin that the manual names, grouped as the manual groups them, with the queue of waiting commands. -/

namespace Sys2Proof.Machine

/-- A sparse table keyed by number, keys rising; what an unlisted key holds is given at each use
(`Machine/Sparse.lean` reads and writes it). -/
abbrev SMap (α : Type) := List (Nat × α)

/-- Reasons for which the machine would stop.  The manual leaves no command of the table without an
effect, so no meaning raises one: every fault of the manual is a record in the state (R485). -/
inductive Fault where
  /-- Raised by no meaning; safe. -/
  | none
  deriving DecidableEq, Repr

/-- Reasons for which a command has no meaning. -/
inductive Refusal where
  /-- The command has no meaning in this model; raised by the dispatch alone; safe. -/
  | notModelled (mnemonic : String)
  deriving DecidableEq, Repr

/-! ### Easels (chapters 3 and 4) -/

/-- The context-mode state of a core (Table 3-1), with sketch mode (Table 3-3) and the cycle count. -/
structure CoreRegs where
  pc : Word
  s : SMap Word
  p : BitVec 8
  td : SMap Word
  sbm : BitVec 8
  sketch : Bool
  arith : Word
  scratch : SMap Word
  serial : Word
  mcycles : Nat
  deriving DecidableEq, Repr

/-- The four words of a tile descriptor (Table 3-9). -/
structure TDesc where
  w0 : Word
  w1 : Word
  w2 : Word
  w3 : Word
  deriving DecidableEq, Repr

/-- Vector unit operations (Table 4-6). -/
inductive VOp where
  | add | sub | mul | fma | div | min | max | sqrt | cvt | rsum | rmax | rmin | cmplt | cmpeq
  | exp | exp2 | log2 | ln | rcp | rsqrt | tanh | sigm | silu | gelu | sin | cos
  deriving DecidableEq, Repr

/-- What a queue entry does (R118, R253). -/
inductive EngOp where
  | mma | accload | accstore | convert | anchor
  | vec (op : VOp)
  | copy | gather | scatter
  | release (signal : Bool) (scope : BitVec 2)
  deriving DecidableEq, Repr

/-- A transaction of a copy instruction (R147): its source (none fills with zeros), destination, length. -/
structure Txn where
  src : Option Word
  dst : Word
  len : Nat
  deriving DecidableEq, Repr

/-- An entry of an engine queue: what R123 and R226 copy at issue, and its progress: when it last made
progress, its copy sequencer, its transactions, the data, acknowledgements and failures that have come
back by transaction, the K blocks or rows done and the flags they raised (R125), the nanoseconds in which F held it
back (R154), its place in the order of issue (R232), and whether its stream's destination tracks it, once that is
known (R250). -/
structure QEntry where
  op : EngOp
  fmt : FmtE
  ta : TDesc
  tb : TDesc
  tc : TDesc
  xs : List Word
  arith : Word
  sbm : BitVec 8
  sketch : Bool
  seq : BitVec 8
  serial : Word
  pc : Word
  inst : Word
  ctx : CtxId
  started : Bool
  since : Nat
  sqr : Nat
  txns : List Txn
  got : List (Nat × Bytes)
  acked : List Nat
  bad : List (Nat × BitVec 8)
  prog : Nat
  flags : Word
  slow : Nat
  order : Nat
  tracked : Option Bool
  deriving DecidableEq, Repr

/-- An accumulator entry: 128 bits and a status tag (R57, R60). -/
structure AccEntry where
  v : BitVec 128
  tag : BitVec 2
  deriving DecidableEq, Repr

/-- Errors held in the storage of an entry (R159, R168): bit errors of its two protected words, the bits flipped in
each of the three copies of its tag, and the tag bits of which not all copies can be read. -/
structure AccErrs where
  low : Nat
  high : Nat
  t1 : BitVec 2
  t2 : BitVec 2
  t3 : BitVec 2
  lost : BitVec 2
  deriving DecidableEq, Repr

/-- The accumulator sets of an easel: entries by set × 12288 + row × 128 + column, four anchor words, and the
errors in storage by entry. -/
structure AccSets where
  cells : SMap AccEntry
  anchors : SMap Word
  errs : SMap AccErrs
  deriving DecidableEq, Repr

/-- What an entry of the store buffer will do (R100, R253, R276). -/
inductive SbKind where
  | store | signal | syncset
  deriving DecidableEq, Repr

/-- A posted operation that its destination has not yet acknowledged (R100, R101). -/
structure SbEntry where
  kind : SbKind
  addr : Word
  size : Nat
  data : Word
  serial : Word
  pc : Word
  inst : Word
  ctx : CtxId
  tag : Option (BitVec 16)
  cls : BitVec 8
  deriving DecidableEq, Repr

/-- A sync object (R267): an easel object of a context, or a module-scope object. -/
inductive ObjId where
  | easel (c : CtxId) (e : EaselId) (i : Fin 512)
  | mod (i : Fin 32768)
  deriving DecidableEq, Repr

/-- What a core that issues nothing waits for. -/
inductive WaitFor where
  /-- A blocking load's data (R99). -/
  | load (rd : BitVec 5) (size : Nat) (signed : Bool) (tag : BitVec 16)
  /-- An ATOM's old value from a peer (R288). -/
  | atom (rd : BitVec 5) (tag : BitVec 16)
  /-- A remote SYNCRD (R283). -/
  | syncrd (rd : BitVec 5) (tag : BitVec 16)
  /-- A WAIT (R278): its object, whether an arrival was counted, ns of residence left. -/
  | sync (o : ObjId) (left : Option Nat)
  /-- FENCE with its mask (R258). -/
  | fence (mask : BitVec 5)
  /-- A core RELEASE (R253): kind, scope, target, value. -/
  | release (signal : Bool) (scope : BitVec 2) (target value : Word)
  /-- VARNISH (R235), SCRAPE (R239), each with the time at which its wait ended, and SKOCC (R227). -/
  | varnish (b : BitVec 3) (n : Word) (since : Option Nat)
  | scrape (mask : BitVec 8) (since : Option Nat)
  | skocc (rd : BitVec 5)
  /-- COLL handing its descriptor over (R363). -/
  | coll (uma : Word)
  /-- An SVC awaiting its answer (R107). -/
  | svc (service : BitVec 16)
  /-- A load that waits to be made: for a store to the same word, a transaction slot or a channel in retraining
  (R100, R150, R180). -/
  | loadRoom (rd : BitVec 5) (addr : Word) (size : Nat) (signed : Bool)
  /-- An ATOM that waits likewise (R289). -/
  | atomRoom (op : Nat) (rd : BitVec 5) (addr b c : Word)
  /-- A store that finds no room in the store buffer or no transaction slot (R100, R150). -/
  | storeRoom (addr data : Word) (size : Nat)
  /-- A SIGNAL or SYNCSET (`op` 0 or 2) that waits likewise (R276, R283). -/
  | postRoom (op : Nat) (name value : Word) (scope : BitVec 2)
  /-- A SYNCRD of a peer's object that waits for a transaction slot (R283). -/
  | syncrdRoom (rd : BitVec 5) (name : Word) (scope : BitVec 2)
  /-- An engine instruction whose queue is full (R111). -/
  | queueRoom (q : Engine) (entry : QEntry)
  /-- A WAIT that the full table of its I/O die has not taken (R280). -/
  | waitRoom (o : ObjId) (threshold : Nat) (consume : Bool) (left : Option Nat)
  /-- An SRVSAVE or SRVLOAD whose save area lies in a channel in retraining (R108, R180). -/
  | srvRoom (save : Bool) (addr : Word)
  deriving DecidableEq, Repr

/-- The instruction on which a core waits. -/
structure Blocked where
  what : WaitFor
  serial : Word
  pc : Word
  inst : Word
  deriving DecidableEq, Repr

/-- A ramp in progress: when it was triggered, its stagger and its length (R153, R462). -/
structure RampRun where
  start : Nat
  stagger : Nat
  len : Nat
  deriving DecidableEq, Repr

/-- The ramp governor of an easel (R153): when the ME fell idle, and the ramp in progress. -/
structure Ramp where
  idleSince : Option Nat
  run : Option RampRun
  deriving DecidableEq, Repr

/-- The cs_ registers of service mode (Table 3-2). -/
structure FaultCsr where
  epc : Word
  fclass : Word
  fserial : Word
  fpc : Word
  faddr : Word
  finst : Word
  deriving DecidableEq, Repr

/-- A line of a copy engine's prefetch buffer (R255): its context, first address and bytes. -/
structure Line where
  ctx : CtxId
  addr : Word
  bytes : Bytes
  deriving DecidableEq, Repr

/-- One easel: its core, engines, queues, accumulators and clock. -/
structure Easel where
  loaded : Option CtxId
  core : CoreRegs
  svcCore : CoreRegs
  service : Bool
  idled : Bool
  csCtx : BitVec 32
  csr : FaultCsr
  blocked : Option Blocked
  svcBlocked : Option Blocked
  exited : Bool
  stopped : Bool
  stopNs : Nat
  colHeld : Nat
  sb : List SbEntry
  me : List QEntry
  vu : List QEntry
  ce : List QEntry
  acc : AccSets
  ramp : Ramp
  flim : Nat
  prefetch : List Line
  clockMhz : Nat
  katPass : Bool
  katValid : Bool
  katFails : Nat
  katTime : Nat
  fenceClass : BitVec 8
  fenceValid : Bool
  deriving DecidableEq, Repr

/-! ### Memory and sketch data (chapters 5 and 7) -/

/-- A slot of a sketch pool (R221, R229): the partition and its place in that partition's pool, its tags, issue
order, granule, written bytes and mask.  Bit errors of its words are those of its place in Canvas. -/
structure SketchSlot where
  part : PartId
  place : Nat
  ctx : CtxId
  easel : EaselId
  branch : BitVec 3
  seq : BitVec 8
  order : Nat
  granule : Nat
  mask : BitVec 64
  bytes : Bytes
  deriving DecidableEq, Repr

/-- The three memories: bytes by local-map offset, bit errors per 64-bit word (R159), words whose next crossing
of an on-die path meets an uncorrectable codeword (R164, R185), and varnished slots not yet folded (R237),
oldest first. -/
structure Mem where
  cells : List Host.Cell
  ecc : SMap Nat
  path : List Nat
  unfolded : List SketchSlot
  deriving DecidableEq, Repr

/-- The sketch pools: unvarnished slots, slots waiting to be zeroed, and the sketch sequence by
context × 208 + easel (R225), and the number of engine instructions issued, which orders them (R232). -/
structure Sketch where
  slots : List SketchSlot
  toZero : List SketchSlot
  seqs : SMap (BitVec 8)
  issued : Nat
  deriving DecidableEq, Repr

/-- The state of the Canvas stacks and of LPDDR6 that is not data (R173–R194). -/
structure MemCtl where
  canvasReady : BitVec 2
  refresh2x : BitVec 2
  coolSince : SMap Nat
  sensorFail : BitVec 2
  trained : BitVec 2
  rate128 : Bool
  zeroed : BitVec 2
  chUp : BitVec 96
  chLost : SMap Nat
  pkgTemp : SMap Nat
  pkgHigh : BitVec 24
  pkgRate : SMap Nat
  scrubPos : SMap Nat
  regionCe : SMap Nat
  selfRefresh : Bool
  deriving DecidableEq, Repr

/-! ### Sync objects (chapter 9) and outstanding requests -/

/-- A pending WAIT (R278–R281). -/
structure Waiter where
  obj : ObjId
  easel : EaselId
  ctx : CtxId
  threshold : Nat
  consume : Bool
  gen : Option (BitVec 16)
  deriving DecidableEq, Repr

/-- A completed barrier generation awaiting its release time (R281). -/
structure BarrierRelease where
  obj : Fin 32768
  gen : BitVec 16
  time : Nat
  deriving DecidableEq, Repr

/-- The sync objects' state words, and the waiters in arrival order. -/
structure SyncUnit where
  easelObj : SMap Word
  modObj : SMap Word
  waiters : List Waiter
  releases : List BarrierRelease
  deriving DecidableEq, Repr

/-- Who issued a request that leaves the module (R285, R388). -/
inductive ReqBy where
  | core (e : EaselId)
  | storeBuf (e : EaselId)
  | copy (e : EaselId) (serial : Word) (idx : Nat)
  | glaze (slot : SlotId) (idx : Nat)
  | release (e : EaselId) (q : Engine) (serial : Word)
  | cmdFetch (fn : FnId)
  | hostCmd (fn : FnId) (seq : Nat)
  deriving DecidableEq, Repr

/-- An outstanding request to a peer or to the host: its deadline, none before its transmission (R285), the I/O die
it left by, and whether its data may stay as a prefetch line, which an ACQUIRE ends (R257). -/
structure Request where
  tag : BitVec 16
  by_ : ReqBy
  ctx : Option CtxId
  addr : Word
  host : Bool
  write : Bool
  deadline : Option Nat
  north : Bool
  fresh : Bool
  deriving DecidableEq, Repr

/-! ### Errair, routing, collectives, glaze (chapters 6, 10–12) -/

/-- A packet: the four header words (Table 10-3), the payload as carried, and the tag. -/
structure Pkt where
  w0 : Word
  w1 : Word
  w2 : Word
  w3 : Word
  body : Bytes
  tag : Bytes
  deriving DecidableEq, Repr

/-- A packet in the router: where it came from (none: injected here), the local request it carries, the flits
of its input port's buffer that it holds (R308), and the collective slot that sent it. -/
structure QPkt where
  pkt : Pkt
  inPort : Option PortId
  req : Option (BitVec 16)
  flits : Nat
  col : Option SlotId
  deriving DecidableEq, Repr

/-- A flit in the replay buffer (R303): its sequence number, its data and the packets that end in it. -/
structure SentFlit where
  seq : BitVec 12
  data : Bytes
  pkts : List QPkt
  deriving DecidableEq, Repr

/-- An Errair port (R302–R314).  State codes are those of Table 10-6; `lanes` are the lanes in use, or in
RETRAIN those to be trained.  Receiving: the expected sequence, the part of a packet received and its flits,
a nack due, credits to return.  Sending: the packets waiting, the packet in progress and its bytes left, the
flits of each VC that the partner holds, the replay buffer and the next flit to replay.  Arbitrating (R309, R348):
the VC of each of the last 1,023 flits (8 where it carried none), the flits of each VC in this round, and the credit of
each circuit in 1/64 flits.  Degrading: the window, its failing flits and corrected symbols, the lanes out of lock, a
decision taken. -/
structure Port where
  state : BitVec 3
  lanes : BitVec 8
  partnerFa : BitVec 10
  partnerPort : BitVec 4
  partnerValid : Bool
  eqNow : Word
  eqSaved : Option Word
  since : Nat
  txNext : BitVec 12
  replay : List SentFlit
  replayFrom : Option (BitVec 12)
  replays : Nat
  rxExpect : BitVec 12
  nackDue : Bool
  rxBytes : Bytes
  rxFlits : Nat
  credits : SMap Nat
  owed : SMap Nat
  txq : List QPkt
  txCur : Option QPkt
  txBytes : Bytes
  recent : List Nat
  round : SMap Nat
  circ : SMap Nat
  winStart : Nat
  winFails : Nat
  winSyms : SMap Nat
  lockLost : BitVec 8
  decided : Bool
  chipTrain : Bool
  stall : SMap Nat
  deriving DecidableEq, Repr

/-- The router (chapter 11): packets to route, packets delivered here, final transactions held with the
number of missing transactions and the arrival time (R249–R251), open streams by source × 65536 + tag with the I/O
die that tracks each (R250), the port whose loss broke a circuit (R351), and the congestion map under
construction. -/
structure Router where
  pos : BitVec 6
  inq : List QPkt
  localq : List QPkt
  held : List (QPkt × Nat × Nat)
  seen : SMap (Fin 2)
  broke : SMap PortId
  cmapNow : SMap Nat
  cmap : SMap (SMap Nat)
  cmapNewest : BitVec 6
  cmapValid : Bool
  cmapTime : Nat
  nextTag : BitVec 16
  deriving DecidableEq, Repr

/-- The fabric time counter (R321–R326).  `count` is in nanoseconds with `frac` millionths; `owed` is the
offset still to slew, in millionths of a nanosecond; `errQ` is the error bound and `offsetQ`
the last θ, in 0.25 ns, `delayQ` the last δ. -/
structure Ftc where
  count : Nat
  frac : Nat
  owed : Int
  synced : Bool
  everSynced : Bool
  roleAt : Option Nat
  exchAt : Nat
  holdover : Bool
  lostAt : Nat
  onAlt : Bool
  errQ : Nat
  offsetQ : Int
  delayQ : Int
  snapArmed : Bool
  deriving DecidableEq, Repr

/-- A collective slot (R363–R383): its issuer, descriptor and acceptance, its sequence number and signature,
the source as read, and the counts of an all-to-all, ranks owed a ready with the time last sent, ranks that granted, packets sent, parts
received (step × 1024 + rank, offset, data), counts received by rank, and the overflow indications. -/
structure ColSlot where
  easel : EaselId
  ctx : CtxId
  serial : Word
  pc : Word
  inst : Word
  desc : List Word
  running : Bool
  seq : Nat
  sig : BitVec 32
  acceptAt : Nat
  src : Bytes
  want : List Nat
  readies : List (Nat × Nat)
  grants : List Nat
  sent : List Nat
  parts : List (Nat × Nat × Bytes)
  counts : List (Nat × Nat)
  ovfLocal : Bool
  ovfAny : Bool
  deriving DecidableEq, Repr

/-- A ready packet held in the control table (R371). -/
structure HeldReady where
  src : BitVec 10
  digest : BitVec 32
  seq : BitVec 32
  sig : BitVec 32
  job : BitVec 16
  deriving DecidableEq, Repr

/-- Collectives: slots, held readies, and each group's next sequence number (R369). -/
structure Collectives where
  slots : SMap ColSlot
  held : List HeldReady
  seqs : SMap Nat
  deriving DecidableEq, Repr

/-- A glaze slot (R195–R218): its state (Table 6-3), the bind, descriptor and first entries, progress,
verified output not yet delivered with the lengths of its blocks, the entry in progress with its bytes as they were
read, the output of the last entry, and what has come back of a remote block. -/
structure GlazeSlot where
  state : BitVec 3
  easel : EaselId
  ctx : CtxId
  serial : Word
  pc : Word
  inst : Word
  desc : List Word
  ents : Bytes
  entriesDone : Nat
  blocksDone : Nat
  nextBlock : Nat
  elems : Bytes
  scales : Bytes
  lens : List Nat
  cur : Nat
  entry : Bytes
  curPos : Nat
  gated : Bool
  lastElems : Bytes
  lastScales : Bytes
  got : List (Nat × Bytes)
  deriving DecidableEq, Repr

/-- A GLZBIND on its way to its slot (R199). -/
structure GlazeBind where
  slot : SlotId
  uma : Word
  easel : EaselId
  ctx : CtxId
  serial : Word
  pc : Word
  inst : Word
  deriving DecidableEq, Repr

/-- The descriptor staging of an I/O die (R256): context, descriptor UMA, descriptor and first entries. -/
structure Staged where
  ctx : CtxId
  uma : Word
  north : Bool
  desc : List Word
  entries : Bytes
  deriving DecidableEq, Repr

/-- Glaze streams: the 64 slots, the binds waiting for them and the staging of both dies. -/
structure Glaze where
  slots : SMap GlazeSlot
  binds : List GlazeBind
  staging : List Staged
  deriving DecidableEq, Repr

/-! ### Registers (chapter 1) -/

/-- The commit state of one block instance (Table 1-9): the captured copy is held while busy. -/
structure BlkCommit where
  pend : Bool
  busy : Bool
  locked : Bool
  lockReq : Bool
  error : BitVec 8
  seq : BitVec 16
  captured : SMap Word
  deriving DecidableEq, Repr

/-- Register storage by BAR0 offset: active values, staged values written and not yet captured, commit
state per block instance, and the hold latches of R43 by requester and block. -/
structure Regs where
  act : SMap Word
  staged : SMap Word
  commit : SMap BlkCommit
  whold : SMap (Nat × BitVec 32)
  rhold : SMap (Nat × BitVec 32)
  deriving DecidableEq, Repr

/-! ### Host interface and events (chapter 13) -/

/-- A command fetched from a queue: its eight words and the head after its fetch (Tables 13-4, 13-5), and its place
among the commands its function has fetched. -/
structure HostCmd where
  words : List Word
  head : BitVec 17
  seq : Nat
  deriving DecidableEq, Repr

/-- A request of a function that waits behind an access whose channel retrains (R180, R261). -/
inductive HostReq where
  | bar2Read (off len : Nat)
  | bar2Write (off : Nat) (data : Bytes) (poisoned : Bool)
  | regRead (off size : Nat)
  | regWrite (off size : Nat) (data : Word) (poisoned : Bool)
  | cmdqTail (a : DbAccess)
  | cplqHead (a : DbAccess)
  | evrHead (a : DbAccess)
  deriving DecidableEq, Repr

/-- A command in progress (R397), and whether a reset of its function has taken its completion (R401). -/
structure RunCmd where
  cmd : HostCmd
  silent : Bool
  deriving DecidableEq, Repr

/-- The queues of one function (R397–R409); `cplWait` holds the completions that await room in the ring, as
their two words without the phase. -/
structure HifFn where
  base : Word
  size : Nat
  head : BitVec 17
  tail : BitVec 17
  running : Bool
  error : BitVec 8
  fetching : Option (BitVec 16 × Nat)
  waiting : List HostReq
  fetched : List HostCmd
  fetchSeq : Nat
  inProgress : List RunCmd
  cplWait : List (Word × Word)
  cplTail : BitVec 17
  cplHead : BitVec 17
  cplPhase : Bool
  cplError : BitVec 8
  evrTail : BitVec 17
  evrHead : BitVec 17
  evrPhase : Bool
  evrError : BitVec 8
  evrSeq : Nat
  evrLost : Bool
  msixMask : BitVec 3
  msixPend : BitVec 3
  relaxed : Bool
  maxPayload : Nat
  maxRead : Nat
  cfg : SMap (BitVec 32)
  deriving DecidableEq, Repr

/-- The host interface: functions, the link, whether the port is configured, and the logarithms of the sizes of BAR2 of
the PF and of the VFs (Table 13-1). -/
structure HostIf where
  fns : SMap HifFn
  link : LinkState
  perst : Bool
  vfEnable : Bool
  configured : Bool
  bar2Pf : Nat
  bar2Vf : Nat
  deriving DecidableEq, Repr

/-- A record of the event controller (R405). -/
structure EvRecord where
  src : BitVec 10
  count : BitVec 22
  payload : BitVec 32
  detail : List Word
  ftc : Nat
  deriving DecidableEq, Repr

/-- The event controller (R402–R406): mask and pending words are register state; counts and payloads by
source, the detail words of the latest raise, the record queue, accepted pin levels, and the conditions
kept per context for the sources of R569 (source × 128 + context, 64 for none). -/
structure EventCtl where
  count : SMap Nat
  payload : SMap (BitVec 32)
  detail : SMap (List Word)
  queue : List EvRecord
  level : BitVec 4
  perCtx : SMap (BitVec 32)
  perCtxDetail : SMap (List Word)
  deriving DecidableEq, Repr

/-! ### Contexts, keys, faults (chapters 14 and 16) -/

/-- A fault record (Table 16-1). -/
structure FaultRec where
  cls : BitVec 8
  ctx : Option CtxId
  precise : Bool
  easel : BitVec 8
  agent : BitVec 4
  unit : BitVec 6
  primary : Bool
  job : BitVec 16
  serial : Word
  pc : Word
  addr : Word
  inst : Word
  ftc : Nat
  number : BitVec 32
  peerFa : BitVec 10
  port : BitVec 4
  deriving DecidableEq, Repr

/-- A context's state of one easel while it is switched out (R425): `palette` by offset in the window, `palBad` the
words of it that are uncorrectable (R163). -/
structure Saved where
  core : CoreRegs
  csr : FaultCsr
  blocked : Option Blocked
  exited : Bool
  me : List QEntry
  vu : List QEntry
  ce : List QEntry
  acc : AccSets
  palette : List Host.Cell
  palBad : List Nat
  deriving DecidableEq, Repr

/-- A context (R412–R428).  `state` codes are those of Table 14-1; `quantum` in
microseconds, `ranFor` nanoseconds since it was loaded, `due` its quantum is over, `waitSince` the time since
which it waits for each partition, `held` it stays STOPPED (R442), `evidence` the nonces answered, `gessoAt` the
end of steps 1 and 2 of its gesso, `lastLoaded` the partitions on which it was last loaded. -/
structure Ctx where
  state : BitVec 3
  job : BitVec 16
  mask : BitVec 4
  fn : FnId
  conf : Bool
  prio : BitVec 3
  quantum : Nat
  ranFor : Nat
  waitSince : SMap Nat
  runnableAt : Nat
  due : Bool
  measurement : Bytes
  kem : Option (Bytes × Bytes)
  evidence : List Bytes
  gessoAt : Nat
  savePages : List Nat
  saved : SMap Saved
  held : Bool
  capPalettes : Bool
  capFirst : Nat
  capCount : Nat
  faults : List FaultRec
  dropped : Nat
  lastLoaded : BitVec 4
  deriving DecidableEq, Repr

/-- Owner of a 2 MiB page (R416). -/
inductive Owner where
  | free
  | firmware
  | zeroing
  | ctx (c : CtxId) (remote : Bool)
  deriving DecidableEq, Repr

/-- Contexts, the owner map (LPDDR6 pages, then Canvas pages at 393,216 upward) and the counters of
Table 14-12 by context × 16 + k. -/
structure Contexts where
  tab : SMap Ctx
  owner : SMap Owner
  perf : SMap Nat
  loaded : SMap CtxId
  deriving DecidableEq, Repr

/-- A job key entry (R315, R318, R439). -/
structure JobKey where
  id : BitVec 16
  key : Bytes
  job : BitVec 16
  nonce : Nat
  send : Bool
  deriving DecidableEq, Repr

/-- An SPDM session (R434). -/
structure SpdmSession where
  finished : Bool
  secret : Bytes
  updates : Nat
  deriving DecidableEq, Repr

/-- An IDE stream (R442). -/
structure IdeStream where
  vf : Option FnId
  key : Bytes
  on : Bool
  deriving DecidableEq, Repr

/-- Ihlel: keys, identity, sessions, streams and TDI states (0 unlocked, 1 locked, 2 run, 3 error). -/
structure Sec where
  ready : Bool
  udsLocked : Bool
  cdi1 : Bytes
  alias1 : Bytes
  alias2 : Bytes
  wkeys : SMap (CtxId × Bytes)
  jobKeys : SMap JobKey
  everHeld : List (BitVec 16)
  negotiated : SMap Bool
  versioned : SMap Bool
  sessions : SMap SpdmSession
  ide : SMap IdeStream
  tdi : SMap (BitVec 2)
  drbgNext : Nat
  xtsKeys : SMap Bytes
  deriving DecidableEq, Repr

/-- A capture (R492–R496): its header fields, and whether it is still being written.  Its bytes lie in memory
at `offset`. -/
structure Capture where
  id : BitVec 16
  level : BitVec 3
  incomplete : Bool
  palettes : Bool
  fallback : Bool
  dropped : Bool
  damaged : Bool
  trigger : BitVec 8
  ftcStart : Nat
  ftcEnd : Nat
  contexts : Word
  easel : BitVec 8
  parts : BitVec 4
  records : Nat
  offset : Nat
  bytes : Nat
  isOpen : Bool
  deriving DecidableEq, Repr

/-- A recovery in progress (R497, R506) and the commands that complete when it ends. -/
structure Recovery where
  unit : RecUnit
  trigger : BitVec 8
  start : Nat
  cmds : List (FnId × Nat)
  deriving DecidableEq, Repr

/-- Faults with no context, captures and recoveries. -/
structure Faults where
  noCtx : List FaultRec
  noCtxSeq : Nat
  captures : List Capture
  nextId : BitVec 16
  recoveries : List Recovery
  engHistory : List (Nat × Nat)
  powerCycle : Bool
  deriving DecidableEq, Repr

/-! ### Power, thermal, supervisors (chapter 15) -/

/-- One sample of a loop window: P (0.1 W), P_me (0.1 W), and the applied F of the easels whose matrix engine
worked, as their sum and their number (R457). -/
structure PSample where
  p : Nat
  me : Nat
  f : Nat
  busy : Nat
  deriving DecidableEq, Repr

/-- A throttle log entry (R461). -/
structure TLog where
  start : Nat
  duration : Nat
  fMin : Nat
  cause : BitVec 8
  deriving DecidableEq, Repr

/-- Power measurement, limits and protective responses (R452–R466): estimate and ME part in 0.1 W, windows of
samples with the newest first, energy in nanojoules. -/
structure Power where
  est : Nat
  me : Nat
  gain : Nat
  estWin : List PSample
  measWin : List PSample
  estMean : List Nat
  vinMv : Nat
  iin10ma : Nat
  energy : Nat
  fFast : Nat
  fShort : Nat
  fSust : Nat
  fFastRaise : Nat
  target : Nat
  limLowAt : Option Nat
  hotAt : Option Nat
  thrOpen : Bool
  thrStart : Nat
  thrMin : Nat
  thrCause : BitVec 8
  thrLast : Nat
  tlog : List TLog
  tlogNewest : BitVec 6
  pinWarn : Bool
  uvWarn : Bool
  leakPins : BitVec 2
  leakPinEnd : SMap Nat
  leakWet : Bool
  droop : BitVec 2
  idle : BitVec 2
  quietSince : Option Nat
  deriving DecidableEq, Repr

/-- A junction or Canvas sensor with its zone (R467–R469); the model temperature is in millionths. -/
structure Sensor where
  reading : Int
  failed : Bool
  below : Nat
  model : Int
  fthm : Nat
  deriving DecidableEq, Repr

/-- Thermal state and leak sensing (R467–R473). -/
structure Thermal where
  junction : SMap Sensor
  canvas : SMap Sensor
  inlet : Int
  outlet : Int
  inletBad : Bool
  fallback : Bool
  tripped : Bool
  reported : SMap LeakCode
  candidate : SMap LeakCode
  seen : SMap Nat
  deriving DecidableEq, Repr

/-- One package supervisor (R474–R479). -/
structure Sup where
  started : Bool
  synced : Bool
  suspect : Bool
  scFail : Bool
  writing : Bool
  swapError : BitVec 8
  matches_ : Nat
  restartAt : Option Nat
  lastSwitch : Nat
  deriving DecidableEq, Repr

/-- The supervisor pair: the lease and the comparator. -/
structure Sups where
  s0 : Sup
  s1 : Sup
  holder : Option (Fin 2)
  renewed : Nat
  diverge : Nat
  swapPending : Bool
  sets : Nat
  deriving DecidableEq, Repr

/-! ### Bring-up, update, tray interface (chapters 17 and 18) -/

/-- One copy of the settings record (R530). -/
structure Settings where
  numbering : Bool
  policy : Bool
  lp144 : Bool
  version : BitVec 16
  seq : Nat
  valid : Bool
  deriving DecidableEq, Repr

/-- Bring-up state (R513–R531). -/
structure Bru where
  phase : BitVec 4
  ready : Bool
  error : BitVec 8
  failUnit : BitVec 8
  bootSlot : BitVec 1
  trialBoot : Bool
  rec0 : Settings
  rec1 : Settings
  defaulted : Bool
  numbering : Bool
  policy : Bool
  enabled : List EaselId
  fused : List EaselId
  field : List EaselId
  fenced : List EaselId
  logmap : List EaselId
  porAt : Nat
  bootNs : Nat
  repair : SMap (BitVec 2)
  released : Bool
  deriving DecidableEq, Repr

/-- A firmware slot (R517–R521): state, trial flag, failure count, header and body. -/
structure FwSlot where
  state : BitVec 3
  trialUsed : Bool
  failCount : BitVec 2
  header : Bytes
  body : Bytes
  deriving DecidableEq, Repr

/-- An update session (R535). -/
structure UpdSession where
  id : BitVec 32
  slot : BitVec 1
  bodyLen : Nat
  last : Nat
  deriving DecidableEq, Repr

/-- Firmware update and activation (R533–R544). -/
structure Fwu where
  slot0 : FwSlot
  slot1 : FwSlot
  session : Option UpdSession
  lastSlot : BitVec 1
  received : Nat
  error : BitVec 8
  step : BitVec 3
  actError : BitVec 8
  actSlot : BitVec 1
  deadline : Nat
  paused : Bool
  ucodePending : BitVec 4
  runIhlel : BitVec 1
  runRuntime : BitVec 1
  runSup0 : BitVec 1
  runSup1 : BitVec 1
  runUcode : BitVec 4
  cpSet : Bool
  floorR : BitVec 16
  floorI : BitVec 16
  supStage : Nat
  deriving DecidableEq, Repr

/-- One telemetry record (Table 18-7). -/
structure Telem where
  ftc : Nat
  power : Word
  temps : Word
  fMin : Nat
  throttled : Bool
  flags : BitVec 8
  deriving DecidableEq, Repr

/-- The tray-facing interface (R559–R568); `unacked` counts the records not yet acknowledged, `window` the 100 ms
intervals ended, `fMin` and `throttled` follow the present interval. -/
structure Tray where
  dynAddr : Option (BitVec 7)
  telem : SMap Telem
  newest : BitVec 6
  valid : Bool
  unacked : Nat
  window : Nat
  fMin : Nat
  throttled : Bool
  hours : Nat
  boots : Nat
  refclkMissing : Bool
  pcRequest : Bool
  deriving DecidableEq, Repr

/-- Board pins and supplies (Table 18-4, R551–R558). -/
structure Pins where
  powered : Bool
  refclk : Bool
  fault : Bool
  thermtrip : Bool
  leakOut : Bool
  present : Bool
  computeOn : Bool
  variant1800 : Bool
  deriving DecidableEq, Repr

/-- What the module sends out, newest last: the record of its effects on the host, the fabric, the
service port, the tray controller and register readers. -/
inductive Out where
  | hostWrite (addr : Word) (data : Bytes) (relaxed : Bool)
  | hostRead (tag : BitVec 16) (addr : Word) (len : Nat)
  | msix (fn : FnId) (vector : Fin 3)
  | flit (port : PortId) (f : Flit)
  | readDone (r : Requester) (data : Word)
  | unsupported
  | bar2Data (fn : FnId) (data : Bytes)
  | completerAbort (fn : FnId)
  | cfgRetry (fn : FnId)
  | cfgData (fn : FnId) (data : BitVec 32)
  | cfgFound (fn : FnId) (present : Bool)
  | spdm (t : Transport) (code : BitVec 8) (body : Bytes)
  | service (dst : Word) (typ : BitVec 8) (session : BitVec 32) (body : Bytes)
  | ipv6 (body : Bytes)
  | i3c (data : Word)
  | i3cIbi
  | cpInterrupt
  deriving DecidableEq, Repr

/-- The hardware: everything but the queue of waiting commands.  `now` counts nanoseconds, `free` the
free values used (`Config.freeValue`). -/
structure Hw where
  now : Nat
  free : Nat
  regs : Regs
  easels : SMap Easel
  mem : Mem
  sk : Sketch
  memctl : MemCtl
  sync : SyncUnit
  reqs : List Request
  glz : Glaze
  ports : SMap Port
  rte : Router
  ftc : Ftc
  col : Collectives
  hif : HostIf
  evc : EventCtl
  ctxs : Contexts
  sec : Sec
  flt : Faults
  pwr : Power
  thm : Thermal
  sup : Sups
  bru : Bru
  fwu : Fwu
  tray : Tray
  pins : Pins
  out : List Out
  deriving DecidableEq, Repr

/-- The state of the block: the hardware and the commands waiting, first in, first out. -/
structure State where
  hw : Hw
  pending : List Instr
  deriving DecidableEq, Repr

/-! ### Reset values -/

/-- Table 3-1 at context creation; the cycle count starts at 0 (Table 3-2). -/
def CoreRegs.init : CoreRegs :=
  { pc := 0, s := [], p := 1, td := [], sbm := 0, sketch := false, arith := 0, scratch := [],
    serial := 0, mcycles := 0 }

/-- No entry, no anchor word: entries zero and finite. -/
def AccSets.init : AccSets := { cells := [], anchors := [], errs := [] }

def AccEntry.zero : AccEntry := { v := 0, tag := 0 }

def FaultCsr.init : FaultCsr :=
  { epc := 0, fclass := 0, fserial := 0, fpc := 0, faddr := 0, finst := 0 }

/-- An easel after reset: service mode (Table 3-3), idle, no context, F = 64, no clock yet (Table 3-13). -/
def Easel.init : Easel :=
  { loaded := none, core := CoreRegs.init, svcCore := CoreRegs.init, service := true, idled := true,
    csCtx := 0, csr := FaultCsr.init, blocked := none, svcBlocked := none, exited := false, stopped := false, stopNs := 0,
    colHeld := 0, sb := [],
    me := [], vu := [], ce := [], acc := AccSets.init, ramp := { idleSince := some 0, run := none },
    flim := 64, prefetch := [], clockMhz := 0, katPass := false, katValid := false,
    katFails := 0, katTime := 0, fenceClass := 0, fenceValid := false }

/-- A port after power-on: OFF, nothing received or sent; no flit held by the partner. -/
def Port.init : Port :=
  { state := 0, lanes := 0, partnerFa := 0, partnerPort := 0, partnerValid := false, eqNow := 0,
    eqSaved := none, since := 0, txNext := 0, replay := [], replayFrom := none, replays := 0,
    rxExpect := 0, nackDue := false, rxBytes := [], rxFlits := 0, credits := [], owed := [], txq := [],
    txCur := none, txBytes := [], recent := [], round := [], circ := [], winStart := 0, winFails := 0, winSyms := [], lockLost := 0,
    decided := false, chipTrain := false, stall := [] }

def GlazeSlot.init : GlazeSlot :=
  { state := 0, easel := 0, ctx := 0, serial := 0, pc := 0, inst := 0, desc := [], ents := [],
    entriesDone := 0, blocksDone := 0, nextBlock := 0, elems := [], scales := [], lens := [], cur := 0, entry := [],
    curPos := 0, gated := false, lastElems := [], lastScales := [], got := [] }

def BlkCommit.init : BlkCommit :=
  { pend := false, busy := false, locked := false, lockReq := false, error := 0, seq := 0,
    captured := [] }

/-- A function's queues after reset (Table 13-10); phases start at 1. -/
def HifFn.init : HifFn :=
  { base := 0, size := 0, head := 0, tail := 0, running := false, error := 0, fetching := none,
    waiting := [], fetched := [], fetchSeq := 0, inProgress := [], cplWait := [], cplTail := 0, cplHead := 0, cplPhase := true, cplError := 0,
    evrTail := 0, evrHead := 0, evrPhase := true, evrError := 0, evrSeq := 0, evrLost := false,
    msixMask := 7, msixPend := 0, relaxed := false, maxPayload := 128, maxRead := 512, cfg := [] }

def Ctx.init : Ctx :=
  { state := 0, job := 0, mask := 0, fn := 0, conf := false, prio := 0, quantum := 0, ranFor := 0,
    waitSince := [], runnableAt := 0, due := false, measurement := [], kem := none,
    evidence := [], gessoAt := 0, savePages := [], saved := [], held := false, capPalettes := true,
    capFirst := 0, capCount := 0, faults := [], dropped := 0, lastLoaded := 0 }

/-- A sensor before its first reading; F_thm = 64 (Table 15-7). -/
def Sensor.init : Sensor := { reading := 0, failed := false, below := 0, model := 0, fthm := 64 }

def Sup.init : Sup :=
  { started := false, synced := false, suspect := false, scFail := false, writing := false,
    swapError := 0, matches_ := 0, restartAt := none, lastSwitch := 0 }

/-- The defaults of Table 17-7. -/
def Settings.default (seq : Nat) (valid : Bool) : Settings :=
  { numbering := false, policy := true, lp144 := true, version := 0, seq := seq, valid := valid }

def FwSlot.init : FwSlot :=
  { state := 0, trialUsed := false, failCount := 0, header := [], body := [] }

/-- The hardware at the release of power-on reset (time 0 of R513): phase 0, FAULT# asserted (Table 18-4),
memory listing nothing.  What is fused, strapped or stored per module is named in assumption 3. -/
def Hw.reset : Hw :=
  { now := 0
    free := 0
    regs := { act := [], staged := [], commit := [], whold := [], rhold := [] }
    easels := []
    mem := { cells := [], ecc := [], path := [], unfolded := [] }
    sk := { slots := [], toZero := [], seqs := [], issued := 0 }
    memctl := { canvasReady := 0, refresh2x := 0, coolSince := [], sensorFail := 0, trained := 0,
                rate128 := false, zeroed := 0, chUp := 0, chLost := [], pkgTemp := [], pkgHigh := 0, pkgRate := [],
                scrubPos := [], regionCe := [], selfRefresh := false }
    sync := { easelObj := [], modObj := [], waiters := [], releases := [] }
    reqs := []
    glz := { slots := [], binds := [], staging := [] }
    ports := []
    rte := { pos := 0, inq := [], localq := [], held := [], seen := [], broke := [], cmapNow := [], cmap := [],
             cmapNewest := 0, cmapValid := false, cmapTime := 0, nextTag := 0 }
    ftc := { count := 0, frac := 0, owed := 0, synced := false, everSynced := false, roleAt := none,
             exchAt := 0, holdover := false, lostAt := 0, onAlt := false, errQ := 262140,
             offsetQ := 0, delayQ := 0, snapArmed := false }
    col := { slots := [], held := [], seqs := [] }
    hif := { fns := [], link := { pm := .down, gen := 0, width := 0, flit := false }, perst := false,
             vfEnable := false, configured := false, bar2Pf := 30, bar2Vf := 30 }
    evc := { count := [], payload := [], detail := [], queue := [], level := 0, perCtx := [],
             perCtxDetail := [] }
    ctxs := { tab := [], owner := [], perf := [], loaded := [] }
    sec := { ready := false, udsLocked := false, cdi1 := [], alias1 := [], alias2 := [], wkeys := [],
             jobKeys := [], everHeld := [], negotiated := [], versioned := [], sessions := [], ide := [],
             tdi := [], drbgNext := 0, xtsKeys := [] }
    flt := { noCtx := [], noCtxSeq := 0, captures := [], nextId := 1, recoveries := [],
             engHistory := [], powerCycle := false }
    pwr := { est := 0, me := 0, gain := 16384, estWin := [], measWin := [], estMean := [], vinMv := 0,
             iin10ma := 0, energy := 0, fFast := 64, fShort := 64, fSust := 64, fFastRaise := 0,
             target := 2100, limLowAt := none, hotAt := none, thrOpen := false, thrStart := 0, thrMin := 64, thrCause := 0, thrLast := 0,
             tlog := [], tlogNewest := 0, pinWarn := false, uvWarn := false, leakPins := 0,
             leakPinEnd := [], leakWet := false, droop := 0,
             idle := 0, quietSince := none }
    thm := { junction := [], canvas := [], inlet := 0, outlet := 0, inletBad := false,
             fallback := false, tripped := false, reported := [], candidate := [], seen := [] }
    sup := { s0 := Sup.init, s1 := Sup.init, holder := none, renewed := 0, diverge := 0,
             swapPending := false, sets := 0 }
    bru := { phase := 0, ready := false, error := 0, failUnit := 0, bootSlot := 0, trialBoot := false,
             rec0 := Settings.default 0 true, rec1 := Settings.default 0 false, defaulted := false,
             numbering := false, policy := false, enabled := [], fused := [], field := [], fenced := [],
             logmap := [], porAt := 0, bootNs := 0, repair := [], released := true }
    fwu := { slot0 := { FwSlot.init with state := 3, header := Config.factoryHeader, body := Config.factoryBody }, slot1 := FwSlot.init, session := none, lastSlot := 0, received := 0,
             error := 0, step := 0, actError := 0, actSlot := 0, deadline := 0,
             paused := false, ucodePending := 0, runIhlel := 0, runRuntime := 0, runSup0 := 0,
             runSup1 := 0, runUcode := 0, cpSet := false, floorR := 0, floorI := 0, supStage := 0 }
    tray := { dynAddr := none, telem := [], newest := 0, valid := false, unacked := 0, window := 0, fMin := 64, throttled := false,
              hours := 0, boots := 0, refclkMissing := false, pcRequest := false }
    pins := { powered := true, refclk := true, fault := true, thermtrip := false, leakOut := false,
              present := true, computeOn := false, variant1800 := false }
    out := [] }

/-- The block right after reset, with no command waiting. -/
def State.reset : State := { hw := Hw.reset, pending := [] }

end Sys2Proof.Machine
end

