-- ==== Sys2Proof/Machine/Sparse.lean ====
section
/-! DEFINITION. Sparse tables: reading, writing, erasing, and the canonical form of memory. -/

namespace Sys2Proof.Machine

/-- What the table holds at key `k`, `d` where it lists nothing. -/
def SMap.get {α : Type} (d : α) : SMap α → Nat → α
  | [], _ => d
  | (j, v) :: m, k => if j = k then v else SMap.get d m k

/-- What the table lists at key `k`. -/
def SMap.find {α : Type} : SMap α → Nat → Option α
  | [], _ => none
  | (j, v) :: m, k => if j = k then some v else SMap.find m k

/-- Removes every entry of key `k`. -/
def SMap.del {α : Type} (m : SMap α) (k : Nat) : SMap α := m.filter (fun c => c.1 != k)

/-- Lists `v` at key `k`, keeping keys rising. -/
def SMap.put {α : Type} : SMap α → Nat → α → SMap α
  | [], k, v => [(k, v)]
  | (j, w) :: m, k, v =>
    if j = k then (k, v) :: m
    else if k < j then (k, v) :: (j, w) :: m
    else (j, w) :: SMap.put m k v

/-- Writes `v` at key `k`; a value equal to the default `d` is not listed. -/
def SMap.set {α : Type} [DecidableEq α] (d : α) (m : SMap α) (k : Nat) (v : α) : SMap α :=
  if v = d then SMap.del m k else SMap.put m k v

/-- Removes the entries of the keys from `a` up to and not including `b`. -/
def SMap.eraseRange {α : Type} (m : SMap α) (a b : Nat) : SMap α :=
  m.filter (fun c => c.1 < a || b ≤ c.1)

/-- The entries whose keys lie in a range. -/
def SMap.range {α : Type} (m : SMap α) (a b : Nat) : SMap α :=
  m.filter (fun c => a ≤ c.1 && c.1 < b)

/-- Keys strictly rising. -/
def SMap.sorted {α : Type} : SMap α → Bool
  | [] => true
  | [_] => true
  | (j, _) :: (k, v) :: m => j < k && SMap.sorted ((k, v) :: m)

/-- The canonical form: keys strictly rising and no entry equal to the default. -/
def SMap.wf {α : Type} [DecidableEq α] (d : α) (m : SMap α) : Bool :=
  SMap.sorted m && m.all (fun c => c.2 != d)

/-- Changes what key `k` holds. -/
def SMap.update {α : Type} (d : α) (m : SMap α) (k : Nat) (f : α → α) : SMap α :=
  SMap.put m k (f (SMap.get d m k))

end Sys2Proof.Machine
end

