-- ==== Sys2Proof/Machine/RegMap.lean ====
section
/-! DEFINITION. The BAR0 register map: block instances (Table 13-3), block type codes (Table 0-8), and
for each register its fields as masks (the register tables of chapters 3, 5–7, 9–18). -/

namespace Sys2Proof.Machine

/-- Base offset of a block instance (Table 13-3). -/
def blkBase : BlockId → Nat
  | .hif i => i.val * 0x1000
  | .evc => 0x40000
  | .ctx => 0x50000
  | .sec => 0x60000
  | .pwr => 0x70000
  | .thm => 0x80000
  | .sup i => 0x90000 + i.val * 0x8000
  | .bru => 0xA0000
  | .fwu => 0xB0000
  | .tray => 0xC0000
  | .ftc => 0xD0000
  | .cnv i => 0xE0000 + i.val * 0x8000
  | .lpm i => 0xF0000 + i.val * 0x8000
  | .glz i => 0x100000 + i.val * 0x10000
  | .skt i => 0x120000 + i.val * 0x10000
  | .col => 0x160000
  | .err i => 0x180000 + i.val * 0x1000
  | .syn i => 0x200000 + i.val * 0x80000
  | .rte => 0x400000
  | .easel i => 0x1000000 + i.val * 0x10000

/-- Block type code and instance number (Tables 0-8 and 1-8). -/
def blkType : BlockId → Nat × Nat
  | .easel i => (0x01, i.val)
  | .cnv i => (0x02, i.val)
  | .lpm i => (0x03, i.val)
  | .glz i => (0x04, i.val)
  | .skt i => (0x05, i.val)
  | .syn i => (0x06, i.val)
  | .err i => (0x07, i.val)
  | .ftc => (0x08, 0)
  | .rte => (0x09, 0)
  | .col => (0x0A, 0)
  | .hif i => (0x0B, i.val)
  | .evc => (0x0C, 0)
  | .ctx => (0x0D, 0)
  | .sec => (0x0E, 0)
  | .pwr => (0x0F, 0)
  | .thm => (0x10, 0)
  | .sup i => (0x11, i.val)
  | .bru => (0x12, 0)
  | .fwu => (0x13, 0)
  | .tray => (0x14, 0)

/-- BLOCK_ID (Table 1-8): major 1, minor 0. -/
def blockIdWord (b : BlockId) : Word :=
  put (blkType b).1 0 16 ||| put 1 16 8 ||| put (blkType b).2 32 16

/-- The block instance that holds a BAR0 offset, and the offset within it (R391). -/
def blockOf (off : Nat) : Option (BlockId × Nat) :=
  if off < 0x40000 then some (.hif (Fin.ofNat 64 (off / 0x1000)), off % 0x1000)
  else if off < 0x50000 then some (.evc, off - 0x40000)
  else if off < 0x60000 then some (.ctx, off - 0x50000)
  else if off < 0x70000 then some (.sec, off - 0x60000)
  else if off < 0x80000 then some (.pwr, off - 0x70000)
  else if off < 0x90000 then some (.thm, off - 0x80000)
  else if off < 0xA0000 then some (.sup (Fin.ofNat 2 ((off - 0x90000) / 0x8000)), off % 0x8000)
  else if off < 0xB0000 then some (.bru, off - 0xA0000)
  else if off < 0xC0000 then some (.fwu, off - 0xB0000)
  else if off < 0xD0000 then some (.tray, off - 0xC0000)
  else if off < 0xE0000 then some (.ftc, off - 0xD0000)
  else if off < 0xF0000 then some (.cnv (Fin.ofNat 2 ((off - 0xE0000) / 0x8000)), off % 0x8000)
  else if off < 0x100000 then some (.lpm (Fin.ofNat 2 ((off - 0xF0000) / 0x8000)), off % 0x8000)
  else if off < 0x120000 then some (.glz (Fin.ofNat 2 ((off - 0x100000) / 0x10000)), off % 0x10000)
  else if off < 0x160000 then some (.skt (Fin.ofNat 4 ((off - 0x120000) / 0x10000)), off % 0x10000)
  else if off < 0x180000 then some (.col, off - 0x160000)
  else if off < 0x18C000 then some (.err (Fin.ofNat 12 ((off - 0x180000) / 0x1000)), off % 0x1000)
  else if off < 0x200000 then none
  else if off < 0x300000 then some (.syn (Fin.ofNat 2 ((off - 0x200000) / 0x80000)), off % 0x80000)
  else if off < 0x400000 then none
  else if off < 0x600000 then some (.rte, off - 0x400000)
  else if off < 0x1000000 then none
  else if off < 0x1D00000 then some (.easel (Fin.ofNat 208 ((off - 0x1000000) / 0x10000)), off % 0x10000)
  else none

/-- What a register word is: plain read-write bits, staged bits, bits cleared by writing 1, whether it is
a counter that any write sets to 0 (R193), whether it survives chip-level reset, whether only the PF may
write it, whether lock protects it (R40), its reset value. -/
structure RegInfo where
  rw : Word
  staged : Word
  w1c : Word
  counter : Bool
  rs : Bool
  pfOnly : Bool
  rwl : Bool
  reset : Word
  deriving DecidableEq, Repr

/-- A register that reads as its table says and ignores writes. -/
def RegInfo.ro : RegInfo :=
  { rw := 0, staged := 0, w1c := 0, counter := false, rs := false, pfOnly := false,
    rwl := false, reset := 0 }

def RegInfo.plain (rw reset : Word) : RegInfo := { RegInfo.ro with rw := rw, reset := reset }

def RegInfo.stg (staged reset : Word) : RegInfo := { RegInfo.ro with staged := staged, reset := reset }

def RegInfo.stgRs (staged reset : Word) : RegInfo :=
  { RegInfo.ro with staged := staged, reset := reset, rs := true }

def RegInfo.ctr : RegInfo := { RegInfo.ro with counter := true, rs := true }

/-- A log whose bit 63 is `valid`, cleared by writing 1 (R193). -/
def RegInfo.log : RegInfo := { RegInfo.ro with w1c := 0x8000000000000000 }

/-- `off` lies in an array of `n` words at `base` with a stride. -/
def inArr (off base stride n : Nat) : Bool :=
  base ≤ off && off < base + stride * n && (off - base) % stride == 0

def hifInfo (off : Nat) : RegInfo :=
  if off = 0x18 then .plain 0xFFFFFFFFFFFFFFFF 0
  else if off = 0x20 then .plain 0x3FFFF 0
  else if off = 0x30 ∨ off = 0x48 then .stg 0xFFFFFFFFFFFFFFFF 0
  else if off = 0x38 ∨ off = 0x50 then .stg 0x3FFFF 0
  else if off = 0x60 then { RegInfo.plain 0xFFFFFFF 0xFFFFFFF with pfOnly := true }
  else if off = 0x68 then { RegInfo.plain 0xFFFFFFF 0 with pfOnly := true }
  else if off = 0x70 ∨ off = 0x78 ∨ off = 0x80 then .ctr
  else .ro

def evcInfo (off : Nat) : RegInfo :=
  if inArr off 0x100 8 16 then .plain 0xFFFFFFFFFFFFFFFF 0xFFFFFFFFFFFFFFFF
  else if inArr off 0x200 8 16 then .plain 0xFFFFFFFFFFFFFFFF 0
  else if off = 0x300 ∨ off = 0x318 then .stg 0xFFFF 8
  else if off = 0x308 ∨ off = 0x310 then .stg 0xFFFF 25000
  else .ro

/-- `v1800`: the variant's power limit is the reset value of the two caps (Table 15-11). -/
def pwrInfo (v1800 : Bool) (off : Nat) : RegInfo :=
  if off = 0x18 ∨ off = 0x20 then .plain 0xFFF (if v1800 then 1800 else 2400)
  else if off = 0x28 then .stg 1 0
  else if off = 0x30 then .stg 0xFFFFFF 0x140FA0
  else if off = 0x38 then .stg 0xFFFFFFFF 0xABE00064
  else if off = 0x40 then .stg 0xFF 40
  else if off = 0x48 then .plain 0xFFFFFFFF 0
  else if off = 0x50 then .stg 0xFFFFFF 1000
  else if off = 0x78 ∨ off = 0x80 ∨ off = 0x88 then .ctr
  else .ro

def errInfo (off : Nat) : RegInfo :=
  if off = 0x18 then .stgRs 0x1FF 0x1FF
  else if off = 0x20 then .stgRs 7 4
  else if off = 0x28 then .stg 0xFFFFF 0x22444
  else if off = 0x30 then .stg 0xFFFF 256
  else if off = 0x38 then .plain 0xC 4
  else if inArr off 0x40 8 9 ∨ inArr off 0x100 8 8 then .ctr
  else if off = 0x88 then .log
  else .ro

def rteInfo (off : Nat) : RegInfo :=
  if off = 0x10 then .stgRs 0x3C0 0
  else if off = 0x18 then .stgRs 7 0
  else if inArr off 0x28 8 6 then .ctr
  else if off = 0x58 then .log
  else if inArr off 0x1000 8 512 then .stgRs 0xFFFFFFFFFFFFFFFF 0
  else if inArr off 0x8008 8 4095 then .stg 0xFFFFFFFFFFFFFFFF 0
  else .ro

def colInfo (off : Nat) : RegInfo :=
  if inArr off 0x18 8 5 then .ctr
  else if off = 0x40 then .log
  else if inArr off 0x100 8 64 then .stg 0x103FF1FFF 0
  else if inArr off 0x10000 8 2048 then .stg 0xFFFFFFFFFFFFFFFF 0
  else .ro

def sktInfo (off : Nat) : RegInfo :=
  if off = 0x10 then .stg 1 0
  else if inArr off 0x100 8 64 then .stg 0x7FFFFF 0
  else if inArr off 0x600 16 64 then .stg 0xFFFFFFFFFFFF 0
  else if inArr off 0x608 16 64 then .stg 0xBF7FFFFF 0
  else .ro

/-- The register at an inner offset of a block. -/
def regInfo (v1800 : Bool) : BlockId → Nat → RegInfo
  | .hif _, off => hifInfo off
  | .evc, off => evcInfo off
  | .ctx, _ => .ro
  | .sec, off => if off = 0x40 then .ctr else .ro
  | .pwr, off => pwrInfo v1800 off
  | .thm, off =>
    if off = 0x18 then .stg 0x7F 95
    else if off = 0x30 then { RegInfo.log with rs := true } else .ro
  | .sup _, off => if off = 0x28 ∨ off = 0x30 then .ctr else .ro
  | .bru, off =>
    if off = 0x28 then .stg 7 6
    else if inArr off 0x400 8 32 then .stg 0x8000FFFFFFFFFFFF 0 else .ro
  | .fwu, off => if off = 0x38 then { RegInfo.stg 3 3 with rwl := true } else .ro
  | .tray, off =>
    if off = 0x18 then { RegInfo.plain 0x1FFF 0 with rs := true }
    else if off = 0x38 then .plain 0x3F 0
    else if off = 0x30 ∨ off = 0x40 then .ctr
    else if off = 0x90 then { RegInfo.log with rs := true }
    else .ro
  | .ftc, off =>
    if off = 0x18 then .stg 0x3FF07FF 0xA0000
    else if off = 0x30 then .plain 0xFFFFFFFFFFFFFFFF 0
    else if off = 0x38 then .plain 0xFFFFFFFFFFFF 0
    else if off = 0x40 then .plain 0xFFFF 0
    else if off = 0x48 then { RegInfo.ro with w1c := 6 }
    else .ro
  | .cnv _, off =>
    if off = 0x18 then .stg 0x1F 4
    else if inArr off 0x20 8 4 then .ctr
    else if off = 0x40 then .log
    else if off = 0x50 then .plain 0xFFFF 16
    else .ro
  | .lpm _, off =>
    if off = 0x20 then .stgRs 1 1
    else if off = 0x28 then .stg 0x7F 24
    else if off = 0x30 ∨ off = 0x38 ∨ off = 0x50 then .ctr
    else if off = 0x40 then .log
    else if off = 0x48 then .plain 0xFFFF 16
    else .ro
  | .glz _, off =>
    if off = 0x10 then .stg 0xFFF 0
    else if off = 0x18 ∨ off = 0x20 then .ctr
    else if off = 0x38 then .log
    else if inArr off 0x100 8 32 then .plain 0x7F 0
    else .ro
  | .skt _, off => sktInfo off
  | .col, off => colInfo off
  | .err _, off => errInfo off
  | .syn _, off =>
    if off = 0x10 then .stg 0x3FFF 2000
    else if inArr off 0x18 8 4 then .ctr
    else if inArr off 0x100 8 64 then .stg 0xFFFF7FFF 0
    else .ro
  | .rte, off => rteInfo off
  | .easel _, off => if inArr off 0x38 8 3 then .ctr else .ro

/-- What the register at a BAR0 offset is. -/
def regAt (v1800 : Bool) (off : Nat) : RegInfo :=
  match blockOf off with
  | some (b, o) => regInfo v1800 b o
  | none => .ro

/-- Reset value of the register at a BAR0 offset. -/
def regReset (v1800 : Bool) (off : Nat) : Word := (regAt v1800 off).reset

end Sys2Proof.Machine
end

