-- ==== Sys2Proof/Machine/Mem.lean ====
section
/-! DEFINITION. The three memories: byte reads and writes by local-map offset (R27), word protection
(R159–R165) and the varnished image (R237). -/

namespace Sys2Proof.Machine

/-- The byte of a sketch slot at a local offset, where the slot holds one. -/
def slotByte (s : SketchSlot) (a : Nat) : Option Byte :=
  if a / 64 = s.granule ∧ s.mask.toNat.testBit (a % 64) then s.bytes[a % 64]? else none

/-- First local offset of a slot in its partition's pool (R221). -/
def slotOff (s : SketchSlot) : Nat := 0x10000000000 + s.part.val * 0x400000000 + 0x3F0000000 + 64 * s.place

/-- The pool words behind the bytes of slot `s` in [off, off+n), as local offsets (R221). -/
def slotWords (s : SketchSlot) (off n : Nat) : List Nat :=
  ((List.range 8).filter (fun k => (List.range 8).any (fun i =>
    let a := 64 * s.granule + 8 * k + i
    decide (off ≤ a ∧ a < off + n) && (slotByte s a).isSome))).map (fun k => slotOff s + 8 * k)

/-- The newest byte that a list of slots, oldest first, holds at a local offset. -/
def overlayByte : List SketchSlot → Nat → Option Byte
  | [], _ => none
  | s :: l, a =>
    match overlayByte l a with
    | some b => some b
    | none => slotByte s a

/-- What memory shows at a local offset: the varnished image (R237).  An unlisted byte reads 0 (R189). -/
def Mem.byte (m : Mem) (a : Nat) : Byte := (overlayByte m.unfolded a).getD (SMap.get 0 m.cells a)

/-- `n` bytes from a local offset. -/
def Mem.read (m : Mem) : Nat → Nat → Bytes
  | _, 0 => []
  | a, n + 1 => m.byte a :: Mem.read m (a + 1) n

/-- The word of eight bytes at a local offset, little-endian (R85). -/
def Mem.word (m : Mem) (a : Nat) : Word := bWord (m.read a 8)

/-- Clears a slot's mask bit for a byte that an ordinary write has overtaken. -/
def slotForget (a : Nat) (s : SketchSlot) : SketchSlot :=
  if a / 64 = s.granule then { s with mask := s.mask &&& ~~~ (1#64 <<< (a % 64)) } else s

/-- Writes one byte. -/
def Mem.setByte (m : Mem) (a : Nat) (b : Byte) : Mem :=
  { m with cells := SMap.set 0 m.cells a b, unfolded := m.unfolded.map (slotForget a) }

/-- The 64-bit word at index `w` (offset / 8) is uncorrectable: three bit errors (R160).  The manual makes no
statement about four or more; the model takes them for detected too (assumption 111). -/
def Mem.bad (m : Mem) (w : Nat) : Bool := decide (3 ≤ SMap.get 0 m.ecc w)

/-- A varnished slot not yet folded replaces the whole of word `w` (R237). -/
def Mem.hides (m : Mem) (w : Nat) : Bool :=
  m.unfolded.any (fun s => s.granule == w / 8 && s.mask.toNat >>> (8 * (w % 8)) % 256 == 255)

/-- Word `w` is uncorrectable and no varnished slot replaces it. -/
def Mem.lost (m : Mem) (w : Nat) : Bool := m.bad w && !m.hides w

/-- Bytes [a, a+n) cover the whole of word `w`. -/
def covers (a n w : Nat) : Bool := decide (a ≤ 8 * w ∧ 8 * w + 8 ≤ a + n)

/-- Writes bytes from a local offset; a part-word write to an uncorrectable word leaves it (R163). -/
def Mem.putBytes (m : Mem) (a0 n : Nat) : Nat → Bytes → Mem
  | _, [] => m
  | a, b :: bs =>
    let m' := if m.bad (a / 8) && !covers a0 n (a / 8) then m else m.setByte a b
    Mem.putBytes m' a0 n (a + 1) bs

/-- The varnished image of an uncorrectable word that a slot replaces goes home, before a part-word write is merged
into it (R237). -/
def Mem.mend (m : Mem) (w : Nat) : Mem :=
  if m.bad w && m.hides w then
    let m' := (List.range 8).foldl (fun g i => g.setByte (8 * w + i) (m.byte (8 * w + i))) m
    { m' with ecc := SMap.del m'.ecc w }
  else m

/-- Writes bytes: a write that replaces a whole word gives it fresh check bits, and a part-word write to
a word with one or two bit errors corrects it in the merge (R159, R163, R165). -/
def Mem.write (m : Mem) (a : Nat) (bs : Bytes) : Mem :=
  let n := bs.length
  let m' := ((m.mend (a / 8)).mend ((a + n - 1) / 8)).putBytes a n a bs
  { m' with ecc := m'.ecc.filter (fun c =>
      decide (8 * c.1 + 8 ≤ a ∨ a + n ≤ 8 * c.1) || (decide (3 ≤ c.2) && !covers a n c.1)) }

/-- Writes zeros to bytes [a, a+n), with valid check bits (R189); `a` and `n` are multiples of 64. -/
def Mem.zero (m : Mem) (a n : Nat) : Mem :=
  { cells := SMap.eraseRange m.cells a (a + n)
    ecc := SMap.eraseRange m.ecc (a / 8) ((a + n) / 8)
    path := m.path
    unfolded := m.unfolded.filter (fun s => decide (64 * s.granule + 64 ≤ a ∨ a + n ≤ 64 * s.granule)) }

/-- The pool words of varnished slots not yet folded that reading bytes [a, a+n) touches (R221, R237). -/
def Mem.poolWords (m : Mem) (a n : Nat) : List Nat :=
  (m.unfolded.filter (fun s => decide (a / 64 ≤ s.granule ∧ 64 * s.granule < a + n))).flatMap (slotWords · a n)

/-- The first uncorrectable word that reading bytes [a, a+n) touches, as a local offset: at home, or of a slot not yet
folded. -/
def Mem.badRead (m : Mem) (a n : Nat) : Option Nat :=
  match m.ecc.find? (fun c => decide (3 ≤ c.2 ∧ a < 8 * c.1 + 8 ∧ 8 * c.1 < a + n) && !m.hides c.1) with
  | some c => some (8 * c.1)
  | none => (m.poolWords a n).find? (fun w => m.bad (w / 8))

/-- The first uncorrectable word that a write of bytes [a, a+n) would merge into. -/
def Mem.badWrite (m : Mem) (a n : Nat) : Option Nat :=
  ((m.ecc.find? (fun c => decide (3 ≤ c.2 ∧ a < 8 * c.1 + 8 ∧ 8 * c.1 < a + n) && !covers a n c.1 && !m.hides c.1)).map
    (fun c => 8 * c.1))

/-- The words whose corrected errors reading bytes [a, a+n) finds, as local offsets. -/
def Mem.correctedAt (m : Mem) (a n : Nat) : List Nat :=
  let ps := m.poolWords a n
  (m.ecc.filter (fun c => decide (0 < c.2 ∧ c.2 < 3) &&
    (decide (a < 8 * c.1 + 8 ∧ 8 * c.1 < a + n) || ps.contains (8 * c.1)))).map (fun c => 8 * c.1)

/-- Corrected errors that reading bytes [a, a+n) finds. -/
def Mem.corrected (m : Mem) (a n : Nat) : Nat := (m.correctedAt a n).length

/-- The first word of [a, a+n) whose crossing of an on-die path fails (R164, R185). -/
def Mem.pathBad (m : Mem) (a n : Nat) : Option Nat :=
  (m.path.find? (fun w => decide (a < 8 * w + 8 ∧ 8 * w < a + n))).map (8 * ·)

/-- The failing crossings of [a, a+n) have been met. -/
def Mem.pathMet (m : Mem) (a n : Nat) : Mem :=
  { m with path := m.path.filter (fun w => !decide (a < 8 * w + 8 ∧ 8 * w < a + n)) }

/-- After the read, corrected words have been written back (R161). -/
def Mem.scrubbed (m : Mem) (a n : Nat) : Mem :=
  { m with ecc := m.ecc.filter (fun c => !(m.correctedAt a n).contains (8 * c.1)) }

/-- The canonical form: bytes and bit errors listed by rising key, none equal to what an unlisted key
holds. -/
def Mem.wf (m : Mem) : Bool := SMap.wf 0 m.cells && SMap.wf 0 m.ecc

/-! ### Places of the local map (R20, R27) -/

/-- Base of easel `i`'s Palette window (R27). -/
def palBase (i : Nat) : Nat := 0x20000000000 + i * 0x200000

def isLp (a : Nat) : Bool := decide (a < 0xC000000000)
def isCv (a : Nat) : Bool := decide (0x10000000000 ≤ a ∧ a < 0x11000000000)
def isPal (a : Nat) : Bool := decide (0x20000000000 ≤ a ∧ a < 0x2001A000000)
def isMmio (a : Nat) : Bool := decide (0x30000000000 ≤ a ∧ a < 0x30004000000)

/-- Physical index of the Palette window that holds an offset. -/
def palEasel (a : Nat) : EaselId := Fin.ofNat 208 ((a - 0x20000000000) / 0x200000)

/-- Die of an easel (R22). -/
def dieOf (e : EaselId) : Fin 2 := Fin.ofNat 2 (e.val / 104)

/-- Partition of an easel (Table 1-4). -/
def partOf (e : EaselId) : PartId := Fin.ofNat 4 (e.val / 52)

/-- Partition of a Palette or Canvas offset (Table 1-4). -/
def partOfOff (a : Nat) : Option PartId :=
  if isPal a then some (partOf (palEasel a))
  else if isCv a then some (Fin.ofNat 4 ((a - 0x10000000000) / 0x400000000))
  else none

/-- Easels of a partition, rising. -/
def partEasels (p : PartId) : List EaselId :=
  (List.range 52).map (fun i => Fin.ofNat 208 (p.val * 52 + i))

def allEasels : List EaselId := (List.range 208).map (Fin.ofNat 208)

/-- LPDDR6 channel of an offset (R182). -/
def lpChannel (off : Nat) : Nat :=
  let n := off >>> 8
  let q := n / 96
  let h := (q ^^^ (q >>> 7) ^^^ (q >>> 14) ^^^ (q >>> 21)) &&& 0x7F
  (n + h) % 96

/-- Block of an LPDDR6 offset within its channel (R182). -/
def lpBlock (off : Nat) : Nat := (off >>> 8) / 96

/-- Canvas channel of an offset (R171). -/
def cvChannel (off : Nat) : Nat :=
  let b := (off % 0x800000000) >>> 8
  (b ^^^ (b >>> 7) ^^^ (b >>> 14)) &&& 0x7F

/-- Block of a Canvas offset within its channel (R171). -/
def cvBlock (off : Nat) : Nat := ((off % 0x800000000) >>> 8) >>> 7

/-- Fault class of a memory (Table 5-2). -/
def memClass (a : Nat) : BitVec 8 := if isPal a then 1 else if isCv a then 3 else 4

/-- Page number of an offset in the owner map: LPDDR6 pages, then Canvas pages (R416). -/
def pageOf (a : Nat) : Option Nat :=
  if isLp a then some (a / 0x200000)
  else if isCv a then some (393216 + (a - 0x10000000000) / 0x200000)
  else none

/-- First offset of a page of the owner map. -/
def pageBase (p : Nat) : Nat :=
  if p < 393216 then p * 0x200000 else 0x10000000000 + (p - 393216) * 0x200000

end Sys2Proof.Machine
end

