-- ==== Sys2Proof/Machine/Ops.lean ====
section
/-! DEFINITION. Operations shared by every family: the form of a meaning, registers and counters (R193),
events (R402), the state of easels and contexts, address decoding (R26–R32) and fault records
(R485–R488). -/

namespace Sys2Proof.Machine

/-- A meaning is an effect on the hardware; the queue of waiting commands is untouched. -/
def run (s : State) (f : Hw → Hw) : Host.Outcome State Fault Refusal := .next { s with hw := f s.hw }

/-! ### Registers, counters, events -/

/-- Active value of the register at a BAR0 offset. -/
def Hw.reg (h : Hw) (off : Nat) : Word := SMap.get (regReset h.pins.variant1800 off) h.regs.act off

def Hw.setReg (h : Hw) (off : Nat) (v : Word) : Hw :=
  { h with regs := { h.regs with act := SMap.put h.regs.act off v } }

/-- Adds to an error counter, which stops at 2^32 - 1 (R193). -/
def Hw.count (h : Hw) (off n : Nat) : Hw := h.setReg off (sat32 ((h.reg off).toNat + n))

/-- Adds to a counter that wraps modulo 2^64. -/
def Hw.countWrap (h : Hw) (off n : Nat) : Hw := h.setReg off (h.reg off + BitVec.ofNat 64 n)

/-- A register of a block instance. -/
def Hw.breg (h : Hw) (b : BlockId) (off : Nat) : Word := h.reg (blkBase b + off)

/-- The FTC in nanoseconds (R321). -/
def Hw.ftcNow (h : Hw) : Nat := h.ftc.count % 2 ^ 64

/-- The next free value (assumption 5). -/
def Hw.freeWord (h : Hw) : Word := Config.freeValue h.free

/-- One free value has been used. -/
def Hw.useFree (h : Hw) : Hw := { h with free := h.free + 1 }

/-- Raises event source `s` (R402): sets pending and stores the payload, or coalesces. -/
def raiseEv (h : Hw) (s payload : Nat) (detail : List Word) : Hw :=
  let k := 0x40200 + 8 * (s / 64)
  let w := h.reg k
  let cnt := SMap.get 0 h.evc.count s
  let h1 := h.setReg k (w ||| bitw true (s % 64))
  { h1 with evc := { h1.evc with
      payload := SMap.put h1.evc.payload s (BitVec.ofNat 32 payload)
      detail := SMap.put h1.evc.detail s detail
      count := if bit w (s % 64) then SMap.put h1.evc.count s (Nat.min (cnt + 1) 0x3FFFFF)
               else h1.evc.count } }

/-- Raises a source that serves every context, keeping the condition under key `k`: a context's number, or
64 for a condition of no one context (R569). -/
def raiseFor (h : Hw) (s k payload : Nat) (detail : List Word) : Hw :=
  let h1 := raiseEv h s payload detail
  { h1 with evc := { h1.evc with
      perCtx := SMap.put h1.evc.perCtx (s * 128 + k) (BitVec.ofNat 32 payload)
      perCtxDetail := SMap.put h1.evc.perCtxDetail (s * 128 + k) detail } }

/-- Raises such a source for context `c`. -/
def raiseCtx (h : Hw) (s : Nat) (c : CtxId) (payload : Nat) (detail : List Word) : Hw :=
  raiseFor h s c.val payload detail

/-- Appends to what the module sends out. -/
def Hw.emit (h : Hw) (o : Out) : Hw := { h with out := h.out ++ [o] }

/-! ### Easels and contexts -/

def Hw.easel (h : Hw) (e : EaselId) : Easel := SMap.get Easel.init h.easels e.val

def Hw.setEasel (h : Hw) (e : EaselId) (x : Easel) : Hw := { h with easels := SMap.put h.easels e.val x }

def Hw.modEasel (h : Hw) (e : EaselId) (f : Easel → Easel) : Hw := h.setEasel e (f (h.easel e))

def Hw.ctx (h : Hw) (c : CtxId) : Ctx := SMap.get Ctx.init h.ctxs.tab c.val

def Hw.setCtx (h : Hw) (c : CtxId) (x : Ctx) : Hw :=
  { h with ctxs := { h.ctxs with tab := SMap.put h.ctxs.tab c.val x } }

def Hw.modCtx (h : Hw) (c : CtxId) (f : Ctx → Ctx) : Hw := h.setCtx c (f (h.ctx c))

/-- The easel is enabled at this start and not fenced, and the compute dies are on (R24, R117, R504). -/
def Hw.up (h : Hw) (e : EaselId) : Bool :=
  h.bru.enabled.contains e && !h.bru.fenced.contains e && h.pins.computeOn

/-- The context under which the core of easel `e` makes its accesses (R108). -/
def Easel.actx (x : Easel) : CtxId := Fin.ofNat 64 (x.csCtx.toNat % 64)

/-- Changes every easel on which context `c` is loaded. -/
def Hw.modLoaded (h : Hw) (c : CtxId) (f : Easel → Easel) : Hw :=
  { h with easels := h.easels.map (fun p => if p.2.loaded = some c then (p.1, f p.2) else p) }

/-- Moves a context to a state and raises event 0x140 (R414, R448). -/
def setCtxState (h : Hw) (c : CtxId) (st : BitVec 3) : Hw :=
  raiseCtx (h.modCtx c (fun x => { x with state := st })) 0x140 c (c.val + st.toNat * 256) []

/-- Adds to performance counter `k` of a context (R444). -/
def perfAdd (h : Hw) (c : CtxId) (k n : Nat) : Hw :=
  { h with ctxs := { h.ctxs with
      perf := SMap.update 0 h.ctxs.perf (c.val * 16 + k) (fun v => (v + n) % 2 ^ 64) } }

/-- This module's fabric address (R330): rack number and POS straps. -/
def Hw.fa (h : Hw) : Nat := h.rte.pos.toNat + wfld (h.reg 0x400010) 6 4 * 64

/-! ### Allocation and address decoding -/

/-- Pages that are firmware's from cold boot: the firmware area, the capture area and the fallback area
(R493, R532). -/
def fwPage (p : Nat) : Bool :=
  decide (392192 ≤ p ∧ p < 393216) || decide (409440 ≤ p ∧ p < 409472)

/-- Owner of a page (R416). -/
def Hw.owner (h : Hw) (p : Nat) : Owner :=
  SMap.get (if fwPage p then Owner.firmware else Owner.free) h.ctxs.owner p

/-- The offset lies in a partition's sketch pool, which is reserved while the pool is enabled (R221). -/
def poolReserved (h : Hw) (off : Nat) : Bool :=
  isCv off && decide (0x3F0000000 ≤ (off - 0x10000000000) % 0x400000000) &&
    bit (h.breg (.skt (Fin.ofNat 4 ((off - 0x10000000000) / 0x400000000))) 0x10) 0

/-- Every slot in use: unvarnished, not yet folded, or not yet zeroed. -/
def usedSlots (h : Hw) : List SketchSlot := h.sk.slots ++ h.mem.unfolded ++ h.sk.toZero

/-- The context that holds the bytes at a local offset: its pages, or the Palettes it is loaded on
(R416, R417). -/
def Hw.holder (h : Hw) (off : Nat) : Option CtxId :=
  if poolReserved h off then none
  else if isPal off then (h.easel (palEasel off)).loaded
  else match pageOf off with
    | some p => (match h.owner p with | .ctx c _ => some c | _ => none)
    | none => none

/-- The context to which a word belongs: that of the slot it is part of in a sketch pool, else the one that holds it
(R162, R221). -/
def wordOwner (h : Hw) (off : Nat) : Option CtxId :=
  if poolReserved h off then
    ((usedSlots h).find? (fun s => decide (slotOff s ≤ off ∧ off < slotOff s + 64))).map (·.ctx)
  else h.holder off

/-- What an address names after decoding (R26): a local offset, a peer's, a host address, or a fault. -/
inductive Target where
  | local (off : Nat)
  | remote (fa off : Nat)
  | host (addr : Nat)
  | fault (cls : BitVec 8)
  deriving DecidableEq, Repr

/-- Decodes a local offset for an agent of context `c` (R27–R30); a request to an LPDDR6 channel marked down
fails with class 0x06 (R180), which comes after the alignment rule (`alignFirst`). -/
def decodeLocal (h : Hw) (c : CtxId) (off : Nat) : Target :=
  if isLp off ∨ isCv off then
    if h.holder off ≠ some c then .fault 0x13
    else if isLp off ∧ !h.memctl.chUp.getLsbD (lpChannel off) then .fault 0x06
    else .local off
  else if isPal off then
    if !h.up (palEasel off) then .fault 0x12
    else if h.holder off = some c then .local off else .fault 0x13
  else if isMmio off then .fault 0x15
  else .fault 0x11

/-- Class of a refused access of `n` bytes: the alignment rule precedes an outcome that comes back after the request
has left for its channel (R98). -/
def alignFirst (cls : BitVec 8) (a n : Nat) : BitVec 8 := if cls = 0x06 ∧ a % n ≠ 0 then 0x14 else cls

/-- A request for bytes [off, off+n) meets a channel in retraining, and waits (R180). -/
def chanWaits (h : Hw) (off n : Nat) : Bool :=
  isLp off && !h.memctl.chLost.isEmpty &&
    (List.range (n / 256 + 2)).any (fun k =>
      let o := off / 256 * 256 + 256 * k
      decide (o < off + n) && (SMap.find h.memctl.chLost (lpChannel o)).isSome)

/-- A confidential context may use host addresses only with its VF's TDI in RUN and a selective stream
that covers it (R441). -/
def hostAllowed (h : Hw) (c : CtxId) : Bool :=
  !(h.ctx c).conf ||
    (SMap.get 0 h.sec.tdi (h.ctx c).fn.val == 2#2 &&
      h.sec.ide.any (fun p => p.2.on && p.2.vf == some (h.ctx c).fn))

/-- The job key entry under which a job sends (R317, R439). -/
def sendEntry (h : Hw) (job : BitVec 16) : Option (Nat × JobKey) :=
  h.sec.jobKeys.find? (fun p => p.2.job == job && p.2.send)

/-- Decodes a UMA for an agent of context `c` (R26). -/
def decodeUma (h : Hw) (c : CtxId) (uma : Word) : Target :=
  let a := uma.toNat
  if fld a 60 4 = 0 then
    if fld a 48 12 = 0 then decodeLocal h c (fld a 0 48) else .fault 0x11
  else if fld a 60 4 = 8 then
    if fld a 58 2 = 0 then .remote (fld a 48 10) (fld a 0 48) else .fault 0x10
  else if fld a 60 4 = 4 then
    if fld a 57 3 ≠ 0 then .fault 0x16
    else if hostAllowed h c then .host (fld a 0 57) else .fault 0x64
  else .fault 0x10

/-! ### Memory errors (R160–R163, R193, R194) -/

/-- An error log takes the newest error: the part that names its owner and its class; `multi` is added by the
caller where the log held one (R193). -/
def logCommon (own : Option CtxId) (cls : BitVec 8) : Word :=
  put cls.toNat 48 8 ||| bitw own.isSome 56 ||| put ((own.map (·.val)).getD 0) 57 6 ||| bitw true 63

/-- CNV_ERR_LOG of a die takes an error. -/
def logCnv (h : Hw) (d : Fin 2) (off : Nat) (own : Option CtxId) (cls : BitVec 8) : Hw :=
  let k := blkBase (.cnv d) + 0x40
  (h.setReg k (logCommon own cls ||| put off 0 48)).setReg (k + 8) (bitw (bit (h.reg k) 63) 0)

/-- The error log of a CNV_ or LPM_ block takes the newest error; `multi` if one was held (R193). -/
def logMemError (h : Hw) (off : Nat) (cls : BitVec 8) : Hw :=
  let own := wordOwner h off
  if isLp off then
    let k := blkBase (.lpm (Fin.ofNat 2 (lpChannel off / 48))) + 0x40
    h.setReg k (logCommon own cls ||| put off 0 40 ||| put (lpChannel off) 40 7 ||| bitw (bit (h.reg k) 63) 47)
  else
    logCnv h (if isPal off then dieOf (palEasel off) else Fin.ofNat 2 ((off - 0x10000000000) / 0x800000000)) off own cls

/-- An uncorrectable codeword on an on-die path is logged on the die of the transfer's issuer (R164, Table 5-3). -/
def logPath (h : Hw) (d : Fin 2) (off : Nat) : Hw := logCnv h d off (h.holder off) 0x05

/-- Errors of accumulator storage are logged with an offset that the manual does not state: no local-map offset
names an accumulator (R193, assumption 112). -/
def logAcc (h : Hw) (e : EaselId) (cls : BitVec 8) : Hw :=
  logCnv h.useFree (dieOf e) (wfld h.freeWord 0 48) (h.easel e).loaded cls

/-- Counts `n` corrected (`ue` false) or uncorrectable words found at an offset. -/
def countMemError (h : Hw) (off n : Nat) (ue : Bool) : Hw :=
  let d := if ue then 8 else 0
  if isLp off then h.count (blkBase (.lpm (Fin.ofNat 2 (lpChannel off / 48))) + 0x30 + d) n
  else if isPal off then
    (h.count (blkBase (.easel (palEasel off)) + 0x40 + d) n).count
      (blkBase (.cnv (dieOf (palEasel off))) + 0x30 + d) n
  else h.count (blkBase (.cnv (Fin.ofNat 2 ((off - 0x10000000000) / 0x800000000))) + 0x20 + d) n

/-- What reading bytes [a, a+n) does to the memory: corrected words are counted, logged and written back
(R160, R161). -/
def touchRead (h : Hw) (a n : Nat) : Hw :=
  if h.mem.corrected a n = 0 then h
  else (h.mem.correctedAt a n).foldl (fun g w => logMemError (countMemError g w 1 false) w 0)
    { h with mem := h.mem.scrubbed a n }

/-! ### Fault records -/

/-- A record whose fields do not apply (R485), at the present FTC. -/
def FaultRec.blank (ftc : Nat) (cls : BitVec 8) (agent : BitVec 4) : FaultRec :=
  { cls := cls, ctx := none, precise := false, easel := 0xFF, agent := agent, unit := 0,
    primary := false, job := 0, serial := 0, pc := 0, addr := 0, inst := 0, ftc := ftc, number := 0,
    peerFa := 0x3FF, port := 0xF }

/-- The eight words of a record (Table 16-1). -/
def FaultRec.words (r : FaultRec) : List Word :=
  [ put r.cls.toNat 0 8 ||| put ((r.ctx.map (·.val)).getD 0) 8 6 ||| bitw r.ctx.isSome 14 |||
      bitw r.precise 15 ||| put r.easel.toNat 16 8 ||| put r.agent.toNat 24 4 |||
      put r.unit.toNat 28 6 ||| bitw r.primary 34 ||| put r.job.toNat 48 16,
    r.serial, r.pc, r.addr, r.inst, BitVec.ofNat 64 r.ftc,
    put r.number.toNat 0 32 ||| put r.peerFa.toNat 32 10 ||| put r.port.toNat 42 4, 0 ]

/-- Detail words of events 0x040 and 0x049: words 0, 1, 2, 3 and 5 (R512). -/
def FaultRec.detail (r : FaultRec) : List Word :=
  [nthW r.words 0, nthW r.words 1, nthW r.words 2, nthW r.words 3, nthW r.words 5]

/-- Ends a running or paused stream of the slot as GLZSTOP does; blocks that have been verified and not delivered
never are (R201 allows either; assumption 113). -/
def GlazeSlot.stop (g : GlazeSlot) : GlazeSlot :=
  if g.state = 1 ∨ g.state = 5 then { g with state := 3, got := [] } else g

/-- The part number under which a read of a stream that has ended stays outstanding: its answer is discarded and
its failure faults no stream (R214). -/
def endedPart : Nat := 255

/-- The reads of the streams of slots `p` outlive their streams. -/
def endReads (h : Hw) (p : SlotId → Bool) : Hw :=
  { h with reqs := h.reqs.map (fun r =>
    match r.by_ with
    | .glaze n _ => if p n then { r with by_ := .glaze n endedPart } else r
    | _ => r) }

/-- Stops every glaze stream of a context (R217, R488). -/
def stopGlaze (h : Hw) (c : CtxId) : Hw :=
  let h1 := endReads h (fun n => (SMap.get GlazeSlot.init h.glz.slots n.val).ctx == c)
  { h1 with glz := { h1.glz with
      slots := h1.glz.slots.map (fun p => if p.2.ctx = c then (p.1, p.2.stop) else p) } }

/-- Opens a capture at the decision to recover or at a primary fault (R492, R495). -/
def openCapture (h : Hw) (level : BitVec 3) (trigger : BitVec 8) (ctxs : Word) (easel : BitVec 8)
    (parts : BitVec 4) : Hw :=
  let cap : Capture :=
    { id := h.flt.nextId, level := level, incomplete := false, palettes := false, fallback := false,
      dropped := false, damaged := false, trigger := trigger, ftcStart := h.ftcNow, ftcEnd := h.ftcNow,
      contexts := ctxs, easel := easel, parts := parts, records := 0, offset := 0, bytes := 64,
      isOpen := true }
  { h with flt := { h.flt with captures := h.flt.captures ++ [cap], nextId := h.flt.nextId + 1 } }

/-- Records a fault that no context owns in the list of 64 and raises event 0x049 (R487, R512). -/
def recordNoCtx (h : Hw) (r : FaultRec) : Hw :=
  let r1 := { r with ctx := none, number := BitVec.ofNat 32 h.flt.noCtxSeq }
  let l := h.flt.noCtx ++ [r1]
  raiseEv { h with flt := { h.flt with noCtx := l.drop (l.length - 64), noCtxSeq := h.flt.noCtxSeq + 1 } }
    0x049 (r.cls.toNat + r.agent.toNat * 256) r1.detail

/-- Records a context's primary fault and stops the context (R487, R488). -/
def stopFaulted (h : Hw) (c : CtxId) (r : FaultRec) : Hw :=
  let r1 := { r with primary := true, number := 0, job := (h.ctx c).job }
  let h1 := h.modCtx c (fun x => { x with faults := [r1] })
  let h2 := stopGlaze (h1.modLoaded c (fun x => { x with stopped := true })) c
  raiseCtx (setCtxState h2 c 6) 0x040 c (r1.cls.toNat + c.val * 256) r1.detail

/-- A recovery in progress covers all of a context: the chip's, or that of its one partition (R506). -/
def ctxSubsumed (h : Hw) (c : CtxId) : Bool :=
  h.flt.recoveries.any (fun r => match r.unit with
    | .chip => true
    | .partition p => (h.ctx c).mask == 1#4 <<< p.val
    | .engine _ => false)

/-- A primary fault opens a context-level capture (R492), unless a recovery in progress covers it (R506). -/
def recordPrimary (h : Hw) (c : CtxId) (r : FaultRec) : Hw :=
  let h1 := stopFaulted h c r
  if ctxSubsumed h c then h1 else openCapture h1 0 r.cls (bitw true c.val) r.easel 0

/-- Fault `r` comes before `p`.  On one easel, of faults of the same cycle: the core, then the matrix engine, the vector
unit, the copy engine, and among copy sequencers the lower serial number (R115, R157).  Across easels: the earlier FTC,
then the lower physical index (R487). -/
def faultBefore (r p : FaultRec) : Bool :=
  if r.easel == p.easel then
    r.ftc == p.ftc && decide (r.easel.toNat < 208 ∧ r.agent.toNat ≤ 3) &&
      (decide (r.agent.toNat < p.agent.toNat) && decide (p.agent.toNat ≤ 3) ||
        (r.agent == 3 && p.agent == 3 && decide (r.serial < p.serial)))
  else
    decide (r.easel.toNat < 208 ∧ p.easel.toNat < 208) &&
      (decide (r.ftc < p.ftc) || (r.ftc == p.ftc && decide (r.easel < p.easel)))

/-- Numbers the records of a list: the first is primary. -/
def numberFaults (l : List FaultRec) : List FaultRec :=
  l.zipIdx.map (fun p => { p.1 with number := BitVec.ofNat 32 p.2, primary := decide (p.2 = 0) })

/-- A record of the same cycle takes the place of the primary one, whose capture it becomes the trigger of. -/
def displacePrimary (h : Hw) (c : CtxId) (r : FaultRec) : Hw :=
  let x := h.ctx c
  let l := numberFaults ({ r with job := x.job } :: x.faults)
  let h1 := h.modCtx c (fun y => { y with
    faults := l.take 16, dropped := y.dropped + (if 16 < l.length then 1 else 0) })
  let h2 := { h1 with flt := { h1.flt with captures := h1.flt.captures.map (fun k =>
    if k.isOpen && k.level == 0 && k.contexts == bitw true c.val then { k with trigger := r.cls, easel := r.easel }
    else k) } }
  raiseCtx h2 0x040 c (r.cls.toNat + c.val * 256) ((l.head?.map FaultRec.detail).getD [])

/-- What the blocks' error logs show of a fault: an uncorrectable accumulator entry, an on-die path, a failed
LPDDR6 channel (R193, R194). -/
def logFault (h : Hw) (r : FaultRec) : Hw :=
  let e : EaselId := Fin.ofNat 208 r.easel.toNat
  if r.cls = 0x02 then logAcc h e 0x02
  else if r.cls = 0x05 then logPath h (dieOf e) (r.addr.toNat % 2 ^ 48)
  else if r.cls = 0x06 ∧ isLp r.addr.toNat then logMemError h r.addr.toNat 0x06
  else h

/-- Records a fault in its context's list (R487): the first is primary, or the first by R115 among those of one
cycle, the next 15 are kept, later ones are counted. A context that is free or in gesso shows nothing (R429). -/
def recordFault (h0 : Hw) (r : FaultRec) : Hw :=
  let h := logFault h0 r
  match r.ctx with
  | none => recordNoCtx h r
  | some c =>
    let x := h.ctx c
    if x.state = 0 ∨ x.state = 7 then h
    else
      let h1 := perfAdd h c 13 1
      match x.faults with
      | [] => recordPrimary h1 c r
      | p :: _ =>
        if faultBefore r p then displacePrimary h1 c r
        else if x.faults.length < 16 then
          h1.modCtx c (fun y => { y with faults := y.faults ++
            [{ r with number := BitVec.ofNat 32 x.faults.length, job := x.job }] })
        else h1.modCtx c (fun y => { y with dropped := y.dropped + 1 })

/-- A local request or a packet that finds no route is counted in RTE_NOROUTE_COUNT (R335, R339). -/
def countNoRoute (h : Hw) (cls : BitVec 8) : Hw := if cls = 0x48 then h.count 0x400028 1 else h

/-! ### Uncorrectable words -/

/-- An uncorrectable word met by a reader acting for `reader`: counted and logged, its owner faulted when
the reader acts for another context, and event 0x082 with a record of no context where none holds it (R162,
R486).  The reader's own fault is recorded by the reader. -/
def reportUe (h : Hw) (off : Nat) (reader : Option CtxId) : Hw :=
  let cls := memClass off
  let h1 := logMemError (countMemError h off 1 true) off cls
  match wordOwner h off with
  | some c =>
    if reader = some c then h1
    else recordFault h1 { FaultRec.blank h.ftcNow cls 7 with ctx := some c, addr := BitVec.ofNat 64 off }
  | none => recordNoCtx (raiseEv h1 0x082 cls.toNat [BitVec.ofNat 64 off])
      { FaultRec.blank h.ftcNow cls 7 with addr := BitVec.ofNat 64 off }

end Sys2Proof.Machine
end

