-- ==== Sys2Proof/Machine/Issue.lean ====
section
/-! DEFINITION. Issuing an instruction on an easel core: fetch checks (R94, R96), decoding faults (R87),
the guard (R86) and precise faults (R112, R113). -/

namespace Sys2Proof.Machine

/-! ### Core registers -/

/-- Scalar register `i`; s0 reads as 0 (Table 3-1). -/
def CoreRegs.get (r : CoreRegs) (i : BitVec 5) : Word := if i = 0 then 0 else SMap.get 0 r.s i.toNat

/-- Writes scalar register `i`; a write to s0 is discarded. -/
def CoreRegs.put (r : CoreRegs) (i : BitVec 5) (v : Word) : CoreRegs :=
  if i = 0 then r else { r with s := SMap.set 0 r.s i.toNat v }

/-- Predicate `i`; p0 reads as 1. -/
def CoreRegs.pget (r : CoreRegs) (i : BitVec 3) : Bool := i = 0 || r.p.getLsbD i.toNat

/-- Writes predicate `i`; a write to p0 is discarded. -/
def CoreRegs.pput (r : CoreRegs) (i : BitVec 3) (v : Bool) : CoreRegs :=
  if i = 0 then r
  else { r with p := (r.p &&& ~~~(1#8 <<< i.toNat)) ||| (if v then 1#8 <<< i.toNat else 0) }

/-- Word `k` of descriptor `t`. -/
def CoreRegs.tdw (r : CoreRegs) (t : BitVec 6) (k : BitVec 2) : Word :=
  SMap.get 0 r.td (t.toNat * 4 + k.toNat)

def CoreRegs.tdput (r : CoreRegs) (t : BitVec 6) (k : BitVec 2) (v : Word) : CoreRegs :=
  { r with td := SMap.set 0 r.td (t.toNat * 4 + k.toNat) v }

/-- The four words of descriptor `t`. -/
def CoreRegs.tdesc (r : CoreRegs) (t : BitVec 6) : TDesc :=
  { w0 := r.tdw t 0, w1 := r.tdw t 1, w2 := r.tdw t 2, w3 := r.tdw t 3 }

/-- The registers of the mode in force (R80, R108). -/
def Easel.cur (x : Easel) : CoreRegs := if x.service then x.svcCore else x.core

def Easel.setCur (x : Easel) (r : CoreRegs) : Easel :=
  if x.service then { x with svcCore := r } else { x with core := r }

/-- Changes the registers of the mode in force on easel `e`. -/
def Hw.modCur (h : Hw) (e : EaselId) (f : CoreRegs → CoreRegs) : Hw :=
  h.modEasel e (fun x => x.setCur (f x.cur))

/-- Writes scalar register `rd` of easel `e`. -/
def Hw.setS (h : Hw) (e : EaselId) (rd : BitVec 5) (v : Word) : Hw := h.modCur e (fun r => r.put rd v)

/-! ### Issue -/

/-- What an instruction does once it issues: a precise fault, one that also reports an uncorrectable
word, an effect after which execution goes on at
pc + 8 or elsewhere, an effect that places the pc itself, or a wait. -/
inductive Eff where
  | fault (cls : BitVec 8) (addr : Word)
  | faultIn (h : Hw) (cls : BitVec 8) (addr : Word)
  | done (h : Hw)
  | jump (h : Hw) (pc : Word)
  | place (h : Hw)
  | block (h : Hw) (w : WaitFor)
  deriving DecidableEq, Repr

/-- Goes on at `pc`; a context's serial counter has passed the instruction (R83). -/
def CoreRegs.advance (service : Bool) (pc : Word) (r : CoreRegs) : CoreRegs :=
  { r with pc := pc, serial := if service then r.serial else r.serial + 1 }

/-- The core of easel `e` goes on at `pc` in its mode. -/
def advanceTo (h : Hw) (e : EaselId) (pc : Word) : Hw :=
  h.modEasel e (fun x => x.setCur (x.cur.advance x.service pc))

/-- The instruction at which the core stands has completed: execution goes on after it. -/
def advance (h : Hw) (e : EaselId) : Hw := advanceTo h e ((h.easel e).cur.pc + 8)

/-- The instruction on which a core waits completes with a change of its registers (R99): the wait of
service mode where `svc`, else the context's. -/
def finishWait (h : Hw) (e : EaselId) (svc : Bool) (f : CoreRegs → CoreRegs) : Hw :=
  h.modEasel e (fun x =>
    if svc then { x with svcCore := (f x.svcCore).advance true (x.svcCore.pc + 8), svcBlocked := none }
    else { x with core := (f x.core).advance false (x.core.pc + 8), blocked := none })

/-- The cs_f registers after a fault (Table 3-2, R113). -/
def FaultCsr.record (c : FaultCsr) (cls : BitVec 8) (precise : Bool) (serial pc addr inst : Word) :
    FaultCsr :=
  { c with fclass := put cls.toNat 0 8 ||| bitw precise 8 ||| bitw true 9, fserial := serial, fpc := pc,
           faddr := addr, finst := inst }

/-- The core of easel `e` records a fault of the instruction of service mode (`svc`) or of the context,
and stops issuing for the context (R101, R113). -/
def coreFault (h : Hw) (e : EaselId) (svc : Bool) (cls : BitVec 8) (precise : Bool)
    (serial pc addr inst : Word) : Hw :=
  let x := h.easel e
  let r := { FaultRec.blank h.ftcNow cls 0 with
    ctx := if svc then none else some x.actx, precise := precise,
    easel := BitVec.ofNat 8 e.val, serial := serial, pc := pc, addr := addr, inst := inst }
  recordFault (h.modEasel e (fun y =>
    let y1 := { y with csr := y.csr.record cls precise serial pc addr inst }
    if svc then { y1 with idled := true, svcBlocked := none }
    else { y1 with stopped := true, blocked := none })) r

/-- The context instruction on which the core waits faults precisely. -/
def waitFault (h : Hw) (e : EaselId) (b : Blocked) (cls : BitVec 8) (addr : Word) : Hw :=
  coreFault h e false cls true b.serial b.pc addr b.inst

/-- The core of easel `e` may issue: the easel is in force, its core is not stopped or waiting, and in
context mode a context is loaded that has not executed EXIT (R80, R99, R107). -/
def coreReady (h : Hw) (e : EaselId) : Bool :=
  let x := h.easel e
  h.up e &&
    (if x.service then !x.idled && x.svcBlocked.isNone
     else x.blocked.isNone && x.loaded.isSome && !x.exited && !x.stopped)

/-- A fetch at the core's pc in context mode: class 0x35 outside the own Palette window and the Canvas
ranges of the context (R94), the memory's class for an uncorrectable word (R96), 0x05 for one on the path (R164). -/
def fetchFault (h : Hw) (e : EaselId) : Option (BitVec 8) :=
  let x := h.easel e
  if x.service then none
  else
    let pc := x.core.pc
    let off := pc.toNat
    if (isCv off && decodeUma h x.actx pc == .local off) || (isPal off && palEasel off == e) then
      if (h.mem.badRead off 8).isSome then some (memClass off)
      else if (h.mem.pathBad off 8).isSome then some 0x05 else none
    else some 0x35

/-- The fetch of the word at the core's pc in context mode: its corrected errors are counted (R96). -/
def fetchTouch (h : Hw) (e : EaselId) : Hw :=
  if (h.easel e).service then h else touchRead h (h.easel e).core.pc.toNat 8

/-- The guarding predicate is true (R86). -/
def guardTrue (x : Easel) (pneg : Bool) (pred : BitVec 3) : Bool := x.cur.pget pred != pneg

/-- Takes the outcome of an issued instruction. -/
def applyEff (h : Hw) (e : EaselId) (inst : Word) (eff : Eff) : Hw :=
  let r := (h.easel e).cur
  let svc := (h.easel e).service
  match eff with
  | .fault cls addr => coreFault (countNoRoute h cls) e svc cls true r.serial r.pc addr inst
  | .faultIn h1 cls addr => coreFault h1 e svc cls true r.serial r.pc addr inst
  | .done h1 => advance h1 e
  | .jump h1 pc => advanceTo h1 e pc
  | .place h1 => h1
  | .block h1 w =>
    let b : Blocked := { what := w, serial := r.serial, pc := r.pc, inst := inst }
    h1.modEasel e (fun x => if svc then { x with svcBlocked := some b } else { x with blocked := some b })

/-- Issues the instruction `inst` on easel `e` with its guard: fetch faults, then the decoding fault
`dec` whatever the guard (R87), then the guard, then the effect. -/
def issue (h0 : Hw) (e : EaselId) (inst : Word) (pneg : Bool) (pred : BitVec 3) (dec : Option (BitVec 8))
    (body : Hw → Eff) : Hw :=
  if !coreReady h0 e then h0
  else
    let x := h0.easel e
    match fetchFault h0 e with
    | some cls =>
      let h1 := if cls = 0x35 then h0
        else if cls = 0x05 then { h0 with mem := h0.mem.pathMet x.core.pc.toNat 8 }
        else reportUe h0 (x.core.pc.toNat / 8 * 8) (some x.actx)
      coreFault h1 e false cls true x.core.serial x.core.pc x.core.pc 0
    | none =>
      let h := fetchTouch h0 e
      match dec with
      | some cls => coreFault h e x.service cls true x.cur.serial x.cur.pc 0 inst
      | none =>
        if guardTrue x pneg pred then applyEff h e inst (body h)
        else advance h e

/-- Class 0x31 where a field that must be zero is not (R87). -/
def resv (ok : Bool) : Option (BitVec 8) := if ok then none else some 0x31

end Sys2Proof.Machine
end

