-- ==== Sys2Proof/Machine/Send.lean ====
section
/-! DEFINITION. Requests that leave the module: packets (R305), encryption (R316–R318), routing checks at
the source (R314, R335), outstanding requests (R285) and host accesses (R388). -/

namespace Sys2Proof.Machine

/-! ### Packets -/

/-- The header fields of Table 10-3. -/
structure Hdr where
  dst : Nat
  src : Nat
  vc : Nat
  epoch : Bool
  circuit : Nat
  typ : Nat
  len : Nat
  mcast : Bool
  axis : Bool
  mask : Nat
  origin : Nat
  off : Nat
  key : BitVec 16
  sig : BitVec 32
  tag : BitVec 16
  stream : BitVec 16
  nonce : Nat
  status : BitVec 8
  deriving DecidableEq, Repr

def Hdr.w0 (x : Hdr) : Word :=
  put x.dst 0 10 ||| put x.src 10 10 ||| put x.vc 20 3 ||| bitw x.epoch 23 ||| put x.circuit 24 12 |||
    put x.typ 36 4 ||| put x.len 40 12 ||| bitw x.mcast 52 ||| bitw x.axis 53 ||| put x.mask 54 8 |||
    put x.origin 62 2

def Hdr.w1 (x : Hdr) : Word := put x.off 0 48 ||| put x.key.toNat 48 16

def Hdr.w2 (x : Hdr) : Word := put x.sig.toNat 0 32 ||| put x.tag.toNat 32 16 ||| put x.stream.toNat 48 16

def Hdr.w3 (x : Hdr) : Word := put x.nonce 0 56 ||| put x.status.toNat 56 8

/-- Reads a packet's header. -/
def Pkt.hdr (p : Pkt) : Hdr :=
  { dst := wfld p.w0 0 10, src := wfld p.w0 10 10, vc := wfld p.w0 20 3, epoch := bit p.w0 23,
    circuit := wfld p.w0 24 12, typ := wfld p.w0 36 4, len := wfld p.w0 40 12, mcast := bit p.w0 52,
    axis := bit p.w0 53, mask := wfld p.w0 54 8, origin := wfld p.w0 62 2, off := wfld p.w1 0 48,
    key := BitVec.ofNat 16 (wfld p.w1 48 16), sig := BitVec.ofNat 32 (wfld p.w2 0 32),
    tag := BitVec.ofNat 16 (wfld p.w2 32 16), stream := BitVec.ofNat 16 (wfld p.w2 48 16),
    nonce := wfld p.w3 0 56, status := BitVec.ofNat 8 (wfld p.w3 56 8) }

/-- A packet with a header, a payload as carried and a tag. -/
def mkPkt (x : Hdr) (body tag : Bytes) : Pkt :=
  { w0 := x.w0, w1 := x.w1, w2 := x.w2, w3 := x.w3, body := body, tag := tag }

/-- A header from this module to `dst` with the present injection epoch (R338). -/
def Hw.hdrTo (h : Hw) (dst vc typ len off : Nat) : Hdr :=
  { dst := dst, src := h.fa, vc := vc, epoch := bit (h.reg 0x400018) 0, circuit := 0, typ := typ,
    len := len, mcast := false, axis := false, mask := 0, origin := 0, off := off, key := 0, sig := 0,
    tag := 0, stream := 0, nonce := 0, status := 0 }

/-- Additional authenticated data: the header with mcast_mask and epoch zero (R316). -/
def Hdr.aad (x : Hdr) : Bytes :=
  let y := { x with mask := 0, epoch := false }
  wordsBytes [y.w0, y.w1, y.w2, y.w3]

/-- Nonce: src_fa and nonce_ctr big-endian, with the origin between them (R316). -/
def Hdr.nonceBytes (x : Hdr) : Bytes :=
  (leBytes 2 x.src).reverse ++ [BitVec.ofNat 8 x.origin, 0] ++ (leBytes 8 x.nonce).reverse

/-- Whether nonces remain under a key (R318). -/
def JobKey.spent (k : JobKey) : Bool := decide (2 ^ 56 ≤ k.nonce)

/-- Consumes one nonce of table entry `i`, raising the rekey event at 2^56 - 2^40 (R318). -/
def useNonce (h : Hw) (i : Nat) (k : JobKey) : Hw :=
  let h1 := { h with sec := { h.sec with
    jobKeys := SMap.put h.sec.jobKeys i { k with nonce := k.nonce + 1 } } }
  if k.nonce + 1 = 2 ^ 56 - 2 ^ 40 then raiseEv h1 0x0C1 k.id.toNat [] else h1

/-- Encrypts a payload under table entry `i` and forms the packet (R316).  A packet looped back to this
module stays plain and consumes no nonce (R29). -/
def sealPkt (h : Hw) (i : Nat) (k : JobKey) (x : Hdr) (body : Bytes) : Pkt × Hw :=
  if x.dst = h.fa ∧ x.mcast = false ∧ x.circuit = 0 then (mkPkt { x with key := k.id } body [], h)
  else
    let y := { x with key := k.id, nonce := k.nonce }
    let r := gcmSeal k.key y.nonceBytes y.aad body
    (mkPkt y r.1 r.2, useNonce h i k)

/-- Puts a packet before the router (R335). -/
def inject (h : Hw) (p : Pkt) (req : Option (BitVec 16)) : Hw :=
  { h with rte := { h.rte with inq := h.rte.inq ++ [{ pkt := p, inPort := none, req := req, flits := 0, col := none }] } }

/-! ### Routing checks at the source -/

def Hw.port (h : Hw) (i : PortId) : Port := SMap.get Port.init h.ports i.val

def Hw.setPort (h : Hw) (i : PortId) (p : Port) : Hw := { h with ports := SMap.put h.ports i.val p }

/-- Routing entry of version `v` for a destination (R333, Table 11-1). -/
def Hw.route (h : Hw) (v : Bool) (dst : Nat) : Option PortId :=
  let w := h.reg (0x400000 + (if v then 0x1800 else 0x1000) + 8 * (dst / 4))
  let e := wfld w (16 * (dst % 4)) 16
  if e.testBit 4 then some (Fin.ofNat 12 (e % 16)) else none

/-- The version that the router uses for a packet's epoch, and whether the epoch was rewritten (R339). -/
def Hw.version (h : Hw) (ep : Bool) : Option (Bool × Bool) :=
  let w := h.reg 0x400018
  let ok (v : Bool) : Bool := bit w (if v then 2 else 1)
  if ok ep then some (ep, false) else if ok (!ep) then some (!ep, true) else none

/-- Whether a port lies on the north I/O die (Table 1-2). -/
def portNorth (p : PortId) : Bool := [0, 1, 2, 6, 7, 10].contains p.val

/-- The port by which a packet injected here leaves; none where it stays. -/
def Hw.exitPort (h : Hw) (dst : Nat) : Option PortId :=
  match h.version (bit (h.reg 0x400018) 0) with
  | some (v, _) => h.route v dst
  | none => none

/-- Why a request of job `job` to `dst` cannot leave: no key (0x41), no nonce left (0x44), no route
(0x48), port down (0x40). -/
def sendFault (h : Hw) (job : BitVec 16) (dst : Nat) : Option (BitVec 8) :=
  match sendEntry h job with
  | none => some 0x41
  | some (_, k) =>
    if dst = h.fa then none
    else if k.spent then some 0x44
    else match h.exitPort dst with
      | none => some 0x48
      | some p => if (h.port p).state = 4 then some 0x40 else none

/-! ### Outstanding requests -/

/-- Nanoseconds after which a request is timed out: SYN_RTO of instance 0 (R285, R295). -/
def Hw.rto (h : Hw) : Nat := wfld (h.reg 0x200010) 0 14 * 1000

/-- The first tag from `t` on that no outstanding request of `l` has, found among as many tags as `ks` lists. -/
def freeTag (l : List Request) : List Request → BitVec 16 → BitVec 16
  | [], t => t
  | _ :: ks, t => if l.any (fun r => r.tag == t) then freeTag l ks (t + 1) else t

/-- The tag of the next request: one that no outstanding request has. -/
def Hw.nextTag (h : Hw) : BitVec 16 := freeTag h.reqs h.reqs h.rte.nextTag

/-- Registers an outstanding request under the next tag.  Its time runs from its transmission (R285). -/
def addReq (h : Hw) (by_ : ReqBy) (ctx : Option CtxId) (addr : Word) (host write north : Bool) : Hw :=
  let r : Request :=
    { tag := h.nextTag, by_ := by_, ctx := ctx, addr := addr, host := host, write := write,
      deadline := none, north := north, fresh := true }
  { h with
    reqs := h.reqs ++ [r]
    rte := { h.rte with nextTag := h.nextTag + 1 } }

/-- The request has been transmitted: it is timed out SYN_RTO from now (R285). -/
def reqSent (h : Hw) (t : BitVec 16) : Hw :=
  { h with reqs := h.reqs.map (fun r =>
    if r.tag = t ∧ r.deadline = none then { r with deadline := some (h.now + h.rto) } else r) }

/-- The easel whose transaction a request is (R100, R150). -/
def ReqBy.easel : ReqBy → Option EaselId
  | .core e => some e
  | .storeBuf e => some e
  | .copy e _ _ => some e
  | .release e _ _ => some e
  | _ => none

/-- An I/O die has a free one of its 8,192 boundary transaction slots (Table 1-2, R4). -/
def dieRoom (h : Hw) (north : Bool) : Bool := decide ((h.reqs.filter (fun r => r.north == north)).length < 8192)

/-- Easel `e` has a free one of its 256 transactions, which its core and its copy engine share, and the boundary
a slot (R4, R100, R150). -/
def txnRoom (h : Hw) (e : EaselId) (north : Bool) : Bool :=
  decide ((h.reqs.filter (fun r => r.by_.easel == some e)).length < 256) && dieRoom h north

/-- Whether a request to `dst` leaves through the north die. -/
def Hw.leavesNorth (h : Hw) (dst : Nat) : Bool :=
  match h.exitPort dst with
  | some p => portNorth p
  | none => true

/-- Sends a request of context `c` to a peer and registers it.  The caller has checked `sendFault`. -/
def sendReq (h : Hw) (by_ : ReqBy) (c : CtxId) (addr : Word) (write : Bool) (x : Hdr) (body : Bytes) : Hw :=
  match sendEntry h (h.ctx c).job with
  | none => h
  | some (i, k) =>
    let t := h.nextTag
    let h1 := addReq h by_ (some c) addr false write (h.leavesNorth x.dst)
    let r := sealPkt h1 i k { x with tag := t } body
    inject r.2 r.1 (some t)

/-- Sends a read request of `n` bytes at a peer's offset. -/
def sendRead (h : Hw) (by_ : ReqBy) (c : CtxId) (addr : Word) (dst off n : Nat) : Hw :=
  sendReq h by_ c addr false (h.hdrTo dst 4 2 n off) []

/-- Sends a write of bytes to a peer's offset. -/
def sendWrite (h : Hw) (by_ : ReqBy) (c : CtxId) (addr : Word) (dst off : Nat) (b : Bytes) : Hw :=
  sendReq h by_ c addr true (h.hdrTo dst 4 0 b.length off) b

/-- Removes an outstanding request. -/
def dropReq (h : Hw) (t : BitVec 16) : Hw := { h with reqs := h.reqs.filter (fun r => r.tag != t) }

/-! ### The host -/

def Hw.fn (h : Hw) (f : FnId) : HifFn := SMap.get HifFn.init h.hif.fns f.val

def Hw.setFn (h : Hw) (f : FnId) (x : HifFn) : Hw :=
  { h with hif := { h.hif with fns := SMap.put h.hif.fns f.val x } }

def Hw.modFn (h : Hw) (f : FnId) (g : HifFn → HifFn) : Hw := h.setFn f (g (h.fn f))

/-- The link carries traffic: it is in L0 or L0p (R388). -/
def linkUp (l : LinkState) : Bool := l.pm == .l0 || l.pm == .l0p

/-- The PCIe port accepts requests while its link carries traffic (R388). -/
def Hw.hostUp (h : Hw) : Bool := linkUp h.hif.link

/-- Sends a host read for a waiting agent. -/
def hostRead (h : Hw) (by_ : ReqBy) (ctx : Option CtxId) (addr : Word) (bus n : Nat) : Hw :=
  let t := h.nextTag
  (addReq h by_ ctx addr true false true).emit (.hostRead t (BitVec.ofNat 64 bus) n)

/-- Writes to host memory for context `c`, with Relaxed Ordering as its function enables (R262). -/
def hostWriteCtx (h : Hw) (c : CtxId) (bus : Nat) (b : Bytes) : Hw :=
  h.emit (.hostWrite (BitVec.ofNat 64 bus) b (h.fn (h.ctx c).fn).relaxed)

end Sys2Proof.Machine
end

