-- ==== Sys2Proof/Machine/LoadStore.lean ====
section
/-! DEFINITION. Branches and jumps (R92, R93), loads and stores of the core (R97–R102). -/

namespace Sys2Proof.Machine

/-! ### Branches and jumps -/

/-- pc + off33 × 8, modulo 2^64 (R92). -/
def branchTo (pc : Word) (off : BitVec 33) : Word := pc + (off.signExtend 64 <<< 3)

/-- A conditional branch: rd zero, register fields that the minor does not use zero (R92). -/
def branch (minor : BitVec 6) (unused : FmtB → Bool) (taken : Word → Word → Bool) (e : EaselId) (f : FmtB)
    (h : Hw) : Hw :=
  issue h e (wordB 0x08 minor f) f.pneg f.pred (resv (f.rd == 0 && unused f)) (fun h =>
    let r := (h.easel e).cur
    if taken (r.get f.rs1) (r.get f.rs2) then .jump h (branchTo r.pc f.off) else .done h)

/-- B: always (R92). -/
def execB (e : EaselId) (f : FmtB) (s : State) : Host.Outcome State Fault Refusal :=
  run s (branch 0x00 (fun f => f.rs1 == 0 && f.rs2 == 0) (fun _ _ => true) e f)

/-- BZ: s[rs1] = 0 (R92). -/
def execBz (e : EaselId) (f : FmtB) (s : State) : Host.Outcome State Fault Refusal :=
  run s (branch 0x01 (fun f => f.rs2 == 0) (fun a _ => a == 0) e f)

/-- BNZ: s[rs1] ≠ 0 (R92). -/
def execBnz (e : EaselId) (f : FmtB) (s : State) : Host.Outcome State Fault Refusal :=
  run s (branch 0x02 (fun f => f.rs2 == 0) (fun a _ => a != 0) e f)

/-- BEQ (R92). -/
def execBeq (e : EaselId) (f : FmtB) (s : State) : Host.Outcome State Fault Refusal :=
  run s (branch 0x03 (fun _ => true) (fun a b => a == b) e f)

/-- BNE (R92). -/
def execBne (e : EaselId) (f : FmtB) (s : State) : Host.Outcome State Fault Refusal :=
  run s (branch 0x04 (fun _ => true) (fun a b => a != b) e f)

/-- BLT, signed (R92). -/
def execBlt (e : EaselId) (f : FmtB) (s : State) : Host.Outcome State Fault Refusal :=
  run s (branch 0x05 (fun _ => true) (fun a b => a.slt b) e f)

/-- BGE, signed (R92). -/
def execBge (e : EaselId) (f : FmtB) (s : State) : Host.Outcome State Fault Refusal :=
  run s (branch 0x06 (fun _ => true) (fun a b => !a.slt b) e f)

/-- BLTU (R92). -/
def execBltu (e : EaselId) (f : FmtB) (s : State) : Host.Outcome State Fault Refusal :=
  run s (branch 0x07 (fun _ => true) (fun a b => a.ult b) e f)

/-- BGEU (R92). -/
def execBgeu (e : EaselId) (f : FmtB) (s : State) : Host.Outcome State Fault Refusal :=
  run s (branch 0x08 (fun _ => true) (fun a b => !a.ult b) e f)

/-- CALL: pc + 8 to s[rd], then branches (R93). -/
def execCall (e : EaselId) (f : FmtB) (s : State) : Host.Outcome State Fault Refusal :=
  run s (fun h => issue h e (wordB 0x09 0x00 f) f.pneg f.pred (resv (f.rs1 == 0 && f.rs2 == 0)) (fun h =>
    let r := (h.easel e).cur
    .jump (h.setS e f.rd (r.pc + 8)) (branchTo r.pc f.off)))

/-- JALR: the target is computed before rd is written; a misaligned target faults with 0x35 (R93). -/
def execJalr (e : EaselId) (f : FmtI) (s : State) : Host.Outcome State Fault Refusal :=
  run s (fun h => issue h e (wordI 0x09 0x01 f) f.pneg f.pred none (fun h =>
    let r := (h.easel e).cur
    let t := r.get f.rs1 + f.imm.signExtend 64
    if t.toNat % 8 ≠ 0 then .fault 0x35 t else .jump (h.setS e f.rd (r.pc + 8)) t))

/-! ### Loads -/

/-- Decodes an address of the core.  Firmware in service mode reaches every place but MMIO, whatever the page
allocations (assumption 19); no agent reaches a disabled or fenced easel's Palette (R24), an enabled sketch pool
(R221) or a channel that is down (R180). -/
def coreDecode (h : Hw) (x : Easel) (a : Word) : Target :=
  if x.service then
    let off := a.toNat
    if poolReserved h off then .fault 0x13
    else if isPal off && !h.up (palEasel off) then .fault 0x12
    else if isLp off && !h.memctl.chUp.getLsbD (lpChannel off) then .fault 0x06
    else if isLp off ∨ isCv off ∨ isPal off then .local off
    else if isMmio off then .fault 0x15
    else match decodeUma h x.actx a with
      | .local o => .local o
      | .remote fa o => .remote fa o
      | .host b => .host b
      | .fault c => .fault c
  else decodeUma h x.actx a

/-- The loaded value: `size` bytes, sign- or zero-extended (R97). -/
def extendLoad (size : Nat) (signed : Bool) (b : Bytes) : Word :=
  let n := leNat (b.take size)
  if signed then BitVec.ofInt 64 (sgn (8 * size) n) else BitVec.ofNat 64 n

/-- An entry of the store buffer has not been performed yet: it is on its way to a peer, or its LPDDR6 channel is
in retraining (R100, R180). -/
def SbEntry.waits (s : SbEntry) : Bool := s.tag.isSome || s.cls == 0

/-- A store of this core to the words of bytes [a, a+n) is still outstanding (R100, R289). -/
def sbHolds (x : Easel) (a : Word) (n : Nat) : Bool :=
  x.sb.any (fun s => s.kind == .store && s.waits &&
    decide (a.toNat / 8 ≤ s.addr.toNat / 8 ∧ s.addr.toNat / 8 < a.toNat / 8 + (n + 7) / 8))

/-- What a read of a local word that the core makes meets: the memory's class, or 0x05 on the path (R99, R164). -/
def readEff (h : Hw) (x : Easel) (a : Word) (off n : Nat) (good : Eff) : Eff :=
  match h.mem.badRead off n with
  | some w => .faultIn (reportUe h w (some x.actx)) (memClass off) a
  | none =>
    match h.mem.pathBad off n with
    | some _ => .faultIn { h with mem := h.mem.pathMet off n } 0x05 a
    | none => good

/-- The checks and the access of a load (R98, R99).  One that must wait for an earlier store, a channel or a
transaction slot is held (R100, R150, R180). -/
def loadEff (e : EaselId) (rd : BitVec 5) (a : Word) (size : Nat) (signed : Bool) (h : Hw) : Eff :=
  let x := h.easel e
  let held : Eff := .block h (.loadRoom rd a size signed)
  match coreDecode h x a with
  | .fault cls => .fault (alignFirst cls a.toNat size) a
  | .local off =>
    if off % size ≠ 0 then .fault 0x14 a
    else if chanWaits h off size || sbHolds x a size then held
    else readEff h x a off size
      (.done ((touchRead h off size).setS e rd (extendLoad size signed (h.mem.read off size))))
  | .remote fa off =>
    if off % size ≠ 0 then .fault 0x14 a
    else match sendFault h (h.ctx x.actx).job fa with
      | some cls => .fault cls a
      | none =>
        if sbHolds x a size || !txnRoom h e (h.leavesNorth fa) then held
        else .block (sendRead h (.core e) x.actx a fa off size) (.load rd size signed h.nextTag)
  | .host bus =>
    if bus % size ≠ 0 then .fault 0x14 a
    else if !h.hostUp then .fault 0x16 a
    else if !txnRoom h e true then held
    else .block (hostRead h (.core e) (some x.actx) a bus size) (.load rd size signed h.nextTag)

/-- A load (major 0x0C): the address is s[rs1] + imm38 (R97). -/
def loadI (minor : BitVec 6) (size : Nat) (signed : Bool) (e : EaselId) (f : FmtI) (h : Hw) : Hw :=
  issue h e (wordI 0x0C minor f) f.pneg f.pred none (fun h =>
    loadEff e f.rd ((h.easel e).cur.get f.rs1 + f.imm.signExtend 64) size signed h)

/-- LDB (R97). -/
def execLdb (e : EaselId) (f : FmtI) (s : State) : Host.Outcome State Fault Refusal :=
  run s (loadI 0x00 1 true e f)

/-- LDBU (R97). -/
def execLdbu (e : EaselId) (f : FmtI) (s : State) : Host.Outcome State Fault Refusal :=
  run s (loadI 0x01 1 false e f)

/-- LDH (R97). -/
def execLdh (e : EaselId) (f : FmtI) (s : State) : Host.Outcome State Fault Refusal :=
  run s (loadI 0x02 2 true e f)

/-- LDHU (R97). -/
def execLdhu (e : EaselId) (f : FmtI) (s : State) : Host.Outcome State Fault Refusal :=
  run s (loadI 0x03 2 false e f)

/-- LDW (R97). -/
def execLdw (e : EaselId) (f : FmtI) (s : State) : Host.Outcome State Fault Refusal :=
  run s (loadI 0x04 4 true e f)

/-- LDWU (R97). -/
def execLdwu (e : EaselId) (f : FmtI) (s : State) : Host.Outcome State Fault Refusal :=
  run s (loadI 0x05 4 false e f)

/-- LDD (R97). -/
def execLdd (e : EaselId) (f : FmtI) (s : State) : Host.Outcome State Fault Refusal :=
  run s (loadI 0x06 8 false e f)

/-! ### Stores -/

/-- The store buffer holds 16 entries (R100). -/
def sbFull (x : Easel) : Bool := decide (16 ≤ x.sb.length)

/-- An entry of the store buffer for the instruction now issuing on easel `x`. -/
def sbEntry (x : Easel) (kind : SbKind) (a : Word) (size : Nat) (v inst : Word) (tag : Option (BitVec 16))
    (cls : BitVec 8) : SbEntry :=
  { kind := kind, addr := a, size := size, data := v, serial := x.cur.serial, pc := x.cur.pc,
    inst := inst, ctx := x.actx, tag := tag, cls := cls }

def Hw.pushSb (h : Hw) (e : EaselId) (s : SbEntry) : Hw :=
  (countNoRoute h s.cls).modEasel e (fun x => { x with sb := x.sb ++ [s] })

/-- The address that lines are kept under: an address of this module under its own fabric address names the
local map. -/
def lineAddr (h : Hw) (a : Word) : Word :=
  if wfld a 60 4 = 8 ∧ wfld a 48 10 = h.fa then BitVec.ofNat 64 (wfld a 0 48) else a

/-- Reads of the copy engine of easel `e` that are under way, and whose address `p` names, leave no line behind
(R255, R257). -/
def staleReads (h : Hw) (e : EaselId) (p : Nat → Bool) : Hw :=
  { h with reqs := h.reqs.map (fun r =>
    match r.by_ with
    | .copy e' _ _ => if e' = e ∧ p (lineAddr h r.addr).toNat then { r with fresh := false } else r
    | _ => r) }

/-- Lines that hold any of bytes [a, a+n) have been overtaken by a write of this easel (R255). -/
def dropLines (h : Hw) (e : EaselId) (a : Word) (n : Nat) : Hw :=
  let k := (lineAddr h a).toNat
  let h1 := staleReads h e (fun r => decide (r / 256 * 256 < k + n ∧ k < r / 256 * 256 + 256))
  h1.modEasel e (fun x => { x with prefetch := x.prefetch.filter (fun l =>
    decide (l.addr.toNat + l.bytes.length ≤ k ∨ k + n ≤ l.addr.toNat)) })

/-- Performs a write of at most 8 bytes at a local offset for easel `e`, merging a part word (R101,
R165).  One that fails at the memory, or whose word the path spoils (R185), or that waits for its channel (R180),
stays in the store buffer. -/
def storeLocal (h : Hw) (e : EaselId) (a : Word) (off size : Nat) (v inst : Word) : Hw :=
  let x := h.easel e
  let stays (cls : BitVec 8) : Hw := h.pushSb e (sbEntry x .store a size v inst none cls)
  if chanWaits h off size || sbHolds x a size then stays 0
  else match h.mem.badWrite off size with
    | some _ => stays (memClass off)
    | none =>
      match h.mem.pathBad off size with
      | some _ => { stays 0x05 with mem := h.mem.pathMet off size }
      | none =>
        let h1 := if size < 8 then touchRead h off size else h
        dropLines { h1 with mem := h1.mem.write off (leBytes size v.toNat) } e a size

/-- Posts a store: the decoding and alignment faults are precise, later failures stay in the store buffer
until they are recorded (R98, R100, R101).  A store that finds no room is held. -/
def storeEff (e : EaselId) (inst a v : Word) (size : Nat) (h : Hw) : Eff :=
  let x := h.easel e
  let held : Eff := .block h (.storeRoom a v size)
  match coreDecode h x a with
  | .fault cls => .fault (alignFirst cls a.toNat size) a
  | .local off =>
    if off % size ≠ 0 then .fault 0x14 a
    else if sbFull x then held
    else .done (storeLocal h e a off size v inst)
  | .remote fa off =>
    if off % size ≠ 0 then .fault 0x14 a
    else if sbFull x then held
    else match sendFault h (h.ctx x.actx).job fa with
      | some cls => .done (h.pushSb e (sbEntry x .store a size v inst none cls))
      | none =>
        if !txnRoom h e (h.leavesNorth fa) then held
        else .done (dropLines ((sendWrite h (.storeBuf e) x.actx a fa off (leBytes size v.toNat)).pushSb e
          (sbEntry x .store a size v inst (some h.nextTag) 0)) e a size)
  | .host bus =>
    if bus % size ≠ 0 then .fault 0x14 a
    else if sbFull x then held
    else if h.hostUp then .done (dropLines (hostWriteCtx h x.actx bus (leBytes size v.toNat)) e a size)
    else .done (h.pushSb e (sbEntry x .store a size v inst none 0x16))

/-- A store that waited for its channel: it is performed once the channel is trained, and fails with class 0x06 where
the channel is marked down (R180). -/
def drainEntry (h : Hw) (e : EaselId) (s : SbEntry) : Hw :=
  let off := s.addr.toNat
  let x := h.easel e
  let without := h.modEasel e (fun y => { y with sb := y.sb.erase s })
  let fails (cls : BitVec 8) : Hw :=
    h.modEasel e (fun y => { y with sb := y.sb.map (fun b => if b = s then { b with cls := cls } else b) })
  if !(s.kind == .store && s.tag.isNone && s.cls == 0) || chanWaits h off s.size then h
  else if !h.memctl.chUp.getLsbD (lpChannel off) then fails 0x06
  else if sbHolds { x with sb := x.sb.takeWhile (fun b => b != s) } s.addr s.size then h
  else match h.mem.badWrite off s.size with
    | some _ => fails (memClass off)
    | none =>
      let h1 := if s.size < 8 then touchRead without off s.size else without
      dropLines { h1 with mem := h1.mem.write off (leBytes s.size s.data.toNat) } e s.addr s.size

/-- Performs the stores of easel `e` that waited for a channel, oldest first. -/
def drainStores (h : Hw) (e : EaselId) : Hw := (h.easel e).sb.foldl (fun g s => drainEntry g e s) h

/-- A store (major 0x0D): writes the low bytes of s[rd] (R97). -/
def storeI (minor : BitVec 6) (size : Nat) (e : EaselId) (f : FmtI) (h : Hw) : Hw :=
  let w := wordI 0x0D minor f
  issue h e w f.pneg f.pred none (fun h =>
    let r := (h.easel e).cur
    storeEff e w (r.get f.rs1 + f.imm.signExtend 64) (r.get f.rd) size h)

/-- STB (R97, R100). -/
def execStb (e : EaselId) (f : FmtI) (s : State) : Host.Outcome State Fault Refusal :=
  run s (storeI 0x00 1 e f)

/-- STH (R97, R100). -/
def execSth (e : EaselId) (f : FmtI) (s : State) : Host.Outcome State Fault Refusal :=
  run s (storeI 0x01 2 e f)

/-- STW (R97, R100). -/
def execStw (e : EaselId) (f : FmtI) (s : State) : Host.Outcome State Fault Refusal :=
  run s (storeI 0x02 4 e f)

/-- STD (R97, R100). -/
def execStd (e : EaselId) (f : FmtI) (s : State) : Host.Outcome State Fault Refusal :=
  run s (storeI 0x03 8 e f)

/-- Changes what the save area of context `c` holds of easel `e`. -/
def Hw.modSaved (h : Hw) (c : CtxId) (e : EaselId) (f : Saved → Saved) : Hw :=
  h.modCtx c (fun x => { x with
    saved := match SMap.find x.saved e.val with
      | some v => SMap.put x.saved e.val (f v)
      | none => x.saved })

/-- Records the deferred fault of a store-buffer entry against the context that the entry names: its
cs_f registers show it, and the core stops where that context is loaded (R101, R114). -/
def deferredFault (h : Hw) (e : EaselId) (s : SbEntry) (cls : BitVec 8) : Hw :=
  let r := { FaultRec.blank h.ftcNow cls 0 with
    ctx := some s.ctx, easel := BitVec.ofNat 8 e.val, serial := s.serial, pc := s.pc, addr := s.addr,
    inst := s.inst }
  let h1 := if (h.easel e).loaded = some s.ctx then
      h.modEasel e (fun x => { x with csr := x.csr.record cls false s.serial s.pc s.addr s.inst, stopped := true })
    else h.modSaved s.ctx e (fun v => { v with csr := v.csr.record cls false s.serial s.pc s.addr s.inst })
  recordFault h1 r

/-- The local word of a failed merge is reported as an uncorrectable word (R162). -/
def reportMerge (h : Hw) (s : SbEntry) : Hw :=
  if s.cls = 1 ∨ s.cls = 3 ∨ s.cls = 4 then reportUe h (s.addr.toNat / 8 * 8) (some s.ctx) else h

/-- STORE_DEFERRED_FAULT: the entry that has failed leaves the store buffer and is recorded.  It occurs
where the entry holds that failure (assumption 1). -/
def execStoreDeferredFault (e : EaselId) (entry : Nat) (cls : BitVec 8) (s : State) :
    Host.Outcome State Fault Refusal :=
  run s (fun h =>
    match (h.easel e).sb[entry]? with
    | some b =>
      if b.cls = cls ∧ cls ≠ 0 then
        deferredFault ((reportMerge h b).modEasel e (fun x => { x with sb := dropNth x.sb entry })) e b cls
      else h
    | none => h)

end Sys2Proof.Machine
end

