-- ==== Sys2Proof/Machine/Csr.lean ====
section
/-! DEFINITION. Control registers (R84, R103), tile descriptors (R104, R105), system and privileged
instructions (R107, R108) and the command into service mode (R80). -/

namespace Sys2Proof.Machine

/-! ### Control and status registers -/

/-- Logical index of an easel in dense numbering, 0xFF without one (R23, Table 3-4). -/
def logicalIndex (h : Hw) (e : EaselId) : Nat :=
  if h.bru.numbering then
    match h.bru.logmap.findIdx? (fun i => i == e) with
    | some k => k
    | none => 0xFF
  else 0xFF

/-- cs_id (Table 3-4). -/
def csId (h : Hw) (e : EaselId) : Word :=
  put e.val 0 8 ||| put (logicalIndex h e) 8 8 ||| put (dieOf e).val 16 1 ||| put (partOf e).val 17 2 |||
    put (e.val % 104 / 13) 19 3 ||| put (e.val % 13) 22 4

/-- cs_ctx (Table 3-4). -/
def csCtxWord (h : Hw) (x : Easel) : Word :=
  put (x.csCtx.toNat % 64) 0 6 ||| put (x.csCtx.toNat / 65536) 16 16 ||| put h.fa 32 10

/-- cs_qstat for a context (Table 3-4). -/
def csQstat (x : Easel) (c : CtxId) : Word :=
  let busy (q : List QEntry) : Bool := q.any (fun i => i.started && i.ctx == c)
  put x.me.length 0 7 ||| put x.vu.length 8 7 ||| put x.ce.length 16 7 |||
    bitw (busy x.me || busy x.vu || busy x.ce) 24

/-- The context waits for an SVC's answer (Table 3-3). -/
def svcWaits (x : Easel) : Bool :=
  match x.blocked with
  | some b => (match b.what with | .svc _ => true | _ => false)
  | none => false

/-- cs_status (Table 3-3). -/
def csStatus (h : Hw) (x : Easel) : Word :=
  bitw x.service 0 ||| bitw h.bru.numbering 1 ||| bitw x.core.sketch 2 ||| bitw (svcWaits x) 3

/-- Value of control register `n`; none where Table 3-2 lists no such register. -/
def csrRead (h : Hw) (e : EaselId) (n : Nat) : Option Word :=
  let x := h.easel e
  if n = 0x000 then some (csStatus h x)
  else if n = 0x001 then some x.cur.arith
  else if n = 0x002 then some x.cur.serial
  else if n = 0x003 then some (BitVec.ofNat 64 (x.core.mcycles / 1000))
  else if n = 0x004 then some (BitVec.ofNat 64 h.ftcNow)
  else if n = 0x005 then some (csId h e)
  else if n = 0x006 then some (csCtxWord h x)
  else if n = 0x008 then some (csQstat x x.actx)
  else if 0x010 ≤ n ∧ n ≤ 0x013 then some (SMap.get 0 x.cur.scratch (n - 0x010))
  else if n = 0x100 then some x.csr.epc
  else if n = 0x101 then some x.csr.fclass
  else if n = 0x102 then some x.csr.fserial
  else if n = 0x103 then some x.csr.fpc
  else if n = 0x104 then some x.csr.faddr
  else if n = 0x105 then some x.csr.finst
  else none

/-- RW1C and RW fields of a control register (Tables 2-6 and 3-2). -/
def csrMasks (n : Nat) : Word × Word :=
  if n = 0x001 then (0x3FFF, 0x13F0000)
  else if (0x010 ≤ n ∧ n ≤ 0x013) ∨ n = 0x100 then (0, 0xFFFFFFFFFFFFFFFF)
  else (0, 0)

/-- Stores a control register's new value. -/
def csrStore (x : Easel) (n : Nat) (v : Word) : Easel :=
  if n = 0x001 then x.setCur { x.cur with arith := v }
  else if n = 0x100 then { x with csr := { x.csr with epc := v } }
  else x.setCur { x.cur with scratch := SMap.set 0 x.cur.scratch (n - 0x010) v }

/-- The new value under CSRW (R103). -/
def csrwNew (n : Nat) (old v : Word) : Word :=
  (old &&& (csrMasks n).1 &&& ~~~v) ||| (v &&& (csrMasks n).2)

/-- The new value under CSRS and CSRC: RW fields alone change (R103). -/
def csrsNew (n : Nat) (old v : Word) : Word := old ||| (v &&& (csrMasks n).2)

def csrcNew (n : Nat) (old v : Word) : Word := old &&& ~~~(v &&& (csrMasks n).2)

/-- An access that R84 refuses: a number not listed, or a service register in context mode. -/
def csrRefused (h : Hw) (e : EaselId) (n : Nat) : Bool :=
  (csrRead h e n).isNone || (decide (0x100 ≤ n) && !(h.easel e).service)

/-- A control register instruction (major 0x10): returns the old value and stores `new old s[rs1]` where
the register has a writable field; CSRW of a read-only register is refused (R84, R103). -/
def csrOp (minor : BitVec 6) (needRw : Bool) (new : Nat → Word → Word → Word) (ok : FmtC → Bool)
    (e : EaselId) (f : FmtC) (h : Hw) : Hw :=
  issue h e (wordC 0x10 minor f) f.pneg f.pred (resv (f.low == 0 && ok f)) (fun h =>
    let n := f.csr.toNat
    let ro := csrMasks n == (0, 0)
    if csrRefused h e n || (needRw && ro) then .fault 0x33 0
    else
      let old := (csrRead h e n).getD 0
      let v := (h.easel e).cur.get f.rs1
      let h1 := if ro then h else h.modEasel e (fun x => csrStore x n (new n old v))
      .done (h1.setS e f.rd old))

/-- CSRR: rs1 zero (R103). -/
def execCsrr (e : EaselId) (f : FmtC) (s : State) : Host.Outcome State Fault Refusal :=
  run s (csrOp 0x00 false (fun _ old _ => old) (fun f => f.rs1 == 0) e f)

/-- CSRW (R103). -/
def execCsrw (e : EaselId) (f : FmtC) (s : State) : Host.Outcome State Fault Refusal :=
  run s (csrOp 0x01 true csrwNew (fun _ => true) e f)

/-- CSRS (R103). -/
def execCsrs (e : EaselId) (f : FmtC) (s : State) : Host.Outcome State Fault Refusal :=
  run s (csrOp 0x02 false csrsNew (fun _ => true) e f)

/-- CSRC (R103). -/
def execCsrc (e : EaselId) (f : FmtC) (s : State) : Host.Outcome State Fault Refusal :=
  run s (csrOp 0x03 false csrcNew (fun _ => true) e f)

/-! ### Tile descriptors -/

/-- A tile descriptor instruction (major 0x11): an effect on the core's registers (R105). -/
def tdOp (minor : BitVec 6) (ok : FmtT → Bool) (eff : FmtT → CoreRegs → CoreRegs) (e : EaselId) (f : FmtT)
    (h : Hw) : Hw :=
  issue h e (wordT 0x11 minor f) f.pneg f.pred (resv (f.low == 0 && ok f)) (fun h =>
    .done (h.modCur e (eff f)))

/-- TDW: s[rs1] to word *word* of td (R105). -/
def execTdw (e : EaselId) (f : FmtT) (s : State) : Host.Outcome State Fault Refusal :=
  run s (tdOp 0x00 (fun f => f.rd == 0 && f.td2 == 0) (fun f r => r.tdput f.td f.word (r.get f.rs1)) e f)

/-- TDR: word *word* of td to s[rd] (R105). -/
def execTdr (e : EaselId) (f : FmtT) (s : State) : Host.Outcome State Fault Refusal :=
  run s (tdOp 0x01 (fun f => f.rs1 == 0 && f.td2 == 0) (fun f r => r.put f.rd (r.tdw f.td f.word)) e f)

/-- Writes all four words of a descriptor. -/
def CoreRegs.tdall (r : CoreRegs) (t : BitVec 6) (d : TDesc) : CoreRegs :=
  (((r.tdput t 0 d.w0).tdput t 1 d.w1).tdput t 2 d.w2).tdput t 3 d.w3

/-- TDMOV: all four words of td2 to td (R105). -/
def execTdmov (e : EaselId) (f : FmtT) (s : State) : Host.Outcome State Fault Refusal :=
  run s (tdOp 0x02 (fun f => f.rd == 0 && f.rs1 == 0 && f.word == 0)
    (fun f r => r.tdall f.td (r.tdesc f.td2)) e f)

/-- TDADD: adds s[rs1] to word 0 of td, modulo 2^64 (R105). -/
def execTdadd (e : EaselId) (f : FmtT) (s : State) : Host.Outcome State Fault Refusal :=
  run s (tdOp 0x03 (fun f => f.rd == 0 && f.td2 == 0 && f.word == 0)
    (fun f r => r.tdput f.td 0 (r.tdw f.td 0 + r.get f.rs1)) e f)

/-- TDCLR: all four words of td to zero (R105). -/
def execTdclr (e : EaselId) (f : FmtT) (s : State) : Host.Outcome State Fault Refusal :=
  run s (tdOp 0x04 (fun f => f.rd == 0 && f.rs1 == 0 && f.td2 == 0 && f.word == 0)
    (fun f r => r.tdall f.td { w0 := 0, w1 := 0, w2 := 0, w3 := 0 }) e f)

/-! ### System instructions -/

/-- A system instruction (major 0x3C): rd, rs1 and the imm38 bits from `used` up zero (R107). -/
def sysOp (minor : BitVec 6) (used : Nat) (eff : Hw → Eff) (e : EaselId) (f : FmtI) (h : Hw) : Hw :=
  issue h e (wordI 0x3C minor f) f.pneg f.pred
    (resv (f.rd == 0 && f.rs1 == 0 && decide (f.imm.toNat < 2 ^ used))) eff

/-- NOP (R107). -/
def execNop (e : EaselId) (f : FmtI) (s : State) : Host.Outcome State Fault Refusal :=
  run s (sysOp 0x00 0 (fun h => .done h) e f)

/-- EXIT: the core stops fetching for the context; queued engine work runs on (R107).  In service mode
it does nothing (assumption 22). -/
def execExit (e : EaselId) (f : FmtI) (s : State) : Host.Outcome State Fault Refusal :=
  run s (sysOp 0x01 0 (fun h =>
    .done (h.modEasel e (fun x => if x.service then x else { x with exited := true }))) e f)

/-- The services of Table 14-4. -/
def knownService (n : Nat) : Bool := decide (1 ≤ n ∧ n ≤ 5)

/-- SVC: the core waits for the answer of a service of Table 14-4; any other is answered with status 1,
unknown service, and a result that the manual does not state (R107, R424). -/
def execSvc (e : EaselId) (f : FmtI) (s : State) : Host.Outcome State Fault Refusal :=
  run s (sysOp 0x02 16 (fun h =>
    let n := f.imm.toNat
    if (h.easel e).service then .done h
    else if knownService n then .block h (.svc (BitVec.ofNat 16 n))
    else .done (h.useFree.modCur e (fun r => (r.put 1 h.freeWord).put 2 1))) e f)

/-- TRAP: faults with 0x37, carrying imm38[15:0] as its address (R107). -/
def execTrap (e : EaselId) (f : FmtI) (s : State) : Host.Outcome State Fault Refusal :=
  run s (sysOp 0x03 16 (fun _ => .fault 0x37 (f.imm.setWidth 64)) e f)

/-- IFENCE: discards the fetch buffer, which a command of this block already carries past (R95,
assumption 7). -/
def execIfence (e : EaselId) (f : FmtI) (s : State) : Host.Outcome State Fault Refusal :=
  run s (sysOp 0x04 0 (fun h => .done h) e f)

/-! ### Privileged instructions -/

/-- A privileged instruction (major 0x3E): fields that it does not use zero (0x31), then class 0x32 in
context mode, whatever the guard (R87, R108). -/
def srvOp (minor : BitVec 6) (usesRs1 : Bool) (eff : Hw → Eff) (e : EaselId) (f : FmtI) (h : Hw) : Hw :=
  let ok := f.rd == 0 && (usesRs1 || f.rs1 == 0) && f.imm == 0
  issue h e (wordI 0x3E minor f) f.pneg f.pred
    (if !ok then some 0x31 else if (h.easel e).service then none else some 0x32) eff

/-- The words of a save area: Table 3-1 in its order, then cs_epc (assumption 23). -/
def saveWords (x : Easel) : List Word :=
  let r := x.core
  [r.pc] ++ (List.range 32).map (fun i => SMap.get 0 r.s i) ++ [r.p.setWidth 64] ++
    (List.range 256).map (fun i => SMap.get 0 r.td i) ++
    [r.sbm.setWidth 64 ||| bitw r.sketch 8, r.arith] ++
    (List.range 4).map (fun i => SMap.get 0 r.scratch i) ++ [r.serial, x.csr.epc]

/-- A sparse table from words, zeros unlisted. -/
def listTab (ws : List Word) : SMap Word :=
  ((ws.zipIdx.map (fun p => (p.2, p.1))).filter (fun p => p.2 != 0))

/-- Loads the words of a save area into the context-mode state; reserved bits of cs_arith stay 0 (Table 2-6). -/
def loadWords (x : Easel) (w : List Word) : Easel :=
  let sk := nthW w 290
  { x with
    core := { x.core with
      pc := nthW w 0, s := listTab (0 :: (w.drop 2).take 31), p := (nthW w 33).setWidth 8 ||| 1,
      td := listTab ((w.drop 34).take 256), sbm := sk.setWidth 8, sketch := bit sk 8,
      arith := nthW w 291 &&& 0x13F3FFF, scratch := listTab ((w.drop 292).take 4), serial := nthW w 296 }
    csr := { x.csr with epc := nthW w 297 } }

/-- Bytes of a save area: 298 words. -/
def saveLen : Nat := 2384

/-- Writes or reads the save area at UMA `a`.  A UMA that does not name the module's own memory faults with 0x13 and
one off an 8-byte boundary with 0x14, on both of which the manual is silent (assumption 23); it waits for a channel in
retraining (R180), and a load meets the errors of the words (R160, R164). -/
def srvMove (e : EaselId) (save : Bool) (a : Word) (h : Hw) : Eff :=
  match coreDecode h (h.easel e) a with
  | .local off =>
    if off % 8 ≠ 0 then .fault 0x14 a
    else if chanWaits h off saveLen then .block h (.srvRoom save a)
    else if save then .done { h with mem := h.mem.write off (wordsBytes (saveWords (h.easel e))) }
    else match h.mem.badRead off saveLen with
      | some w => .faultIn (reportUe h w none) (memClass off) a
      | none =>
        match h.mem.pathBad off saveLen with
        | some _ => .faultIn { h with mem := h.mem.pathMet off saveLen } 0x05 a
        | none => .done ((touchRead h off saveLen).modEasel e (fun x =>
            loadWords x (bytesWords 298 (h.mem.read off saveLen))))
  | .fault cls => .fault (alignFirst cls a.toNat 8) a
  | _ => .fault 0x13 a

/-- SRVSAVE: writes the context-mode state with cs_epc to the save area at UMA s[rs1] (R108, assumption 23). -/
def execSrvsave (e : EaselId) (f : FmtI) (s : State) : Host.Outcome State Fault Refusal :=
  run s (srvOp 0x00 true (fun h => srvMove e true ((h.easel e).cur.get f.rs1) h) e f)

/-- SRVLOAD: loads that state from the save area at UMA s[rs1] (R108, assumption 23). -/
def execSrvload (e : EaselId) (f : FmtI) (s : State) : Host.Outcome State Fault Refusal :=
  run s (srvOp 0x01 true (fun h => srvMove e false ((h.easel e).cur.get f.rs1) h) e f)

/-- SRVSETCTX: context ID and job ID of later context-mode accesses, from s[rs1] in the layout of cs_ctx
(R108). -/
def execSrvsetctx (e : EaselId) (f : FmtI) (s : State) : Host.Outcome State Fault Refusal :=
  run s (srvOp 0x02 true (fun h =>
    .done (h.modEasel e (fun x => { x with csCtx := (x.cur.get f.rs1).setWidth 32 &&& 0xFFFF003F }))) e f)

/-- A pc is a multiple of 8 (Table 3-1, assumption 21). -/
def alignPc (a : Word) : Word := a &&& ~~~7

/-- SRVRET: enters context mode at cs_epc (R108). -/
def execSrvret (e : EaselId) (f : FmtI) (s : State) : Host.Outcome State Fault Refusal :=
  run s (srvOp 0x03 false (fun h =>
    .place (h.modEasel e (fun x =>
      { x with service := false, svcCore := x.svcCore.advance true (x.svcCore.pc + 8),
               core := { x.core with pc := alignPc x.csr.epc } }))) e f)

/-- SRVSTOP: idles the core until the next command over the on-die network (R108). -/
def execSrvstop (e : EaselId) (f : FmtI) (s : State) : Host.Outcome State Fault Refusal :=
  run s (srvOp 0x04 false (fun h => .done (h.modEasel e (fun x => { x with idled := true }))) e f)

/-- SERVICE_MODE_COMMAND: a command processor's command puts the core into service mode at an entry, with
cs_epc holding the pc at which the context resumes (R80, Table 3-2).  A core already running firmware
takes its next command when it is idle. -/
def execServiceModeCommand (e : EaselId) (entry : Word) (s : State) : Host.Outcome State Fault Refusal :=
  run s (fun h =>
    if !h.up e then h
    else h.modEasel e (fun x =>
      let y := { x with service := true, idled := false,
                        svcCore := { x.svcCore with pc := alignPc entry } }
      if x.service then (if x.idled then y else x)
      else { y with csr := { y.csr with epc := x.core.pc } }))

end Sys2Proof.Machine
end

