-- ==== Sys2Proof/Machine/Sync.lean ====
section
/-! DEFINITION. Sync objects: state words, waiters, barriers, names (R267–R284, R292) and the SYNC
instructions. -/

namespace Sys2Proof.Machine

/-! ### Objects -/

/-- Key of an easel object in the table of saved and live images (R268). -/
def easelObjKey (c : CtxId) (e : EaselId) (i : Fin 512) : Nat := (c.val * 208 + e.val) * 512 + i.val

/-- State word of an object (R272). -/
def Hw.obj (h : Hw) : ObjId → Word
  | .easel c e i => SMap.get 0 h.sync.easelObj (easelObjKey c e i)
  | .mod i => SMap.get 0 h.sync.modObj i.val

def Hw.setObj (h : Hw) (o : ObjId) (w : Word) : Hw :=
  match o with
  | .easel c e i =>
    { h with sync := { h.sync with easelObj := SMap.set 0 h.sync.easelObj (easelObjKey c e i) w } }
  | .mod i => { h with sync := { h.sync with modObj := SMap.set 0 h.sync.modObj i.val w } }

/-- Range of module-scope objects of a context: base and count, from instance 0 (R269, R295). -/
def modRange (h : Hw) (c : CtxId) : Nat × Nat :=
  let w := h.reg (0x200100 + 8 * c.val)
  (wfld w 0 15, wfld w 16 16)

/-- The object lies in the range of context `c`. -/
def inModRange (h : Hw) (c : CtxId) (i : Nat) : Bool :=
  let r := modRange h c
  decide (r.1 ≤ i ∧ i < r.1 + r.2)

def allCtx : List CtxId := (List.range 64).map (Fin.ofNat 64)

/-- The context that owns an object (R268, R269). -/
def Hw.objOwner (h : Hw) : ObjId → Option CtxId
  | .easel c _ _ => some c
  | .mod i => allCtx.find? (fun c => inModRange h c i.val)

/-- The sync name of an object in a record that names easel `me` (Table 9-1): kind 0 for an object of that
easel, kind 1 for one of another. -/
def objName (me : BitVec 8) : ObjId → Word
  | .easel _ e i => if me.toNat = e.val then put i.val 0 9 else put i.val 0 9 ||| put e.val 15 8 ||| put 1 33 2
  | .mod i => put i.val 0 15 ||| put 2 33 2

/-- SYN_ instance that counts for an object: its die (R295). -/
def objDie : ObjId → Fin 2
  | .easel _ e _ => dieOf e
  | .mod i => Fin.ofNat 2 (i.val / 16384)

/-- A barrier's state word is in barrier mode. -/
def isBarrier (w : Word) : Bool := bit w 63

/-! ### Waiters -/

/-- The waiting core goes on, whether its context is loaded or in its save area (R268, R278). -/
def wake (h : Hw) (w : Waiter) : Hw :=
  if (h.easel w.easel).loaded = some w.ctx then finishWait h w.easel false id
  else h.modCtx w.ctx (fun x => { x with
    saved := match SMap.find x.saved w.easel.val with
      | some v => SMap.put x.saved w.easel.val
          { v with core := v.core.advance false (v.core.pc + 8), blocked := none }
      | none => x.saved })

/-- Keeps the waiters that `p` does not release, and wakes the others in order. -/
def releaseWhere (h : Hw) (p : Waiter → Bool) : Hw :=
  let h1 := { h with sync := { h.sync with waiters := h.sync.waiters.filter (fun w => !p w) } }
  (h.sync.waiters.filter p).foldl wake h1

/-- Serves consuming waiters of an object in arrival order from a count: the count left and the waiters
released (R279). -/
def serveConsuming : List Waiter → Nat → Nat × List Waiter
  | [], n => (n, [])
  | w :: ws, n =>
    if w.threshold ≤ n then
      let r := serveConsuming ws (n - w.threshold)
      (r.1, w :: r.2)
    else (n, [])

/-- After an operation on a counter object: every waiter that does not consume and whose condition holds
is released, then consuming waiters in arrival order (R278, R279). -/
def serve (h : Hw) (o : ObjId) : Hw :=
  let w := h.obj o
  if isBarrier w then h
  else
    let n := wfld w 0 48
    let live := h.sync.waiters.filter (fun x => x.obj == o && x.gen.isNone)
    let r := serveConsuming (live.filter (fun x => x.consume)) n
    let h1 := h.setObj o (setFld w 0 48 r.1)
    releaseWhere h1 (fun x => x.obj == o && x.gen.isNone &&
      ((!x.consume && decide (x.threshold ≤ n)) || r.2.contains x))

/-- One arrival at a barrier object (R281): the generation of the arrival, and the hardware after. -/
def arrive (h : Hw) (i : Fin 32768) : BitVec 16 × Hw :=
  let w := h.obj (.mod i)
  let g := BitVec.ofNat 16 (wfld w 32 16)
  let a := wfld w 0 16 + 1
  if a < wfld w 16 16 then (g, h.setObj (.mod i) (setFld w 0 16 a))
  else
    let h1 := h.setObj (.mod i) (setFld (setFld w 0 16 0) 32 16 (wfld w 32 16 + 1))
    let p := wfld w 48 5
    let t := if p = 0 then h.ftcNow else cdiv h.ftcNow (2 ^ p) * 2 ^ p
    let r : BarrierRelease := { obj := i, gen := g, time := t }
    (g, { h1 with sync := { h1.sync with releases := h1.sync.releases ++ [r] } })

/-- Releases the waiters of the oldest completed generation of an object whose release time has come
(R281). -/
def releaseDue (h : Hw) (i : Fin 32768) : Hw :=
  match h.sync.releases.find? (fun r => r.obj == i) with
  | none => h
  | some r =>
    if h.ftcNow < r.time then h
    else
      let h1 := { h with sync := { h.sync with releases := h.sync.releases.erase r } }
      releaseWhere h1 (fun x => x.obj == .mod i && x.gen == some r.gen)

/-- Context `c` owns an object that saturated: fault 0x24 naming the object and the agent (R275). -/
def overflowFault (h : Hw) (o : ObjId) (who : FaultRec) : Hw :=
  let h1 := h.count (blkBase (.syn (objDie o)) + 0x30) 1
  match h.objOwner o with
  | some c => recordFault h1 { who with cls := 0x24, ctx := some c, addr := objName who.easel o }
  | none => h1

/-- SIGNAL of an amount on an object (R275); `who` is the agent that signals. -/
def signalObj (h : Hw) (o : ObjId) (amount : Nat) (who : FaultRec) : Hw :=
  let w := h.obj o
  if isBarrier w then
    match o with
    | .mod i => releaseDue (arrive h i).2 i
    | .easel _ _ _ => h
  else if amount = 0 then h
  else
    let n := wfld w 0 48 + amount
    if 2 ^ 48 ≤ n then
      serve (overflowFault (h.setObj o (setFld w 0 48 (2 ^ 48 - 1) ||| bitw true 62)) o who) o
    else serve (h.setObj o (setFld w 0 48 n)) o

/-- A state word that SYNCSET may install (R282). -/
def setOk (o : ObjId) (w : Word) : Bool :=
  if isBarrier w then
    (match o with | .mod _ => true | .easel _ _ _ => false) && wfld w 16 16 != 0 &&
      !(decide (1 ≤ wfld w 48 5 ∧ wfld w 48 5 ≤ 9) || wfld w 48 5 == 31) &&
      decide (wfld w 0 16 < wfld w 16 16) && wfld w 53 10 == 0
  else wfld w 48 14 == 0

/-- Completed generations of objects that have been set or cleared are forgotten: no waiter of theirs is left
(R282). -/
def dropReleases (h : Hw) (p : Fin 32768 → Bool) : Hw :=
  { h with sync := { h.sync with releases := h.sync.releases.filter (fun r => !p r.obj) } }

/-- Sets module-scope objects to 0, in counter mode (R269). -/
def clearObjs (h : Hw) (p : Fin 32768 → Bool) : Hw :=
  dropReleases { h with sync := { h.sync with
    modObj := h.sync.modObj.filter (fun c => !p (Fin.ofNat 32768 c.1)) } } p

/-- SYNCSET of a word that R282 allows: a barrier's waiters are all released first (R282, R283). -/
def syncSet (h : Hw) (o : ObjId) (w : Word) : Hw :=
  let h1 := dropReleases h (fun i => ObjId.mod i == o)
  let h2 := if isBarrier (h.obj o) then releaseWhere h1 (fun x => x.obj == o && x.gen.isSome) else h1
  serve (h2.setObj o w) o

/-! ### Names -/

/-- What a sync name designates: an object of this module, one of a peer, or a class. -/
inductive Named where
  | obj (o : ObjId)
  | peer (fa : Nat) (index : Nat)
  | refused
  deriving DecidableEq, Repr

/-- The checks that the core makes on a name at issue: 0x25, then 0x12 (R270, R24). -/
def nameFault (h : Hw) (n : Word) : Option (BitVec 8) :=
  let kind := wfld n 33 2
  let el := wfld n 15 8
  if n.toNat / 2 ^ 35 ≠ 0 ∨ (kind ≠ 1 ∧ el ≠ 0) ∨ (kind ≠ 3 ∧ wfld n 23 10 ≠ 0) ∨
      (kind < 2 ∧ 511 < wfld n 0 15) then some 0x25
  else if kind = 1 ∧ (208 ≤ el ∨ h.up (Fin.ofNat 208 el) = false) then some 0x12
  else none

/-- The object that a checked name reaches at a scope, for context `c` on easel `e` (R271, R292). -/
def resolveName (h : Hw) (c : CtxId) (e : EaselId) (n : Word) (scope : BitVec 2) : Named :=
  let idx := wfld n 0 15
  let kind := if wfld n 33 2 = 3 ∧ wfld n 23 10 = h.fa then 2 else wfld n 33 2
  let own : Named := .obj (.easel c e (Fin.ofNat 512 idx))
  let modo : Named := if inModRange h c idx then .obj (.mod (Fin.ofNat 32768 idx)) else .refused
  let t : EaselId := Fin.ofNat 208 (wfld n 15 8)
  if kind = 0 then own
  else if kind = 1 then
    if scope = 0 ∨ (scope = 1 ∧ partOf t ≠ partOf e) then own
    else if (h.ctx c).mask.getLsbD (partOf t).val then .obj (.easel c t (Fin.ofNat 512 idx)) else .refused
  else if scope.toNat < 2 then own
  else if kind = 2 ∨ scope = 2 then modo
  else .peer (wfld n 23 10) idx

/-! ### SYNC instructions -/

/-- Payload of a sync operation packet: operation and index, then the value (assumption 17). -/
def syncBody (op index : Nat) (v : Word) : Bytes := wordsBytes [put op 0 2 ||| put index 16 15, v]

/-- Sends a sync operation to a peer (type 0x6 on VC0). -/
def sendSync (h : Hw) (by_ : ReqBy) (c : CtxId) (name : Word) (fa op index : Nat) (v : Word) : Hw :=
  sendReq h by_ c name (op != 1) (h.hdrTo fa 0 6 16 0) (syncBody op index v)

/-- The agent of a core's own operation in a fault record. -/
def coreAgent (h : Hw) (e : EaselId) (serial pc inst : Word) : FaultRec :=
  { FaultRec.blank h.ftcNow 0 0 with easel := BitVec.ofNat 8 e.val, serial := serial, pc := pc, inst := inst }

/-- A posted sync operation of the core: performed at once on an object of this module, sent to a peer, or
left in the store buffer as a deferred failure (R276, R283). -/
def postSync (h : Hw) (e : EaselId) (inst name : Word) (scope : BitVec 2) (op : Nat) (v : Word)
    (kind : SbKind) : Hw :=
  let x := h.easel e
  match resolveName h x.actx e name scope with
  | .obj o =>
    if op = 0 then signalObj h o (v.toNat % 2 ^ 32) (coreAgent h e x.cur.serial x.cur.pc inst)
    else syncSet h o v
  | .refused => h.pushSb e (sbEntry x kind name 8 v inst none 0x27)
  | .peer fa idx =>
    match sendFault h (h.ctx x.actx).job fa with
    | some cls => h.pushSb e (sbEntry x kind name 8 v inst none cls)
    | none => (sendSync h (.storeBuf e) x.actx name fa op idx v).pushSb e
        (sbEntry x kind name 8 v inst (some h.nextTag) 0)

/-- A posted sync operation has somewhere to go: an entry of the store buffer, and a transaction where it leaves the
module (R100, R276). -/
def postRoom (h : Hw) (e : EaselId) (name : Word) (scope : BitVec 2) : Bool :=
  let x := h.easel e
  !sbFull x && (match resolveName h x.actx e name scope with
    | .peer fa _ => (sendFault h (h.ctx x.actx).job fa).isSome || txnRoom h e (h.leavesNorth fa)
    | _ => true)

/-- SIGNAL and SYNCSET once their names have been checked: posted, or held for want of room (R276, R283). -/
def postEff (e : EaselId) (inst name v : Word) (scope : BitVec 2) (op : Nat) (h : Hw) : Eff :=
  if postRoom h e name scope then
    .done (postSync h e inst name scope op v (if op = 0 then .signal else .syncset))
  else .block h (.postRoom op name v scope)

/-- imm38 with nothing above bit `n` (R273). -/
def immBelow (f : FmtI) (n : Nat) : Bool := decide (f.imm.toNat < 2 ^ n)

/-- Scope field, imm38[1:0]. -/
def scopeOf (f : FmtI) : BitVec 2 := f.imm.setWidth 2

/-- SIGNAL (R275, R276). -/
def execSignal (e : EaselId) (f : FmtI) (s : State) : Host.Outcome State Fault Refusal :=
  run s (fun h =>
    let w := wordI 0x1C 0x00 f
    issue h e w f.pneg f.pred (resv (immBelow f 2)) (fun h =>
      let r := (h.easel e).cur
      match nameFault h (r.get f.rs1) with
      | some cls => .fault cls (r.get f.rs1)
      | none => postEff e w (r.get f.rs1) (r.get f.rd) (scopeOf f) 0 h))

/-- The object word that SYNCSET may not install on what the name reaches (R282). -/
def setRefused (h : Hw) (x : Easel) (e : EaselId) (name v : Word) (scope : BitVec 2) : Bool :=
  match resolveName h x.actx e name scope with
  | .obj o => !setOk o v
  | .refused => false
  | .peer _ idx => !setOk (.mod (Fin.ofNat 32768 idx)) v

/-- SYNCSET (R282, R283). -/
def execSyncset (e : EaselId) (f : FmtI) (s : State) : Host.Outcome State Fault Refusal :=
  run s (fun h =>
    let w := wordI 0x1C 0x03 f
    issue h e w f.pneg f.pred (resv (immBelow f 2)) (fun h =>
      let x := h.easel e
      let n := x.cur.get f.rs1
      match nameFault h n with
      | some cls => .fault cls n
      | none =>
        if setRefused h x e n (x.cur.get f.rd) (scopeOf f) then .fault 0x25 n
        else postEff e w n (x.cur.get f.rd) (scopeOf f) 2 h))

/-- SYNCRD of a name that has been checked (R283). -/
def syncrdEff (e : EaselId) (rd : BitVec 5) (n : Word) (scope : BitVec 2) (h : Hw) : Eff :=
  let x := h.easel e
  match resolveName h x.actx e n scope with
  | .obj o => .done (h.setS e rd (h.obj o))
  | .refused => .fault 0x27 n
  | .peer fa idx =>
    match sendFault h (h.ctx x.actx).job fa with
    | some cls => .fault cls n
    | none =>
      if txnRoom h e (h.leavesNorth fa) then
        .block (sendSync h (.core e) x.actx n fa 1 idx 0) (.syncrd rd h.nextTag)
      else .block h (.syncrdRoom rd n scope)

/-- SYNCRD (R283). -/
def execSyncrd (e : EaselId) (f : FmtI) (s : State) : Host.Outcome State Fault Refusal :=
  run s (fun h =>
    issue h e (wordI 0x1C 0x02 f) f.pneg f.pred (resv (immBelow f 2)) (fun h =>
      let x := h.easel e
      let n := x.cur.get f.rs1
      match nameFault h n with
      | some cls => .fault cls n
      | none => syncrdEff e f.rd n (scopeOf f) h))

/-- Pending waits that an I/O die holds (R280). -/
def pendingWaits (h : Hw) (die : Fin 2) : Nat :=
  (h.sync.waiters.filter (fun w => match w.obj with
    | .mod i => Fin.ofNat 2 (i.val / 16384) == die
    | .easel _ _ _ => false)).length

/-- Nanoseconds of a tcode; none for 0 (R284). -/
def tcodeNs (t : Nat) : Option Nat := if t = 0 then none else some (2 ^ (t - 1) * 1000)

def addWaiter (h : Hw) (w : Waiter) : Hw :=
  { h with sync := { h.sync with waiters := h.sync.waiters ++ [w] } }

/-- A WAIT reaches its object: it arrives at a barrier, or waits on a counter and is served as its turn
comes (R278, R279, R281). -/
def enterWait (h : Hw) (o : ObjId) (e : EaselId) (c : CtxId) (n : Nat) (consume : Bool) : Hw :=
  let w0 : Waiter := { obj := o, easel := e, ctx := c, threshold := n, consume := consume, gen := none }
  match o with
  | .mod i =>
    if isBarrier (h.obj o) then
      let r := arrive h i
      releaseDue (addWaiter r.2 { w0 with gen := some r.1 }) i
    else serve (addWaiter h w0) o
  | .easel _ _ _ => serve (addWaiter h w0) o

/-- The I/O die of a module-scope object has room for one more pending WAIT (R280); an easel object's WAIT takes no
entry of a die's table. -/
def waitRoom (h : Hw) : ObjId → Bool
  | .mod i => decide (pendingWaits h (Fin.ofNat 2 (i.val / 16384)) < 4096)
  | .easel _ _ _ => true

/-- A WAIT whose name has been checked: it reaches its object, where its context waits, or the easel holds it while
the die's table is full (R280). -/
def waitEff (o : ObjId) (n : Nat) (consume : Bool) (left : Option Nat) (h : Hw) : Eff :=
  if waitRoom h o then .block h (.sync o left) else .block h (.waitRoom o n consume left)

/-- The WAIT on which the core of easel `e` has just begun to wait reaches its object. -/
def waitArrives (h0 h : Hw) (e : EaselId) (n : Nat) (consume : Bool) : Hw :=
  match (h0.easel e).blocked.map (·.what), (h.easel e).blocked.map (·.what) with
  | some (WaitFor.sync _ _), _ => h
  | _, some (WaitFor.sync o _) => enterWait h o e (h.easel e).actx n consume
  | _, _ => h

/-- WAIT (R278–R281): imm38 [1:0] scope, [2] consume, [6:3] tcode.  In service mode it does nothing (assumption
22). -/
def execWait (e : EaselId) (f : FmtI) (s : State) : Host.Outcome State Fault Refusal :=
  run s (fun h =>
    let w := wordI 0x1C 0x01 f
    let r := (h.easel e).cur
    let k := wfld (r.get f.rd) 0 48
    let c := f.imm.getLsbD 2
    waitArrives h (issue h e w f.pneg f.pred (resv (immBelow f 7)) (fun h =>
      let x := h.easel e
      let n := r.get f.rs1
      match nameFault h n with
      | some cls => .fault cls n
      | none =>
        if wfld n 33 2 = 3 ∧ wfld n 23 10 ≠ h.fa then .fault 0x25 n
        else match resolveName h x.actx e n (scopeOf f) with
          | .obj o =>
            if x.service || (!isBarrier (h.obj o) && k == 0) then .done h
            else waitEff o k c (tcodeNs (fld f.imm.toNat 3 4)) h
          | _ => .fault 0x27 n)) e k c)

/-- Removes waiters that will not be served. -/
def dropWaiters (h : Hw) (p : Waiter → Bool) : Hw :=
  { h with sync := { h.sync with waiters := h.sync.waiters.filter (fun w => !p w) } }

/-- SYNC_WAIT_TIMEOUT: the WAIT's time has expired and it faults precisely with 0x20; it consumes nothing,
and an arrival at a barrier stays counted (R284, R295). -/
def execSyncWaitTimeout (e : EaselId) (s : State) : Host.Outcome State Fault Refusal :=
  run s (fun h =>
    let x := h.easel e
    match x.blocked with
    | some b =>
      (match b.what with
        | .sync o (some 0) =>
          let h1 := dropWaiters h (fun w => w.obj == o && w.easel == e && w.ctx == x.actx)
          waitFault (h1.count (blkBase (.syn (dieOf e)) + 0x18) 1) e b 0x20
            (x.core.get (BitVec.ofNat 5 (wfld b.inst 38 5)))
        | .waitRoom _ _ _ (some 0) =>
          waitFault (h.count (blkBase (.syn (dieOf e)) + 0x18) 1) e b 0x20
            (x.core.get (BitVec.ofNat 5 (wfld b.inst 38 5)))
        | _ => h)
    | none => h)

/-- BARRIER_RELEASE_TIME: the FTC has reached the release time of a completed generation (R281). -/
def execBarrierReleaseTime (obj : Fin 32768) (s : State) : Host.Outcome State Fault Refusal :=
  run s (fun h => releaseDue h obj)

end Sys2Proof.Machine
end

