-- ==== Sys2Proof/Machine/Atomic.lean ====
section
/-! DEFINITION. Atomic operations (R286–R291). -/

namespace Sys2Proof.Machine

/-- Bytes of an ATOM's target (Table 9-4). -/
def atomSize (op : Nat) : Nat := if op = 0xB then 16 else 8

/-- New value of the target, as a number of its size, from the old one and the operands (Table 9-4, R287). -/
def atomNew (op : Nat) (old : Nat) (b c : Word) : Nat :=
  let o : Word := BitVec.ofNat 64 old
  match op with
  | 0x0 => b.toNat
  | 0x1 => if o = c then b.toNat else old
  | 0x2 => (o + b).toNat
  | 0x3 => (o &&& b).toNat
  | 0x4 => (o ||| b).toNat
  | 0x5 => (o ^^^ b).toNat
  | 0x6 => (if o.slt b then o else b).toNat
  | 0x7 => (if o.slt b then b else o).toNat
  | 0x8 => (if o < b then o else b).toNat
  | 0x9 => (if o < b then b else o).toNat
  | 0xA => addA 64 old b.toNat
  | _ => addA 128 old (b.toNat + c.toNat * 2 ^ 64)

/-- Performs an atomic at a local offset: the old low word and the hardware after (R290). -/
def atomPerform (h : Hw) (op off : Nat) (b c : Word) : Word × Hw :=
  let n := atomSize op
  let old := leNat (h.mem.read off n)
  let h1 := touchRead h off n
  (BitVec.ofNat 64 old, { h1 with mem := h1.mem.write off (leBytes n (atomNew op old b c)) })

/-- An unvarnished sketch write of the context covers the target's granule, on any easel and in any branch
(R234). -/
def sketchCovers (h : Hw) (c : CtxId) (off : Nat) : Bool :=
  h.sk.slots.any (fun s => s.ctx == c && s.granule == off / 64)

/-- Payload of an atomic request: the operation, then b and c (assumption 17). -/
def atomBody (op : Nat) (b c : Word) : Bytes := wordsBytes [put op 0 4, b, c]

/-- The checks and the effect of an ATOM in the order of R288. -/
def atomEff (e : EaselId) (op : Nat) (rd : BitVec 5) (a b c : Word) (h : Hw) : Eff :=
  let x := h.easel e
  let n := atomSize op
  let held : Eff := .block h (.atomRoom op rd a b c)
  match coreDecode h x a with
  | .fault cls => .fault (alignFirst cls a.toNat n) a
  | .local off =>
    if off % n ≠ 0 then .fault 0x14 a
    else if sketchCovers h x.actx off then .fault 0x34 a
    else if chanWaits h off n || sbHolds x a n then held
    else
      let r := atomPerform h op off b c
      readEff h x a off n (.done ((dropLines r.2 e a n).setS e rd r.1))
  | .host bus => if bus % n ≠ 0 then .fault 0x14 a else .fault 0x26 a
  | .remote fa off =>
    if off % n ≠ 0 then .fault 0x14 a
    else match sendFault h (h.ctx x.actx).job fa with
      | some cls => .fault cls a
      | none =>
        if sbHolds x a n || !txnRoom h e (h.leavesNorth fa) then held
        else .block (sendReq (dropLines h e a n) (.core e) x.actx a true
          (h.hdrTo fa 4 4 24 off) (atomBody op b c)) (.atom rd h.nextTag)

/-- An ATOM (major 0x1E): minor[5:2] the operation, minor[1:0] the scope; rs3 is used by CAS and ANADD128
alone (R286).  Steps run one at a time, so every scope's unit performs it indivisibly (R290, R291). -/
def atomI (op : BitVec 4) (e : EaselId) (scope : BitVec 2) (f : FmtA) (h : Hw) : Hw :=
  let usesC := op == 1 || op == 0xB
  issue h e (wordA 0x1E (op ++ scope) f) f.pneg f.pred (resv (f.low == 0 && (usesC || f.rs3 == 0)))
    (fun h =>
      let r := (h.easel e).cur
      atomEff e op.toNat f.rd (r.get f.rs1) (r.get f.rs2) (r.get f.rs3) h)

/-- SWAP: b (Table 9-4). -/
def execSwap (e : EaselId) (scope : BitVec 2) (f : FmtA) (s : State) : Host.Outcome State Fault Refusal :=
  run s (atomI 0x0 e scope f)

/-- CAS: b if old = c (Table 9-4). -/
def execCas (e : EaselId) (scope : BitVec 2) (f : FmtA) (s : State) : Host.Outcome State Fault Refusal :=
  run s (atomI 0x1 e scope f)

/-- AADD: old + b (Table 9-4). -/
def execAadd (e : EaselId) (scope : BitVec 2) (f : FmtA) (s : State) : Host.Outcome State Fault Refusal :=
  run s (atomI 0x2 e scope f)

/-- AAND: old & b (Table 9-4). -/
def execAand (e : EaselId) (scope : BitVec 2) (f : FmtA) (s : State) : Host.Outcome State Fault Refusal :=
  run s (atomI 0x3 e scope f)

/-- AOR: old | b (Table 9-4). -/
def execAor (e : EaselId) (scope : BitVec 2) (f : FmtA) (s : State) : Host.Outcome State Fault Refusal :=
  run s (atomI 0x4 e scope f)

/-- AXOR: old ^ b (Table 9-4). -/
def execAxor (e : EaselId) (scope : BitVec 2) (f : FmtA) (s : State) : Host.Outcome State Fault Refusal :=
  run s (atomI 0x5 e scope f)

/-- AMIN: signed minimum (Table 9-4). -/
def execAmin (e : EaselId) (scope : BitVec 2) (f : FmtA) (s : State) : Host.Outcome State Fault Refusal :=
  run s (atomI 0x6 e scope f)

/-- AMAX: signed maximum (Table 9-4). -/
def execAmax (e : EaselId) (scope : BitVec 2) (f : FmtA) (s : State) : Host.Outcome State Fault Refusal :=
  run s (atomI 0x7 e scope f)

/-- AMINU: unsigned minimum (Table 9-4). -/
def execAminu (e : EaselId) (scope : BitVec 2) (f : FmtA) (s : State) : Host.Outcome State Fault Refusal :=
  run s (atomI 0x8 e scope f)

/-- AMAXU: unsigned maximum (Table 9-4). -/
def execAmaxu (e : EaselId) (scope : BitVec 2) (f : FmtA) (s : State) : Host.Outcome State Fault Refusal :=
  run s (atomI 0x9 e scope f)

/-- ANADD64: anchored add of an A64 word (R287). -/
def execAnadd64 (e : EaselId) (scope : BitVec 2) (f : FmtA) (s : State) : Host.Outcome State Fault Refusal :=
  run s (atomI 0xA e scope f)

/-- ANADD128: anchored add of an A128 word; rd receives the old low half (R287). -/
def execAnadd128 (e : EaselId) (scope : BitVec 2) (f : FmtA) (s : State) : Host.Outcome State Fault Refusal :=
  run s (atomI 0xB e scope f)

end Sys2Proof.Machine
end

