-- ==== Sys2Proof/Machine/Operands.lean ====
section
/-! DEFINITION. Tile operands: descriptors (R104, R106), shapes and footprints (R126, R127), the sketch
view of memory (R232, R233), reading and writing tiles (R49, R50, R228–R230). -/

namespace Sys2Proof.Machine

/-! ### Descriptors -/

def tdRows (d : TDesc) : Nat := wfld d.w2 0 16
def tdCols (d : TDesc) : Nat := wfld d.w2 16 16
def tdStride (d : TDesc) : Nat := wfld d.w2 32 32
def tdFmt (d : TDesc) : Nat := wfld d.w3 0 6
def tdTr (d : TDesc) : Bool := bit d.w3 6
def tdScaleStride (d : TDesc) : Nat := wfld d.w3 16 32

/-- Container in bytes; one byte for 4-bit and 6-bit formats (R106). -/
def container (code : Nat) : Nat := if elemBits code < 8 then 1 else elemBits code / 8

/-- The checks of R106. -/
def tdOk (d : TDesc) : Bool :=
  let c := tdFmt d
  decide (1 ≤ c ∧ c ≤ 0x11) && wfld d.w3 7 9 == 0 && wfld d.w3 48 16 == 0 &&
    d.w0.toNat % container c == 0 && tdStride d % container c == 0 &&
    (elemBits c != 4 || tdCols d % 2 == 0) && (elemBits c != 6 || tdCols d % 4 == 0) &&
    (isMx c || d.w1 == 0)

/-- Logical shape (R126). -/
def tdLRows (d : TDesc) : Nat := if tdTr d then tdCols d else tdRows d
def tdLCols (d : TDesc) : Nat := if tdTr d then tdRows d else tdCols d

/-- The tile is empty. -/
def tdEmpty (d : TDesc) : Bool := tdRows d == 0 || tdCols d == 0

/-- Bytes of one stored row (R49). -/
def tdRowBytes (d : TDesc) : Nat := cdiv (tdCols d * elemBits (tdFmt d)) 8

/-- Scale bytes of one stored row (R104). -/
def tdScaleBytes (d : TDesc) : Nat := cdiv (tdCols d) 32

/-- Transpose is allowed on non-MX formats of the named element sizes in bits; it never is on 4-bit,
6-bit and MX formats (R126). -/
def trOk (sizes : List Nat) (d : TDesc) : Bool :=
  !tdTr d || (!isMx (tdFmt d) && sizes.contains (elemBits (tdFmt d)))

/-- A byte range by its first address and length. -/
abbrev Span := Nat × Nat

/-- Footprint of a tile: nothing where it is empty (R127). -/
def footprint (d : TDesc) : List Span :=
  if tdEmpty d then []
  else (d.w0.toNat, (tdRows d - 1) * tdStride d + tdRowBytes d) ::
    (if isMx (tdFmt d) then [(d.w1.toNat, (tdRows d - 1) * tdScaleStride d + tdScaleBytes d)] else [])

/-- The span lies wholly in easel `e`'s Palette window (R127). -/
def spanOwn (e : EaselId) (s : Span) : Bool :=
  decide (palBase e.val ≤ s.1 ∧ s.1 + s.2 ≤ palBase e.val + 0x200000)

def tileOwn (e : EaselId) (d : TDesc) : Bool := (footprint d).all (spanOwn e)

def spanMeet (a b : Span) : Bool := decide (a.1 < b.1 + b.2 ∧ b.1 < a.1 + a.2)

def tilesMeet (a b : TDesc) : Bool := (footprint a).any (fun x => (footprint b).any (spanMeet x))

/-- The same base, row_stride, logical shape, format and transpose (R137). -/
def tilesSame (a b : TDesc) : Bool :=
  a.w0 == b.w0 && a.w2 == b.w2 && tdFmt a == tdFmt b && tdTr a == tdTr b

/-! ### The sketch view -/

/-- Who reads, with the sketch state that the instruction copied (R123, R226). -/
structure View where
  ctx : CtxId
  easel : EaselId
  mask : BitVec 8
  deriving DecidableEq, Repr

/-- Branches admitted to an instruction (R225). -/
def QEntry.branches (q : QEntry) : BitVec 8 := if q.sketch then q.sbm else 0

def QEntry.view (q : QEntry) (e : EaselId) : View := { ctx := q.ctx, easel := e, mask := q.branches }

/-- The same agent, reading the varnished image (Table 7-2). -/
def View.varnished (v : View) : View := { v with mask := 0 }

/-- Of two slots that cover a byte, the one that a read sees: the lowest branch, then the latest issued
(R232). -/
def slotBetter (a b : SketchSlot) : Bool :=
  decide (b.branch.toNat < a.branch.toNat) || (a.branch == b.branch && decide (a.order ≤ b.order))

def pickSlot (l : List SketchSlot) : Option SketchSlot :=
  l.foldl (fun acc s => match acc with
    | none => some s
    | some a => if slotBetter a s then some s else some a) none

/-- The slots of a view that can cover the granules of bytes [off, off+n). -/
def viewSlots (h : Hw) (v : View) (off n : Nat) : List SketchSlot :=
  if v.mask = 0 then []
  else h.sk.slots.filter (fun s => s.ctx == v.ctx && s.easel == v.easel && v.mask.getLsbD s.branch.toNat &&
    decide (off / 64 ≤ s.granule ∧ 64 * s.granule < off + n))

/-- One byte as the slots `l` over memory show it. -/
def overByte (m : Mem) (l : List SketchSlot) (a : Nat) : Byte :=
  match pickSlot (l.filter (fun s => (slotByte s a).isSome)) with
  | some s => (slotByte s a).getD 0
  | none => m.byte a

def overRead (m : Mem) (l : List SketchSlot) : Nat → Nat → Bytes
  | _, 0 => []
  | a, n + 1 => overByte m l a :: overRead m l (a + 1) n

/-- Bytes from a local offset as a view shows them. -/
def viewRead (h : Hw) (v : View) (off n : Nat) : Bytes :=
  match viewSlots h v off n with
  | [] => h.mem.read off n
  | l => overRead h.mem l off n

/-- Bytes of [off, off+n) that come from sketch slots (R242). -/
def viewHits (h : Hw) (v : View) (off n : Nat) : Nat :=
  match viewSlots h v off n with
  | [] => 0
  | l => ((List.range n).filter (fun i => l.any (fun s => (slotByte s (off + i)).isSome))).length

/-- The slot over `l` that a view shows at a byte. -/
def slotAt (l : List SketchSlot) (a : Nat) : Option SketchSlot := pickSlot (l.filter (fun s => (slotByte s a).isSome))

/-- The pool words of the unvarnished slots that a view shows in bytes [off, off+n) (R221). -/
def viewWords (h : Hw) (v : View) (off n : Nat) : List Nat :=
  let l := viewSlots h v off n
  (l.filter (fun s => (List.range n).any (fun i => slotAt l (off + i) == some s))).flatMap (slotWords · off n)

/-- An uncorrectable word that reading bytes [off, off+n) meets: of a slot that it shows, or at home where no slot
hides it. -/
def viewBad (h : Hw) (v : View) (off n : Nat) : Option Nat :=
  match (viewWords h v off n).find? (fun w => h.mem.bad (w / 8)) with
  | some w => some w
  | none =>
    match h.mem.badRead off n with
    | none => none
    | some w =>
      let l := viewSlots h v off n
      if (List.range 8).all (fun i => decide (w + i < off ∨ off + n ≤ w + i) ||
          l.any (fun s => (slotByte s (w + i)).isSome)) then none else some w

/-- What reading bytes [off, off+n) under a view does: corrected words are counted, at home and in the pool (R160,
R221), and bytes of sketch data (R242). -/
def touchView (h : Hw) (v : View) (off n : Nat) : Hw :=
  let k := viewHits h v off n
  let h1 := (viewWords h v off n).foldl (fun g w => touchRead g w 8) (touchRead h off n)
  if k = 0 then h1 else perfAdd h1 v.ctx 9 k

/-! ### Reading tiles -/

/-- Byte offset of stored row `i`. -/
def rowOff (d : TDesc) (i : Nat) : Nat := d.w0.toNat + i * tdStride d

/-- The encodings of the first `n` elements packed in a row's bytes (R49). -/
def unpack (bits n : Nat) (b : Bytes) : List Nat :=
  (List.range n).map (fun j => leNat (sub b (j * bits / 8) (cdiv bits 8 + 1)) >>> (j * bits % 8) % 2 ^ bits)

/-- Exchanges rows and columns of a matrix with `n` columns. -/
def transposeL {α : Type} (n : Nat) (m : List (List α)) : List (List α) :=
  (List.range n).map (fun j => m.filterMap (fun r => r[j]?))

/-- Encodings of a tile in its own Palette, as logical rows. -/
def readTile (h : Hw) (v : View) (d : TDesc) : List (List Nat) :=
  let rows := (List.range (tdRows d)).map (fun i =>
    unpack (elemBits (tdFmt d)) (tdCols d) (viewRead h v (rowOff d i) (tdRowBytes d)))
  if tdTr d then transposeL (tdCols d) rows else rows

/-- Values of a tile, as logical rows, scales not applied. -/
def readNums (h : Hw) (v : View) (d : TDesc) : List (List Num) :=
  (readTile h v d).map (fun r => r.map (readElem (tdFmt d)))

/-- Scale of an E8M0 byte: none for NaN (R50). -/
def scaleOf (b : Byte) : Option Int := if b = 0xFF then none else some ((b.toNat : Int) - 127)

/-- The block scales of each row of an MX tile; those of another format are 0 (R50). -/
def readScales (h : Hw) (v : View) (d : TDesc) : List (List (Option Int)) :=
  (List.range (tdLRows d)).map (fun i =>
    if isMx (tdFmt d) then
      (viewRead h v (d.w1.toNat + i * tdScaleStride d) (tdScaleBytes d)).map scaleOf
    else List.replicate (cdiv (tdLCols d) 32) (some 0))

/-- Spans that reading or writing a tile touches: every stored row, then every scale row. -/
def tileSpans (d : TDesc) : List Span :=
  if tdEmpty d then []
  else (List.range (tdRows d)).map (fun i => (rowOff d i, tdRowBytes d)) ++
    (if isMx (tdFmt d) then
      (List.range (tdRows d)).map (fun i => (d.w1.toNat + i * tdScaleStride d, tdScaleBytes d)) else [])

/-- The first uncorrectable word of a tile. -/
def tileBad (h : Hw) (v : View) (d : TDesc) : Option Nat :=
  (tileSpans d).findSome? (fun s => viewBad h v s.1 s.2)

/-- Reading a tile corrects and counts its corrected words and counts bytes of sketch data (R160, R242). -/
def touchTile (h : Hw) (v : View) (d : TDesc) : Hw := (tileSpans d).foldl (fun g s => touchView g v s.1 s.2) h

/-! ### Writing -/

/-- Bytes to write at a local offset. -/
abbrev Wr := Nat × Bytes

/-- Packs the encodings of a stored row into bytes (R49). -/
def packRow (bits : Nat) (vs : List Nat) : Bytes :=
  leBytes (cdiv (vs.length * bits) 8) (vs.foldr (fun x acc => x + acc * 2 ^ bits) 0)

/-- The writes that store a matrix of encodings in a tile, from logical row `lo` on. -/
def tileWritesAt (d : TDesc) (lo : Nat) (m : List (List Nat)) : List Wr :=
  let bits := elemBits (tdFmt d)
  if tdTr d then
    (transposeL (tdLCols d) m).zipIdx.map (fun p => (rowOff d p.2 + lo * (bits / 8), packRow bits p.1))
  else m.zipIdx.map (fun p => (rowOff d (lo + p.2), packRow bits p.1))

/-- The writes that store the scale bytes of an MX tile, from row `lo` on. -/
def scaleWritesAt (d : TDesc) (lo : Nat) (m : List (List Nat)) : List Wr :=
  m.zipIdx.map (fun p => (d.w1.toNat + (lo + p.2) * tdScaleStride d, p.1.map (BitVec.ofNat 8)))

/-- The writes that store a whole tile. -/
def tileWrites (d : TDesc) (m : List (List Nat)) : List Wr := tileWritesAt d 0 m

/-- The writes that store all its scale bytes. -/
def scaleWrites (d : TDesc) (m : List (List Nat)) : List Wr := scaleWritesAt d 0 m

/-- The sketchable regions of a context in a partition: first offset and end (R222). -/
def skRegions (h : Hw) (c : CtxId) (p : PartId) : List Span :=
  (List.range 64).filterMap (fun m =>
    let b := h.breg (.skt p) (0x600 + 16 * m)
    let w := h.breg (.skt p) (0x608 + 16 * m)
    if bit w 31 ∧ wfld w 24 6 = c.val then some (wfld b 0 48, wfld w 0 23 * 4096) else none)

/-- Bytes [off, off+n) lie in sketchable regions of the context (R228). -/
def inRegions (h : Hw) (c : CtxId) (off n : Nat) : Bool :=
  match partOfOff off with
  | none => false
  | some p =>
    let rs := skRegions h c p
    (List.range (cdiv (off % 64 + n) 64)).all (fun k =>
      rs.any (fun r => decide (r.1 ≤ (off / 64 + k) * 64 ∧ (off / 64 + k) * 64 < r.1 + r.2)))

/-- Slots that a context's unvarnished sketch writes hold in a partition (R224). -/
def heldCount (h : Hw) (c : CtxId) (p : PartId) : Nat :=
  (h.sk.slots.filter (fun s => s.ctx == c && s.part == p)).length

/-- Allotment of a context in a partition (R224). -/
def allotment (h : Hw) (c : CtxId) (p : PartId) : Nat := wfld (h.breg (.skt p) (0x100 + 8 * c.val)) 0 23

/-- Merges a write into the granule images of one instruction: granule, mask, bytes (R229). -/
def addGran (off : Nat) (bs : Bytes) (k : Nat) : List (Nat × BitVec 64 × Bytes) → List (Nat × BitVec 64 × Bytes)
  | [] =>
    let inn (i : Nat) : Bool := decide (off ≤ k * 64 + i ∧ k * 64 + i < off + bs.length)
    [(k, BitVec.ofBoolListLE ((List.range 64).map inn) |>.setWidth 64,
      (List.range 64).map (fun i => if inn i then (bs[k * 64 + i - off]?).getD 0 else 0))]
  | g :: gs =>
    if g.1 = k then
      let inn (i : Nat) : Bool := decide (off ≤ k * 64 + i ∧ k * 64 + i < off + bs.length)
      (k, g.2.1 ||| (BitVec.ofBoolListLE ((List.range 64).map inn) |>.setWidth 64),
        g.2.2.zipIdx.map (fun p => if inn p.2 then (bs[k * 64 + p.2 - off]?).getD 0 else p.1)) :: gs
    else g :: addGran off bs k gs

/-- Granule images of an instruction's sketch writes, in the order in which they are first touched. -/
def granules (ws : List Wr) : List (Nat × BitVec 64 × Bytes) :=
  ws.foldl (fun acc w =>
    (List.range (cdiv (w.1 % 64 + w.2.length) 64)).foldl
      (fun a k => addGran w.1 w.2 (w.1 / 64 + k) a) acc) []

/-- The branches of a mask, rising. -/
def branchList (m : BitVec 8) : List (BitVec 3) :=
  ((List.range 8).filter (fun b => m.getLsbD b)).map (BitVec.ofNat 3)

/-- The slots that an instruction's sketch writes take, in the pool of the writing easel's partition: one for each
granule and admitted branch (R224, R229, assumption 30).  Their places are chosen as they are taken. -/
def slotsOf (q : QEntry) (e : EaselId) (ws : List Wr) : List SketchSlot :=
  (granules ws).flatMap (fun g => (branchList q.branches).map (fun b =>
    { part := partOf e, place := 0, ctx := q.ctx, easel := e, branch := b, seq := q.seq,
      order := q.order, granule := g.1, mask := g.2.1, bytes := g.2.2 }))

/-- The first place from `n` on that is free in a partition's pool, found among as many places as `l` lists. -/
def freePlace (used : List Nat) : List Nat → Nat → Nat
  | [], n => n
  | _ :: l, n => if used.contains n then freePlace used l (n + 1) else n

/-- A free place in a partition's pool; which one is not architectural (assumption 30). -/
def slotPlace (h : Hw) (p : PartId) : Nat :=
  let used := ((usedSlots h).filter (fun s => s.part == p)).map (·.place)
  freePlace used used 0

/-- A slot enters its place with fresh check bits (R159). -/
def putSlot (h : Hw) (s : SketchSlot) : Hw :=
  let s1 := { s with place := slotPlace h s.part }
  let w := slotOff s1 / 8
  { h with sk := { h.sk with slots := h.sk.slots ++ [s1] }
           mem := { h.mem with ecc := SMap.eraseRange h.mem.ecc w (w + 8) } }

/-- Takes slots in order while the context's allotments allow it (R230). -/
def takeSlots (h : Hw) : List SketchSlot → Hw
  | [] => h
  | s :: l =>
    if heldCount h s.ctx s.part < allotment h s.ctx s.part then
      let n := popc 64 s.mask.toNat
      let h1 := perfAdd (putSlot h s) s.ctx 8 n
      takeSlots (h1.countWrap (blkBase (.skt s.part) + 0x20) n) l
    else h

/-- All slots fit the allotments. -/
def slotsFit (h : Hw) (ss : List SketchSlot) : Bool :=
  (List.range 4).all (fun p =>
    let p4 : PartId := Fin.ofNat 4 p
    let mine := ss.filter (fun s => s.part == p4)
    match mine with
    | [] => true
    | s :: _ => decide (heldCount h s.ctx p4 + mine.length ≤ allotment h s.ctx p4))

/-- Slots of a partition that are in use: unvarnished, not yet folded, or not yet zeroed. -/
def poolUsed (h : Hw) (p : PartId) : Nat := ((usedSlots h).filter (fun s => s.part == p)).length

/-- The pools have free slots for these writes; otherwise the instruction waits (R230). -/
def poolRoom (h : Hw) (ss : List SketchSlot) : Bool :=
  (List.range 4).all (fun p =>
    let p4 : PartId := Fin.ofNat 4 p
    let n := (ss.filter (fun s => s.part == p4)).length
    n == 0 || decide (poolUsed h p4 + n ≤ 4194304))

/-- The words that a write of bytes [off, off+n) merges into are read and corrected (R160, R165). -/
def touchMerge (h : Hw) (off n : Nat) : Hw :=
  let h1 := if off % 8 = 0 then h else touchRead h off 1
  if (off + n) % 8 = 0 then h1 else touchRead h1 (off + n - 1) 1

/-- Performs an ordinary write at a local offset. -/
def writeLocal (h : Hw) (off : Nat) (b : Bytes) : Hw :=
  let h1 := touchMerge h off b.length
  { h1 with mem := h1.mem.write off b }

/-- Performs ordinary writes at local offsets. -/
def applyWrites (h : Hw) (ws : List Wr) : Hw := ws.foldl (fun g w => writeLocal g w.1 w.2) h

/-- An uncorrectable word that the writes would merge into (R163). -/
def writesBad (h : Hw) (ws : List Wr) : Option Nat :=
  ws.findSome? (fun w => h.mem.badWrite w.1 w.2.length)

end Sys2Proof.Machine
end

