-- ==== Sys2Proof/Machine/Balpa.lean ====
section
/-! DEFINITION. Balpa-4 decoding (R51–R53) as a glaze stream applies it to a block (R213). -/

namespace Sys2Proof.Machine

/-- A code: its length, its bits, its symbol. -/
abbrev Code := Nat × Nat × Nat

/-- The codes of one length, from a first code; the next code after them (R52). -/
def codesOf (lens : List Nat) (n code : Nat) : List Code × Nat :=
  lens.zipIdx.foldl (fun r p => if p.1 = n then (r.1 ++ [(n, r.2, p.2)], r.2 + 1) else r) ([], code)

/-- The canonical code (R52). -/
def canonical (lens : List Nat) : List Code :=
  ((List.range 8).foldl (fun (r : List Code × Nat) k =>
    let y := codesOf lens (k + 1) r.2
    (r.1 ++ y.1, 2 * y.2)) ([], 0)).1

/-- Bits of a byte string, most significant first (R52). -/
def msbBits (b : Bytes) : List Bool :=
  b.flatMap (fun x => (List.range 8).map (fun i => x.toNat.testBit (7 - i)))

/-- The next symbol: at most `k` more bits after `n` bits that read `code`. -/
def nextSymbol (t : List Code) : Nat → Nat → Nat → List Bool → Option (Nat × List Bool)
  | 0, _, _, _ => none
  | _, _, _, [] => none
  | k + 1, n, code, b :: bs =>
    let c := 2 * code + b2n b
    match t.find? (fun x => x.1 == n + 1 && x.2.1 == c) with
    | some x => some (x.2.2, bs)
    | none => nextSymbol t k (n + 1) c bs

/-- `n` symbols; none where the bits end or form no code. -/
def symbols (t : List Code) : Nat → List Bool → Option (List Nat × List Bool)
  | 0, bs => some ([], bs)
  | n + 1, bs =>
    match nextSymbol t 8 0 0 bs with
    | none => none
    | some (s, rest) =>
      match symbols t n rest with
      | none => none
      | some (l, r) => some (s :: l, r)

/-- A decoded group: bytes it occupies, element bytes, scale bytes. -/
structure Group where
  used : Nat
  elems : Bytes
  scales : Bytes
  deriving DecidableEq, Repr

/-- Decodes the group at the start of a byte string; none where a check of R52 fails. -/
def balpaGroup (b : Bytes) : Option Group :=
  let w := leNat (b.take 8)
  let lens := (List.range 16).map (fun s => fld w (4 * s) 4)
  let nblocks := leNat (sub b 8 2)
  let pbits := leNat (sub b 12 4)
  let code := cdiv pbits 8
  let total := cdiv (16 + nblocks + code) 16 * 16
  let kraft := (lens.map (fun n => if n = 0 then 0 else 2 ^ (8 - n))).foldl (· + ·) 0
  if lens.any (fun n => decide (8 < n)) || kraft != 256 || nblocks == 0 || decide (256 < nblocks) ||
      leNat (sub b 10 2) != 0 || decide (b.length < total) then none
  else
    let bits := msbBits (sub b (16 + nblocks) code)
    let pad := sub b (16 + nblocks + code) (total - (16 + nblocks + code))
    match symbols (canonical lens) (32 * nblocks) (bits.take pbits) with
    | some (syms, []) =>
      if (bits.drop pbits).any id || pad.any (fun x => x != 0) then none
      else some { used := total, elems := packRow 4 syms, scales := sub b 16 nblocks }
    | _ => none

/-- Output of a block: elements, scales, and whether every check passed; what precedes a failing group is
kept. -/
structure BlockOut where
  elems : Bytes
  scales : Bytes
  ok : Bool
  deriving DecidableEq, Repr

/-- Decodes the groups of a block: a 16-byte unit of zeros ends them, and zeros follow it (R213). -/
def balpaBlock : Nat → Bytes → BlockOut
  | 0, b => { elems := [], scales := [], ok := b.isEmpty }
  | k + 1, b =>
    if b.isEmpty then { elems := [], scales := [], ok := true }
    else if (b.take 16).all (· == 0) then { elems := [], scales := [], ok := b.all (· == 0) }
    else match balpaGroup b with
      | none => { elems := [], scales := [], ok := false }
      | some g =>
        let r := balpaBlock k (b.drop g.used)
        { elems := g.elems ++ r.elems, scales := g.scales ++ r.scales, ok := r.ok }

end Sys2Proof.Machine
end

