-- ==== Sys2Proof/Machine/Flags.lean ====
section
/-! DEFINITION. Arithmetic flags and traps (R64–R66), and the share of cycles F (R152, R153). -/

namespace Sys2Proof.Machine

/-- Flag bits of cs_arith (Table 2-6). -/
def flAovf (set : Nat) (b : Bool) : Word := bitw b set
def flMinv (set : Nat) (b : Bool) : Word := bitw b (4 + set)
def flCvt (b : Bool) : Word := bitw b 8
def flInvalid (b : Bool) : Word := bitw b 9

/-- The flags of vector operations (Table 2-6). -/
def flVu (f : VFlags) : Word :=
  bitw f.invalid 9 ||| bitw f.divzero 10 ||| bitw f.ovf 11 ||| bitw f.under 12 ||| bitw f.inexact 13

/-- The trap classes that the flags set by one instruction raise under the trap enables it copied, in
ascending order (R65, R66, Table 2-7). -/
def trapClasses (arith flags : Word) : List (BitVec 8) :=
  (if bit arith 16 && wfld flags 0 4 != 0 then [0x50] else []) ++
  (if bit arith 17 && wfld flags 4 4 != 0 then [0x51] else []) ++
  (if bit arith 18 && bit flags 8 then [0x52] else []) ++
  (if bit arith 19 && bit flags 9 then [0x53] else []) ++
  (if bit arith 20 && bit flags 10 then [0x54] else []) ++
  (if bit arith 21 && bit flags 11 then [0x55] else [])

/-- Engines set flags of cs_arith; a flag stays set until software clears it (R64). -/
def setFlags (h : Hw) (e : EaselId) (flags : Word) : Hw :=
  h.modEasel e (fun x => { x with core := { x.core with arith := x.core.arith ||| flags } })

/-- ANCHOR with keep = 0 clears the set's aovf and minv flags (R58). -/
def clearSetFlags (h : Hw) (e : EaselId) (set : Nat) : Hw :=
  h.modEasel e (fun x => { x with core := { x.core with
    arith := x.core.arith &&& ~~~(bitw true set ||| bitw true (4 + set)) } })

/-- F_ramp of an easel (R153). -/
def rampF (h : Hw) (e : EaselId) : Nat :=
  match (h.easel e).ramp.run with
  | none => 64
  | some r =>
    let t := h.now - r.start
    if t < r.stagger then 0 else Nat.min 64 (8 + 56 * (t - r.stagger) / r.len)

/-- Chip-level recovery is in progress. -/
def Hw.chipRec (h : Hw) : Bool := h.flt.recoveries.any (fun r => r.unit == .chip)

/-- F_warn of an easel (R152, R463, Table 15-2, Table 16-8): 0 under a droop cut of its die, a trip or
chip-level recovery, 16 under a clamp, 64 otherwise. -/
def warnF (h : Hw) (e : EaselId) : Nat :=
  if h.thm.tripped || h.chipRec || h.pwr.droop.getLsbD (dieOf e).val then 0
  else if h.pwr.pinWarn || h.pwr.uvWarn || h.pwr.leakWet || h.pwr.leakPins != 0 then 16
  else 64

/-- F in force (R152). -/
def easelF (h : Hw) (e : EaselId) : Nat := Nat.min (rampF h e) (Nat.min (h.easel e).flim (warnF h e))

end Sys2Proof.Machine
end

