-- ==== Sys2Proof/Machine/Matrix.lean ====
section
/-! DEFINITION. What the matrix engine's instructions do to accumulators and tiles (R57–R72, R128–R134). -/

namespace Sys2Proof.Machine

/-! ### Accumulator sets -/

/-- Fields of the anchor word (Table 2-5). -/
def ancL (w : Word) : Int := sgn 10 (wfld w 0 10)
def ancSpan (w : Word) : Nat := wfld w 16 7
def ancFloat (w : Word) : Bool := bit w 24
def ancKeep (w : Word) : Bool := bit w 25

/-- The span limit 2^(s-1) - 1 (R59). -/
def ancLim (w : Word) : Int := (2 ^ (ancSpan w - 1) : Nat) - 1

/-- An anchor word that R134 accepts. -/
def ancOk (w : Word) : Bool :=
  wfld w 10 6 == 0 && !bit w 23 && wfld w 26 38 == 0 &&
    (ancFloat w || decide (8 ≤ ancSpan w ∧ ancSpan w ≤ 96))

/-- The anchor word of a set; a set that no ANCHOR has written holds 0 (assumption 31). -/
def AccSets.anchor (a : AccSets) (set : Nat) : Word := SMap.get 0 a.anchors set

/-- Key of an entry of a set. -/
def accKey (set r c : Nat) : Nat := set * 12288 + r * 128 + c

def AccErrs.none : AccErrs := { low := 0, high := 0, t1 := 0, t2 := 0, t3 := 0, lost := 0 }

/-- Tag bits that a majority of the three copies shows flipped (R168). -/
def AccErrs.flips (x : AccErrs) : BitVec 2 := (x.t1 &&& x.t2) ||| (x.t1 &&& x.t3) ||| (x.t2 &&& x.t3)

/-- The entry with key `k` as storage delivers it: its tag by majority vote, bit by bit (R168). -/
def AccSets.read (a : AccSets) (k : Nat) : AccEntry :=
  let x := SMap.get AccEntry.zero a.cells k
  match SMap.find a.errs k with
  | some e => { x with tag := x.tag ^^^ e.flips }
  | none => x

def AccSets.entry (a : AccSets) (set r c : Nat) : AccEntry := a.read (accKey set r c)

/-- Writes an entry, with fresh check bits and equal tag copies (R159, R169). -/
def AccSets.setEntry (a : AccSets) (set r c : Nat) (x : AccEntry) : AccSets :=
  { a with cells := SMap.set AccEntry.zero a.cells (accKey set r c) x, errs := SMap.del a.errs (accKey set r c) }

/-- Errors appear in the storage of an entry. -/
def AccSets.spoil (a : AccSets) (x : AccErr) : AccSets :=
  let o := SMap.get AccErrs.none a.errs x.entry
  let n : AccErrs :=
      { low := o.low + x.low, high := o.high + x.high, t1 := o.t1 ^^^ x.t1, t2 := o.t2 ^^^ x.t2, t3 := o.t3 ^^^ x.t3,
        lost := o.lost ||| x.lost }
  { a with errs := SMap.set AccErrs.none a.errs x.entry n }

/-- Reading the entry fails: three bit errors in one of its words, or a tag bit of which a copy cannot be read (R160,
R168). -/
def AccErrs.bad (x : AccErrs) : Bool := decide (3 ≤ x.low ∨ 3 ≤ x.high) || x.lost != 0

/-- Corrected words and tag bits that reading the entry counts (R160, R168). -/
def AccErrs.corrected (x : AccErrs) : Nat :=
  b2n (decide (0 < x.low ∧ x.low < 3)) + b2n (decide (0 < x.high ∧ x.high < 3)) +
    popc 2 ((x.t1 ||| x.t2 ||| x.t3) ^^^ (x.t1 &&& x.t2 &&& x.t3)).toNat

def AccEntry.int (x : AccEntry) : Int := sgn 128 x.v.toNat

def mkEntry (v : Int) (tag : BitVec 2) : AccEntry := { v := BitVec.ofInt 128 v, tag := tag }

/-- A float-mode entry (R72). -/
def fltEntry (bits : Nat) : AccEntry := { v := BitVec.ofNat 128 bits, tag := 0 }

/-- The value that leaves a set (R59, R60, R132). -/
def entryNum (w : Word) (x : AccEntry) : Num :=
  if ancFloat w then readFlt fFP32 (x.v.toNat % 2 ^ 32)
  else if x.tag = 3 then .nan
  else if x.tag ≠ 0 then .inf (x.tag == 2)
  else .fin (decide (x.int < 0)) x.int.natAbs (ancL w)

/-- An accumulator update under way: the sets, and the flags it has set. -/
structure AccRun where
  acc : AccSets
  flags : Word
  deriving DecidableEq, Repr

/-- Region of an instruction: the set and its origin (R128). -/
def QEntry.set (q : QEntry) : Nat := fld q.fmt.func.toNat 0 2
def QEntry.row0 (q : QEntry) : Nat := wfld (nthW q.xs 0) 0 7
def QEntry.col0 (q : QEntry) : Nat := wfld (nthW q.xs 0) 8 7
def QEntry.fbit (q : QEntry) (i : Nat) : Bool := q.fmt.func.getLsbD i

/-! ### MMA (R62, R72, R129) -/

/-- Cuts a list into runs of `n`. -/
def chunks {α : Type} (n : Nat) : Nat → List α → List (List α)
  | 0, _ => []
  | _, [] => []
  | k + 1, l => l.take n :: chunks n k (l.drop n)

/-- The blocks of a dot product: the scale exponent and the products with their generated NaNs. -/
def dotBlocks (ra rb : List Num) (sa sb : List (Option Int)) : List (Option Int × List (Num × Bool)) :=
  let ss := (sa.zip sb).map (fun p => match p.1, p.2 with
    | some a, some b => some (a + b)
    | _, _ => none)
  ((chunks 32 ra.length (ra.zip rb)).zip ss).map (fun p =>
    (p.2, p.1.map (fun ab => mulNum ab.1 ab.2 p.2)))

/-- One entry under blocks of an MMA, with the aovf and minv that they set; `last` where its end is among them. -/
def mmaEntry (w : Word) (ca cb : Nat) (bs : List (Option Int × List (Num × Bool))) (x : AccEntry) (last : Bool) :
    AccEntry × Bool × Bool :=
  if ancFloat w then
    let r := bs.foldl (fun (a : Nat × Bool) b =>
      let y := floatBlock ca cb b.1 b.2 a.1
      (y.1, a.2 || y.2)) (x.v.toNat % 2 ^ 32, false)
    (fltEntry r.1, false, r.2)
  else
    let lim := ancLim w
    let a0 : Acc := { v := x.int, tag := x.tag, aovf := false, minv := false }
    let a1 := bs.foldl (fun a b => anchoredBlock (ancL w) lim ca cb b.1 b.2 a) a0
    let a := if last then anchoredEnd lim a1 else a1
    (mkEntry a.v a.tag, a.aovf, a.minv)

/-- Logical shape of an MMA: M, N, K. -/
def mmaM (q : QEntry) : Nat := tdLRows q.ta
def mmaN (q : QEntry) : Nat := tdLRows q.tb
def mmaK (q : QEntry) : Nat := tdLCols q.ta

/-- M, N and K all non-zero (R153). -/
def mmaWork (q : QEntry) : Bool := mmaM q != 0 && mmaN q != 0 && mmaK q != 0

/-- The 32-element K blocks of an MMA (R125). -/
def mmaBlocks (q : QEntry) : Nat := cdiv (mmaK q) 32

/-- MMA over its region (R129): `n` K blocks from the first that has not been added yet; the end of the instruction
with the last. -/
def mmaRun (h : Hw) (e : EaselId) (q : QEntry) (a : AccSets) (n : Nat) : AccRun :=
  if !mmaWork q then { acc := a, flags := 0 }
  else
    let v := q.view e
    let w := a.anchor q.set
    let ra := (readNums h v q.ta).zip (readScales h v q.ta)
    let rb := (readNums h v q.tb).zip (readScales h v q.tb)
    ra.zipIdx.foldl (fun r ai => rb.zipIdx.foldl (fun r bj =>
      let i := q.row0 + ai.2
      let j := q.col0 + bj.2
      let x := if q.fbit 2 && q.prog == 0 then AccEntry.zero else r.acc.entry q.set i j
      let bs := dotBlocks ai.1.1 bj.1.1 ai.1.2 bj.1.2
      let y := mmaEntry w (tdFmt q.ta) (tdFmt q.tb) ((bs.drop q.prog).take n) x
        (decide (mmaBlocks q ≤ q.prog + n))
      { acc := r.acc.setEntry q.set i j y.1,
        flags := r.flags ||| flAovf q.set y.2.1 ||| flMinv q.set y.2.2 }) r) { acc := a, flags := 0 }

/-! ### ACCLOAD (R130) -/

/-- The formats that ACCLOAD permits in a set's mode (Table 4-3). -/
def accloadOk (w : Word) (code : Nat) : Bool :=
  if ancFloat w then code == 0x0D
  else code == 0x0F || code == 0x10 || code == 0x0D || code == 0x0B || code == 0x0E

/-- The tag and the term of a source element in anchored mode. -/
def accTerm (w : Word) (code v : Nat) : BitVec 2 × Int :=
  if code = 0x0F ∨ code = 0x10 then
    let x := readA (elemBits code) v
    (x.1, if x.1 = 0 then x.2 else 0)
  else
    let x := readElem code v
    (tagOf x, truncAt (ancL w) x)

/-- FP32 bits as a float-mode entry takes them from a tile: a NaN canonical (R48), a negative zero as zero (R47). -/
def canonFp32 (v : Nat) : Nat :=
  match readFlt fFP32 v with
  | .nan => fFP32.nanBits
  | .fin _ 0 _ => 0
  | _ => v

/-- One entry under ACCLOAD, with the aovf and minv that it sets.  In float mode with add = 0 the entry takes the
source's bits, but for a NaN, which becomes the canonical one, and a −0, which becomes +0: so the model reads R47 and R48
beside Table 4-3, which says that the entry becomes x (assumption 122). -/
def accloadEntry (w : Word) (code : Nat) (add : Bool) (v : Nat) (x : AccEntry) : AccEntry × Bool × Bool :=
  if ancFloat w then
    if add then
      let r := vAdd fFP32 .rne (readFlt fFP32 (x.v.toNat % 2 ^ 32)) (readFlt fFP32 v)
      (fltEntry r.1, false, r.2.invalid)
    else (fltEntry (canonFp32 v), false, false)
  else
    let t := accTerm w code v
    let tag := if add then combineTag x.tag t.1 else t.1
    let s := satTo (ancLim w) (if add then x.int + t.2 else t.2)
    (mkEntry (if tag = 0 then s.1 else 0) tag, tag == 0 && s.2, add && tagGen x.tag t.1)

/-- Folds an entry update over a region given by a matrix. -/
def overRegion {α : Type} (q : QEntry) (m : List (List α)) (f : α → AccEntry → AccEntry × Bool × Bool)
    (a : AccSets) : AccRun :=
  m.zipIdx.foldl (fun r ri => ri.1.zipIdx.foldl (fun r cj =>
    let i := q.row0 + ri.2
    let j := q.col0 + cj.2
    let y := f cj.1 (r.acc.entry q.set i j)
    { acc := r.acc.setEntry q.set i j y.1,
      flags := r.flags ||| flAovf q.set y.2.1 ||| flMinv q.set y.2.2 }) r) { acc := a, flags := 0 }

/-- ACCLOAD over its region. -/
def accloadRun (h : Hw) (e : EaselId) (q : QEntry) (a : AccSets) : AccRun :=
  let w := a.anchor q.set
  overRegion q (readTile h (q.view e) q.ta) (fun v x => accloadEntry w (tdFmt q.ta) (q.fbit 2) v x) a

/-! ### ACCSTORE and CONVERT (R131–R133) -/

/-- The formats that ACCSTORE permits in a set's mode. -/
def accstoreOk (w : Word) (code : Nat) : Bool :=
  code == 0x0D || (!ancFloat w && (code == 0x10 || (code == 0x0F && decide (ancSpan w ≤ 62))))

/-- The entries of the region, as rows. -/
def regionRows (q : QEntry) (a : AccSets) : List (List AccEntry) :=
  (List.range (tdLRows q.ta)).map (fun i => (List.range (tdLCols q.ta)).map (fun j =>
    a.entry q.set (q.row0 + i) (q.col0 + j)))

/-- A stored element and whether it sets cvt_ovf; a zero of FP32 is +0 (R47). -/
def accstoreElem (w : Word) (code : Nat) (sat : Bool) (x : AccEntry) : Cvt :=
  if code = 0x0F ∨ code = 0x10 then (writeA (elemBits code) x.tag x.int, false)
  else
    let c : Cvt := if ancFloat w then (x.v.toNat % 2 ^ 32, false) else cvtFlt fFP32 sat .rne (entryNum w x)
    (cvtPlusZero code c.1, c.2)

/-- A converted row: its scale bytes, its elements, cvt_ovf (R67–R69, R132); every zero is +0 (R47). -/
def convertRow (w : Word) (code : Nat) (sat : Bool) (r : List AccEntry) : List Nat × List Nat × Bool :=
  let xs := r.map (fun x => (entryNum w x).posZero)
  if isMx code then
    let bs := (chunks 32 xs.length xs).map (cvtMx code .rne)
    (bs.map (·.1), (bs.flatMap (·.2.1)).map (cvtPlusZero code), bs.any (·.2.2))
  else
    let cs := xs.map (cvtElem code sat .rne)
    ([], cs.map (fun c => cvtPlusZero code c.1), cs.any (·.2))

/-- A store: its writes and the flags it sets. -/
structure StoreRun where
  ws : List Wr
  flags : Word
  deriving DecidableEq, Repr

def accstoreRun (q : QEntry) (a : AccSets) : StoreRun :=
  let w := a.anchor q.set
  let rows := (regionRows q a).map (fun r => r.map (accstoreElem w (tdFmt q.ta) (q.fbit 2)))
  if tdEmpty q.ta then { ws := [], flags := 0 }
  else { ws := tileWrites q.ta (rows.map (fun r => r.map (·.1))),
         flags := flCvt (rows.any (fun r => r.any (·.2))) }

def convertRun (q : QEntry) (a : AccSets) : StoreRun :=
  let w := a.anchor q.set
  let rows := (regionRows q a).map (convertRow w (tdFmt q.ta) (q.fbit 2))
  if tdEmpty q.ta then { ws := [], flags := 0 }
  else { ws := tileWrites q.ta (rows.map (·.2.1)) ++
               (if isMx (tdFmt q.ta) then scaleWrites q.ta (rows.map (·.1)) else []),
         flags := flCvt (rows.any (·.2.2)) }

/-- clear = 1 zeroes the region after it has been read (R133). -/
def clearRegion (q : QEntry) (a : AccSets) : AccSets :=
  if q.fbit 3 then
    (overRegion q (regionRows q a) (fun _ _ => (AccEntry.zero, false, false)) a).acc
  else a

/-! ### ANCHOR (R58, R134) -/

/-- Re-expresses an entry under a new anchor word; whether it saturated. -/
def reexpress (old new : Word) (x : AccEntry) : AccEntry × Bool :=
  if ancFloat new then (x, false)
  else
    let s := satTo (ancLim new) (truncAt (ancL new) (.fin (decide (x.int < 0)) x.int.natAbs (ancL old)))
    (mkEntry s.1 x.tag, s.2)

/-- A word with keep = 1 may not change the mode (R134). -/
def anchorKeepOk (a : AccSets) (set : Nat) (w : Word) : Bool :=
  !ancKeep w || ancFloat w == ancFloat (a.anchor set)

/-- ANCHOR: clears or re-expresses the set and installs the word. -/
def anchorRun (q : QEntry) (a : AccSets) : AccRun :=
  let w := nthW q.xs 0
  let mine (k : Nat) : Bool := decide (q.set * 12288 ≤ k ∧ k < (q.set + 1) * 12288)
  let ancs := SMap.set 0 a.anchors q.set w
  if ancKeep w then
    let old := a.anchor q.set
    let keys := ((a.cells.map (·.1)) ++ (a.errs.map (·.1))).filter mine
    { acc := { cells := keys.foldl (fun m k =>
                 SMap.set AccEntry.zero m k (reexpress old w (a.read k)).1) a.cells,
               anchors := ancs, errs := a.errs.filter (fun p => !mine p.1) },
      flags := flAovf q.set (keys.any (fun k => (reexpress old w (a.read k)).2)) }
  else { acc := { cells := a.cells.filter (fun p => !mine p.1), anchors := ancs
                  errs := a.errs.filter (fun p => !mine p.1) }, flags := 0 }

/-! ### Errors in accumulator storage (R160, R168, R169) -/

/-- The entries that an instruction reads, as they stand when it starts: none where it overwrites them unread (R169). -/
def accReads (q : QEntry) : List Nat :=
  let region (m n : Nat) : List Nat :=
    (List.range m).flatMap (fun i => (List.range n).map (fun j => accKey q.set (q.row0 + i) (q.col0 + j)))
  match q.op with
  | .mma => if mmaWork q && !(q.fbit 2 && q.prog == 0) then region (mmaM q) (mmaN q) else []
  | .accload => if q.fbit 2 then region (tdLRows q.ta) (tdLCols q.ta) else []
  | .accstore => region (tdLRows q.ta) (tdLCols q.ta)
  | .convert => region (tdLRows q.ta) (tdLCols q.ta)
  | .anchor => if ancKeep (nthW q.xs 0) then (List.range 12288).map (q.set * 12288 + ·) else []
  | _ => []

/-- The errors of the entries that an instruction reads. -/
def accErrors (a : AccSets) (q : QEntry) : List AccErrs :=
  if a.errs.isEmpty then [] else
    let ks := accReads q
    (a.errs.filter (fun p => ks.contains p.1)).map (·.2)

/-- An entry that the instruction reads is uncorrectable. -/
def accBad (a : AccSets) (q : QEntry) : Bool := (accErrors a q).any AccErrs.bad

/-- Corrected words and tag bits that the instruction meets. -/
def accCorrected (a : AccSets) (q : QEntry) : Nat := ((accErrors a q).map AccErrs.corrected).foldl (· + ·) 0

/-- Advancing cycles of an MMA: ceil(K / 32) × 32 / r (R135, Table 2-3). -/
def mmaCycles (q : QEntry) : Nat :=
  let ca := tdFmt q.ta
  let cb := tdFmt q.tb
  let n := cdiv (mmaK q) 32
  if (ca = 7 ∧ cb = 7) ∨ (ca = 0x0A ∧ cb = 0x0A) then n * 16
  else if 0x0B ≤ ca then n * 64 else n * 32

/-- Operand pairs of Table 2-3. -/
def pairOk (ca cb : Nat) : Bool :=
  let f8 (c : Nat) : Bool := decide (1 ≤ c ∧ c ≤ 4)
  let low (c : Nat) : Bool := decide (5 ≤ c ∧ c ≤ 7)
  ((f8 ca || low ca) && (f8 cb || low cb)) ||
    ((ca == 9 || ca == 10) && (cb == 9 || cb == 10)) || (ca == 8 && cb == 8) ||
    (ca == 0x0B && cb == 0x0B) || (ca == 0x0C && cb == 0x0C)

/-- Destination formats of CONVERT (R132). -/
def convertFmt (c : Nat) : Bool := decide (1 ≤ c ∧ c ≤ 7) || decide (9 ≤ c ∧ c ≤ 0x0D)

end Sys2Proof.Machine
end

