-- ==== Sys2Proof/Machine/Vector.lean ====
section
/-! DEFINITION. What the vector unit's instructions compute (R74, R75, R136–R141). -/

namespace Sys2Proof.Machine

/-! ### Operation properties (Tables 4-5 and 4-6) -/

/-- Operations that use source c. -/
def VOp.usesC : VOp → Bool
  | .add | .sub | .mul | .fma | .div | .min | .max | .cmplt | .cmpeq => true
  | _ => false

/-- Operations that prec = 1 may run. -/
def VOp.bf16 : VOp → Bool
  | .add | .sub | .mul | .fma | .min | .max | .rsum | .rmax | .rmin | .cmplt | .cmpeq => true
  | _ => false

def VOp.reduces : VOp → Bool
  | .rsum | .rmax | .rmin => true
  | _ => false

/-- Special functions (minors 0x10–0x1B). -/
def VOp.special : VOp → Bool
  | .exp | .exp2 | .log2 | .ln | .rcp | .rsqrt | .tanh | .sigm | .silu | .gelu | .sin | .cos => true
  | _ => false

/-- Minor opcode (Table 4-6). -/
def VOp.minor : VOp → Nat
  | .add => 0x00 | .sub => 0x01 | .mul => 0x02 | .fma => 0x03 | .div => 0x04 | .min => 0x05 | .max => 0x06
  | .sqrt => 0x07 | .cvt => 0x08 | .rsum => 0x09 | .rmax => 0x0A | .rmin => 0x0B | .cmplt => 0x0C
  | .cmpeq => 0x0D | .exp => 0x10 | .exp2 => 0x11 | .log2 => 0x12 | .ln => 0x13 | .rcp => 0x14
  | .rsqrt => 0x15 | .tanh => 0x16 | .sigm => 0x17 | .silu => 0x18 | .gelu => 0x19 | .sin => 0x1A
  | .cos => 0x1B

/-- Fields of func (Table 4-5). -/
def vuRnd (f : BitVec 15) : Rnd :=
  match fld f.toNat 0 2 with
  | 0 => .rne
  | 1 => .rtz
  | 2 => .rup
  | _ => .rdn

def vuPrec (f : BitVec 15) : Bool := f.getLsbD 2
def vuSat (f : BitVec 15) : Bool := f.getLsbD 3
def vuCMode (f : BitVec 15) : Nat := fld f.toNat 4 2

/-- The lane format. -/
def laneFmt (f : BitVec 15) : FFmt := if vuPrec f then fBF16 else fFP32

/-! ### Lanes -/

/-- A finite value below the lane's normal range, flushed under vu_ftz (R74). -/
def flushIn (ftz : Bool) (lane : FFmt) (x : Num) : Num :=
  match x with
  | .fin neg m k => if ftz && m != 0 && decide (ilog m k < lane.emin) then .fin neg 0 0 else x
  | y => y

/-- A lane result that is subnormal becomes zero of its sign, with vu_underflow and vu_inexact (R74). -/
def flushOut (ftz : Bool) (lane : FFmt) (r : VRes) : VRes :=
  let mag := r.1 % 2 ^ (lane.eb + lane.mb)
  if ftz && mag != 0 && decide (mag < 2 ^ lane.mb) then
    (r.1 - mag, { r.2 with under := true, inexact := true })
  else r

/-- 1.0 in a lane format. -/
def oneBits (f : FFmt) : Nat := f.bias * 2 ^ f.mb

/-- An element-wise operation on lane values: b, c, and d for VFMA (Table 4-6). -/
def laneOp (op : VOp) (f : FFmt) (rm : Rnd) (b c d : Num) : VRes :=
  match op with
  | .add => vAdd f rm b c
  | .sub => vAdd f rm b c.neg
  | .mul => vMul f rm b c
  | .fma => vFma f rm b c d
  | .div => vDiv f rm b c
  | .min => vMin f b c
  | .max => vMax f b c
  | .sqrt => vSqrt f rm b
  | .cmplt => (if numLt b c then oneBits f else 0, { VFlags.none with invalid := b == .nan || c == .nan })
  | .cmpeq => (if numEq b c then oneBits f else 0, VFlags.none)
  | _ => (0, VFlags.none)

/-! ### Special functions (R140, Tables 4-7 and 4-8) -/

def vZero (f : FFmt) (neg : Bool) : VRes := (f.signBit neg, VFlags.none)

def vOne (neg : Bool) : VRes := (fFP32.signBit neg + oneBits fFP32, VFlags.none)

/-- An infinity with vu_divzero. -/
def vPole (neg : Bool) : VRes := (fFP32.signBit neg + fFP32.infBits, { VFlags.none with divzero := true })

/-- An infinity with vu_overflow. -/
def vOver (neg : Bool) : VRes := (fFP32.signBit neg + fFP32.infBits, { VFlags.none with ovf := true })

/-! The functions of Table 4-7 to 2^-160, as fixed-point integers with 160 fraction bits. -/

/-- floor(ln 2 × 2^160). -/
def fxLn2 : Int := 1013035739299659071135698605846798551586536899366

/-- floor(2π × 2^160). -/
def fxTwoPi : Int := 9182885614096437842769610399486622256908310048836

/-- floor(2^160 / sqrt(2π)). -/
def fxPhi0 : Int := 583054796007218040734191730443699882195345907504

def fxOne : Int := 2 ^ 160

def fxMul (a b : Int) : Int := a * b / fxOne

def fxDiv (a b : Int) : Int := a * fxOne / b

/-- m × 2^k with its sign as a fixed-point number. -/
def fxOf (neg : Bool) (m : Nat) (k : Int) : Int :=
  sgnOf neg * (m * 2 ^ (k + 160).toNat / 2 ^ (-(k + 160)).toNat : Nat)

/-- Sum of r^i / i! from term `t` = r^i / i! on, `n` terms. -/
def fxExpSum (r : Int) : Nat → Nat → Int → Int
  | 0, _, _ => 0
  | n + 1, i, t => t + fxExpSum r n (i + 1) (fxMul t r / ((i : Int) + 1))

/-- A number n × 2^k, exactly. -/
abbrev Scaled := Int × Int

/-- e^x of a fixed-point x: e^r × 2^q with x = q ln 2 + r. -/
def fxExp (x : Int) : Scaled :=
  let q := x / fxLn2
  (fxExpSum (x - q * fxLn2) 48 0 fxOne, q - 160)

/-- 2^x of a fixed-point x. -/
def fxExp2 (x : Int) : Scaled :=
  let q := x / fxOne
  (fxExpSum (fxMul (x - q * fxOne) fxLn2) 48 0 fxOne, q - 160)

/-- A number n × 2^k as fixed point. -/
def fxFix (a : Scaled) : Int :=
  a.1 * 2 ^ (a.2 + 160).toNat / 2 ^ (-(a.2 + 160)).toNat

/-- Sum of z^(2i+1) / (2i+1) from power `p` = z^(2i+1) on, `n` terms. -/
def fxAtanhSum (z2 : Int) : Nat → Nat → Int → Int
  | 0, _, _ => 0
  | n + 1, i, p => p / (2 * (i : Int) + 1) + fxAtanhSum z2 n (i + 1) (fxMul p z2)

/-- Logarithm of m × 2^k as e and ln f, with m × 2^k = 2^e × f and f from 0.75 to 1.5. -/
def fxLog (m : Nat) (k : Int) : Int × Int :=
  let f := fxOf false m (-(Nat.log2 m : Int))
  let up := decide (3 * fxOne < 2 * f)
  let g := if up then f / 2 else f
  let z := fxDiv (g - fxOne) (g + fxOne)
  (ilog m k + (if up then 1 else 0), 2 * fxAtanhSum (fxMul z z) 48 0 z)

/-- The logistic function 1 / (1 + e^-x). -/
def fxSigm (x : Int) : Int :=
  let y := fxFix (fxExp (-(x.natAbs : Int)))
  if 0 ≤ x then fxDiv fxOne (fxOne + y) else fxDiv y (fxOne + y)

/-- Sum of (-1)^i x^(2i+1) / (i! 2^i (2i+1)) from `t` = (-1)^i x^(2i+1) / (i! 2^i) on. -/
def fxPhiSum (x2 : Int) : Nat → Nat → Int → Int
  | 0, _, _ => 0
  | n + 1, i, t => t / (2 * (i : Int) + 1) + fxPhiSum x2 n (i + 1) (-(fxMul t x2) / (2 * ((i : Int) + 1)))

/-- The standard normal distribution function; 0 or 1 beyond magnitude 8. -/
def fxPhi (x : Int) : Int :=
  if x < -8 * fxOne then 0
  else if 8 * fxOne < x then fxOne
  else fxOne / 2 + fxMul fxPhi0 (fxPhiSum (fxMul x x) 256 0 x)

/-- Sum of (-1)^i x^(2i+j) / (2i+j)! from `t` on, where `t` is the term of power `j`. -/
def fxSinSum (x2 : Int) : Nat → Nat → Int → Int
  | 0, _, _ => 0
  | n + 1, j, t => t + fxSinSum x2 n (j + 2) (-(fxMul t x2) / (((j : Int) + 1) * ((j : Int) + 2)))

/-- sin or cos of a fixed-point x, reduced by multiples of 2π. -/
def fxSin (x : Int) : Int :=
  let r := x % fxTwoPi
  fxSinSum (fxMul r r) 48 1 r

def fxCos (x : Int) : Int :=
  let r := x % fxTwoPi
  fxSinSum (fxMul r r) 48 0 fxOne

/-- Magnitudes from 2^11 on, where the exponential has left FP32's range and its complement is exact. -/
def fxBig (m : Nat) (k : Int) : Bool := decide (11 ≤ ilog m k)

/-- The exact result of a special function of (±)m × 2^k, m not zero, to about 2^-110 of itself or 2^-110. -/
def fxResult (op : VOp) (neg : Bool) (m : Nat) (k : Int) : Scaled :=
  let x := fxOf neg m k
  let s := sgnOf neg
  match op with
  | .exp => if fxBig m k then (if neg then (0, 0) else (1, 2048)) else fxExp x
  | .exp2 => if fxBig m k then (if neg then (0, 0) else (1, 2048)) else fxExp2 x
  | .log2 => let l := fxLog m k; (l.1 * fxOne + fxDiv l.2 fxLn2, -160)
  | .ln => let l := fxLog m k; (l.1 * fxLn2 + l.2, -160)
  | .rcp => (s * (2 ^ 200 / m : Nat), -200 - k)
  | .rsqrt =>
    let o : Nat := if k % 2 = 0 then 0 else 1
    let r : Nat := isqrt 120 (2 ^ 220 / (m * 2 ^ o)) 0
    ((r : Int), -110 - (k - o) / 2)
  | .tanh =>
    if fxBig m k then (s, 0)
    else
      let y := fxFix (fxExp (-2 * (x.natAbs : Int)))
      (s * fxDiv (fxOne - y) (fxOne + y), -160)
  | .sigm => if fxBig m k then (if neg then 0 else 1, 0) else (fxSigm x, -160)
  | .silu => if fxBig m k then (if neg then 0 else m, k) else (s * m * fxSigm x, k - 160)
  | .gelu => if fxBig m k then (if neg then 0 else m, k) else (s * m * fxPhi x, k - 160)
  | .sin => (fxSin x, -160)
  | .cos => (fxCos x, -160)
  | _ => (0, 0)

/-- The exponent of the unit in the last place of FP32 at a value. -/
def ulpExp (a : Scaled) : Int :=
  if a.1 = 0 then -149 else max (ilog a.1.natAbs a.2) (-126) - 23

/-- Whether two numbers differ by at most n × 2^u, with 2^(u-40) for the error of `fxResult`. -/
def nearBy (a b : Scaled) (n : Nat) (u : Int) : Bool :=
  let k := min (min a.2 b.2) (u - 40)
  let at' (d : Scaled) : Int := d.1 * 2 ^ (d.2 - k).toNat
  decide ((at' a - at' b).natAbs ≤ (n * 2 ^ 40 + 1) * 2 ^ (u - 40 - k).toNat)

/-- Table 4-7: the bound in ulp, none for a function that has only an absolute one. -/
def VOp.ulps : VOp → Option Nat
  | .exp2 | .rcp | .rsqrt => some 1
  | .silu | .gelu => some 4
  | .sin | .cos => none
  | _ => some 2

/-- Table 4-7: the exponent of the absolute bound, where there is one. -/
def VOp.absBound : VOp → Option Int
  | .tanh | .sigm => some (-24)
  | .silu | .gelu | .sin | .cos => some (-22)
  | _ => none

/-- Whether a result meets the bound of Table 4-7. -/
def meetsBound (op : VOp) (a y : Scaled) : Bool :=
  (match op.ulps with
    | some n => nearBy a y n (ulpExp a)
    | none => false) ||
  (match op.absBound with
    | some u => nearBy a y 1 u
    | none => false)

/-- The functions whose results overflow (Table 4-8). -/
def VOp.overflows : VOp → Bool
  | .exp | .exp2 | .rcp => true
  | _ => false

/-- A result that the manual bounds and does not fix (R75, Table 4-7): the implementation's value where it
meets the bound, the nearest one where it does not; an exact result that rounds beyond the largest finite
value overflows. -/
def vNear (op : VOp) (x : Nat) (a : Scaled) : VRes :=
  let d := if a.1 = 0 then vZero fFP32 false else vRound fFP32 .rne (decide (a.1 < 0)) a.1.natAbs a.2 false
  let v := (Config.vuSpecial op.minor (BitVec.ofNat 32 x)).toNat
  if op.overflows && d.2.ovf then vOver (decide (a.1 < 0))
  else
    match readFlt fFP32 v with
    | .nan => (d.1, VFlags.none)
    | .inf neg =>
      if op.overflows && meetsBound op a (sgnOf neg, 128) then vOver neg else (d.1, VFlags.none)
    | .fin neg m k => (if meetsBound op a (sgnOf neg * m, k) then v else d.1, VFlags.none)

/-- The exponent of a power of two m × 2^k. -/
def powOf (m : Nat) (k : Int) : Option Int := if m = 2 ^ Nat.log2 m then some (ilog m k) else none

/-- The integer value of m × 2^k, where it is one. -/
def intOf (neg : Bool) (m : Nat) (k : Int) : Option Int :=
  let v : Option Nat :=
    if 0 ≤ k then some (m * 2 ^ k.toNat) else if m % 2 ^ (-k).toNat = 0 then some (m / 2 ^ (-k).toNat) else none
  v.map (fun n => if neg then -(n : Int) else n)

/-- 2^x: exact for an integer with a finite result (Table 4-7); bounded otherwise. -/
def vExp2 (x : Nat) (neg : Bool) (m : Nat) (k : Int) : VRes :=
  let a := fxResult .exp2 neg m k
  match (if fxBig m k then none else intOf neg m k) with
  | some i =>
    if 128 ≤ i then vOver false
    else if -149 ≤ i then vRound fFP32 .rne false 1 i false
    else vNear .exp2 x a
  | none => vNear .exp2 x a

/-- sin and cos beyond 2^20: a value in [-1, 1] with no stated bound (Table 4-7). -/
def vUnit (op : VOp) (x : Nat) : VRes :=
  let v := (Config.vuSpecial op.minor (BitVec.ofNat 32 x)).toNat
  (if oneBits fFP32 < v % 2 ^ 31 then v / 2 ^ 31 * 2 ^ 31 + oneBits fFP32 else v, VFlags.none)

/-- Whether m × 2^k exceeds 2^20. -/
def beyond20 (m : Nat) (k : Int) : Bool :=
  decide (20 ≤ ilog m k) && !(powOf m k == some 20)

/-- A special function of a finite non-zero input. -/
def specialFin (op : VOp) (x : Nat) (neg : Bool) (m : Nat) (k : Int) : VRes :=
  match op with
  | .exp2 => vExp2 x neg m k
  | .log2 =>
    if neg then vNan fFP32 true
    else match powOf m k with
      | some i => if i = 0 then vZero fFP32 false else vRound fFP32 .rne (decide (i < 0)) i.natAbs 0 false
      | none => vNear op x (fxResult op neg m k)
  | .ln | .rsqrt => if neg then vNan fFP32 true else vNear op x (fxResult op neg m k)
  | .sin | .cos => if beyond20 m k then vUnit op x else vNear op x (fxResult op neg m k)
  | _ => vNear op x (fxResult op neg m k)

/-- A special function of a zero (Table 4-8). -/
def specialZero (op : VOp) (neg : Bool) : VRes :=
  match op with
  | .exp | .exp2 | .cos => vOne false
  | .log2 | .ln => vPole true
  | .rcp | .rsqrt => vPole neg
  | .sigm => (0x3F000000, VFlags.none)
  | _ => vZero fFP32 neg

/-- A special function of an infinity (Table 4-8). -/
def specialInf (op : VOp) (neg : Bool) : VRes :=
  match op with
  | .exp | .exp2 | .silu | .gelu => if neg then vZero fFP32 false else vInf fFP32 false
  | .log2 | .ln => if neg then vNan fFP32 true else vInf fFP32 false
  | .rcp => vZero fFP32 neg
  | .rsqrt => if neg then vNan fFP32 true else vZero fFP32 false
  | .tanh => vOne neg
  | .sigm => if neg then vZero fFP32 false else vOne false
  | _ => vNan fFP32 true

/-- A special function in FP32; under vu_ftz a subnormal result is flushed with no flag (R140). -/
def specialOp (op : VOp) (ftz : Bool) (x : Num) : VRes :=
  let r := match x with
    | .nan => vNan fFP32 false
    | .inf neg => specialInf op neg
    | .fin neg m k => if m = 0 then specialZero op neg else specialFin op (fFP32.enc x) neg m k
  let mag := r.1 % 2 ^ 31
  if ftz && mag != 0 && decide (mag < 2 ^ 23) then (r.1 - mag, r.2) else r

/-! ### Rounding to the destination (R138) -/

/-- The destination format of a floating-point code. -/
def dstFmt (code : Nat) : FFmt :=
  match elemOf code with
  | .flt f => f
  | _ => fFP32

/-- Rounds a value to a floating-point format with its IEEE flags. -/
def roundTo (f : FFmt) (rm : Rnd) (x : Num) : VRes :=
  match x with
  | .nan => vNan f false
  | .inf neg => vInf f neg
  | .fin neg m k => if m = 0 then vZero f neg else vRound f rm neg m k false

/-- A lane result in d's format: the second rounding sets overflow, underflow and inexact, and for the
special functions only overflow. -/
def toDst (op : VOp) (lane : FFmt) (code : Nat) (rm : Rnd) (r : VRes) : VRes :=
  let f := dstFmt code
  if f = lane then r
  else
    let s := roundTo f rm (readFlt lane r.1)
    (s.1, r.2.or (if op.special then { VFlags.none with ovf := s.2.ovf } else s.2))

/-! ### VCVT (R138) -/

/-- One element of VCVT to a format that is not MX: its encoding and flags. -/
def vcvtElem (code : Nat) (sat : Bool) (rm : Rnd) (x : Num) : Nat × Word :=
  match elemOf code with
  | .int n _ =>
    let c := cvtInt n rm x
    (c.1, flInvalid c.2)
  | .flt f =>
    if code = 0x01 ∨ code = 0x02 then
      let c := cvtFlt f sat rm x
      (c.1, flCvt c.2)
    else
      let r := roundTo f rm x
      (r.1, flVu r.2)
  | .other => (0, 0)

/-- One row of VCVT: scale bytes, elements, flags. -/
def vcvtRow (code : Nat) (sat : Bool) (rm : Rnd) (xs : List Num) : List Nat × List Nat × Word :=
  if isMx code then
    let bs := (chunks 32 xs.length xs).map (cvtMx code .rne)
    (bs.map (·.1), bs.flatMap (·.2.1), flCvt (bs.any (·.2.2)))
  else
    let cs := xs.map (vcvtElem code sat rm)
    ([], cs.map (·.1), cs.foldl (fun a c => a ||| c.2) 0)

/-! ### Row reductions (R139) -/

/-- The operation of a reduction. -/
def reduceOp (op : VOp) (f : FFmt) (rm : Rnd) (a b : Num) : VRes :=
  match op with
  | .rmax => vMax f a b
  | .rmin => vMin f a b
  | _ => vAdd f rm a b

/-- The value of an empty row. -/
def reduceId (op : VOp) : Num :=
  match op with
  | .rmax => .inf true
  | .rmin => .inf false
  | _ => .fin false 0 0

/-- One combination: value and flags. -/
def reduce2 (op : VOp) (f : FFmt) (rm : Rnd) (ftz : Bool) (a b : Num) : Num × VFlags :=
  let r := flushOut ftz f (reduceOp op f rm a b)
  (readFlt f r.1, r.2)

/-- Combines one round of elements into the lanes. -/
def reduceLanes (g : Num → Num → Num × VFlags) : List Num → List Num → List Num × VFlags
  | p, [] => (p, VFlags.none)
  | [], xs => (xs, VFlags.none)
  | p :: ps, x :: xs =>
    let y := g p x
    let r := reduceLanes g ps xs
    (y.1 :: r.1, y.2.or r.2)

/-- Combines neighbouring pairs. -/
def reducePairs (g : Num → Num → Num × VFlags) : List Num → List Num × VFlags
  | a :: b :: l =>
    let y := g a b
    let r := reducePairs g l
    (y.1 :: r.1, y.2.or r.2)
  | l => (l, VFlags.none)

/-- Repeats the pairing `n` times. -/
def reduceTree (g : Num → Num → Num × VFlags) : Nat → List Num × VFlags → List Num × VFlags
  | 0, p => p
  | n + 1, p =>
    let r := reducePairs g p.1
    reduceTree g n (r.1, p.2.or r.2)

/-- A row reduced in the fixed association of R139. -/
def reduceRow (op : VOp) (f : FFmt) (rm : Rnd) (ftz : Bool) (lanes : Nat) (xs : List Num) : VRes :=
  let g := reduce2 op f rm ftz
  let p := (chunks lanes xs.length xs).foldl (fun (a : List Num × VFlags) r =>
    let y := reduceLanes g a.1 r
    (y.1, a.2.or y.2)) ([], VFlags.none)
  let t := reduceTree g 7 p
  match t.1 with
  | [] => (f.enc (reduceId op), VFlags.none)
  | x :: _ => (f.enc x, t.2)

/-! ### An instruction -/

/-- Lane values of a tile. -/
def laneRows (h : Hw) (v : View) (ftz : Bool) (lane : FFmt) (d : TDesc) : List (List Num) :=
  (readNums h v d).map (fun r => r.map (flushIn ftz lane))

/-- Source c as a value for element (i, j): a tile, the scalar or a column (Table 4-5). -/
def cValue (q : QEntry) (ftz : Bool) (rows : List (List Num)) (i j : Nat) : Num :=
  let f := q.fmt.func
  let lane := laneFmt f
  if vuCMode f = 1 then flushIn ftz lane (readFlt lane ((nthW q.xs 0).toNat % 2 ^ (if vuPrec f then 16 else 32)))
  else ((rows[i]?).bind (fun r => r[if vuCMode f = 2 then 0 else j]?)).getD (.fin false 0 0)

/-- vu_ftz as copied at issue. -/
def QEntry.ftz (q : QEntry) : Bool := bit q.arith 24

/-- Element-wise operations and special functions: results of the destination, and flags. -/
def elementRows (h : Hw) (e : EaselId) (q : QEntry) (op : VOp) : List (List VRes) :=
  let v := q.view e
  let f := q.fmt.func
  let lane := laneFmt f
  let cs := if op.usesC && vuCMode f != 1 then laneRows h v q.ftz lane q.tc else []
  let ds := if op = .fma then laneRows h v q.ftz lane q.ta else []
  (laneRows h v q.ftz lane q.tb).zipIdx.map (fun ri => ri.1.zipIdx.map (fun bj =>
    let d := ((ds[ri.2]?).bind (fun r => r[bj.2]?)).getD (.fin false 0 0)
    let r := if op.special then specialOp op q.ftz bj.1
      else flushOut q.ftz lane (laneOp op lane (vuRnd f) bj.1 (cValue q q.ftz cs ri.2 bj.2) d)
    toDst op lane (tdFmt q.ta) (vuRnd f) r))

/-- Reductions: one column of results. -/
def reductionRows (h : Hw) (e : EaselId) (q : QEntry) (op : VOp) : List (List VRes) :=
  let f := q.fmt.func
  let lane := laneFmt f
  (laneRows h (q.view e) q.ftz lane q.tb).map (fun r =>
    [toDst op lane (tdFmt q.ta) (vuRnd f)
      (reduceRow op lane (vuRnd f) q.ftz (if vuPrec f then 128 else 64) r)])

/-- Whether an encoding of FP32, BF16 or FP16 is a signalling NaN: its leading fraction bit is 0. -/
def isSnan (code v : Nat) : Bool :=
  match elemOf code with
  | .flt f => decide (f.spec = 2) && decide (fld v f.mb f.eb = 2 ^ f.eb - 1) && decide (fld v 0 f.mb ≠ 0) &&
      !v.testBit (f.mb - 1)
  | .int _ _ => false
  | .other => false

/-- Operations that signal an invalid operation for a signalling NaN, as IEEE 754-2019 has it (R74): not
VCMPEQ and a VCVT that sets cvt_ovf only (R138), nor a special function (R140). -/
def VOp.signals (op : VOp) (dst : Nat) : Bool :=
  match op with
  | .cmpeq => false
  | .cvt => !(isMx dst || dst == 0x01 || dst == 0x02)
  | _ => !op.special

/-- The tiles that a VU instruction reads. -/
def vuSources (q : QEntry) (op : VOp) : List TDesc :=
  [q.tb] ++ (if op.usesC && vuCMode q.fmt.func != 1 then [q.tc] else []) ++ (if op = .fma then [q.ta] else [])

/-- `n` rows of a matrix from row `lo` on. -/
def someRows {α : Type} (m : List α) (lo n : Nat) : List α := (m.drop lo).take n

/-- vu_invalid for a signalling NaN among the operands of `n` rows from `lo` on. -/
def snanFlags (h : Hw) (v : View) (q : QEntry) (op : VOp) (lo n : Nat) : Word :=
  flInvalid (op.signals (tdFmt q.ta) &&
    ((vuSources q op).any (fun d => (someRows (readTile h v d) lo n).any (fun r => r.any (isSnan (tdFmt d)))) ||
      (op.usesC && vuCMode q.fmt.func == 1 && n != 0 &&
        isSnan (if vuPrec q.fmt.func then 0x0B else 0x0D) (nthW q.xs 0).toNat)))

/-- What `n` rows of a VU instruction write and which flags they set, from the first row that it has not done;
nothing for an empty destination (R125, R141). -/
def vuRun (h : Hw) (e : EaselId) (q : QEntry) (op : VOp) (n : Nat) : StoreRun :=
  let lo := q.prog
  let snan := snanFlags h (q.view e) q op lo n
  if tdEmpty q.ta then { ws := [], flags := 0 }
  else if op = .cvt then
    let f := q.fmt.func
    let src := laneRows h (q.view e) (q.ftz && (match elemOf (tdFmt q.tb) with | .flt _ => true | _ => false))
      fFP32 q.tb
    let rows := (someRows src lo n).map (vcvtRow (tdFmt q.ta) (vuSat f) (vuRnd f))
    { ws := tileWritesAt q.ta lo (rows.map (·.2.1)) ++
        (if isMx (tdFmt q.ta) then scaleWritesAt q.ta lo (rows.map (·.1)) else []),
      flags := rows.foldl (fun a r => a ||| r.2.2) snan }
  else
    let rows := someRows (if op.reduces then reductionRows h e q op else elementRows h e q op) lo n
    { ws := tileWritesAt q.ta lo (rows.map (fun r => r.map (·.1))),
      flags := rows.foldl (fun a r => r.foldl (fun a x => a ||| flVu x.2) a) snan }

/-- Busy cycles of the VU (R141). -/
def vuCycles (q : QEntry) (op : VOp) : Nat :=
  let w := if op = .div ∨ op = .sqrt ∨ op.special then 16 else if vuPrec q.fmt.func then 128 else 64
  if tdEmpty q.ta then 1 else tdLRows q.ta * cdiv (tdLCols q.tb) w + 12

end Sys2Proof.Machine
end

