-- ==== Sys2Proof/Machine/Copy.lean ====
section
/-! DEFINITION. The copy engine: the moves of COPY, GATHER and SCATTER (R142–R145), transactions (R147),
prefetch lines (R255), and what a transaction reads, writes and faults on (R148, R149, R228). -/

namespace Sys2Proof.Machine

/-! ### Moves -/

/-- A move: source (none fills with zeros), destination, bytes. -/
abbrev Move := Option Word × Word × Nat

def ofN (n : Nat) : Word := BitVec.ofNat 64 n
def ofI (n : Int) : Word := BitVec.ofInt 64 n

/-- Outer dimensions of COPY: three counts and three pairs of strides (Table 4-10). -/
structure Outer where
  n2 : Nat
  n3 : Nat
  n4 : Nat
  ss : List Int
  ds : List Int
  deriving DecidableEq, Repr

def outerOf (q : QEntry) : Outer :=
  if q.fmt.rs = 0 then { n2 := 1, n3 := 1, n4 := 1, ss := [0, 0, 0], ds := [0, 0, 0] }
  else
    let w0 := nthW q.xs 0
    let f (i lo : Nat) : Int := sgn 32 (wfld (nthW q.xs i) lo 32)
    { n2 := wfld w0 0 16, n3 := wfld w0 16 16, n4 := wfld w0 32 16,
      ss := [f 1 0, f 2 0, f 3 0], ds := [f 1 32, f 2 32, f 3 32] }

/-- Address of logical element (r, c) of a tile of whole-byte elements. -/
def elemAddr (d : TDesc) (r c : Nat) : Word :=
  let i := if tdTr d then c else r
  let j := if tdTr d then r else c
  d.w0 + ofN (i * tdStride d + j * (elemBits (tdFmt d) / 8))

/-- The moves of one outer iteration: stored rows where neither side is transposed, elements otherwise. -/
def tileMoves (a b : TDesc) (so do_ : Word) : List Move :=
  if tdEmpty a then []
  else if !tdTr a && !tdTr b then
    (List.range (tdRows a)).map (fun r =>
      (some (a.w0 + ofN (r * tdStride a) + so), b.w0 + ofN (r * tdStride b) + do_, tdRowBytes a))
  else
    (List.range (tdLRows a)).flatMap (fun r => (List.range (tdLCols a)).map (fun c =>
      (some (elemAddr a r c + so), elemAddr b r c + do_, elemBits (tdFmt a) / 8)))

/-- The moves of COPY in iteration order (R142). -/
def copyMoves (q : QEntry) : List Move :=
  let o := outerOf q
  let at_ (l : List Int) (i : Nat) : Int := (l[i]?).getD 0
  (List.range o.n4).flatMap (fun (i4 : Nat) => (List.range o.n3).flatMap (fun (i3 : Nat) =>
    (List.range o.n2).flatMap (fun (i2 : Nat) =>
      let off (l : List Int) : Word := ofI ((i2 : Int) * at_ l 0 + (i3 : Int) * at_ l 1 + (i4 : Int) * at_ l 2)
      tileMoves q.ta q.tb (off o.ss) (off o.ds))))

/-- The indices of GATHER and SCATTER, signed (R145). -/
def indices (h : Hw) (e : EaselId) (q : QEntry) : List Int :=
  ((readTile h (q.view e) q.tc).flatMap id).map (sgn 32)

/-- The moves of GATHER. -/
def gatherMoves (h : Hw) (e : EaselId) (q : QEntry) : List Move :=
  if tdEmpty q.tb then []
  else (indices h e q).zipIdx.map (fun p =>
    (if p.1 = -1 then none else some (q.ta.w0 + ofI (p.1 * (tdStride q.ta : Int))),
      q.tb.w0 + ofN (p.2 * tdStride q.tb), tdRowBytes q.tb))

/-- The moves of SCATTER; index −1 skips the row. -/
def scatterMoves (h : Hw) (e : EaselId) (q : QEntry) : List Move :=
  if tdEmpty q.ta then []
  else ((indices h e q).zipIdx.filter (fun p => p.1 != -1)).map (fun p =>
    (some (q.ta.w0 + ofN (p.2 * tdStride q.ta)), q.tb.w0 + ofI (p.1 * (tdStride q.tb : Int)), tdRowBytes q.ta))

/-- Bytes from an address to the next 256-byte boundary. -/
def toLine (a : Word) : Nat := 256 - a.toNat % 256

/-- Cuts a move into transactions: at most 256 bytes, crossing no 256-byte boundary at either end (R147). -/
def cutMove : Nat → Move → List Txn
  | 0, _ => []
  | k + 1, (s, d, n) =>
    if n = 0 then []
    else
      let m := Nat.min n (Nat.min (toLine d) ((s.map toLine).getD 256))
      { src := s, dst := d, len := m } :: cutMove k (s.map (· + ofN m), d + ofN m, n - m)

/-- The transactions of a CE instruction in iteration order. -/
def txnsOf (h : Hw) (e : EaselId) (q : QEntry) : List Txn :=
  let ms := match q.op with
    | .copy => copyMoves q
    | .gather => gatherMoves h e q
    | .scatter => scatterMoves h e q
    | _ => []
  ms.flatMap (fun m => cutMove m.2.2 m)

/-! ### Prefetch lines (R255) -/

/-- A line of the reading context that holds the bytes of a source. -/
def lineHit (h : Hw) (x : Easel) (c : CtxId) (a : Word) (n : Nat) : Option Bytes :=
  let k := (lineAddr h a).toNat
  (x.prefetch.find? (fun l => l.ctx == c && decide (l.addr.toNat ≤ k ∧ k + n ≤ l.addr.toNat + l.bytes.length))).map
    (fun l => sub l.bytes (k - l.addr.toNat) n)

/-- Lines come from anywhere but the easel's own Palette; 256 are kept. -/
def keepLine (h : Hw) (e : EaselId) (c : CtxId) (a : Word) (b : Bytes) : Hw :=
  let k := lineAddr h a
  if isPal k.toNat ∧ palEasel k.toNat = e then h
  else h.modEasel e (fun x =>
    let l := x.prefetch.filter (fun p => !(p.addr == k && p.ctx == c)) ++ [{ ctx := c, addr := k, bytes := b }]
    { x with prefetch := l.drop (l.length - 256) })

/-! ### A transaction -/

/-- The destination lies in LPDDR6, at a peer or in host memory: an ordinary write whatever the sketch
state, its source read as the varnished image (R228, Table 7-2). -/
def outward (a : Word) : Bool := wfld a 60 4 != 0 || isLp a.toNat

/-- The view under which a transaction's source is read. -/
def txnView (q : QEntry) (e : EaselId) (t : Txn) : View :=
  if outward t.dst then (q.view e).varnished else q.view e

/-- The write of a transaction goes to the sketch pool (R228). -/
def isSketchWrite (q : QEntry) (a : Word) : Bool := q.branches != 0 && !outward a

/-- What a transaction faults on when it reads its source here. -/
def srcFault (h : Hw) (e : EaselId) (q : QEntry) (t : Txn) : Option (BitVec 8 × Word) :=
  match t.src with
  | none => none
  | some a =>
    match decodeUma h q.ctx a with
    | .fault c => some (c, a)
    | .local off =>
      (match viewBad h (txnView q e t) off t.len with
        | some w => some (memClass w, a)
        | none => (h.mem.pathBad off t.len).map (fun _ => (0x05, a)))
    | .remote fa _ => (sendFault h (h.ctx q.ctx).job fa).map (fun c => (c, a))
    | .host _ => if h.hostUp then none else some (0x16, a)

/-- What a transaction faults on at its destination. -/
def dstFault (h : Hw) (q : QEntry) (t : Txn) : Option (BitVec 8 × Word) :=
  match decodeUma h q.ctx t.dst with
  | .fault c => some (c, t.dst)
  | .local off =>
    if isSketchWrite q t.dst then
      if inRegions h q.ctx off t.len then none else some (0x13, t.dst)
    else match h.mem.badWrite off t.len with
      | some _ => some (memClass off, t.dst)
      | none => (h.mem.pathBad off t.len).map (fun _ => (0x05, t.dst))
  | .remote fa _ => (sendFault h (h.ctx q.ctx).job fa).map (fun c => (c, t.dst))
  | .host _ => if h.hostUp then none else some (0x16, t.dst)

/-- A local end of a transaction meets a channel in retraining (R180). -/
def txnWaits (h : Hw) (q : QEntry) (t : Txn) : Bool :=
  let at_ (a : Word) : Bool := match decodeUma h q.ctx a with
    | .local off => chanWaits h off t.len
    | _ => false
  (match t.src with | some a => at_ a | none => false) || at_ t.dst

/-- The address is local after decoding. -/
def isLocalT : Target → Bool
  | .local _ => true
  | _ => false

/-- Reads the source of a transaction that needs no request: zeros, this module's memory, or a prefetch
line that may serve it (R255). -/
def readSource (h : Hw) (e : EaselId) (q : QEntry) (t : Txn) : Option (Bytes × Hw) :=
  match t.src with
  | none => some (List.replicate t.len 0, h)
  | some a =>
    let stale := match lineHit h (h.easel e) q.ctx a t.len with
      | some b => if bit h.freeWord 0 then some b else none
      | none => none
    let h1 := if (lineHit h (h.easel e) q.ctx a t.len).isSome then h.useFree else h
    match stale with
    | some b => some (b, h1)
    | none =>
      match decodeUma h1 q.ctx a with
      | .local off =>
        let b := viewRead h1 (txnView q e t) off t.len
        let h2 := touchView h1 (txnView q e t) off t.len
        some (b, if viewHits h1 (txnView q e t) off t.len = 0 then keepLine h2 e q.ctx a b else h2)
      | _ => none

/-- Counts bytes moved to a class of destination (Table 14-12). -/
def countCe (h : Hw) (c : CtxId) (t : Target) (n : Nat) : Hw :=
  match t with
  | .remote _ _ => perfAdd h c 5 n
  | .host _ => perfAdd h c 6 n
  | _ => perfAdd h c 4 n

end Sys2Proof.Machine
end

