-- ==== Sys2Proof/Machine/Engine.lean ====
section
/-! DEFINITION. Engine queues: issue (R118–R124), waits of the core that end as engines complete (R227,
R253, R258), start (R122, R153), completion (R120), faults (R156, R157) and releases (R253, R254). -/

namespace Sys2Proof.Machine

/-! ### Queues -/

def Easel.queue (x : Easel) : Engine → List QEntry
  | .me => x.me
  | .vu => x.vu
  | .ce => x.ce

def Easel.setQueue (x : Easel) (q : Engine) (l : List QEntry) : Easel :=
  match q with
  | .me => { x with me := l }
  | .vu => { x with vu := l }
  | .ce => { x with ce := l }

def engAgent : Engine → BitVec 4
  | .me => 1
  | .vu => 2
  | .ce => 3

/-- The entry of an engine queue with a serial number. -/
def findEntry (h : Hw) (e : EaselId) (q : Engine) (serial : Word) : Option QEntry :=
  ((h.easel e).queue q).find? (fun i => i.serial == serial)

def modEntry (h : Hw) (e : EaselId) (q : Engine) (serial : Word) (f : QEntry → QEntry) : Hw :=
  h.modEasel e (fun x => x.setQueue q ((x.queue q).map (fun i => if i.serial = serial then f i else i)))

def dropEntry (h : Hw) (e : EaselId) (q : Engine) (serial : Word) : Hw :=
  h.modEasel e (fun x => x.setQueue q ((x.queue q).filter (fun i => i.serial != serial)))

def EngOp.isRelease : EngOp → Bool
  | .release _ _ => true
  | _ => false

/-- The engine as an agent in a fault record (R156, Table 16-2). -/
def engineAgent (h : Hw) (e : EaselId) (q : Engine) (i : QEntry) : FaultRec :=
  { FaultRec.blank h.ftcNow 0 (engAgent q) with
    ctx := some i.ctx, easel := BitVec.ofNat 8 e.val, unit := BitVec.ofNat 6 i.sqr, serial := i.serial,
    pc := i.pc, inst := i.inst }

/-! ### Issue -/

/-- A new entry with what an instruction copies at issue (R123, R226). -/
def newEntry (h : Hw) (e : EaselId) (op : EngOp) (f : FmtE) (inst : Word) (xs : List Word) : QEntry :=
  let x := h.easel e
  let r := x.cur
  { op := op, fmt := f, ta := r.tdesc f.tda, tb := r.tdesc f.tdb, tc := r.tdesc f.tdc, xs := xs,
    arith := r.arith, sbm := r.sbm, sketch := r.sketch,
    seq := SMap.get 0 h.sk.seqs (x.actx.val * 208 + e.val),
    serial := r.serial, pc := r.pc, inst := inst, ctx := x.actx, started := false, since := 0, sqr := 0,
    txns := [], got := [], acked := [], bad := [], prog := 0, flags := 0, slow := 0, order := h.sk.issued
    tracked := none }

/-- An entry enters its engine's queue. -/
def enqueue (h : Hw) (e : EaselId) (q : Engine) (i : QEntry) : Hw :=
  let h1 := h.modEasel e (fun x => x.setQueue q (x.queue q ++ [{ i with order := h.sk.issued }]))
  { h1 with sk := { h1.sk with issued := h1.sk.issued + 1 } }

/-- An engine instruction enters its queue, or is held while the queue holds 64 entries (R111). -/
def enqueueEff (e : EaselId) (q : Engine) (i : QEntry) (h : Hw) : Eff :=
  if 64 ≤ ((h.easel e).queue q).length then .block h (.queueRoom q i) else .done (enqueue h e q i)

/-- The first check that fails. -/
def firstFail : List (Bool × BitVec 8) → Option (BitVec 8)
  | [] => none
  | (ok, c) :: l => if ok then firstFail l else some c

/-- Issues an engine instruction: reserved fields (R119), the at-issue checks in the order of R124, then
the queue, which holds it back when it is full (R111). -/
def engIssue (major minor : BitVec 6) (q : Engine) (op : EngOp) (decOk : Bool)
    (regs : CoreRegs → List Word) (checks : EaselId → QEntry → List (Bool × BitVec 8)) (e : EaselId)
    (f : FmtE) (h : Hw) : Hw :=
  let w := wordE major minor f
  issue h e w f.pneg f.pred (resv (decOk && (f.sig || f.so == 0))) (fun h =>
    let i := newEntry h e op f w (regs (h.easel e).cur)
    match firstFail (checks e i) with
    | some c => .fault c 0
    | none => enqueueEff e q i h)

/-- Bits of func above `n` are zero. -/
def funcBelow (f : FmtE) (n : Nat) : Bool := decide (f.func.toNat < 2 ^ n)

/-- The region origin (R128). -/
def originOk (i : QEntry) (m n : Nat) : Bool :=
  nthW i.xs 0 &&& ~~~0x7F7F#64 == 0 && decide (i.row0 + m ≤ 96 ∧ i.col0 + n ≤ 128)

/-- Checks of an ME instruction with one tile (R130–R132). -/
def accChecks (tr : Bool) (fmtOk : Nat → Bool) (e : EaselId) (i : QEntry) : List (Bool × BitVec 8) :=
  [(tdOk i.ta, 0x36), (trOk (if tr then [8, 16, 32, 64, 128] else []) i.ta, 0x38), (tileOwn e i.ta, 0x39),
   (originOk i (tdLRows i.ta) (tdLCols i.ta), 0x38), (fmtOk (tdFmt i.ta), 0x38)]

/-- Checks of MMA (R129). -/
def mmaChecks (e : EaselId) (i : QEntry) : List (Bool × BitVec 8) :=
  [(tdOk i.ta, 0x36), (tdOk i.tb, 0x36), (trOk [8, 16] i.ta, 0x38), (trOk [8, 16] i.tb, 0x38),
   (tileOwn e i.ta, 0x39), (tileOwn e i.tb, 0x39), (originOk i (mmaM i) (mmaN i), 0x38),
   (tdLCols i.ta == tdLCols i.tb, 0x38), (pairOk (tdFmt i.ta) (tdFmt i.tb), 0x38)]

/-- One register operand, s[rs]. -/
def oneReg (f : FmtE) (r : CoreRegs) : List Word := [r.get f.rs]

/-- MMA (R129). -/
def execMma (e : EaselId) (f : FmtE) (s : State) : Host.Outcome State Fault Refusal :=
  run s (engIssue 0x14 0x00 .me .mma (f.tdc == 0 && funcBelow f 3) (oneReg f) mmaChecks e f)

/-- ACCLOAD (R130). -/
def execAccload (e : EaselId) (f : FmtE) (s : State) : Host.Outcome State Fault Refusal :=
  run s (engIssue 0x14 0x01 .me .accload (f.tdb == 0 && f.tdc == 0 && funcBelow f 3) (oneReg f)
    (accChecks false (fun _ => true)) e f)

/-- ACCSTORE (R131). -/
def execAccstore (e : EaselId) (f : FmtE) (s : State) : Host.Outcome State Fault Refusal :=
  run s (engIssue 0x14 0x02 .me .accstore (f.tdb == 0 && f.tdc == 0 && funcBelow f 4) (oneReg f)
    (accChecks true (fun _ => true)) e f)

/-- CONVERT (R132). -/
def execConvert (e : EaselId) (f : FmtE) (s : State) : Host.Outcome State Fault Refusal :=
  run s (engIssue 0x14 0x03 .me .convert (f.tdb == 0 && f.tdc == 0 && funcBelow f 4) (oneReg f)
    (accChecks false convertFmt) e f)

/-- ANCHOR (R134). -/
def execAnchor (e : EaselId) (f : FmtE) (s : State) : Host.Outcome State Fault Refusal :=
  run s (engIssue 0x14 0x04 .me .anchor (f.tda == 0 && f.tdb == 0 && f.tdc == 0 && funcBelow f 2) (oneReg f)
    (fun _ i => [(ancOk (nthW i.xs 0), 0x38)]) e f)

/-! ### Vector instructions -/

/-- Reserved fields of a VU instruction (R136): tdc and rs only where they are used, c_mode 0b11 never. -/
def vuDecOk (op : VOp) (f : FmtE) : Bool :=
  let m := vuCMode f.func
  funcBelow f 6 && m != 3 &&
    (if op.usesC then (m == 1 || f.rs == 0) && (m != 1 || f.tdc == 0) else m == 0 && f.tdc == 0 && f.rs == 0)

/-- The tile operands of a VU instruction: d, b and a tile c. -/
def vuTiles (op : VOp) (i : QEntry) : List TDesc :=
  [i.ta, i.tb] ++ (if op.usesC && vuCMode i.fmt.func != 1 then [i.tc] else [])

def fltCode (c : Nat) : Bool := decide (0x0B ≤ c ∧ c ≤ 0x0D)

def sameShape (a b : TDesc) : Bool := tdLRows a == tdLRows b && tdLCols a == tdLCols b

/-- The shapes of R137. -/
def vuShapes (op : VOp) (i : QEntry) : Bool :=
  let m := vuCMode i.fmt.func
  (if op.reduces then tdLRows i.ta == tdLRows i.tb && tdLCols i.ta == 1 else sameShape i.ta i.tb) &&
    (!op.usesC || m == 1 || (if m = 2 then tdLRows i.tc == tdLRows i.tb && tdLCols i.tc == 1
                             else sameShape i.tc i.tb))

/-- The formats of R137. -/
def vuFormats (op : VOp) (i : QEntry) : Bool :=
  let d := tdFmt i.ta
  let b := tdFmt i.tb
  if op = .cvt then (fltCode b || b == 9 || b == 0x0E) &&
    (fltCode d || decide (1 ≤ d ∧ d ≤ 7) || d == 9 || d == 0x0E)
  else (vuTiles op i).all (fun t => fltCode (tdFmt t))

/-- Precision and rounding rules of R137. -/
def vuModes (op : VOp) (i : QEntry) : Bool :=
  let f := i.fmt.func
  (!vuPrec f || (op.bf16 && (vuTiles op i).all (fun t => tdFmt t == 0x0B))) &&
    (op != .cvt || decide (7 < tdFmt i.ta) || vuRnd f == .rne)

/-- The overlap rule of R137. -/
def vuOverlap (op : VOp) (i : QEntry) : Bool :=
  ((vuTiles op i).drop 1).all (fun t => tilesSame i.ta t || !tilesMeet i.ta t)

def vuChecks (op : VOp) (e : EaselId) (i : QEntry) : List (Bool × BitVec 8) :=
  (vuTiles op i).map (fun t => (tdOk t, 0x36)) ++
  (vuTiles op i).map (fun t => (trOk [8, 16, 32] t, 0x38)) ++
  (vuTiles op i).map (fun t => (tileOwn e t, 0x39)) ++
  [(vuShapes op i, 0x38), (vuFormats op i, 0x38), (vuModes op i, 0x38), (vuOverlap op i, 0x3A)]

/-- Issue of a VU instruction (R136, R137). -/
def vuIssue (op : VOp) (e : EaselId) (f : FmtE) : Hw → Hw :=
  engIssue 0x15 (BitVec.ofNat 6 op.minor) .vu (.vec op) (vuDecOk op f) (oneReg f) (vuChecks op) e f

/-! ### Copy instructions -/

/-- The registers of COPY (Table 4-10). -/
def copyRegs (f : FmtE) (r : CoreRegs) : List Word :=
  if f.rs = 0 then [] else [r.get f.rs, r.get (f.rs + 1), r.get (f.rs + 2), r.get (f.rs + 3)]

def copyChecks (_ : EaselId) (i : QEntry) : List (Bool × BitVec 8) :=
  [(tdOk i.ta, 0x36), (tdOk i.tb, 0x36), (trOk [8, 16, 32, 64, 128] i.ta, 0x38),
   (trOk [8, 16, 32, 64, 128] i.tb, 0x38),
   (i.fmt.rs == 0 || (decide (i.fmt.rs.toNat < 29) && wfld (nthW i.xs 0) 48 16 == 0), 0x38),
   (tdFmt i.ta == tdFmt i.tb && sameShape i.ta i.tb, 0x38)]

/-- GATHER and SCATTER: `rows` is the row tile, `data` the other (R145). -/
def indexChecks (rows data : QEntry → TDesc) (e : EaselId) (i : QEntry) : List (Bool × BitVec 8) :=
  [(tdOk i.ta, 0x36), (tdOk i.tb, 0x36), (tdOk i.tc, 0x36),
   (!tdTr i.ta && !tdTr i.tb && !tdTr i.tc, 0x38), (tileOwn e i.tc, 0x39),
   (tdFmt i.tc == 0x0E && tdLRows i.tc == 1 && tdLCols i.tc == tdRows (data i), 0x38),
   (tdCols (rows i) == tdCols (data i) && tdFmt (rows i) == tdFmt (data i), 0x38)]

/-! ### Waits of the core -/

/-- Every engine instruction of the context issued with sketch mode on has completed (R235). -/
def sketchDrained (x : Easel) : Bool :=
  (x.me ++ x.vu ++ x.ce).all (fun i => !i.sketch)

/-- The core's stores of its context are complete (R253, R258). -/
def storesDone (x : Easel) : Bool := x.sb.all (fun s => s.kind != .store || some s.ctx != x.loaded)

/-- A glaze bind of this easel that its slot has not accepted yet (R258). -/
def bindPending (h : Hw) (e : EaselId) : Bool :=
  h.glz.binds.any (fun b => b.easel == e && (h.easel e).loaded == some b.ctx)

/-- The conditions of FENCE (R258). -/
def fenceHolds (h : Hw) (e : EaselId) (m : BitVec 5) : Bool :=
  let x := h.easel e
  (!m.getLsbD 0 || storesDone x) && (!m.getLsbD 1 || x.me.isEmpty) && (!m.getLsbD 2 || x.vu.isEmpty) &&
    (!m.getLsbD 3 || x.ce.isEmpty) && (!m.getLsbD 4 || !bindPending h e)

/-- Posts the flag store of a RELEASE: a failure stays in the store buffer as a deferred store fault
(R253, R254); it never carries Relaxed Ordering (R262). -/
def postFlag (h : Hw) (e : EaselId) (inst a v : Word) : Hw :=
  let x := h.easel e
  let bad (c : BitVec 8) : Hw := h.pushSb e (sbEntry x .store a 8 v inst none c)
  match decodeUma h x.actx a with
  | .fault c => bad c
  | .local off => storeLocal h e a off 8 v inst
  | .remote fa off =>
    (match sendFault h (h.ctx x.actx).job fa with
      | some c => bad c
      | none => dropLines ((sendWrite h (.storeBuf e) x.actx a fa off (leBytes 8 v.toNat)).pushSb e
          (sbEntry x .store a 8 v inst (some h.nextTag) 0)) e a 8)
  | .host bus =>
    if h.hostUp then dropLines (h.emit (.hostWrite (BitVec.ofNat 64 bus) (leBytes 8 v.toNat) false)) e a 8
    else bad 0x16

/-- A core RELEASE has room for its action: in the store buffer, and a transaction where it leaves the module. -/
def releaseRoom (h : Hw) (e : EaselId) (sig : Bool) (scope : BitVec 2) (t : Word) : Bool :=
  let x := h.easel e
  if sig then postRoom h e t scope
  else !sbFull x && (match decodeUma h x.actx t with
    | .remote fa _ => (sendFault h (h.ctx x.actx).job fa).isSome || txnRoom h e (h.leavesNorth fa)
    | _ => true)

/-- The context's registers after SKOCC (R227). -/
def skoccValue (h : Hw) (e : EaselId) : Word := BitVec.ofNat 64 (heldCount h (h.easel e).actx (partOf e))

/-- What a held instruction does when it is tried again. -/
def heldBody (e : EaselId) (b : Blocked) : Option (Hw → Eff) :=
  match b.what with
  | .loadRoom rd a size signed => some (loadEff e rd a size signed)
  | .atomRoom op rd a x y => some (atomEff e op rd a x y)
  | .storeRoom a v size => some (storeEff e b.inst a v size)
  | .postRoom op n v scope => some (postEff e b.inst n v scope op)
  | .syncrdRoom rd n scope => some (syncrdEff e rd n scope)
  | .queueRoom q i => some (enqueueEff e q i)
  | .waitRoom o n c left => some (waitEff o n c left)
  | .srvRoom save a => some (srvMove e save a)
  | _ => none

/-- Tries a held instruction of service mode (`svc`) or of the context again (R100, R111, R150, R280). -/
def retry (h : Hw) (e : EaselId) (svc : Bool) (b : Blocked) (body : Hw → Eff) : Hw :=
  let keep := (h.easel e).service
  let h0 := h.modEasel e (fun y =>
    if svc then { y with service := true, svcBlocked := none } else { y with service := false, blocked := none })
  let h1 := (applyEff h0 e b.inst (body h0)).modEasel e (fun y => { y with service := keep })
  match b.what with
  | .waitRoom _ n c _ => waitArrives h h1 e n c
  | _ => h1

/-- Ends the wait of service mode on easel `e` where its instruction was held and has room now. -/
def settleSvc (h : Hw) (e : EaselId) : Hw :=
  match (h.easel e).svcBlocked with
  | none => h
  | some b =>
    match heldBody e b with
    | some body => retry h e true b body
    | none => h

/-- Ends the wait of the context's core on easel `e` where its condition now holds: FENCE, a core RELEASE, SKOCC and
held instructions go on; VARNISH and SCRAPE start to count their cycles. -/
def settleCtx (h : Hw) (e : EaselId) : Hw :=
  let x := h.easel e
  if x.stopped || x.loaded.isNone then h
  else match x.blocked with
    | none => h
    | some b =>
      match b.what with
      | .fence m => if fenceHolds h e m then finishWait h e false id else h
      | .release sig scope t v =>
        if storesDone x && releaseRoom h e sig scope t then
          -- the action is posted as the context's, whatever mode the core is in
          let h0 := h.modEasel e (fun y => { y with service := false })
          let h1 := if sig then postSync h0 e b.inst t scope 0 v .signal else postFlag h0 e b.inst t v
          finishWait (h1.modEasel e (fun y => { y with service := x.service })) e false id
        else h
      | .skocc rd =>
        if sketchDrained x then finishWait h e false (fun r => r.put rd (skoccValue h e)) else h
      | .varnish br n none =>
        if sketchDrained x then
          h.modEasel e (fun y => { y with blocked := some { b with what := .varnish br n (some h.now) } })
        else h
      | .scrape m none =>
        if sketchDrained x then
          h.modEasel e (fun y => { y with blocked := some { b with what := .scrape m (some h.now) } })
        else h
      | _ =>
        match heldBody e b with
        | some body => retry h e false b body
        | none => h

/-- Ends the waits of the core of easel `e` whose conditions now hold. -/
def settle (h : Hw) (e : EaselId) : Hw := settleCtx (settleSvc (drainStores h e) e) e

/-! ### Start -/

/-- A collective of the context is in progress on the module (R364). -/
def colBusy (h : Hw) (c : CtxId) : Bool := h.col.slots.any (fun p => p.2.ctx == c)

/-- The entry that an engine starts next: the head of the ME and VU queues; for the CE the first that has
not started, while fewer than twelve run, and with ord once every earlier one has completed (R121, R122). -/
def nextStart (x : Easel) (q : Engine) : Option QEntry :=
  match q with
  | .ce =>
    let work := x.ce.filter (fun i => !i.op.isRelease)
    match work.find? (fun i => !i.started) with
    | none => none
    | some i =>
      if 12 ≤ (work.filter (·.started)).length then none
      else if i.fbit 0 && (work.head?.map (·.serial)) != some i.serial then none
      else some i
  | _ =>
    match (x.queue q).head? with
    | some i => if i.started || i.op.isRelease then none else some i
    | none => none

/-- Engines of the easel work for its loaded context: not while it is stopped or held by a collective. -/
def enginesRun (h : Hw) (e : EaselId) (c : CtxId) : Bool :=
  let x := h.easel e
  h.up e && !x.stopped && (x.loaded == some c || (x.loaded.isNone && x.service)) && !colBusy h c

/-- The ME begins an MMA with work: a ramp is triggered after 1 µs of idleness (R153); its stagger and
length are those of PWR_RAMP_CFG (R462). -/
def beginMma (h : Hw) (e : EaselId) : Hw :=
  let w := h.breg .pwr 0x30
  let r : RampRun := { start := h.now, stagger := wfld w 16 8 * e.val, len := wfld w 0 16 }
  h.modEasel e (fun x =>
    { x with ramp := match x.ramp.idleSince with
        | some t => { idleSince := none, run := if t + 1000 ≤ h.now then some r else x.ramp.run }
        | none => x.ramp })

/-- A free copy sequencer, chosen by a free value. -/
def pickSqr (h : Hw) (x : Easel) : Nat :=
  let l := (List.range 12).filter (fun n => !(x.ce.any (fun i => i.started && !i.op.isRelease && i.sqr == n)))
  (l[h.freeWord.toNat % l.length]?).getD 0

/-- The stream tag of a CE instruction with final = 1; a non-zero number (assumption 17). -/
def streamTag (i : QEntry) : BitVec 16 :=
  let t := i.serial.setWidth 16
  if t = 0 then 0xFFFF else t

/-- The final flag applies: COPY or SCATTER with func[1], whose last transaction leaves the module (R149). -/
def finalDst (h : Hw) (i : QEntry) : Option Nat :=
  if i.fbit 1 && i.op != .gather then
    match i.txns.getLast? with
    | some t => (match decodeUma h i.ctx t.dst with | .remote fa _ => some fa | _ => none)
    | none => none
  else none

/-- Sends the write of transaction `idx` to a peer, in its instruction's stream where it has one. -/
def sendTxn (h : Hw) (e : EaselId) (i : QEntry) (idx : Nat) (t : Txn) (fa off : Nat) (b : Bytes) : Hw :=
  let str := finalDst h i == some fa
  let fin := str && decide (idx + 1 = i.txns.length)
  sendReq h (.copy e i.serial idx) i.ctx t.dst true
    { h.hdrTo fa 4 (b2n fin) b.length off with stream := if str then streamTag i else 0 } b

/-- Notes a failure of transaction `idx`. -/
def markBad (h : Hw) (e : EaselId) (i : QEntry) (idx : Nat) (c : BitVec 8) : Hw :=
  modEntry (countNoRoute h c) e .ce i.serial (fun j => { j with bad := j.bad ++ [(idx, c)], since := h.now })

/-- The data of transaction `idx` is here: a peer's or the host's bytes leave at once; lines over them go (R255). -/
def forwardTxn (h : Hw) (e : EaselId) (i : QEntry) (idx : Nat) (t : Txn) (b : Bytes) : Hw :=
  match decodeUma h i.ctx t.dst with
  | .remote fa off =>
    (match sendFault h (h.ctx i.ctx).job fa with
      | some c => markBad h e i idx c
      | none => dropLines (sendTxn h e i idx t fa off b) e t.dst t.len)
  | .host bus =>
    if h.hostUp then
      modEntry (dropLines (hostWriteCtx h i.ctx bus b) e t.dst t.len) e .ce i.serial
        (fun j => { j with acked := j.acked ++ [idx] })
    else markBad h e i idx 0x16
  | _ => h

/-- The final transaction of a stream may leave: every earlier one of its stream has left, and the destination has
answered one as tracked, or has acknowledged every one (R249, R250). -/
def finalMayLeave (h : Hw) (e : EaselId) (i : QEntry) (idx : Nat) : Bool :=
  match finalDst h i with
  | none => true
  | some fa =>
    let own := i.txns.zipIdx.filter (fun p => decide (p.2 < idx) &&
      (match decodeUma h i.ctx p.1.dst with | .remote f _ => f == fa | _ => false))
    let sent (k : Nat) : Bool := i.acked.contains k ||
      h.reqs.any (fun r => r.by_ == .copy e i.serial k && r.ctx == some i.ctx && r.write)
    decide (idx + 1 ≠ i.txns.length) || own.all (fun p => i.acked.contains p.2) ||
      (i.tracked == some true && own.all (fun p => sent p.2))

/-- A transaction slot is free for a request to an address that is not here (R4, R150). -/
def slotFree (h : Hw) (e : EaselId) (c : CtxId) (a : Word) : Bool :=
  match decodeUma h c a with
  | .remote fa _ => txnRoom h e (h.leavesNorth fa)
  | .host _ => txnRoom h e true
  | _ => true

/-- Starts transaction `idx`: its read request where the source is not here, its write where the
destination is not here.  A transaction that faults sends nothing. -/
def startTxn (h : Hw) (e : EaselId) (i : QEntry) (idx : Nat) (t : Txn) : Hw :=
  if (srcFault h e i t).isSome || (dstFault h i t).isSome then
    match (match srcFault h e i t with | some f => some f | none => dstFault h i t) with
    | some f => markBad h e i idx f.1
    | none => h
  else if txnWaits h i t then h
  else
    match readSource h e i t with
    | some (b, h1) => if isLocalT (decodeUma h i.ctx t.dst) then
        (match t.src with
          | some a => if isLocalT (decodeUma h i.ctx a) then h
              else modEntry h1 e .ce i.serial (fun j => { j with got := j.got ++ [(idx, b)] })
          | none => h)
      else if slotFree h e i.ctx t.dst && finalMayLeave h e i idx then forwardTxn h1 e i idx t b
      else h
    | none =>
      match t.src with
      | some a =>
        if !slotFree h e i.ctx a then h
        else (match decodeUma h i.ctx a with
          | .remote fa off => sendRead h (.copy e i.serial idx) i.ctx a fa off t.len
          | .host bus => hostRead h (.copy e i.serial idx) (some i.ctx) a bus t.len
          | _ => h)
      | none => h

/-- Transaction `k` of a started CE instruction sends what it still lacks, where it has a slot: its read, or the
write of data that is here (R150, R425). -/
def sendLacking (h : Hw) (e : EaselId) (serial : Word) (k : Nat) : Hw :=
  match findEntry h e .ce serial with
  | none => h
  | some i =>
    match i.txns[k]? with
    | none => h
    | some t =>
      let out := h.reqs.any (fun r => r.by_ == .copy e serial k && r.ctx == some i.ctx)
      if !i.started || i.acked.contains k || i.bad.any (fun b => b.1 == k) || out then h
      else match i.got.find? (fun q => q.1 == k) with
        | some q =>
          if isLocalT (decodeUma h i.ctx t.dst) || !slotFree h e i.ctx t.dst || !finalMayLeave h e i k then h
          else forwardTxn h e i k t q.2
        | none => startTxn h e i k t

/-- Every transaction of a CE instruction sends what it lacks, in order. -/
def pumpEntry (h : Hw) (e : EaselId) (i : QEntry) : Hw :=
  (List.range i.txns.length).foldl (fun g k => sendLacking g e i.serial k) h

/-- The executing CE instructions of easel `e` go on sending while transaction slots are free. -/
def pumpCe (h : Hw) (e : EaselId) : Hw :=
  let x := h.easel e
  if x.stopped then h
  else (x.ce.filter (fun i => i.started && !i.op.isRelease)).foldl (fun g i => pumpEntry g e i) h

/-- GATHER and SCATTER read their index tile as they start: its corrected words and its bytes from sketch slots
count (R145, R160, R242). -/
def touchIndices (h : Hw) (e : EaselId) (i : QEntry) : Hw :=
  if i.op = .gather ∨ i.op = .scatter then touchTile h (i.view e) i.tc else h

/-- ENGINE_START: an engine or a free copy sequencer starts the next queued instruction (R121, R122). -/
def execEngineStart (e : EaselId) (q : Engine) (s : State) : Host.Outcome State Fault Refusal :=
  run s (fun h =>
    match nextStart (h.easel e) q with
    | none => h
    | some i =>
      if !enginesRun h e i.ctx then h
      else match q with
        | .ce =>
          let n := pickSqr h (h.easel e)
          let ts := txnsOf h e i
          let i1 := { i with started := true, since := h.now, sqr := n, txns := ts }
          pumpEntry (touchIndices (modEntry h.useFree e .ce i.serial (fun _ => i1)) e i) e i1
        | _ =>
          let h1 := modEntry h e q i.serial (fun j => { j with started := true, since := h.now })
          if i.op = .mma ∧ mmaWork i then beginMma h1 e else h1)

/-- ME_IDLE_TIMEOUT: a ramp in progress ends after 1 µs of idleness (R153). -/
def execMeIdleTimeout (e : EaselId) (s : State) : Host.Outcome State Fault Refusal :=
  run s (fun h => h.modEasel e (fun x =>
    match x.ramp.idleSince with
    | some t => if t + 1000 ≤ h.now then { x with ramp := { x.ramp with run := none } } else x
    | none => x))

/-! ### Completion -/

/-- What an executed instruction does: memory writes, whether they are sketch writes, the accumulators
after it, flags, a set whose flags it clears. -/
structure EngEffect where
  ws : List Wr
  acc : AccSets
  flags : Word
  clear : Option Nat
  deriving DecidableEq, Repr

/-- What an ME or VU instruction has left to do, in K blocks or rows of its destination (R125). -/
def engLeft (i : QEntry) : Nat :=
  match i.op with
  | .mma => mmaBlocks i - i.prog
  | .vec _ => tdLRows i.ta - i.prog
  | _ => 0

/-- The effect of `n` K blocks of an MMA or rows of a VU instruction, or of another ME instruction. -/
def engEffect (h : Hw) (e : EaselId) (i : QEntry) (n : Nat) : EngEffect :=
  let a := (h.easel e).acc
  let ofRun (r : AccRun) : EngEffect := { ws := [], acc := r.acc, flags := r.flags, clear := none }
  match i.op with
  | .mma => ofRun (mmaRun h e i a n)
  | .accload => ofRun (accloadRun h e i a)
  | .accstore =>
    let r := accstoreRun i a
    { ws := r.ws, acc := clearRegion i a, flags := r.flags, clear := none }
  | .convert =>
    let r := convertRun i a
    { ws := r.ws, acc := clearRegion i a, flags := r.flags, clear := none }
  | .anchor =>
    let r := anchorRun i a
    { ws := [], acc := r.acc, flags := r.flags, clear := if ancKeep (nthW i.xs 0) then none else some i.set }
  | .vec op =>
    let r := vuRun h e i op n
    { ws := r.ws, acc := a, flags := r.flags, clear := none }
  | _ => { ws := [], acc := a, flags := 0, clear := none }

/-- The tiles whose bytes an ME or VU instruction reads. -/
def engSources (i : QEntry) : List TDesc :=
  match i.op with
  | .mma => if mmaWork i then [i.ta, i.tb] else []
  | .accload => [i.ta]
  | .vec op => if tdEmpty i.ta then [] else vuSources i op
  | _ => []

/-- An address within the own Palette as a UMA. -/
def palUma (off : Nat) : Word := BitVec.ofNat 64 off

/-- The format and mode rules that are checked at execution (R130, R131, R134). -/
def modeFault (h : Hw) (e : EaselId) (i : QEntry) : Bool :=
  let a := (h.easel e).acc
  let w := a.anchor i.set
  match i.op with
  | .accload => !accloadOk w (tdFmt i.ta)
  | .accstore => !accstoreOk w (tdFmt i.ta)
  | .anchor => !anchorKeepOk a i.set (nthW i.xs 0)
  | _ => false

/-- What local writes of an instruction fault on: a sketch write outside the context's regions, one beyond
its allotment, a merge into an uncorrectable word (R163, R228, R230). -/
def writeFault (h : Hw) (e : EaselId) (i : QEntry) (ws : List Wr) : Option (BitVec 8 × Word) :=
  if i.branches = 0 then (writesBad h ws).map (fun o => (memClass o, palUma o))
  else match ws.find? (fun w => !inRegions h i.ctx w.1 w.2.length) with
    | some w => some (0x13, palUma w.1)
    | none =>
      if slotsFit h (slotsOf i e ws) then none else (ws.head?).map (fun w => (0x13, palUma w.1))

/-- The fault that an executing ME or VU instruction meets. -/
def tileFault (h : Hw) (e : EaselId) (q : Engine) (i : QEntry) : Option (BitVec 8 × Word) :=
  if modeFault h e i then some (0x38, 0)
  else if q == .me && accBad (h.easel e).acc i then some (0x02, 0)
  else match (engSources i).findSome? (tileBad h (i.view e)) with
    | some o => some (memClass o, palUma o)
    | none => writeFault h e i (engEffect h e i (engLeft i)).ws

/-- Local writes of a CE instruction: ordinary ones and sketch ones. -/
structure CeWrites where
  h : Hw
  plain : List Wr
  sk : List Wr
  deriving DecidableEq, Repr

/-- Collects the local writes of the transactions that have not been performed, reading the sources that are here. -/
def ceWrites (h : Hw) (e : EaselId) (i : QEntry) (idxs : List Nat) : CeWrites :=
  idxs.foldl (fun r k =>
    match i.txns[k]? with
    | none => r
    | some t =>
      match decodeUma r.h i.ctx t.dst with
      | .local off =>
        if i.acked.contains k then r else
        let d : Option (Bytes × Hw) := match i.got.find? (fun g => g.1 == k) with
          | some g => some (g.2, r.h)
          | none => readSource r.h e i t
        (match d with
          | some (b, h1) =>
            let h2 := countCe h1 i.ctx (.local off) t.len
            if isSketchWrite i t.dst then { h := h2, plain := r.plain, sk := r.sk ++ [(off, b)] }
            else { h := h2, plain := r.plain ++ [(off, b)], sk := r.sk }
          | none => r)
      | tg => { r with h := countCe r.h i.ctx tg t.len }) { h := h, plain := [], sk := [] }

/-- What transaction `k` of a started CE instruction faults on: a failure that came back, or one found
here. -/
def txnFault (h : Hw) (e : EaselId) (i : QEntry) (k : Nat) (t : Txn) : Option (BitVec 8 × Word) :=
  if i.acked.contains k then none
  else match i.bad.find? (fun b => b.1 == k) with
  | some b =>
    let atSrc := match t.src with
      | some a => !isLocalT (decodeUma h i.ctx a) && !i.got.any (fun g => g.1 == k)
      | none => false
    some (b.2, if atSrc then t.src.getD t.dst else t.dst)
  | none =>
    let src := match t.src with
      | some a => if isLocalT (decodeUma h i.ctx a) then srcFault h e i t else none
      | none => none
    match src with
    | some f => some f
    | none => if isLocalT (decodeUma h i.ctx t.dst) then dstFault h i t else none

/-- The first fault of a CE instruction in iteration order (R148), then the allotment rule. -/
def copyFault (h : Hw) (e : EaselId) (i : QEntry) : Option (BitVec 8 × Word) :=
  match (if i.op = .copy then none else tileBad h (i.view e) i.tc) with
  | some o => some (memClass o, palUma o)
  | none =>
    match i.txns.zipIdx.findSome? (fun p => txnFault h e i p.2 p.1) with
    | some f => some f
    | none =>
      let w := (ceWrites h e i (List.range i.txns.length)).sk
      if slotsFit h (slotsOf i e w) then none else (w.head?).map (fun x => (0x13, palUma x.1))

/-- The fault that an executing instruction meets. -/
def engFaultOf (h : Hw) (e : EaselId) (q : Engine) (i : QEntry) : Option (BitVec 8 × Word) :=
  match q with
  | .ce => copyFault h e i
  | _ => tileFault h e q i

/-- Every read that a CE instruction sent has returned, every write has been acknowledged, and no local end waits for
its channel (R120, R180). -/
def ceSettled (h : Hw) (i : QEntry) : Bool :=
  i.txns.zipIdx.all (fun p =>
    let src := match p.1.src with
      | some a => isLocalT (decodeUma h i.ctx a) || i.got.any (fun g => g.1 == p.2) || i.acked.contains p.2
      | none => true
    i.acked.contains p.2 || (src && isLocalT (decodeUma h i.ctx p.1.dst) && !txnWaits h i p.1))

/-- The sketch writes that an instruction will make. -/
def sketchWrites (h : Hw) (e : EaselId) (q : Engine) (i : QEntry) : List Wr :=
  if i.branches = 0 then []
  else match q with
    | .ce => (ceWrites h e i (List.range i.txns.length)).sk
    | _ => (engEffect h e i (engLeft i)).ws

/-- A started instruction may complete: it is its engine's, no fault stops it, its requests have been
answered, its slots are free (R230), and F lets an MMA advance (R152). -/
def mayComplete (h : Hw) (e : EaselId) (q : Engine) (i : QEntry) : Bool :=
  i.started && !i.op.isRelease && (engFaultOf h e q i).isNone && (q != .ce || ceSettled h i) &&
    poolRoom h (slotsOf i e (sketchWrites h e q i)) &&
    (i.op != .mma || !mmaWork i || easelF h e != 0)

/-- Cycles in which F held an MMA back: none unless F was below 64 while it executed, then a free value within that
time (R152, R154). -/
def heldCycles (h : Hw) (e : EaselId) (i : QEntry) : Nat :=
  h.freeWord.toNat % (cdiv (i.slow * (h.easel e).clockMhz) 1000 + 1)

/-- Cycles that an instruction's context is charged (Table 14-12). -/
def countCycles (h : Hw) (e : EaselId) (i : QEntry) : Hw :=
  match i.op with
  | .mma =>
    if mmaWork i then perfAdd (perfAdd h.useFree i.ctx 0 (mmaCycles i)) i.ctx 1 (heldCycles h e i) else h
  | .vec op => perfAdd h i.ctx 3 (vuCycles i op)
  | _ => h

/-- An instruction has ended on the ME: it is idle from now where an MMA with work ended (R153). -/
def endMma (h : Hw) (e : EaselId) (i : QEntry) : Hw :=
  if i.op = .mma ∧ mmaWork i then h.modEasel e (fun x => { x with ramp := { x.ramp with idleSince := some h.now } })
  else h

/-- Performs local writes of an instruction: sketch writes take slots, others reach memory; lines of this
easel's CE over bytes that its CE writes are dropped (R228, R255). -/
def performWrites (h : Hw) (e : EaselId) (q : Engine) (i : QEntry) (plain sk : List Wr) : Hw :=
  let h1 := takeSlots (applyWrites h plain) (slotsOf i e sk)
  if q = .ce then (plain ++ sk).foldl (fun g w => dropLines g e (palUma w.1) w.2.length) h1 else h1

/-- The data effects of `n` K blocks or rows of an ME or VU instruction, its flags apart. -/
def performPart (h : Hw) (e : EaselId) (q : Engine) (i : QEntry) (n : Nat) : Hw :=
  let x := engEffect h e i n
  let h1 := (engSources i).foldl (fun g d => touchTile g (i.view e) d) h
  let h2 := match x.clear with
    | some k => clearSetFlags h1 e k
    | none => h1
  let h3 := h2.modEasel e (fun y => { y with acc := x.acc })
  if i.branches = 0 then performWrites h3 e q i x.ws [] else performWrites h3 e q i [] x.ws

/-- Flags that the instruction sets: those of the part done before a context switch, and of the rest. -/
def flagsOf (h : Hw) (e : EaselId) (q : Engine) (i : QEntry) : Word :=
  if q = .ce then 0 else i.flags ||| (engEffect h e i (engLeft i)).flags

/-- The data effects of what an instruction has left to do, with its flags. -/
def performEngine (h : Hw) (e : EaselId) (q : Engine) (i : QEntry) : Hw :=
  match q with
  | .ce =>
    let r := ceWrites h e i (List.range i.txns.length)
    performWrites r.h e .ce i r.plain r.sk
  | _ => setFlags (performPart h e q i (engLeft i)) e (flagsOf h e q i)

/-- Records one trap for each class that the instruction raised (R66). -/
def recordTraps (h : Hw) (e : EaselId) (q : Engine) (i : QEntry) (flags : Word) : Hw :=
  (trapClasses i.arith flags).foldl (fun g c =>
    recordFault g { engineAgent g e q i with cls := c }) h

/-- The easel object that an engine instruction names. -/
def signalOf (e : EaselId) (i : QEntry) : ObjId := .easel i.ctx e i.fmt.so.toFin

/-- Counts corrected accumulator words and tag bits, or uncorrectable entries, and logs them (R160, R168, R193). -/
def countAcc (h : Hw) (e : EaselId) (n : Nat) (ue : Bool) : Hw :=
  if n = 0 then h
  else
    let d := if ue then 8 else 0
    let h1 := (h.count (blkBase (.easel e) + 0x40 + d) n).count (blkBase (.cnv (dieOf e)) + 0x30 + d) n
    if ue then h1 else logAcc h1 e 0

/-- Errors appear in the accumulator storage of an easel. -/
def spoilAcc (h : Hw) (e : EaselId) (l : List AccErr) : Hw :=
  if l.isEmpty then h else h.modEasel e (fun x => { x with acc := l.foldl AccSets.spoil x.acc })

/-- Corrected words and tag bits of the accumulator entries that an ME instruction reads. -/
def accMet (h : Hw) (e : EaselId) (q : Engine) (i : QEntry) : Nat :=
  if q = .me then accCorrected (h.easel e).acc i else 0

/-- An instruction that may complete completes: its effect, its signal, then its traps. -/
def completeEngine (h : Hw) (e : EaselId) (q : Engine) (i : QEntry) : Hw :=
  let flags := flagsOf h e q i
  let h1 := endMma (countCycles (performEngine h e q i) e i) e i
  let h2 := dropEntry (countAcc h1 e (accMet h e q i) false) e q i.serial
  let h3 := if i.fmt.sig then signalObj h2 (signalOf e i) 1 (engineAgent h2 e q i) else h2
  pumpCe (settle (recordTraps h3 e q i flags) e) e

/-- ENGINE_INSTRUCTION_COMPLETE (R120); `errors` have appeared in accumulator storage since it was last read, and one
that cannot be corrected keeps the instruction from completing (R168). -/
def execEngineInstructionComplete (e : EaselId) (q : Engine) (serial : Word) (errors : List AccErr) (s : State) :
    Host.Outcome State Fault Refusal :=
  run s (fun h0 =>
    let h := if q = .me then spoilAcc h0 e errors else h0
    match findEntry h e q serial with
    | none => h
    | some i => if mayComplete h e q i then completeEngine h e q i else h)

/-! ### Faults -/

/-- Pieces of writes, each within one granule (R156). -/
def pieces (ws : List Wr) : List Wr :=
  ws.flatMap (fun w => (List.range (cdiv (w.1 % 64 + w.2.length) 64)).map (fun k =>
    let lo := max w.1 ((w.1 / 64 + k) * 64)
    let hi := min (w.1 + w.2.length) ((w.1 / 64 + k + 1) * 64)
    (lo, sub w.2 (lo - w.1) (hi - lo))))

/-- The elements of a list whose positions are named. -/
def keepAt {α : Type} (l : List α) (done : List Nat) : List α :=
  (l.zipIdx.filter (fun p => done.contains p.2)).map (·.1)

/-- Accumulators of which the named entries are new and the others old. -/
def mixAcc (old new : AccSets) (done : List Nat) : AccSets :=
  let keys := ((old.cells.map (·.1)) ++ (new.cells.map (·.1))).filter (fun k => done.contains k)
  { old with
    cells := keys.foldl (fun m k => SMap.set AccEntry.zero m k (SMap.get AccEntry.zero new.cells k)) old.cells
    errs := old.errs.filter (fun p => !keys.contains p.1) }

/-- Writes that an ordinary merge cannot make are left out. -/
def goodWrites (h : Hw) (ws : List Wr) : List Wr := ws.filter (fun w => (h.mem.badWrite w.1 w.2.length).isNone)

/-- Flags that a faulting ME or VU instruction has set: those of its earlier part, and some of the rest (R156). -/
def partFlags (h : Hw) (e : EaselId) (q : Engine) (i : QEntry) (cls : BitVec 8) : Word :=
  if q = .ce then 0
  else if cls = 0x38 then i.flags
  else i.flags ||| ((engEffect h e i (engLeft i)).flags &&& h.freeWord)

/-- What a faulting instruction has done: the named pieces of its writes, the named accumulator entries
(by their key), some of its flags; nothing where its mode or format is refused (R130, R131, R134). -/
def partialEffect (h : Hw) (e : EaselId) (q : Engine) (i : QEntry) (cls : BitVec 8) (done : List Nat) : Hw :=
  match q with
  | .ce =>
    let ok := done.filter (fun k => match i.txns[k]? with
      | some t => (txnFault h e i k t).isNone && (t.src.all (fun a => isLocalT (decodeUma h i.ctx a)) ||
          i.got.any (fun g => g.1 == k))
      | none => false)
    let r := ceWrites h e i ok
    performWrites r.h e .ce i r.plain r.sk
  | _ =>
    if cls = 0x38 then h
    else
      let x := engEffect h e i (engLeft i)
      let h1 := setFlags h.useFree e (partFlags h e q i cls)
      let h2 := h1.modEasel e (fun y => { y with acc := mixAcc y.acc x.acc done })
      let ws := keepAt (pieces x.ws) done
      if i.branches = 0 then performWrites h2 e q i (goodWrites h2 ws) []
      else performWrites h2 e q i [] (ws.filter (fun w => inRegions h i.ctx w.1 w.2.length))

/-- A fault that only the hardware sees: an uncorrectable word on an on-die path (R164). -/
def hwFault (cls : BitVec 8) : Bool := cls == 0x05

/-- Reports the uncorrectable memory word that an engine met (R162). -/
def reportEngineUe (h : Hw) (i : QEntry) (cls : BitVec 8) (addr : Word) : Hw :=
  if (cls = 1 ∨ cls = 3 ∨ cls = 4) ∧ wfld addr 60 4 = 0 then
    match h.mem.badRead (addr.toNat / 8 * 8) 256 with
    | some o => reportUe h o (some i.ctx)
    | none => h
  else if cls = 0x05 ∧ wfld addr 60 4 = 0 then { h with mem := h.mem.pathMet addr.toNat 256 }
  else h

/-- Ends a started instruction with an imprecise fault (R156). -/
def endWithFault (h : Hw) (e : EaselId) (q : Engine) (i : QEntry) (cls : BitVec 8) (addr : Word) : Hw :=
  let h1 := dropEntry (endMma h e i) e q i.serial
  recordFault h1 { engineAgent h1 e q i with cls := cls, addr := addr }

/-- ENGINE_FAULT (R156): the fault that the model finds, or one that only the hardware sees; `done` names
what took effect before it.  Enabled traps of the flags it has set are recorded after it (R65, R66). -/
def execEngineFault (e : EaselId) (q : Engine) (serial : Word) (cls : BitVec 8) (addr : Word)
    (done : List Nat) (s : State) : Host.Outcome State Fault Refusal :=
  run s (fun h =>
    match findEntry h e q serial with
    | none => h
    | some i =>
      let ends (c : BitVec 8) (a : Word) : Hw :=
        let h1 := reportEngineUe (partialEffect h e q i c done) i c a
        recordTraps (endWithFault (countAcc h1 e (b2n (c == 0x02)) true) e q i c a) e q i (partFlags h e q i c)
      if !i.started || i.op.isRelease then h
      else match engFaultOf h e q i with
        | some f => ends f.1 f.2
        | none => if hwFault cls then ends cls addr else h)

/-! ### Context switch (R125) -/

/-- The ME or VU stops the executing instruction of its context after a number of K blocks or rows, which a free value
chooses.  A VU instruction with branches admitted takes its slots as a whole (R229, assumption 9). -/
def stopAtBoundary (h : Hw) (e : EaselId) (q : Engine) : Hw :=
  match ((h.easel e).queue q).head? with
  | none => h
  | some i =>
    let n := h.freeWord.toNat % (engLeft i + 1)
    let whole := match i.op with | .vec _ => i.branches != 0 | _ => false
    if !i.started || i.op.isRelease || engLeft i = 0 || n = 0 || whole || (engFaultOf h e q i).isSome then h
    else
      let f := (engEffect h e i n).flags
      modEntry (performPart h.useFree e q i n) e q i.serial (fun j =>
        { j with prog := j.prog + n, flags := j.flags ||| f })

/-- A copy instruction stops after a transaction: of its first transactions, as many as a free value says, those whose
ends are here and good have been performed. -/
def stopCopy (h : Hw) (e : EaselId) (i : QEntry) : Hw :=
  let m := h.freeWord.toNat % (i.txns.length + 1)
  let idxs := (List.range m).filter (fun k => match i.txns[k]? with
    | some t => !i.acked.contains k && isLocalT (decodeUma h i.ctx t.dst) && !isSketchWrite i t.dst && !txnWaits h i t &&
        (txnFault h e i k t).isNone &&
        (t.src.all (fun a => isLocalT (decodeUma h i.ctx a)) || i.got.any (fun g => g.1 == k))
    | none => false)
  if idxs.isEmpty then h
  else
    let r := ceWrites h.useFree e i idxs
    modEntry (performWrites r.h e .ce i r.plain []) e .ce i.serial (fun j => { j with acked := j.acked ++ idxs })

/-- The engines of an easel stop their executing instructions at a boundary (R125). -/
def stopEngines (h : Hw) (e : EaselId) : Hw :=
  let h1 := stopAtBoundary (stopAtBoundary h e .me) e .vu
  ((h1.easel e).ce.filter (fun i => i.started && !i.op.isRelease)).foldl (fun g i => stopCopy g e i) h1

/-- An MMA that resumes ends the idleness of the ME again (R153). -/
def resumeMma (h : Hw) (e : EaselId) : Hw :=
  match (h.easel e).me.head? with
  | some i => if i.started && i.op == .mma && mmaWork i then beginMma h e else h
  | none => h

/-- A context that leaves an easel leaves its ME idle where it held an executing MMA (R153). -/
def idleMe (h : Hw) (e : EaselId) : Hw :=
  h.modEasel e (fun x => if x.ramp.idleSince.isSome then x else { x with ramp := { x.ramp with idleSince := some h.now } })

/-! ### Releases of the engines (R253, R254) -/

/-- An engine RELEASE acts when every earlier instruction of its queue has completed. -/
def releaseReady (x : Easel) (q : Engine) (i : QEntry) : Bool :=
  i.op.isRelease && !i.started && (x.queue q).head?.map (·.serial) == some i.serial

/-- The action of an engine RELEASE has been performed: its entry leaves the queue. -/
def releaseDone (h : Hw) (e : EaselId) (q : Engine) (serial : Word) : Hw := settle (dropEntry h e q serial) e

/-- The flag store of an engine RELEASE; it waits while the flag's LPDDR6 channel retrains (R180). -/
def engineFlag (h : Hw) (e : EaselId) (q : Engine) (i : QEntry) (a v : Word) : Hw :=
  match decodeUma h i.ctx a with
  | .fault c => endWithFault h e q i c a
  | .local off =>
    if chanWaits h off 8 then h
    else (match h.mem.badWrite off 8, h.mem.pathBad off 8 with
      | some _, _ => endWithFault h e q i (memClass off) a
      | none, some _ => endWithFault { h with mem := h.mem.pathMet off 8 } e q i 0x05 a
      | none, none =>
        releaseDone (dropLines { h with mem := h.mem.write off (leBytes 8 v.toNat) } e a 8) e q i.serial)
  | .remote fa off =>
    (match sendFault h (h.ctx i.ctx).job fa with
      | some c => endWithFault (countNoRoute h c) e q i c a
      | none =>
        if !txnRoom h e (h.leavesNorth fa) then h
        else modEntry (dropLines (sendWrite h (.release e q i.serial) i.ctx a fa off (leBytes 8 v.toNat)) e a 8) e q
          i.serial (fun j => { j with started := true, since := h.now }))
  | .host bus =>
    if h.hostUp then
      releaseDone (dropLines (h.emit (.hostWrite (BitVec.ofNat 64 bus) (leBytes 8 v.toNat) false)) e a 8) e q i.serial
    else endWithFault h e q i 0x16 a

/-- The signal of an engine RELEASE. -/
def engineSignal (h : Hw) (e : EaselId) (q : Engine) (i : QEntry) (scope : BitVec 2) (n v : Word) : Hw :=
  match resolveName h i.ctx e n scope with
  | .obj o => releaseDone (signalObj h o (v.toNat % 2 ^ 32) (engineAgent h e q i)) e q i.serial
  | .refused => endWithFault h e q i 0x27 n
  | .peer fa idx =>
    (match sendFault h (h.ctx i.ctx).job fa with
      | some c => endWithFault (countNoRoute h c) e q i c n
      | none => if !txnRoom h e (h.leavesNorth fa) then h else modEntry (sendSync h (.release e q i.serial) i.ctx n fa 0 idx v) e q i.serial
          (fun j => { j with started := true, since := h.now }))

/-- RELEASE_ACTION (R253). -/
def execReleaseAction (e : EaselId) (q : Engine) (serial : Word) (s : State) : Host.Outcome State Fault Refusal :=
  run s (fun h =>
    match findEntry h e q serial with
    | none => h
    | some i =>
      let x := h.easel e
      if !releaseReady x q i || x.stopped || x.loaded != some i.ctx then h
      else match i.op with
        | .release sig scope =>
          if sig then engineSignal h e q i scope (nthW i.xs 0) (nthW i.xs 1)
          else engineFlag h e q i (nthW i.xs 0) (nthW i.xs 1)
        | _ => h)

end Sys2Proof.Machine
end

