-- ==== Sys2Proof/Machine/Glaze.lean ====
section
/-! DEFINITION. Glaze weight streams (R195–R219): the GLAZE instructions, binding, block verification,
delivery, gates and stream faults. -/

namespace Sys2Proof.Machine

/-! ### Slots -/

def Hw.gslot (h : Hw) (n : SlotId) : GlazeSlot := SMap.get GlazeSlot.init h.glz.slots n.val

def Hw.setGslot (h : Hw) (n : SlotId) (g : GlazeSlot) : Hw :=
  { h with glz := { h.glz with slots := SMap.put h.glz.slots n.val g } }

def Hw.modGslot (h : Hw) (n : SlotId) (f : GlazeSlot → GlazeSlot) : Hw := h.setGslot n (f (h.gslot n))

/-- The GLZ_ block of a slot, and the slot's number in it (R220). -/
def glzBlk (n : SlotId) : Nat := blkBase (.glz (Fin.ofNat 2 (n.val / 32)))
def glzIdx (n : SlotId) : Nat := n.val % 32

/-- The slot is allotted to a context (R195). -/
def slotOf (h : Hw) (n : SlotId) : Option CtxId :=
  let w := h.reg (glzBlk n + 0x100 + 8 * glzIdx n)
  if bit w 6 then some (Fin.ofNat 64 (wfld w 0 6)) else none

/-- Status word of a slot (Table 6-3). -/
def glzStatus (g : GlazeSlot) : Word :=
  put g.state.toNat 0 3 ||| put (g.entriesDone % 65536) 8 16 ||| put g.blocksDone 24 40

/-- The slot as the agent of a fault or a signal (R217). -/
def glzAgent (h : Hw) (n : SlotId) (c : CtxId) (e : EaselId) (serial pc inst : Word) : FaultRec :=
  { FaultRec.blank h.ftcNow 0 4 with
    ctx := some c, easel := BitVec.ofNat 8 e.val, unit := BitVec.ofNat 6 n.val, serial := serial, pc := pc,
    inst := inst }

/-! ### Descriptor fields (Table 6-4) -/

def gSrc (g : GlazeSlot) : Word := nthW g.desc 0
def gTags (g : GlazeSlot) : Word := nthW g.desc 1
def gLen (g : GlazeSlot) : Nat := wfld (nthW g.desc 3) 0 40
def gFirst (g : GlazeSlot) : Nat := wfld (nthW g.desc 4) 0 40
def gCipher (g : GlazeSlot) : Bool := bit (nthW g.desc 5) 0
def gBalpa (g : GlazeSlot) : Bool := wfld (nthW g.desc 5) 1 2 == 1
def gKey (g : GlazeSlot) : Nat := wfld (nthW g.desc 5) 8 7
def gCirc (g : GlazeSlot) : Nat := wfld (nthW g.desc 5) 16 12
def gSalt (g : GlazeSlot) : Nat := wfld (nthW g.desc 5) 32 32
def gList (g : GlazeSlot) : Word := nthW g.desc 6
def gEntries (g : GlazeSlot) : Nat := wfld (nthW g.desc 7) 0 16
def gBlocks (g : GlazeSlot) : Nat := cdiv (gLen g) 65536

/-- Length of block `i` (R204). -/
def gBlkLen (g : GlazeSlot) (i : Nat) : Nat := Nat.min 65536 (gLen g - i * 65536)

/-- A remote UMA: its class is 8 and bits [59:58] are zero (Table 1-5). -/
def isRemote (a : Word) : Bool := wfld a 60 4 == 8 && wfld a 58 2 == 0

/-- Source UMA of block `i` (R204). -/
def blockUma (g : GlazeSlot) (i : Nat) : Word := gSrc g + BitVec.ofNat 64 (65536 * i)

/-! ### Faults -/

/-- A stream faults: the record, state 4, the error log; the context's other streams stop (R217). -/
def streamFault (h : Hw) (n : SlotId) (cls : BitVec 8) (addr : Word) (block : Nat) : Hw :=
  let g := h.gslot n
  let k := glzBlk n + 0x38
  let h1 := h.setReg k (put (glzIdx n) 0 5 ||| put g.ctx.val 8 6 ||| put cls.toNat 16 8 |||
    put block 24 39 ||| bitw true 63)
  let h2 := recordFault (endReads h1 (· == n)) { glzAgent h1 n g.ctx g.easel g.serial g.pc g.inst with cls := cls, addr := addr }
  (stopGlaze h2 g.ctx).modGslot n (fun x => { x with state := 4, elems := [], scales := [], lens := [], got := [] })

/-- A bind or stop that is refused before a stream exists faults and leaves the slot unchanged (R199, R201), its
error log too (assumption 114). -/
def glzRefuse (h : Hw) (n : SlotId) (e : EaselId) (c : CtxId) (serial pc inst addr : Word) : Hw :=
  recordFault h { glzAgent h n c e serial pc inst with cls := 0x63, addr := addr }

/-! ### GLAZE instructions -/

/-- Slot field, imm38[5:0] (R198). -/
def glzSlotOf (f : FmtI) : SlotId := (f.imm.setWidth 6).toFin

/-- GLZBIND: passes to the slot's die and the core goes on (R199). -/
def execGlzbind (e : EaselId) (f : FmtI) (s : State) : Host.Outcome State Fault Refusal :=
  run s (fun h =>
    let w := wordI 0x25 0x00 f
    issue h e w f.pneg f.pred (resv (f.rd == 0 && immBelow f 6)) (fun h =>
      let x := h.easel e
      let a := x.cur.get f.rs1
      if a.toNat % 64 ≠ 0 then .fault 0x14 a
      else
        let b : GlazeBind := { slot := glzSlotOf f, uma := a, easel := e, ctx := x.actx,
                               serial := x.cur.serial, pc := x.cur.pc, inst := w }
        .done { h with glz := { h.glz with binds := h.glz.binds ++ [b] } }))

/-- GLZSTAT: the slot's status, 0 where it is not allotted to the context (R200). -/
def execGlzstat (e : EaselId) (f : FmtI) (s : State) : Host.Outcome State Fault Refusal :=
  run s (fun h => issue h e (wordI 0x25 0x01 f) f.pneg f.pred (resv (f.rs1 == 0 && immBelow f 6)) (fun h =>
    let n := glzSlotOf f
    .done (h.setS e f.rd (if slotOf h n = some (h.easel e).actx then glzStatus (h.gslot n) else 0))))

/-- GLZSTOP: ends a running stream; a slot not allotted to the context faults with 0x63 (R201). -/
def execGlzstop (e : EaselId) (f : FmtI) (s : State) : Host.Outcome State Fault Refusal :=
  run s (fun h =>
    let w := wordI 0x25 0x02 f
    issue h e w f.pneg f.pred (resv (f.rd == 0 && f.rs1 == 0 && immBelow f 6)) (fun h =>
      let x := h.easel e
      let n := glzSlotOf f
      if slotOf h n = some x.actx then
        .done (if (h.gslot n).state = 1 then (endReads h (· == n)).modGslot n GlazeSlot.stop else h)
      else .done (glzRefuse h n e x.actx x.cur.serial x.cur.pc w 0)))

/-! ### Bind (R202, R203, R214, R256) -/

/-- Bytes [off, off+n) lie in pages of the context (R416), or in Palettes that it is loaded on. -/
def rangeHeld (h : Hw) (c : CtxId) (off n : Nat) : Bool :=
  n == 0 || ((List.range ((off + n - 1) / 0x200000 - off / 0x200000 + 1)).all (fun k =>
    decodeLocal h c (max off ((off / 0x200000 + k) * 0x200000)) == .local (max off ((off / 0x200000 + k) * 0x200000))) &&
    decodeLocal h c (off + n - 1) == .local (off + n - 1))

/-- The form of a descriptor (R203).  A length that is no multiple of 16 and a non-zero circuit with a local source,
which Table 6-4 excludes, fault as the listed cases do (assumption 115). -/
def descOk (d : List Word) : Bool :=
  let w5 := nthW d 5
  let cipher := bit w5 0
  let src := nthW d 0
  let rem := isRemote src
  wfld (nthW d 3) 40 24 == 0 && wfld (nthW d 3) 0 4 == 0 && wfld (nthW d 4) 40 24 == 0 &&
    decide (wfld w5 1 2 < 2) && wfld w5 3 5 == 0 && wfld w5 28 4 == 0 && wfld (nthW d 7) 38 26 == 0 &&
    (rem || isLp src.toNat) && bit w5 15 == rem && (rem || wfld w5 16 12 == 0) &&
    src.toNat % 256 == 0 && (nthW d 1).toNat % 16 == 0 && (nthW d 6).toNat % 32 == 0 &&
    (cipher || (nthW d 1 == 0 && wfld w5 8 7 == 0)) &&
    decide (wfld (nthW d 4) 0 40 + cdiv (wfld (nthW d 3) 0 40) 65536 ≤ 2 ^ 40)

/-- The circuit that a remote stream reads over: absent or not matching 0x63, broken 0x40 (R214, R350). -/
def circuitBindFault (h : Hw) (id dst : Nat) : Option (BitVec 8) :=
  let w := h.reg (0x408000 + 8 * id)
  if wfld w 24 2 = 2 then some 0x40
  else if id = 0 ∨ wfld w 24 2 ≠ 1 ∨ wfld w 0 4 ≠ 0xF ∨ wfld w 26 10 ≠ dst then some 0x63
  else none

/-- An LPDDR6 channel of bytes [off, off+n) is marked down (R180). -/
def chanDown (h : Hw) (off n : Nat) : Bool :=
  isLp off && (List.range (n / 256 + 2)).any (fun k =>
    let o := off / 256 * 256 + 256 * k
    decide (o < off + n) && !h.memctl.chUp.getLsbD (lpChannel o))

/-- The first block of the source that is outside the context's allocations. -/
def blockOutside (h : Hw) (g : GlazeSlot) : Word :=
  blockUma g (((List.range (gBlocks g)).find? (fun i =>
    !rangeHeld h g.ctx ((gSrc g).toNat + 65536 * i) (gBlkLen g i))).getD 0)

/-- The checks at bind of a slot whose descriptor is set: class and address of the fault (R203).  A list in the
Palette of any easel that the context is loaded on is taken, and of a remote `tag_base` only the offset is used
(assumption 115). -/
def bindFault (h : Hw) (g : GlazeSlot) (uma : Word) : Option (BitVec 8 × Word) :=
  let src := (gSrc g).toNat
  let l := (gList g).toNat
  if !descOk g.desc then some (0x63, uma)
  else if gCipher g && !((SMap.find h.sec.wkeys (gKey g)).any (fun k => k.1 == g.ctx)) then some (0x61, uma)
  else if wfld (gList g) 48 16 ≠ 0 then some (0x11, gList g)
  else match (if gEntries g = 0 then Target.local l else decodeLocal h g.ctx l) with
    | .fault c => some (c, gList g)
    | _ =>
      if !rangeHeld h g.ctx l (32 * gEntries g) then some (0x13, gList g)
      else if isRemote (gSrc g) then
        match circuitBindFault h (gCirc g) (wfld (gSrc g) 48 10) with
        | some c => some (c, gSrc g)
        | none => none
      else if !rangeHeld h g.ctx src (gLen g) then some (0x13, blockOutside h g)
      else if gCipher g && !rangeHeld h g.ctx (gTags g).toNat (16 * gBlocks g) then some (0x13, uma)
      else none

/-! ### Delivery entries (Table 6-5) -/

structure Entry where
  dests : List Nat
  destOk : Bool
  elemOff : Nat
  scaleOff : Nat
  rowStride : Nat
  elemBytes : Nat
  rowBytes : Nat
  scaleStride : Nat
  so : BitVec 9
  sig : Bool
  same : Bool
  gate : Bool
  gateSo : Fin 32768
  resv : Bool
  deriving DecidableEq, Repr

/-- No value stands twice in a list. -/
def distinct : List Nat → Bool
  | [] => true
  | x :: l => !l.contains x && distinct l

def entryOf (b : Bytes) : Entry :=
  let ds := (b.take 8).map (·.toNat)
  let used := ds.takeWhile (· != 0xFF)
  let w1 := bWord (b.drop 8)
  let w2 := bWord (b.drop 16)
  let w3 := bWord (b.drop 24)
  { dests := used, destOk := !used.isEmpty && distinct used && (ds.drop used.length).all (· == 0xFF),
    elemOff := wfld w1 0 21, scaleOff := wfld w1 21 21, rowStride := wfld w1 42 22,
    elemBytes := wfld w2 0 32, rowBytes := wfld w2 32 16, scaleStride := wfld w2 48 16,
    so := BitVec.ofNat 9 (wfld w3 0 9), sig := bit w3 9, same := bit w3 10, gate := bit w3 11,
    gateSo := Fin.ofNat 32768 (wfld w3 12 15), resv := wfld w3 27 37 == 0 }

/-- Rows of an entry. -/
def entryRows (t : Entry) : Nat := if t.rowBytes = 0 then 0 else cdiv t.elemBytes t.rowBytes

/-- The checks of R206 on an entry.  Balpa-4 row and element counts that are no multiples of 16 and scale fields of
a raw entry, which R206 and Table 6-5 exclude, fault as the listed cases do (assumption 115). -/
def entryOk (balpa first : Bool) (t : Entry) : Bool :=
  let n := entryRows t
  let last := t.elemBytes - (n - 1) * t.rowBytes
  t.resv && t.destOk && (t.rowBytes != 0 || t.elemBytes == 0) &&
    (decide (n ≤ 1) || decide (t.rowBytes ≤ t.rowStride)) &&
    (n == 0 || decide (t.elemOff + (n - 1) * t.rowStride + last ≤ 0x200000) &&
      (decide (n ≤ 1) || decide (t.elemOff + (n - 2) * t.rowStride + t.rowBytes ≤ 0x200000))) &&
    (if balpa then t.rowBytes % 16 == 0 && t.elemBytes % 16 == 0 &&
        (n == 0 || decide (t.scaleOff + (n - 1) * t.scaleStride + last / 16 ≤ 0x200000) &&
          (decide (n ≤ 1) || decide (t.scaleOff + (n - 2) * t.scaleStride + t.rowBytes / 16 ≤ 0x200000)))
      else t.scaleOff == 0 && t.scaleStride == 0) &&
    !(first && t.same)

/-- Local offset of entry `i`. -/
def entryOff (g : GlazeSlot) (i : Nat) : Nat := (gList g).toNat + 32 * i

/-- The bytes of entry `i`: the first sixteen from the bind, later ones from memory when their turn comes (R205,
R256). -/
def entryBytes (h : Hw) (g : GlazeSlot) (i : Nat) : Bytes :=
  if i < 16 then sub g.ents (32 * i) 32 else h.mem.read (entryOff g i) 32

/-- The current entry, as it was read. -/
def curEntry (g : GlazeSlot) : Entry := entryOf g.entry

def entryUma (g : GlazeSlot) (i : Nat) : Word := gList g + BitVec.ofNat 64 (32 * i)

/-- A destination that is disabled or fenced, or whose Palette the context does not hold (R206, R218). -/
def destFault (h : Hw) (c : CtxId) (t : Entry) : Option (BitVec 8) :=
  if t.dests.any (fun d => decide (208 ≤ d) || !h.up (Fin.ofNat 208 d)) then some 0x12
  else if t.dests.any (fun d => (h.easel (Fin.ofNat 208 d)).loaded != some c) then some 0x13
  else none

/-- What reading an entry that is not in the slot yet faults on. -/
def entryReadFault (h : Hw) (g : GlazeSlot) (i : Nat) : Option (BitVec 8) :=
  if i < 16 then none
  else match decodeLocal h g.ctx (entryOff g i) with
    | .fault c => some c
    | _ =>
      if (h.mem.badRead (entryOff g i) 32).isSome then some (memClass (entryOff g i))
      else (h.mem.pathBad (entryOff g i) 32).map (fun _ => 0x05)

/-- What the current entry faults on before any of its bytes is written (R206). -/
def entryFault (h : Hw) (g : GlazeSlot) : Option (BitVec 8) :=
  let t := curEntry g
  if !entryOk (gBalpa g) (g.cur == 0) t then some 0x63
  else match destFault h g.ctx t with
    | some c => some c
    | none => if t.gate && !inModRange h g.ctx t.gateSo.val then some 0x27 else none

/-- Writes of `n` bytes of an entry's elements from position `pos`, as offsets in a Palette. -/
def rowPieces : Nat → Nat → Nat → Nat → Nat → Bytes → List (Nat × Bytes)
  | 0, _, _, _, _, _ => []
  | k + 1, base, stride, row, pos, b =>
    if b.isEmpty || row == 0 then []
    else
      let n := Nat.min b.length (row - pos % row)
      (base + pos / row * stride + pos % row, b.take n) :: rowPieces k base stride row (pos + n) (b.drop n)

/-- The Palette writes that deliver part of an entry to every destination. -/
def entryWrites (t : Entry) (pos : Nat) (el sc : Bytes) : List Wr :=
  let ps := rowPieces (el.length + 1) t.elemOff t.rowStride t.rowBytes pos el ++
    rowPieces (sc.length + 1) t.scaleOff t.scaleStride (t.rowBytes / 16) (pos / 16) sc
  t.dests.flatMap (fun d => ps.map (fun p => (palBase d + p.1, p.2)))

/-- Blocks whose output has all been delivered leave the list of lengths. -/
def dropDelivered (left : Nat) : List Nat → List Nat
  | [] => []
  | n :: l => if left ≤ l.foldl (· + ·) 0 then dropDelivered left l else n :: l

/-- Blocks that have been delivered in full leave the staging and are counted (Table 6-3). -/
def GlazeSlot.counted (g : GlazeSlot) : GlazeSlot :=
  let lens := dropDelivered g.elems.length g.lens
  { g with lens := lens, blocksDone := g.blocksDone + (g.lens.length - lens.length) }

/-- Counts delivered output, once per entry before any copy (R196). -/
def countOut (h : Hw) (n : SlotId) (c : CtxId) (k : Nat) : Hw :=
  perfAdd (h.countWrap (glzBlk n + 0x30) k) c 7 k

/-- The whole of the current entry has been written. -/
def entryFull (g : GlazeSlot) : Bool := decide ((curEntry g).elemBytes ≤ g.curPos)

/-- What the writes of the current entry fault on: a destination lost since the entry began (R218), a word that they
cannot merge into (R163), an on-die path (R164). -/
def deliverFault (h : Hw) (g : GlazeSlot) (ws : List Wr) : Option (BitVec 8 × Hw) :=
  match destFault h g.ctx (curEntry g) with
  | some c => some (c, h)
  | none =>
    match writesBad h ws with
    | some o => some (memClass o, reportUe h o (some g.ctx))
    | none => (ws.find? (fun w => (h.mem.pathBad w.1 w.2.length).isSome)).map (fun w =>
        (0x05, { h with mem := h.mem.pathMet w.1 w.2.length }))

/-- Delivers what the current entry can take of the verified output (R206, R207). -/
def pump (h : Hw) (n : SlotId) : Hw :=
  let g := h.gslot n
  let t := curEntry g
  if g.state ≠ 1 ∨ g.gated ∨ gEntries g ≤ g.cur ∨ entryFull g then h
  else
    let want := t.elemBytes - g.curPos
    let src := if t.same then g.lastElems.drop g.curPos else g.elems
    let el := src.take want
    let k := el.length
    let sc := if gBalpa g then ((if t.same then g.lastScales.drop (g.curPos / 16) else g.scales).take (k / 16)) else []
    let ws := entryWrites t g.curPos el sc
    match deliverFault h g ws with
    | some f => streamFault f.2 n f.1 (entryUma g g.cur) (gFirst g + g.blocksDone)
    | none =>
      let g1 := { g with curPos := g.curPos + k }
      let g2 := if t.same then g1 else
        GlazeSlot.counted { g1 with elems := g.elems.drop k, scales := g.scales.drop sc.length,
                                    lastElems := g.lastElems ++ el, lastScales := g.lastScales ++ sc }
      let h1 := countOut ((applyWrites h ws).setGslot n g2) n g.ctx (k + sc.length)
      if k < want ∧ (t.same ∨ gBlocks g ≤ g.nextBlock) then
        streamFault h1 n 0x63 (entryUma g g.cur) (gFirst g + g.nextBlock)
      else h1

/-- Signals an easel object for the stream. -/
def glzSignal (h : Hw) (n : SlotId) (e : EaselId) (so : BitVec 9) : Hw :=
  let g := h.gslot n
  signalObj h (.easel g.ctx e so.toFin) 1 (glzAgent h n g.ctx g.easel g.serial g.pc g.inst)

/-- The stream completes with its done signal (R208). -/
def streamDone (h : Hw) (n : SlotId) : Hw :=
  let g := h.gslot n
  let h1 := (endReads h (· == n)).modGslot n (fun x =>
    { x with state := 2, elems := [], scales := [], lens := [], got := [] })
  if bit (nthW g.desc 7) 37 then glzSignal h1 n g.easel (BitVec.ofNat 9 (wfld (nthW g.desc 7) 28 9)) else h1

/-- The slot takes its current entry: its checks, its gate, then delivery. -/
def takeEntry (h : Hw) (n : SlotId) : Hw :=
  let g := h.gslot n
  match entryFault h g with
  | some c => streamFault h n c (entryUma g g.cur) (gFirst g + g.blocksDone)
  | none =>
    let t := curEntry g
    let fresh (x : GlazeSlot) : GlazeSlot :=
      if t.same then x else { x with lastElems := [], lastScales := [] }
    pump (h.modGslot n (fun x => { fresh x with curPos := 0, gated := t.gate })) n

/-- A read for the stream that faults: the memory's error is reported, or the path's has been met. -/
def glzReadFault (h : Hw) (n : SlotId) (c : BitVec 8) (off len : Nat) (uma : Word) (block : Nat) : Hw :=
  let h1 := match h.mem.badRead off len with
    | some o => reportUe h o (some (h.gslot n).ctx)
    | none => if c = 0x05 then { h with mem := h.mem.pathMet off len } else h
  streamFault h1 n c uma block

/-- The slot turns to its current entry, which it reads once (R205): completion past the last one. -/
def startEntry (h : Hw) (n : SlotId) : Hw :=
  let g := h.gslot n
  if gEntries g ≤ g.cur then streamDone h n
  else match entryReadFault h g g.cur with
    | some c => glzReadFault h n c (entryOff g g.cur) 32 (entryUma g g.cur) (gFirst g + g.blocksDone)
    | none =>
      let h1 := if g.cur < 16 then h else touchRead h (entryOff g g.cur) 32
      takeEntry (h1.modGslot n (fun x => { x with entry := entryBytes h g g.cur })) n

/-! ### Reading blocks -/

/-- Sends the read of one part of the block being read, unless it is under way or here, or the boundary has no
free transaction slot (R4). -/
def fetchPart (h : Hw) (n : SlotId) (idx off len : Nat) : Hw :=
  let g := h.gslot n
  let fa := wfld (gSrc g) 48 10
  if g.got.any (fun p => p.1 == idx) || h.reqs.any (fun r => r.by_ == .glaze n idx) ||
      !dieRoom h (h.leavesNorth fa) then h
  else sendReq h (.glaze n idx) g.ctx (blockUma g g.nextBlock) false
    { h.hdrTo fa 3 2 len off with circuit := gCirc g } []

/-- Reads of the parts of the next block of a remote source and of its tag, over the stream's circuit (R214). -/
def fetchBlock (h : Hw) (n : SlotId) : Hw :=
  let g := h.gslot n
  let i := g.nextBlock
  let len := gBlkLen g i
  let base := wfld (gSrc g) 0 48 + 65536 * i
  let h1 := (List.range (cdiv len 3584)).foldl (fun a k =>
    fetchPart a n k (base + 3584 * k) (Nat.min 3584 (len - 3584 * k))) h
  if gCipher g then fetchPart h1 n 100 (wfld (gTags g) 0 48 + 16 * i) 16 else h1

/-- Why requests of the stream cannot leave now (R317, R318, R350). -/
def glzSendFault (h : Hw) (g : GlazeSlot) : Option (BitVec 8) :=
  let w := h.reg (0x408000 + 8 * gCirc g)
  match sendEntry h (h.ctx g.ctx).job with
  | none => some 0x41
  | some (_, k) =>
    if k.spent then some 0x44
    else if wfld w 24 2 = 2 then some 0x40
    else if wfld w 24 2 ≠ 1 ∨ (wfld w 0 4 ≠ 0xF ∧ wfld w 4 4 ≠ 0xF) ∨ wfld w 26 10 ≠ wfld (gSrc g) 48 10 then some 0x49
    else none

/-- The staging has room for one more block: it holds four (R195, R211). -/
def GlazeSlot.room (g : GlazeSlot) : Bool := decide (g.lens.length < 4)

/-- Reads the next block of a remote source once the staging has room, or faults where it cannot. -/
def fetchNext (h : Hw) (n : SlotId) : Hw :=
  let g := h.gslot n
  if !isRemote (gSrc g) ∨ gBlocks g ≤ g.nextBlock ∨ g.state ≠ 1 ∨ !g.room then h
  else match glzSendFault h g with
    | some c => streamFault h n c (blockUma g g.nextBlock) (gFirst g + g.nextBlock)
    | none => fetchBlock h n

/-- The ciphertext and tag of the next block, where they are here. -/
def blockData (h : Hw) (g : GlazeSlot) : Option (Bytes × Bytes) :=
  let i := g.nextBlock
  let len := gBlkLen g i
  if isRemote (gSrc g) then
    let parts := (List.range (cdiv len 3584)).map (fun k => (g.got.find? (fun p => p.1 == k)).map (·.2))
    let tag := if gCipher g then (g.got.find? (fun p => p.1 == 100)).map (·.2) else some []
    if parts.all (·.isSome) then tag.map (fun t => ((parts.filterMap id).flatten, t)) else none
  else
    some (h.mem.read ((gSrc g).toNat + 65536 * i) len,
      if gCipher g then h.mem.read ((gTags g).toNat + 16 * i) 16 else [])

/-- Nonce and additional data of a block (R209). -/
def glzNonce (g : GlazeSlot) (idx : Nat) : Bytes := (leBytes 4 (gSalt g)).reverse ++ (leBytes 8 idx).reverse

def glzAad (g : GlazeSlot) (idx len : Nat) : Bytes :=
  wBytes (nthW g.desc 2) ++ leBytes 8 idx ++ leBytes 4 len ++ [if gBalpa g then 1 else 0, 0, 0, 0]

/-- Plaintext of a block; none where its tag fails. -/
def openBlock (h : Hw) (g : GlazeSlot) (data tag : Bytes) : Option Bytes :=
  if !gCipher g then some data
  else
    let key := ((SMap.find h.sec.wkeys (gKey g)).map (·.2)).getD []
    let idx := gFirst g + g.nextBlock
    gcmOpen key (glzNonce g idx) (glzAad g idx data.length) data tag

/-- The local reads of the next block: its bytes and its tag. -/
def blockReads (g : GlazeSlot) : List (Nat × Nat) :=
  if isRemote (gSrc g) then []
  else ((gSrc g).toNat + 65536 * g.nextBlock, gBlkLen g g.nextBlock) ::
    (if gCipher g then [((gTags g).toNat + 16 * g.nextBlock, 16)] else [])

/-- What the reads of a local block fault on: a channel that is down (R180), an uncorrectable word (R212), an on-die
path (R164). -/
def blockFault (h : Hw) (g : GlazeSlot) : Option (BitVec 8 × Nat × Nat) :=
  (blockReads g).findSome? (fun r =>
    if chanDown h r.1 r.2 then some (0x06, r)
    else if (h.mem.badRead r.1 r.2).isSome then some (memClass r.1, r)
    else (h.mem.pathBad r.1 r.2).map (fun _ => (0x05, r)))

/-- What a verified block puts out: its bytes, or its decoded groups (R213). -/
def blockOut (g : GlazeSlot) (b : Bytes) : BlockOut :=
  if gBalpa g then balpaBlock (b.length / 16 + 1) b else { elems := b, scales := [], ok := true }

/-- Takes a verified block into the staging, and reads on. -/
def stageBlock (h : Hw) (n : SlotId) (o : BlockOut) : Hw :=
  fetchNext (pump (h.modGslot n (fun g => GlazeSlot.counted { g with
    nextBlock := g.nextBlock + 1, got := [], elems := g.elems ++ o.elems, scales := g.scales ++ o.scales,
    lens := g.lens ++ [o.elems.length] })) n) n

/-- A block with a failing group: what may be delivered of the groups before it, as a free value decides, then the
fault (R213).  The block is not counted as delivered. -/
def failGroup (h : Hw) (n : SlotId) (o : BlockOut) : Hw :=
  let g := h.gslot n
  let h1 := if bit h.freeWord 0 then
      pump (h.useFree.setGslot n { g with elems := o.elems, scales := o.scales }) n
    else h.useFree
  if (h1.gslot n).state = 1 then
    streamFault (h1.count (glzBlk n + 0x20) 1) n 0x62 (blockUma g g.nextBlock) (gFirst g + g.nextBlock)
  else h1

/-- The next block has been read: its tag is checked, and its groups (R209, R210, R213).  A block that fails faults
the stream once the blocks before it are delivered. -/
def verifyBlock (h : Hw) (n : SlotId) (data tag : Bytes) : Hw :=
  let g := h.gslot n
  let i := g.nextBlock
  let h1 := h.countWrap (glzBlk n + 0x28) data.length
  match openBlock h g data tag with
  | none =>
    if g.elems.isEmpty then
      streamFault (h1.count (glzBlk n + 0x18) 1) n 0x60 (blockUma g i) (gFirst g + i)
    else h
  | some b =>
    let o := blockOut g b
    let h2 := (blockReads g).foldl (fun a r => touchRead a r.1 r.2) h1
    if o.ok then stageBlock h2 n o
    else if g.elems.isEmpty then failGroup h2 n o
    else h

/-- GLAZE_BLOCK_VERIFY: the next block of a running stream has been read and its tag is checked (R209, R210).
A block is read only while the staging has room (R195), and while none of its channels is in retraining (R180).
`pathError` is an uncorrectable word on an on-die path (R164). -/
def execGlazeBlockVerify (slot : SlotId) (pathError : Bool) (s : State) : Host.Outcome State Fault Refusal :=
  run s (fun h =>
    let g := h.gslot slot
    let i := g.nextBlock
    if g.state ≠ 1 ∨ gBlocks g ≤ i ∨ !g.room ∨ (blockReads g).any (fun r => chanWaits h r.1 r.2) then h
    else if pathError then
      (if g.elems.isEmpty then streamFault h slot 0x05 (blockUma g i) (gFirst g + i) else h)
    else match blockFault h g with
      | some (c, off, len) =>
        if g.elems.isEmpty then glzReadFault h slot c off len (blockUma g i) (gFirst g + i) else h
      | none =>
        match blockData h g with
        | none => h
        | some (data, tag) => verifyBlock h slot data tag)

/-! ### Bind, gate, entry -/

/-- The descriptor and first entries as the bind reads them: memory, or staging that may be stale, as a free
value decides (R256). -/
def readDesc (h : Hw) (b : GlazeBind) (off : Nat) : List Word × Bytes × Hw :=
  let north := decide (b.slot.val < 32)
  let d := bytesWords 8 (h.mem.read off 64)
  let ents := h.mem.read (nthW d 6).toNat (32 * Nat.min 16 (wfld (nthW d 7) 0 16))
  let h1 := touchRead h off 64
  match h.glz.staging.find? (fun t => t.ctx == b.ctx && t.uma == b.uma && t.north == north) with
  | some t => if bit h.freeWord 0 then (t.desc, t.entries, h.useFree) else (d, ents, h1.useFree)
  | none => (d, ents, h1)

/-- Bytes of the list that a bind reads. -/
def listLen (g : GlazeSlot) : Nat := 32 * Nat.min 16 (gEntries g)

/-- Keeps a descriptor in the staging of the slot's die, 128 entries at most. -/
def stageDesc (h : Hw) (b : GlazeBind) (d : List Word) (ents : Bytes) : Hw :=
  let north := decide (b.slot.val < 32)
  let t : Staged := { ctx := b.ctx, uma := b.uma, north := north, desc := d, entries := ents }
  let l := h.glz.staging.filter (fun x => !(x.ctx == b.ctx && x.uma == b.uma && x.north == north)) ++ [t]
  let mine := (l.filter (fun x => x.north == north)).length
  { h with glz := { h.glz with staging :=
      if 128 < mine then removeFirst (fun x => x.north == north) l else l } }

/-- A bind that its slot takes: the slot is freed, the descriptor read and checked, the stream started. -/
def bindSlot (h : Hw) (b : GlazeBind) (off : Nat) : Hw :=
  let r := readDesc h b off
  let g : GlazeSlot := { GlazeSlot.init with
    state := 1, easel := b.easel, ctx := b.ctx, serial := b.serial, pc := b.pc, inst := b.inst,
    desc := r.1, ents := r.2.1 }
  let h1 := (endReads r.2.2 (· == b.slot)).setGslot b.slot g
  let l := (gList g).toNat
  match bindFault h1 g b.uma with
  | some f => streamFault h1 b.slot f.1 f.2 (gFirst g)
  | none =>
    let bad : Option (BitVec 8) :=
      if chanDown h1 l (listLen g) then some 0x06
      else if (h1.mem.badRead l (listLen g)).isSome then some (memClass l)
      else (h1.mem.pathBad l (listLen g)).map (fun _ => 0x05)
    match bad with
    | some c => glzReadFault h1 b.slot c l (listLen g) (gList g) (gFirst g)
    | none =>
      let h2 := touchRead (stageDesc h1 b r.1 r.2.1) l (listLen g)
      fetchNext (startEntry h2 b.slot) b.slot

/-- A bind that waits: its context is switched out or has faulted (R216, R488), or its descriptor or list lies on a
channel in retraining (R180). -/
def bindWaits (h : Hw) (b : GlazeBind) : Bool :=
  [2, 4, 6].contains (h.ctx b.ctx).state.toNat ||
    (match decodeUma h b.ctx b.uma with
      | .local off =>
        let d := bytesWords 8 (h.mem.read off 64)
        chanWaits h off 64 || chanWaits h (nthW d 6).toNat (32 * Nat.min 16 (wfld (nthW d 7) 0 16))
      | _ => false)

/-- The slot reads the descriptor of the bind that it has taken, at a local offset, and starts the stream. -/
def bindLocal (h : Hw) (b : GlazeBind) (off : Nat) : Hw :=
  let agent (h : Hw) (c : BitVec 8) : FaultRec :=
    { glzAgent h b.slot b.ctx b.easel b.serial b.pc b.inst with cls := c, addr := b.uma }
  match h.mem.badRead off 64 with
  | some o => let h1 := reportUe h o (some b.ctx); recordFault h1 (agent h1 (memClass o))
  | none =>
    match h.mem.pathBad off 64 with
    | some _ => recordFault { h with mem := h.mem.pathMet off 64 } (agent h 0x05)
    | none => bindSlot h b off

/-- GLAZE_BIND: the slot takes the oldest GLZBIND that waits for it (R199, R202, R203).  A slot is paused only while
its context is switched out, and then the context's binds wait. -/
def execGlazeBind (slot : SlotId) (s : State) : Host.Outcome State Fault Refusal :=
  run s (fun h =>
    match h.glz.binds.find? (fun b => b.slot == slot) with
    | none => h
    | some b =>
      if bindWaits h b then h else
      let h1 := { h with glz := { h.glz with binds := removeFirst (fun b => b.slot == slot) h.glz.binds } }
      let refuse (cls : BitVec 8) : Hw :=
        recordFault h1 { glzAgent h1 slot b.ctx b.easel b.serial b.pc b.inst with cls := cls, addr := b.uma }
      let h2 :=
        if slotOf h1 slot ≠ some b.ctx ∨ (h1.gslot slot).state = 1 ∨ (h1.gslot slot).state = 5 then refuse 0x63
        else match decodeUma h1 b.ctx b.uma with
          | .local off => bindLocal h1 b off
          | .fault c => refuse c
          | _ => refuse 0x63
      settle h2 b.easel)

/-- GLAZE_GATE_TAKE: the gate object of the current entry is non-zero and is decremented (R207). -/
def execGlazeGateTake (slot : SlotId) (s : State) : Host.Outcome State Fault Refusal :=
  run s (fun h =>
    let g := h.gslot slot
    let o : ObjId := .mod (curEntry g).gateSo
    let w := h.obj o
    if g.state ≠ 1 ∨ g.gated = false ∨ isBarrier w ∨ wfld w 0 48 = 0 then h
    else fetchNext (pump ((h.setObj o (setFld w 0 48 (wfld w 0 48 - 1))).modGslot slot
      (fun x => { x with gated := false })) slot) slot)

/-- GLAZE_ENTRY_COMPLETE: every byte of the current entry is performed; its signals, then the next entry
(R207, R208). -/
def execGlazeEntryComplete (slot : SlotId) (s : State) : Host.Outcome State Fault Refusal :=
  run s (fun h =>
    let g := h.gslot slot
    let t := curEntry g
    let i := g.cur + 1
    if g.state ≠ 1 ∨ g.gated ∨ gEntries g ≤ g.cur ∨ entryFull g = false ∨
        (16 ≤ i ∧ i < gEntries g ∧ chanWaits h (entryOff g i) 32) then h
    else
      let h1 := h.modGslot slot (fun x => { x with entriesDone := x.entriesDone + 1, cur := x.cur + 1, curPos := 0 })
      let h2 := if t.sig then t.dests.foldl (fun a d => glzSignal a slot (Fin.ofNat 208 d) t.so) h1 else h1
      fetchNext (startEntry h2 slot) slot)

/-- Frees a slot: its stream ends as under GLZSTOP and its staging is zeroed (R218, R220). -/
def freeSlot (h : Hw) (n : SlotId) : Hw := (endReads h (· == n)).setGslot n GlazeSlot.init

/-- The running streams read on where the boundary or their staging has room again. -/
def readStreams (h : Hw) : Hw :=
  h.glz.slots.foldl (fun g p => if p.2.state = 1 then fetchNext g (Fin.ofNat 64 p.1) else g) h

/-! ### What comes back for remote blocks -/

/-- Data of part `idx` of the block being read. -/
def glazeData (h : Hw) (n : SlotId) (idx : Nat) (b : Bytes) : Hw :=
  h.modGslot n (fun g => if g.state = 1 ∧ idx ≠ endedPart then { g with got := g.got ++ [(idx, b)] } else g)

/-- A request of the stream failed. -/
def glazeFailed (h : Hw) (n : SlotId) (idx : Nat) (cls : BitVec 8) : Hw :=
  let g := h.gslot n
  if g.state = 1 ∧ idx ≠ endedPart then streamFault h n cls (blockUma g g.nextBlock) (gFirst g + g.nextBlock) else h

end Sys2Proof.Machine
end

