-- ==== Sys2Proof/Machine/Order.lean ====
section
/-! DEFINITION. The ordering instructions RELEASE, ACQUIRE and FENCE (R252–R259). -/

namespace Sys2Proof.Machine

/-! ### RELEASE -/

/-- The engine of a RELEASE, imm38[3:2]; none for the core (R252). -/
def releaseEngine (f : FmtI) : Option Engine :=
  match fld f.imm.toNat 2 2 with
  | 0 => none
  | 1 => some .me
  | 2 => some .vu
  | _ => some .ce

/-- What RELEASE checks at issue (R253). -/
def releaseFault (h : Hw) (sig : Bool) (t : Word) : Option (BitVec 8) :=
  if sig then nameFault h t else if t.toNat % 8 ≠ 0 then some 0x14 else none

/-- A format E image of nothing, for the queue entry of a RELEASE. -/
def noFmt : FmtE :=
  { pneg := false, pred := 0, tda := 0, tdb := 0, tdc := 0, rs := 0, sig := false, so := 0, func := 0 }

/-- RELEASE (R253): the core waits, or the named engine's queue takes an entry.  In service mode a core
RELEASE has nothing of a context to wait for (assumption 22). -/
def releaseI (e : EaselId) (f : FmtI) (h : Hw) : Hw :=
  let w := wordI 0x1D 0x00 f
  let sig := f.imm.getLsbD 4
  settle (issue h e w f.pneg f.pred (resv (immBelow f 5)) (fun h =>
    let x := h.easel e
    let t := x.cur.get f.rs1
    let v := x.cur.get f.rd
    match releaseFault h sig t with
    | some c => .fault c t
    | none =>
      match releaseEngine f with
      | none => if x.service then .done h else .block h (.release sig (scopeOf f) t v)
      | some q =>
        enqueueEff e q (newEntry h e (.release sig (scopeOf f)) noFmt w [t, v]) h)) e

/-- RELEASE (R253). -/
def execRelease (e : EaselId) (f : FmtI) (s : State) : Host.Outcome State Fault Refusal := run s (releaseI e f)

/-! ### ACQUIRE and FENCE -/

/-- Discards the prefetch lines of an easel; reads under way leave none behind (R257). -/
def dropPrefetch (h : Hw) (e : EaselId) : Hw :=
  (staleReads h e (fun _ => true)).modEasel e (fun x => { x with prefetch := [] })

/-- Discards the staging entries of a context in both I/O dies (R256). -/
def dropStaging (h : Hw) (c : CtxId) : Hw :=
  { h with glz := { h.glz with staging := h.glz.staging.filter (fun s => s.ctx != c) } }

/-- The discard of ACQUIRE (Table 8-3). -/
def acquireDiscard (h : Hw) (e : EaselId) (scope : BitVec 2) (ce glz : Bool) : Hw :=
  let h1 := if ce && scope != 0 then dropPrefetch h e else h
  if glz && decide (2 ≤ scope.toNat) then dropStaging h1 (h.easel e).actx else h1

/-- The dispatch acquire (R263): the discard of an ACQUIRE at job scope with ce = 1 and glz = 1 on every easel
on which the context is loaded. -/
def dispatchAcquire (h : Hw) (c : CtxId) : Hw :=
  dropStaging ((allEasels.filter (fun e => (h.easel e).loaded == some c)).foldl (fun g e => dropPrefetch g e) h) c

/-- ACQUIRE: imm38 [1:0] scope, [2] ce, [3] glz (R252, R257). -/
def execAcquire (e : EaselId) (f : FmtI) (s : State) : Host.Outcome State Fault Refusal :=
  run s (fun h => issue h e (wordI 0x1D 0x01 f) f.pneg f.pred
    (resv (f.rd == 0 && f.rs1 == 0 && immBelow f 4)) (fun h =>
      .done (acquireDiscard h e (scopeOf f) (f.imm.getLsbD 2) (f.imm.getLsbD 3))))

/-- FENCE: imm38 [0] stores, [1] me, [2] vu, [3] ce, [4] glz (R252, R258).  Mask 0 acts as NOP, and so does a
FENCE in service mode (assumption 22). -/
def fenceI (e : EaselId) (f : FmtI) (h : Hw) : Hw :=
  settle (issue h e (wordI 0x1D 0x02 f) f.pneg f.pred (resv (f.rd == 0 && f.rs1 == 0 && immBelow f 5))
    (fun h =>
      if f.imm = 0 ∨ (h.easel e).service then .done h else .block h (.fence (f.imm.setWidth 5)))) e

/-- FENCE (R258). -/
def execFence (e : EaselId) (f : FmtI) (s : State) : Host.Outcome State Fault Refusal := run s (fenceI e f)

end Sys2Proof.Machine
end

