-- ==== Sys2Proof/Machine/Remote.lean ====
section
/-! DEFINITION. What comes back for requests that left the module (R244, R285), and how they fail. -/

namespace Sys2Proof.Machine

/-! ### The issuing context, loaded or in its save area -/

/-- Context `c` is loaded on easel `e`. -/
def Hw.resident (h : Hw) (c : CtxId) (e : EaselId) : Bool := (h.easel e).loaded == some c

/-- What the core of easel `e` waits for on behalf of context `c`. -/
def Hw.ctxBlocked (h : Hw) (c : CtxId) (e : EaselId) : Option Blocked :=
  if h.resident c e then (h.easel e).blocked
  else match SMap.find (h.ctx c).saved e.val with
    | some v => v.blocked
    | none => none

/-- The instruction on which context `c` waits on easel `e` completes. -/
def finishCtx (h : Hw) (c : CtxId) (e : EaselId) (f : CoreRegs → CoreRegs) : Hw :=
  if h.resident c e then finishWait h e false f
  else h.modSaved c e (fun v =>
    { v with core := (f v.core).advance false (v.core.pc + 8), blocked := none })

/-- The instruction on which context `c` waits on easel `e` faults precisely. -/
def faultCtx (h : Hw) (c : CtxId) (e : EaselId) (b : Blocked) (cls : BitVec 8) (addr : Word) : Hw :=
  if h.resident c e then waitFault h e b cls addr
  else recordFault (h.modSaved c e (fun v =>
      { v with blocked := none, csr := v.csr.record cls true b.serial b.pc addr b.inst }))
    { FaultRec.blank h.ftcNow cls 0 with
      ctx := some c, precise := true, easel := BitVec.ofNat 8 e.val, serial := b.serial, pc := b.pc,
      addr := addr, inst := b.inst }

/-- The queue `q` of a context's save area on an easel. -/
def Saved.queue (v : Saved) : Engine → List QEntry
  | .me => v.me
  | .vu => v.vu
  | .ce => v.ce

def Saved.setQueue (v : Saved) (q : Engine) (l : List QEntry) : Saved :=
  match q with
  | .me => { v with me := l }
  | .vu => { v with vu := l }
  | .ce => { v with ce := l }

/-- The queue of context `c` on easel `e`. -/
def Hw.ctxQueue (h : Hw) (c : CtxId) (e : EaselId) (q : Engine) : List QEntry :=
  if h.resident c e then (h.easel e).queue q
  else match SMap.find (h.ctx c).saved e.val with
    | some v => v.queue q
    | none => []

def Hw.setCtxQueue (h : Hw) (c : CtxId) (e : EaselId) (q : Engine) (l : List QEntry) : Hw :=
  if h.resident c e then h.modEasel e (fun x => x.setQueue q l)
  else h.modSaved c e (fun v => v.setQueue q l)

/-- An entry of a context's queue by serial number. -/
def ctxEntry (h : Hw) (c : CtxId) (e : EaselId) (q : Engine) (serial : Word) : Option QEntry :=
  (h.ctxQueue c e q).find? (fun i => i.serial == serial)

def modCtxEntry (h : Hw) (c : CtxId) (e : EaselId) (q : Engine) (serial : Word) (f : QEntry → QEntry) : Hw :=
  h.setCtxQueue c e q ((h.ctxQueue c e q).map (fun i => if i.serial = serial then f i else i))

def dropCtxEntry (h : Hw) (c : CtxId) (e : EaselId) (q : Engine) (serial : Word) : Hw :=
  h.setCtxQueue c e q ((h.ctxQueue c e q).filter (fun i => i.serial != serial))

/-! ### Answers -/

/-- The tag that a waiting core waits for. -/
def WaitFor.tag : WaitFor → Option (BitVec 16)
  | .load _ _ _ t => some t
  | .atom _ t => some t
  | .syncrd _ t => some t
  | _ => none

/-- What the data of an answer writes to the core's registers (R97, R283, R288). -/
def WaitFor.take (w : WaitFor) (b : Bytes) (r : CoreRegs) : CoreRegs :=
  match w with
  | .load rd size signed _ => r.put rd (extendLoad size signed b)
  | .atom rd _ => r.put rd (bWord b)
  | .syncrd rd _ => r.put rd (bWord b)
  | _ => r

/-- The wait of service mode that a tag answers. -/
def svcWait (h : Hw) (e : EaselId) (t : BitVec 16) : Option Blocked :=
  match (h.easel e).svcBlocked with
  | some b => if b.what.tag = some t then some b else none
  | none => none

/-- The wait of a context that a tag answers. -/
def ctxWait (h : Hw) (c : CtxId) (e : EaselId) (t : BitVec 16) : Option Blocked :=
  match h.ctxBlocked c e with
  | some b => if b.what.tag = some t then some b else none
  | none => none

/-- The context of a request. -/
def Request.who (r : Request) : CtxId := r.ctx.getD 0

/-- A core's request is answered with data. -/
def coreAnswer (h : Hw) (e : EaselId) (r : Request) (b : Bytes) : Hw :=
  match svcWait h e r.tag with
  | some w => finishWait h e true (w.what.take b)
  | none =>
    match ctxWait h r.who e r.tag with
    | some w => finishCtx h r.who e (w.what.take b)
    | none => h

/-- A core's request fails: the waiting instruction faults precisely. -/
def coreFailed (h : Hw) (e : EaselId) (r : Request) (cls : BitVec 8) : Hw :=
  match svcWait h e r.tag with
  | some w => coreFault h e true cls true w.serial w.pc r.addr w.inst
  | none =>
    match ctxWait h r.who e r.tag with
    | some w => faultCtx h r.who e w cls r.addr
    | none => h

/-- The store-buffer entry that a tag names fails, and waits to be recorded (R101). -/
def sbFailed (h : Hw) (e : EaselId) (t : BitVec 16) (cls : BitVec 8) : Hw :=
  h.modEasel e (fun x => { x with
    sb := x.sb.map (fun s => if s.tag = some t then { s with tag := none, cls := cls } else s) })

/-- The store-buffer entry that a tag names is acknowledged and leaves the buffer. -/
def sbDone (h : Hw) (e : EaselId) (t : BitVec 16) : Hw :=
  settle (h.modEasel e (fun x => { x with sb := x.sb.filter (fun s => s.tag != some t) })) e

/-- A transaction slot of an easel is free again: what waits for it goes on (R100, R150). -/
def roomFreed (h : Hw) (by_ : ReqBy) : Hw :=
  match by_.easel with
  | some e => pumpCe (settle h e) e
  | none => h

/-- Data for transaction `idx` of a copy instruction: kept, as a prefetch line too where nothing has ended that (R255,
R257), and sent on where its destination is not here, at once or when its context resumes. -/
def copyData (h : Hw) (r : Request) (e : EaselId) (serial : Word) (idx : Nat) (b : Bytes) : Hw :=
  match ctxEntry h r.who e .ce serial with
  | none => h
  | some i =>
    match i.txns[idx]? with
    | none => h
    | some t =>
      let line := if r.fresh && h.resident r.who e then keepLine h e r.who r.addr b else h
      let h1 := modCtxEntry line r.who e .ce serial
        (fun j => { j with got := j.got ++ [(idx, b)], since := h.now })
      if isLocalT (decodeUma h1 r.who t.dst) || !h.resident r.who e || !finalMayLeave h1 e i idx then h1
      else forwardTxn h1 e i idx t b

/-- A read request is answered with data (R99, R147, R214). -/
def answerData (h0 : Hw) (r : Request) (b : Bytes) : Hw :=
  let h := dropReq h0 r.tag
  roomFreed (match r.by_ with
    | .core e => coreAnswer h e r b
    | .copy e serial idx => copyData h r e serial idx b
    | .glaze slot idx => glazeData h slot idx b
    | _ => h) r.by_

/-- What the answer to a write of its stream tells a copy instruction: whether the destination tracks the stream. -/
def QEntry.learn (j : QEntry) (tracked : Bool) : QEntry :=
  { j with tracked := some (tracked && j.tracked != some false) }

/-- A write, or a posted sync operation, is acknowledged; `tracked` where the answer names a stream that its
destination tracks (R250). -/
def answerDone (h0 : Hw) (r : Request) (tracked : Bool) : Hw :=
  let h := dropReq h0 r.tag
  roomFreed (match r.by_ with
    | .storeBuf e => sbDone h e r.tag
    | .copy e serial idx =>
      modCtxEntry h r.who e .ce serial (fun j =>
        QEntry.learn { j with acked := j.acked ++ [idx], since := h.now } tracked)
    | .release e q serial => settle (dropCtxEntry h r.who e q serial) e
    | _ => h) r.by_

/-- An engine RELEASE fails: its entry leaves the queue and its context faults (R156). -/
def releaseFailed (h : Hw) (r : Request) (e : EaselId) (q : Engine) (serial : Word) (cls : BitVec 8) : Hw :=
  match ctxEntry h r.who e q serial with
  | none => h
  | some i => recordFault (dropCtxEntry h r.who e q serial)
      { engineAgent h e q i with cls := cls, addr := r.addr }

/-- An outstanding request ends with a fault of its issuer: precise for a waiting core, deferred for a
posted operation, imprecise for an engine or a stream (R335). -/
def requestFailed (h0 : Hw) (r : Request) (cls : BitVec 8) : Hw :=
  let h := dropReq h0 r.tag
  roomFreed (match r.by_ with
    | .core e => coreFailed h e r cls
    | .storeBuf e => sbFailed h e r.tag cls
    | .copy e serial idx =>
      modCtxEntry h r.who e .ce serial (fun j => { j with bad := j.bad ++ [(idx, cls)], since := h.now })
    | .glaze slot idx => glazeFailed h slot idx cls
    | .release e q serial => releaseFailed h r e q serial cls
    | .cmdFetch _ => h
    | .hostCmd _ _ => h) r.by_

/-- The outstanding request to a peer that has a tag. -/
def peerReq (h : Hw) (t : BitVec 16) : Option Request := h.reqs.find? (fun r => r.tag == t && !r.host)

/-- The local request that a packet carries fails with a class, where it is still outstanding. -/
def localReqFails (h : Hw) (q : QPkt) (cls : BitVec 8) : Hw :=
  match q.req with
  | some t =>
    (match peerReq h t with
      | some r => requestFailed h r cls
      | none => h)
  | none => h

/-- SYN_ instance of a die. -/
def synOff (north : Bool) (off : Nat) : Nat := blkBase (.syn (if north then 0 else 1)) + off

/-- REMOTE_TRANSACTION_TIMEOUT: no answer within SYN_RTO of its transmission; 0x23 (R285). -/
def execRemoteTransactionTimeout (tag : BitVec 16) (s : State) : Host.Outcome State Fault Refusal :=
  run s (fun h =>
    match peerReq h tag with
    | some r =>
      if r.deadline.any (fun d => decide (d ≤ h.now)) then requestFailed (h.count (synOff r.north 0x20) 1) r 0x23 else h
    | none => h)

end Sys2Proof.Machine
end

