-- ==== Sys2Proof/Machine/Coll.lean ====
section
/-! DEFINITION. What a collective computes (R359–R380): groups, signatures, the messages of trees, rotated
dimension exchange and all-to-all, the results, and how a collective faults (R383). -/

namespace Sys2Proof.Machine

def colOff (off : Nat) : Nat := blkBase .col + off

/-! ### Groups -/

/-- One byte into the CRC-32C register (Castagnoli, reflected; assumption 48). -/
def crc32Bit (c : Nat) : Nat := if c % 2 = 1 then (c >>> 1) ^^^ 0x82F63B78 else c >>> 1

def crc32Byte (c : Nat) (b : Byte) : Nat :=
  let x := c ^^^ b.toNat
  crc32Bit (crc32Bit (crc32Bit (crc32Bit (crc32Bit (crc32Bit (crc32Bit (crc32Bit x)))))))

/-- CRC-32C: initial value all ones, final complement (R361). -/
def crc32c (b : Bytes) : BitVec 32 := ~~~(BitVec.ofNat 32 (b.foldl crc32Byte (2 ^ 32 - 1)))

/-- COL_GROUP_g. -/
def groupReg (h : Hw) (g : Nat) : Word := h.reg (colOff (0x100 + 8 * g))

/-- Entry `i` of the member list. -/
def memberAt (h : Hw) (i : Nat) : Nat := wfld (h.reg (colOff (0x10000 + 8 * (i / 4)))) (16 * (i % 4)) 10

/-- Members of a group in rank order (R359). -/
def groupMembers (h : Hw) (g : Nat) : List Nat :=
  let w := groupReg h g
  (List.range (2 ^ wfld w 16 4)).map (fun r => memberAt h (wfld w 0 13 + r))

/-- Own rank in a group. -/
def ownRank (h : Hw) (g : Nat) : Nat := position (groupMembers h g) h.fa

/-- Group digest (R361). -/
def groupDigest (h : Hw) (g : Nat) : BitVec 32 := crc32c ((groupMembers h g).flatMap (leBytes 2))

/-! ### Descriptor fields (Table 12-1) -/

/-- A collective as its descriptor and group give it. -/
structure Coll where
  src : Nat
  dst : Nat
  count : Nat
  op : Nat
  red : Nat
  typ : Nat
  root : Nat
  group : Nat
  tcode : Nat
  so : Nat
  sig : Bool
  lsb : Nat
  span : Nat
  hdr : Nat
  counts : Nat
  entry : Nat
  cap : Nat
  n : Nat
  rank : Nat
  deriving DecidableEq, Repr

/-- Reads a descriptor. -/
def collOf (h : Hw) (d : List Word) : Coll :=
  let w3 := nthW d 3
  let g := wfld w3 22 6
  { src := (nthW d 0).toNat, dst := (nthW d 1).toNat, count := wfld (nthW d 2) 0 40, op := wfld w3 0 4,
    red := wfld w3 4 2, typ := wfld w3 6 6, root := wfld w3 12 10, group := g, tcode := wfld w3 28 4,
    so := wfld w3 32 9, sig := bit w3 41, lsb := wfld (nthW d 4) 0 10, span := wfld (nthW d 4) 10 7,
    hdr := (nthW d 5).toNat, counts := (nthW d 6).toNat, entry := wfld (nthW d 7) 0 24,
    cap := wfld (nthW d 7) 24 40, n := wfld (groupReg h g) 16 4, rank := ownRank h g }

/-- Number of members. -/
def Coll.size (c : Coll) : Nat := 2 ^ c.n

def Coll.reduces (c : Coll) : Bool := c.op == 0 || c.op == 1 || c.op == 4

/-- Bits of an element. -/
def Coll.bits (c : Coll) : Nat := elemBits c.typ

/-- Anchored words. -/
def Coll.anchored (c : Coll) : Bool := c.typ == 0x0F || c.typ == 0x10

/-- Bytes of `k` elements. -/
def Coll.bytes (c : Coll) (k : Nat) : Nat := cdiv (k * c.bits) 8

/-- Units of count elements in the source and in the destination of this member (Table 12-2). -/
def Coll.srcUnits (c : Coll) : Nat :=
  match c.op with
  | 0 => 1
  | 1 => c.size
  | 2 => 1
  | 3 => if c.rank = c.root then 1 else 0
  | 4 => 1
  | _ => 0

def Coll.dstUnits (c : Coll) : Nat :=
  match c.op with
  | 0 => 1
  | 1 => 1
  | 2 => c.size
  | 3 => 1
  | 4 => if c.rank = c.root then 1 else 0
  | _ => 0

/-- Bytes of the source and destination buffers. -/
def Coll.srcLen (c : Coll) : Nat :=
  if c.op = 6 then c.size * c.count * c.entry else c.bytes (c.srcUnits * c.count)

def Coll.dstLen (c : Coll) : Nat := if c.op = 6 then c.cap * c.entry else c.bytes (c.dstUnits * c.count)

/-- Bytes of the header with its kept counts, and of the counts array (R380). -/
def Coll.hdrLen (c : Coll) : Nat := if c.hdr = 0 then 0 else if c.op = 6 then 64 + 4 * c.size else 64

def Coll.cntLen (c : Coll) : Nat := if c.op = 6 then 4 * c.size else 0

/-- A signed field of 10 bits as 16 (Table 12-4). -/
def Coll.lsb16 (c : Coll) : Nat := wrapInt 16 (sgn 10 c.lsb)

/-- The signature record and its CRC-32C (R370). -/
def Coll.signature (c : Coll) (digest : BitVec 32) (seq : Nat) : BitVec 32 :=
  crc32c (leBytes 1 c.op ++ leBytes 1 c.red ++ leBytes 1 c.typ ++ leBytes 1 c.n ++ leBytes 8 c.count ++
    leBytes 4 c.root ++ leBytes 4 digest.toNat ++ leBytes 4 seq ++ leBytes 2 c.lsb16 ++ leBytes 1 c.span ++
    [0] ++ leBytes 4 c.entry)

/-! ### Vectors -/

/-- Elements by index, rising. -/
abbrev Vec := List (Nat × Nat)

/-- Joins two vectors of disjoint indices. -/
def vecMerge (a b : Vec) : Vec := sortBy (fun x y => decide (x.1 ≤ y.1)) (a ++ b)

/-- The elements that a vector holds at some indices. -/
def vecAt (v : Vec) (idx : List Nat) : Vec := idx.filterMap (fun i => v.find? (fun p => p.1 == i))

/-- All elements of a vector at some indices, where it holds all of them. -/
def vecFull (v : Option Vec) (idx : List Nat) : Option Vec :=
  match v with
  | some v => if (vecAt v idx).length = idx.length then some (vecAt v idx) else none
  | none => none

/-- A+Inf above, −Inf below, NaN absorbing: order of anchored words (R71). -/
def anchoredPick (n : Nat) (max : Bool) (a b : Nat) : Nat :=
  let x := readA n a
  let y := readA n b
  let key (t : BitVec 2 × Int) : Int := if t.1 = 1 then 2 ^ 130 else if t.1 = 2 then -(2 ^ 130) else t.2
  if x.1 = 3 ∨ y.1 = 3 then writeA n 3 0
  else if max then (if key x < key y then b else a)
  else (if key y < key x then b else a)

/-- Combines two elements, the side of the lower rank first (R377). -/
def Coll.combine (c : Coll) (lo hi : Nat) : Nat :=
  let flt (f : FFmt) : Nat :=
    let x := readFlt f lo
    let y := readFlt f hi
    if c.red = 0 then (vAdd f .rne x y).1 else if c.red = 1 then (vMin f x y).1 else (vMax f x y).1
  match c.typ with
  | 0x0F => if c.red = 0 then addA 64 lo hi else anchoredPick 64 (c.red == 2) lo hi
  | 0x10 => if c.red = 0 then addA 128 lo hi else anchoredPick 128 (c.red == 2) lo hi
  | 0x0D => flt fFP32
  | 0x0B => flt fBF16
  | _ =>
    if c.red = 0 then (lo + hi) % 2 ^ 32
    else if (sgn 32 lo < sgn 32 hi) = (c.red == 1) then lo else hi

/-- Combines two vectors element by element, where both hold one. -/
def vecCombine (c : Coll) (lo hi : Vec) : Vec :=
  lo.filterMap (fun p => (hi.find? (fun q => q.1 == p.1)).map (fun q => (p.1, c.combine p.2 q.2)))

/-- A contribution to an anchored sum is saturated to span m = s_c − n (R71); whether it was. -/
def Coll.saturate (c : Coll) (x : Nat) : Nat × Bool :=
  if c.anchored ∧ c.reduces ∧ c.red = 0 then
    let a := readA c.bits x
    let r := satTo (2 ^ (c.span - c.n - 1) - 1) a.2
    if a.1 ≠ 0 then (writeA c.bits a.1 0, false) else (writeA c.bits 0 r.1, r.2)
  else (x, false)

/-- The own elements of a slot: its source, saturated, by index in the whole vector of the operation.  An
all-gather contributes its own block. -/
def ownVec (c : Coll) (src : Bytes) : Vec :=
  let base := if c.op = 2 then c.rank * c.count else 0
  (unpack c.bits (c.srcUnits * c.count) src).zipIdx.map (fun p => (base + p.2, (c.saturate p.1).1))

/-- A contribution was saturated. -/
def ownOvf (c : Coll) (src : Bytes) : Bool :=
  (unpack c.bits (c.srcUnits * c.count) src).any (fun x => (c.saturate x).2)

/-! ### Messages -/

/-- A message of elements between two members: step number, the other rank, virtual channel, the indices that
it carries. -/
structure Msg where
  step : Nat
  rank : Nat
  vc : Nat
  idx : List Nat
  deriving DecidableEq, Repr

/-- Key of a message in `parts`. -/
def Msg.key (m : Msg) : Nat := m.step * 1024 + m.rank

/-- Key of packet `i` of a message in `sent`. -/
def Msg.pktKey (m : Msg) (i : Nat) : Nat := m.key * 2 ^ 32 + i

/-- An anchored sum whose span is at most 62 bits travels as A64 (R71). -/
def Coll.narrow (c : Coll) : Bool := c.typ == 0x10 && c.reduces && c.red == 0 && decide (c.span ≤ 62)

/-- Bits of an element as it travels, and the element in that form and back. -/
def Coll.wireBits (c : Coll) : Nat := if c.narrow then 64 else c.bits

def Coll.toWire (c : Coll) (x : Nat) : Nat :=
  if c.narrow then writeA 64 (readA 128 x).1 (readA 128 x).2 else x

def Coll.ofWire (c : Coll) (x : Nat) : Nat :=
  if c.narrow then writeA 128 (readA 64 x).1 (readA 64 x).2 else x

/-- Bytes of a message. -/
def Coll.msgLen (c : Coll) (m : Msg) : Nat := cdiv (m.idx.length * c.wireBits) 8

/-- Packets of a message: 3,584 bytes each, one where it is empty (R374). -/
def Coll.msgPkts (c : Coll) (m : Msg) : Nat := max 1 (cdiv (c.msgLen m) 3584)

/-- A whole message of `len` bytes from its parts. -/
def gathered (parts : List (Nat × Nat × Bytes)) (key len : Nat) : Option Bytes :=
  let l := (parts.filter (fun p => p.1 == key)).map (·.2)
  let s := sortBy (fun a b => decide (a.1 ≤ b.1)) l
  let b := s.flatMap (·.2)
  if l ≠ [] ∧ len ≤ b.length then some (b.take len) else none

/-- The elements that one part of a message holds whole. -/
def Coll.partElems (c : Coll) (m : Msg) (off : Nat) (b : Bytes) : Vec :=
  let w := c.wireBits
  let lo := cdiv (8 * off) w
  let hi := Nat.min m.idx.length (8 * (off + b.length) / w)
  let v := leNat b
  ((m.idx.drop lo).take (hi - lo)).zipIdx.map (fun p =>
    (p.1, c.ofWire (fld v ((lo + p.2) * w - 8 * off) w)))

/-- The elements of a message that have come; none where no packet of it has. -/
def Coll.recv (c : Coll) (parts : List (Nat × Nat × Bytes)) (m : Msg) : Option Vec :=
  match gathered parts m.key (c.msgLen m) with
  | some b => some (m.idx.zip ((unpack c.wireBits m.idx.length b).map c.ofWire))
  | none =>
    let l := parts.filter (fun p => p.1 == m.key)
    if m.idx.isEmpty && l.isEmpty then none else some (l.flatMap (fun p => c.partElems m p.2.1 p.2.2))

/-- Payload of a vector, in the type of the buffers. -/
def Coll.pack (c : Coll) (v : Vec) : Bytes := packRow c.bits (v.map (·.2))

/-- Packet `i` of a message, where every element that it carries is known. -/
def Coll.packet (c : Coll) (m : Msg) (v : Vec) (i : Nat) : Option Bytes :=
  let w := c.wireBits
  let lo := 28672 * i / w
  let idx := (m.idx.drop lo).take (cdiv (28672 * (i + 1)) w - lo)
  let e := vecAt v idx
  if e.length = idx.length then
    some (leBytes (Nat.min 3584 (c.msgLen m - 3584 * i))
      (leNat (packRow w (e.map (fun p => c.toWire p.2))) >>> (28672 * i - lo * w)))
  else none

/-! ### Two trees (R373, R374) -/

/-- Element positions of a tree within a unit. -/
def treeUnit (c : Coll) (b : Bool) : List Nat :=
  let m := cdiv c.count 2
  if b then (List.range (c.count - m)).map (· + m) else List.range m

/-- The indices of a tree in the blocks of some ranks. -/
def treeIdx (c : Coll) (b : Bool) (ranks : List Nat) : List Nat :=
  if c.op = 1 ∨ c.op = 2 then ranks.flatMap (fun r => (treeUnit c b).map (· + r * c.count)) else treeUnit c b

/-- A rank's place in a tree: 0 at the root, a parent being the place with its lowest set bit cleared. -/
def treeFlip (c : Coll) (b : Bool) : Nat :=
  if c.op = 3 ∨ c.op = 4 then c.root else if b then c.size - 1 else 0

def treePlace (c : Coll) (b : Bool) (r : Nat) : Nat := r ^^^ treeFlip c b

/-- Children along dimensions, in the order in which they are combined: by rising relative rank. -/
def treeChildren (c : Coll) (b : Bool) : List Nat :=
  let z := treePlace c b c.rank
  let l := (List.range (trailZ c.n z)).map (fun k => (z + 2 ^ k) ^^^ treeFlip c b)
  if b then l.reverse else l

/-- The parent's rank; none at the root. -/
def treeParent (c : Coll) (b : Bool) : Option Nat :=
  let z := treePlace c b c.rank
  if z = 0 then none else some ((z - 2 ^ trailZ c.n z) ^^^ treeFlip c b)

/-- Ranks of the subtree of a rank, rising. -/
def subtree (c : Coll) (b : Bool) (r : Nat) : List Nat :=
  let z := treePlace c b r
  sortBy (fun a b => decide (a ≤ b)) ((List.range (2 ^ trailZ c.n z)).map (fun x => (z + x) ^^^ treeFlip c b))

def allRanks (c : Coll) : List Nat := List.range c.size

/-- Indices that travel up from a rank, and down to it. -/
def upIdx (c : Coll) (b : Bool) (r : Nat) : List Nat :=
  treeIdx c b (if c.op = 2 then subtree c b r else allRanks c)

def downIdx (c : Coll) (b : Bool) (r : Nat) : List Nat :=
  treeIdx c b (if c.op = 1 then subtree c b r else allRanks c)

/-- A tree has an upward and a downward phase (R374); tree B runs where it has elements. -/
def hasUp (c : Coll) : Bool := c.op != 3
def hasDown (c : Coll) : Bool := c.op != 4
def treeRuns (c : Coll) (b : Bool) : Bool := !b || !(treeUnit c b).isEmpty

def upMsg (c : Coll) (b : Bool) (peer of_ : Nat) : Msg :=
  { step := if b then 2 else 0, rank := peer, vc := if b then 2 else 1, idx := upIdx c b of_ }

def downMsg (c : Coll) (b : Bool) (peer of_ : Nat) : Msg :=
  { step := if b then 3 else 1, rank := peer, vc := if b then 2 else 1, idx := downIdx c b of_ }

/-- The partial that this member has, as far as its children's data have come: its own elements combined with theirs,
in order. -/
def treePartial (c : Coll) (b : Bool) (own : Vec) (parts : List (Nat × Nat × Bytes)) : Option Vec :=
  let mine := if c.op = 2 then vecAt own (treeIdx c b [c.rank]) else vecAt own (upIdx c b c.rank)
  (treeChildren c b).foldl (fun acc k =>
    match acc, c.recv parts (upMsg c b k k) with
    | some v, some w => some (if c.op = 2 then vecMerge v w else if b then vecCombine c w v else vecCombine c v w)
    | _, _ => none) (some mine)

/-- What this member knows of the result of a tree: at the root its partial, below it what its parent has sent. -/
def treeResult (c : Coll) (b : Bool) (own : Vec) (parts : List (Nat × Nat × Bytes)) : Option Vec :=
  match treeParent c b with
  | none => if hasUp c then treePartial c b own parts else some (vecAt own (treeUnit c b))
  | some p => if hasDown c then c.recv parts (downMsg c b p c.rank) else some []

/-- The messages of a tree, with the elements that this member knows. -/
def treeSends (c : Coll) (b : Bool) (own : Vec) (parts : List (Nat × Nat × Bytes)) : List (Msg × Option Vec) :=
  if !treeRuns c b then []
  else
    let up := match treeParent c b with
      | some p => if hasUp c then [(upMsg c b p c.rank, treePartial c b own parts)] else []
      | none => []
    let down := if hasDown c then (treeChildren c b).map (fun k =>
        (downMsg c b k k, (treeResult c b own parts).map (fun v => vecAt v (downIdx c b k)))) else []
    up ++ down

/-! ### Rotated dimension exchange (R375) -/

/-- Stripe `i` of a unit. -/
def stripe (c : Coll) (i : Nat) : List Nat :=
  let lo := i * c.count / c.n
  (List.range ((i + 1) * c.count / c.n - lo)).map (· + lo)

/-- Dimension of step `j` of stripe `i`. -/
def stripeDim (c : Coll) (i j : Nat) : Nat := (i + j) % c.n

/-- The half of a segment that a member keeps along a dimension: its own rank blocks for a reduce-scatter, else
the lower or the upper half of the elements (R375, assumption 49). -/
def keepHalf (c : Coll) (k : Nat) (upper : Bool) (seg : List Nat) : List Nat :=
  if c.op = 1 then seg.filter (fun x => (x / c.count).testBit k == upper)
  else if upper then seg.drop (seg.length / 2) else seg.take (seg.length / 2)

/-- The segment of stripe `i` that this member holds before step `j` of the halving. -/
def segAt (c : Coll) (i : Nat) : Nat → List Nat
  | 0 => if c.op = 1 then (allRanks c).flatMap (fun r => (stripe c i).map (· + r * c.count)) else stripe c i
  | j + 1 => keepHalf c (stripeDim c i j) (c.rank.testBit (stripeDim c i j)) (segAt c i j)

def rotPeer (c : Coll) (i j : Nat) : Nat := c.rank ^^^ 2 ^ stripeDim c i j

/-- Message of halving step `j`: to the peer what it keeps. -/
def rsSend (c : Coll) (i j : Nat) : Msg :=
  { step := 16 + i * 32 + j, rank := rotPeer c i j, vc := 3,
    idx := keepHalf c (stripeDim c i j) (!c.rank.testBit (stripeDim c i j)) (segAt c i j) }

def rsRecv (c : Coll) (i j : Nat) : Msg := { rsSend c i j with idx := segAt c i (j + 1) }

/-- The partials of stripe `i` before step `j`. -/
def rsVec (c : Coll) (own : Vec) (parts : List (Nat × Nat × Bytes)) (i : Nat) : Nat → Option Vec
  | 0 => some (vecAt own (segAt c i 0))
  | j + 1 =>
    match rsVec c own parts i j, c.recv parts (rsRecv c i j) with
    | some v, some w =>
      let mine := vecAt v (segAt c i (j + 1))
      some (if c.rank.testBit (stripeDim c i j) then vecCombine c w mine else vecCombine c mine w)
    | _, _ => none

/-- The indices that a rank holds in the gathering before it has exchanged along dimensions at steps below `j`
(counting down from n): all-reduce, its segment after `j` halvings; all-gather, the blocks of the ranks that
agree with it in the dimensions of the steps below `j`. -/
def agIdx (c : Coll) (i j : Nat) : List Nat :=
  if c.op = 2 then
    ((allRanks c).filter (fun r => (List.range j).all (fun t =>
      r.testBit (stripeDim c i t) == c.rank.testBit (stripeDim c i t)))).flatMap
        (fun r => (stripe c i).map (· + r * c.count))
  else segAt c i j

/-- The indices of the peer of gathering step `j`. -/
def agPeerIdx (c : Coll) (i j : Nat) : List Nat := (agIdx c i j).filter (fun x => !(agIdx c i (j + 1)).contains x)

def agSend (c : Coll) (i j : Nat) : Msg :=
  { step := 16 + i * 32 + 16 + j, rank := rotPeer c i j, vc := 3, idx := agIdx c i (j + 1) }

def agRecv (c : Coll) (i j : Nat) : Msg := { agSend c i j with idx := agPeerIdx c i j }

/-- What this member holds of stripe `i` in the gathering after `k` steps (from step n − 1 down). -/
def agVec (c : Coll) (own : Vec) (parts : List (Nat × Nat × Bytes)) (i : Nat) : Nat → Option Vec
  | 0 => if c.op = 2 then some (vecAt own (agIdx c i c.n)) else rsVec c own parts i c.n
  | k + 1 =>
    match agVec c own parts i k, c.recv parts (agRecv c i (c.n - 1 - k)) with
    | some v, some w => some (vecMerge v w)
    | _, _ => none

/-- The messages of the rotated exchange, with the elements that this member knows. -/
def rotSends (c : Coll) (own : Vec) (parts : List (Nat × Nat × Bytes)) : List (Msg × Option Vec) :=
  (List.range c.n).flatMap (fun i => (List.range c.n).flatMap (fun j =>
    (if c.op = 2 then [] else
      [(rsSend c i j, (rsVec c own parts i j).map (fun v => vecAt v (rsSend c i j).idx))]) ++
    (if c.op = 1 then [] else
      [(agSend c i j, agVec c own parts i (c.n - 1 - j))])))

/-! ### The choice of algorithm and the result -/

/-- Two trees, or the rotated exchange for more than 1 MiB (R372); 4-bit and 6-bit elements count in bits. -/
def Coll.byTrees (c : Coll) : Bool :=
  !(decide (c.op ≤ 2) && decide (2 ^ 23 < c.count * c.bits))

/-- A collective whose count is 0 acts as a barrier (R368). -/
def Coll.acts (c : Coll) : Coll := if c.count = 0 then { c with op := 5 } else c

/-- The element messages of a collective. -/
def collSends (c0 : Coll) (own : Vec) (parts : List (Nat × Nat × Bytes)) : List (Msg × Option Vec) :=
  let c := c0.acts
  if c.op = 6 ∨ c.n = 0 then []
  else if c.byTrees then treeSends c false own parts ++ treeSends c true own parts
  else rotSends c own parts

/-- An element of a reduction as its result holds it: a NaN is canonical (R48). -/
def Coll.canon (c : Coll) (x : Nat) : Nat :=
  let nan (f : FFmt) : Nat := if readFlt f x = .nan then f.nanBits else x
  if !c.reduces then x else if c.typ = 0x0D then nan fFP32 else if c.typ = 0x0B then nan fBF16 else x

/-- The whole of what a tree brings this member, once all of it is here. -/
def treeWhole (c : Coll) (b : Bool) (own : Vec) (parts : List (Nat × Nat × Bytes)) : Option Vec :=
  if (treeParent c b).isSome && !hasDown c then some []
  else vecFull (treeResult c b own parts) (downIdx c b c.rank)

/-- The whole of what stripe `i` of the rotated exchange brings this member. -/
def rotWhole (c : Coll) (own : Vec) (parts : List (Nat × Nat × Bytes)) (i : Nat) : Option Vec :=
  if c.op = 1 then vecFull (rsVec c own parts i c.n) (segAt c i c.n)
  else vecFull (agVec c own parts i c.n) (agIdx c i 0)

/-- The messages of elements that this member receives. -/
def collRecvs (c0 : Coll) : List Msg :=
  let c := c0.acts
  if c.op = 6 ∨ c.n = 0 then []
  else if c.byTrees then
    [false, true].flatMap (fun b =>
      if !treeRuns c b then []
      else (if hasUp c then (treeChildren c b).map (fun k => upMsg c b k k) else []) ++
        (if hasDown c then (treeParent c b).toList.map (fun p => downMsg c b p c.rank) else []))
  else (List.range c.n).flatMap (fun i => (List.range c.n).flatMap (fun j =>
    (if c.op = 2 then [] else [rsRecv c i j]) ++ (if c.op = 1 then [] else [agRecv c i j])))

/-- Ranks from which something of a message has not come. -/
def missingRanks (c : Coll) (parts : List (Nat × Nat × Bytes)) (counts : List (Nat × Nat)) : List Nat :=
  if c.acts.op = 6 then
    (List.range c.size).filter (fun r => r != c.rank &&
      (match counts.find? (fun p => p.1 == r) with
        | some p =>
          let k := Nat.min p.2 c.count
          k != 0 && (gathered parts (8 * 1024 + r) (k * c.entry)).isNone
        | none => true))
  else ((collRecvs c).filter (fun m => (gathered parts m.key (c.acts.msgLen m)).isNone)).map (·.rank)

/-- The elements of the destination, where this member has all of them. -/
def collResult (c0 : Coll) (own : Vec) (parts : List (Nat × Nat × Bytes)) : Option Vec :=
  let c := c0.acts
  let whole : Option Vec :=
    if c.n = 0 then some (own.map (fun p => (p.1, c.canon p.2)))
    else if c.byTrees then
      (match treeWhole c false own parts, (if treeRuns c true then treeWhole c true own parts else some []) with
        | some a, some b => some (vecMerge a b)
        | _, _ => none)
    else
      (List.range c.n).foldl (fun acc i =>
        match acc, rotWhole c own parts i with
        | some a, some b => some (vecMerge a b)
        | _, _ => none) (some [])
  whole.map (fun v =>
    if c.op = 1 then v.filter (fun p => p.1 / (max 1 c.count) == c.rank)
    else if c.dstUnits = 0 then [] else v)

/-! ### All-to-all (R376, R379) -/

/-- Entries that source rank `i` sends here. -/
def a2aFrom (c : Coll) (counts : List (Nat × Nat)) (i : Nat) : Option Nat :=
  ((counts.find? (fun p => p.1 == i)).map (·.2)).map (fun k => Nat.min k c.count)

/-- Bytes received from a source rank. -/
def a2aMsg (i : Nat) : Msg := { step := 8, rank := i, vc := 3, idx := [] }

def a2aData (c : Coll) (parts : List (Nat × Nat × Bytes)) (i k : Nat) : Option Bytes :=
  if k = 0 then some [] else gathered parts (a2aMsg i).key (k * c.entry)

/-- The entries of each source in the order of the destination: by FA, with rank, entries kept and data. -/
structure A2a where
  out : Bytes
  kept : List (Nat × Nat)
  dropped : Nat
  deriving DecidableEq, Repr

def a2aResult (c : Coll) (members : List Nat) (parts : List (Nat × Nat × Bytes)) (counts : List (Nat × Nat)) :
    Option A2a :=
  let order := (sortBy (fun a b => decide (a.1 ≤ b.1)) members.zipIdx).map (·.2)
  order.foldl (fun acc i =>
    match acc, a2aFrom c counts i with
    | some a, some k =>
      (match a2aData c parts i k with
        | some b =>
          let room := c.cap - (a.kept.map (·.2)).foldl (· + ·) 0
          let m := Nat.min k room
          some { out := a.out ++ b.take (m * c.entry), kept := a.kept ++ [(i, m)], dropped := a.dropped + (k - m) }
        | none => none)
    | _, _ => none) (some { out := [], kept := [], dropped := 0 })

/-! ### Faults (R383) -/

/-- The slot as an agent in a fault record (Table 16-2). -/
def colAgent (h : Hw) (n : SlotId) (s : ColSlot) : FaultRec :=
  { FaultRec.blank h.ftcNow 0 5 with
    ctx := some s.ctx, easel := BitVec.ofNat 8 s.easel.val, unit := BitVec.ofNat 6 n.val, serial := s.serial,
    pc := s.pc, inst := s.inst }

/-- The destination bytes that a slot has computed. -/
def slotResult (h : Hw) (s : ColSlot) : Option Bytes :=
  let c := collOf h s.desc
  if c.acts.op = 6 then (a2aResult c (groupMembers h c.group) s.parts s.counts).map (·.out)
  else (collResult c (ownVec c s.src) s.parts).map c.pack

/-- No granule of the destination can be new: the collective has not started, or no data has come and no own block
goes to the destination. -/
def slotBlank (h : Hw) (s : ColSlot) : Bool :=
  !s.running || ((slotResult h s).isNone && s.parts.isEmpty && (collOf h s.desc).acts.op != 2)

/-- After a fault the destination holds old and new granules, as free values choose; what is new in a granule whose
result is not complete is free (R383). -/
def mixDst (h : Hw) (s : ColSlot) : Hw :=
  if slotBlank h s then h
  else
    let c := collOf h s.desc
    let r := slotResult h s
    let n := match r with
      | some b => b.length
      | none => c.dstLen
    let k := cdiv n 64
    let fresh := fun i => match r with
      | some b => (b.drop (64 * i)).take 64
      | none => sub (Config.freeBytes (h.free + k + i) 64) 0 (Nat.min 64 (n - 64 * i))
    (List.range k).foldl (fun g i =>
      if bit (Config.freeValue (h.free + i)) 0 then { g with mem := g.mem.write (c.dst + 64 * i) (fresh i) } else g)
      { h with free := h.free + 2 * k }

/-- The packets of a slot that have not left are withdrawn (R383). -/
def withdrawPkts (h : Hw) (n : SlotId) : Hw :=
  let keep (q : QPkt) : Bool := q.col != some n
  { h with
    rte := { h.rte with inq := h.rte.inq.filter keep }
    ports := h.ports.map (fun p => (p.1, { p.2 with txq := p.2.txq.filter keep })) }

/-- The packets of a slot that ends are no longer its own: what becomes of them concerns no collective. -/
def disownPkts (h : Hw) (n : SlotId) : Hw :=
  let own (q : QPkt) : QPkt := if q.col = some n then { q with col := none } else q
  { h with
    rte := { h.rte with inq := h.rte.inq.map own }
    ports := h.ports.map (fun p => (p.1, { p.2 with
      txq := p.2.txq.map own, txCur := p.2.txCur.map own
      replay := p.2.replay.map (fun f => { f with pkts := f.pkts.map own }) })) }

/-- Frees a slot: a faulted one sends nothing further (R383), a finished one's packets go their way. -/
def freeColl (h : Hw) (n : SlotId) (withdrawn : Bool) : Hw :=
  let h1 := disownPkts (if withdrawn then withdrawPkts h n else h) n
  { h1 with col := { h1.col with slots := SMap.del h1.col.slots n.val } }

/-- A collective faults: its record and the error log; its slot ends without header or signal (R383). -/
def colFault (h : Hw) (n : SlotId) (cls : BitVec 8) (addr : Word) (peer : Nat) : Hw :=
  match SMap.find h.col.slots n.val with
  | none => h
  | some s =>
    let c := collOf h s.desc
    let h2 := freeColl (mixDst h s) n true
    let h3 := h2.setReg (colOff 0x40) (put c.group 0 6 ||| put s.ctx.val 6 6 ||| put cls.toNat 12 8 |||
      put peer 20 10 ||| bitw true 63)
    recordFault h3 { colAgent h n s with cls := cls, addr := addr }

end Sys2Proof.Machine
end

