-- ==== Sys2Proof/Machine/Router.lean ====
section
/-! DEFINITION. The router (R333–R355): table lookup and epochs, multicast trees, circuits, packets received
here with their checks (R30, R319, R417, R418), final-flag streams, the stall watchdog, congestion maps. -/

namespace Sys2Proof.Machine

/-! ### Ports and discards -/

def errOff (p : PortId) (off : Nat) : Nat := blkBase (.err p) + off

/-- Error log of a port (Table 10-8). -/
def logPort (h : Hw) (p : PortId) (x : Hdr) (cls : BitVec 8) : Hw :=
  h.setReg (errOff p 0x88) (put x.src 0 10 ||| put x.key.toNat 10 16 ||| put cls.toNat 26 8 ||| bitw true 63)

/-- The flits that a packet held in its input buffer are free: their credits return (R308). -/
def giveBack (h : Hw) (q : QPkt) : Hw :=
  match q.inPort with
  | some p =>
    if q.flits = 0 then h
    else h.setPort p { h.port p with owed := SMap.update 0 (h.port p).owed q.pkt.hdr.vc (· + q.flits) }
  | none => h

/-- Discards a packet at a port, counted in ERR_DISCARD_COUNT (R297, R306, R314). -/
def discardAt (h : Hw) (p : PortId) (x : Hdr) : Hw := logPort (h.count (errOff p 0x70) 1) p x 0

/-- The record of a fault that the router finds in a packet (Table 16-2). -/
def routerRec (h : Hw) (p : PortId) (x : Hdr) (cls : BitVec 8) : FaultRec :=
  { FaultRec.blank h.ftcNow cls 6 with
    unit := BitVec.ofNat 6 p.val, addr := BitVec.ofNat 64 x.off, peerFa := BitVec.ofNat 10 x.src,
    port := BitVec.ofNat 4 p.val }

/-- A discarded packet faults the issuer of a local request, or the collective that sent it (R383); a transit packet faults no context and leaves a
record without one (R335, R486, assumption 39). -/
def dropPacket (h : Hw) (p : PortId) (q : QPkt) (cls : BitVec 8) : Hw :=
  match q.inPort, q.col with
  | none, none => localReqFails h q cls
  | none, some n => colFault h n cls 0 0
  | some _, _ => recordNoCtx (giveBack h q) (routerRec h p q.pkt.hdr cls)

/-- The port that names a packet in a record: the one it came by. -/
def QPkt.at (q : QPkt) : PortId := q.inPort.getD 0

/-- Delivers a packet to this module. -/
def deliver (h0 : Hw) (q : QPkt) : Hw :=
  let h := giveBack h0 q
  { h with rte := { h.rte with localq := h.rte.localq ++ [{ q with flits := 0 }] } }

/-- Queues a packet for a port; a port in DOWN discards it (R314, R335). -/
def toPort (h : Hw) (p : PortId) (q : QPkt) : Hw :=
  if (h.port p).state = 4 then dropPacket (discardAt h p q.pkt.hdr) p q 0x40
  else h.setPort p { h.port p with txq := (h.port p).txq ++ [q] }

/-- Side ports are E10 and E11 (R296). -/
def isSide (p : PortId) : Bool := decide (10 ≤ p.val)

/-- Two packets of one source to one destination that keep their order: sync operations (R277), accesses to one word
(Table 8-1), and the final transaction of a stream after the others (R249). -/
def inOrder (r q : Hdr) : Bool :=
  r.src == q.src && r.dst == q.dst && r.vc == q.vc &&
    (q.vc == 0 || (q.vc == 4 && decide (r.off / 8 < (q.off + q.len + 7) / 8 ∧ q.off / 8 < (r.off + r.len + 7) / 8)) ||
      (q.typ == 1 && q.stream != 0 && r.stream == q.stream))

/-- A packet is the next of its VC from its port (R304, R339); one injected here keeps to what `inOrder` asks. -/
def nextOfVc (h : Hw) (i : Nat) (q : QPkt) : Bool :=
  (h.rte.inq.take i).all (fun r => r.inPort != q.inPort ||
    (if q.inPort.isNone then !inOrder r.pkt.hdr q.pkt.hdr else r.pkt.hdr.vc != q.pkt.hdr.vc))

/-- Takes packet `i` before the router, where `p` holds of its header and its turn has come. -/
def takeIn (h : Hw) (i : Nat) (p : Hdr → Bool) (f : Hw → QPkt → Hdr → Hw) : Hw :=
  match h.rte.inq[i]? with
  | none => h
  | some q =>
    if p q.pkt.hdr && nextOfVc h i q then
      f { h with rte := { h.rte with inq := dropNth h.rte.inq i } } q q.pkt.hdr
    else h

/-! ### Unicast and multicast -/

def rteOff (off : Nat) : Nat := blkBase .rte + off

/-- No valid entry: the packet is discarded and counted (R335, R339). -/
def noRoute (h : Hw) (q : QPkt) : Hw := dropPacket (h.count (rteOff 0x28) 1) q.at q 0x48

/-- The time of the request that a packet carries begins to run (R285). -/
def QPkt.sent (q : QPkt) (h : Hw) : Hw :=
  match q.req with
  | some t => reqSent h t
  | none => h

/-- Forwards a unicast packet by the table version of its epoch (R335, R339). -/
def routeUnicast (h : Hw) (q : QPkt) (x : Hdr) : Hw :=
  if x.dst = h.fa then
    deliver (if q.inPort.isNone then q.sent (h.count (rteOff 0x50) 1) else h) q
  else match h.version x.epoch with
    | none => noRoute h q
    | some (v, rewritten) =>
      let h1 := if rewritten then h.count (rteOff 0x30) 1 else h
      let q1 := { q with pkt := { q.pkt with w0 := setFld q.pkt.w0 23 1 (b2n v) } }
      match h1.route v x.dst with
      | some p => toPort h1 p q1
      | none => noRoute h1 q1

/-- PACKET_ROUTE: packet `i` carries neither mcast nor a circuit (R335). -/
def execPacketRoute (i : Nat) (s : State) : Host.Outcome State Fault Refusal :=
  run s (fun h => takeIn h i (fun x => !x.mcast && x.circuit == 0) routeUnicast)

/-- Position on an axis: its first FA bit is `base`. -/
def axisPos (fa base : Nat) : Nat := fld fa base 3

/-- The members of `mask` whose lowest difference from position `p` is relative dimension `k` (R343). -/
def subMask (mask p k : Nat) : Nat :=
  ((List.range 8).filter (fun i =>
    mask.testBit i && i != p && trailZ 3 (i ^^^ p) == k)).foldl (fun m i => m + 2 ^ i) 0

/-- A multicast packet that R342 allows at this router; its dst_fa is that of its source. -/
def mcastOk (h : Hw) (q : QPkt) (x : Hdr) : Bool :=
  let base := if x.axis then 3 else 0
  (x.typ == 8 || x.typ == 9 || x.typ == 10) && x.circuit == 0 &&
    x.src == x.dst && (x.dst >>> (base + 3) == h.fa >>> (base + 3)) && (x.dst % 2 ^ base == h.fa % 2 ^ base) &&
    (match q.inPort with
      | none => x.dst == h.fa && x.mask.testBit (axisPos h.fa base)
      | some p => !isSide p)

/-- The copies of a multicast packet: delivery here, then one port for each dimension above its arrival
(R343). -/
def mcastCopies (h0 : Hw) (q0 : QPkt) (x : Hdr) : Hw :=
  let h := giveBack h0 q0
  let base := if x.axis then 3 else 0
  let p := axisPos h.fa base
  let q := { q0 with flits := 0 }
  let h1 := if x.mask.testBit p then deliver h q else h
  (List.range 3).foldl (fun g k =>
    let above := match q.inPort with
      | some d => decide (d.val < base + k)
      | none => true
    let m := subMask x.mask p k
    if above && m != 0 then
      toPort g (Fin.ofNat 12 (base + k)) { q with pkt := { q.pkt with w0 := setFld q.pkt.w0 54 8 m } }
    else g) h1

/-- MCAST_FORWARD: packet `i` carries mcast; one that breaks R342 is discarded and counted, and a local one
faults its issuer with 0x4A. -/
def execMcastForward (i : Nat) (s : State) : Host.Outcome State Fault Refusal :=
  run s (fun h => takeIn h i (fun x => x.mcast) (fun h q x =>
    if mcastOk h q x then mcastCopies h q x else dropPacket (h.count (rteOff 0x40) 1) q.at q 0x4A))

/-! ### Circuits -/

/-- Circuit entry of an id (Table 11-3); id 0 has none. -/
def Hw.circ (h : Hw) (id : Nat) : Word := if id = 0 then 0 else h.reg (rteOff (0x8000 + 8 * id))

def cSideA (w : Word) : Nat := wfld w 0 4
def cSideB (w : Word) : Nat := wfld w 4 4
def cState (w : Word) : Nat := wfld w 24 2

/-- The side by which a packet reached a router: its port, or local. -/
def sideOf : Option PortId → Nat
  | some p => p.val
  | none => 0xF

/-- The side by which a packet leaves: the other one, where it arrived on a side. -/
def cOther (w : Word) (side : Nat) : Option Nat :=
  if side = cSideA w then some (cSideB w) else if side = cSideB w then some (cSideA w) else none

/-- A circuit packet is discarded and counted; a local request ends by its timeout (R347, R351). -/
def circuitBad (h : Hw) (q : QPkt) (x : Hdr) : Hw :=
  let h1 := h.count (rteOff 0x38) 1
  match q.inPort with
  | none => q.sent h1
  | some p => recordNoCtx (giveBack h1 q) (routerRec h1 p x 0x49)

/-- Forwards a circuit packet by its entry (R347).  A packet that reaches a broken entry is handled at the port that
went down (R314, R351). -/
def circuitForward (h : Hw) (q : QPkt) (x : Hdr) : Hw :=
  let w := h.circ x.circuit
  let bad : Hw := circuitBad h q x
  if x.vc ≠ 3 then bad
  else match cOther w (sideOf q.inPort) with
    | none => bad
    | some out =>
      if cState w = 1 then
        if out = 0xF then (if x.dst = h.fa then deliver h q else bad) else toPort h (Fin.ofNat 12 out) q
      else if cState w = 2 then
        let p := (SMap.find h.rte.broke x.circuit).getD (Fin.ofNat 12 (if out = 0xF then q.at.val else out))
        dropPacket (discardAt h p x) p q 0x40
      else bad

/-- CIRCUIT_FORWARD: packet `i` names a circuit (R347). -/
def execCircuitForward (i : Nat) (s : State) : Host.Outcome State Fault Refusal :=
  run s (fun h => takeIn h i (fun x => !x.mcast && x.circuit != 0) circuitForward)

/-- Circuit-lost event (Table 13-13). -/
def circuitLost (h : Hw) (id port : Nat) (here : Bool) : Hw :=
  raiseEv h 0x0E0 (id + port * 4096 + b2n here * 65536) []

/-- The module's own write of a circuit's state reaches the active entry and its staging copy (R358). -/
def setCircState (h : Hw) (id st : Nat) : Hw :=
  let k := rteOff (0x8000 + 8 * id)
  let h1 := h.setReg k (setFld (h.reg k) 24 2 st)
  match SMap.find h1.regs.staged k with
  | some v => { h1 with regs := { h1.regs with staged := SMap.put h1.regs.staged k (setFld v 24 2 st) } }
  | none => h1

/-- A circuit-down notice leaves by a side: a management packet with the circuit's id in its payload
(R351, assumption 17). -/
def sendNotice (h : Hw) (id out : Nat) : Hw :=
  let p : PortId := Fin.ofNat 12 out
  let x := { h.hdrTo (h.port p).partnerFa.toNat 6 10 16 0 with circuit := 0 }
  toPort h p { pkt := mkPkt x (wordsBytes [1, BitVec.ofNat 64 id]) [], inPort := none, req := none, flits := 0, col := none }

/-- The circuit that a notice names; none for other management packets. -/
def noticeId (q : QPkt) (x : Hdr) : Option Nat :=
  if x.typ = 10 ∧ x.mcast = false ∧ bWord q.pkt.body = 1 then some (wfld (bWord (q.pkt.body.drop 8)) 0 12)
  else none

/-- CIRCUIT_DOWN_NOTICE: packet `i` received here is a management packet; a notice on one side of an up entry
clears it and goes on by the other side; any other is discarded without effect (R351). -/
def execCircuitDownNotice (i : Nat) (s : State) : Host.Outcome State Fault Refusal :=
  run s (fun h =>
    match h.rte.localq[i]? with
    | none => h
    | some q =>
      if q.pkt.hdr.typ ≠ 10 then h
      else
        let h1 := { h with rte := { h.rte with localq := dropNth h.rte.localq i } }
        match noticeId q q.pkt.hdr with
        | none => h1
        | some id =>
          let w := h.circ id
          match q.inPort, cOther w (sideOf q.inPort) with
          | some p, some out =>
            if cState w ≠ 1 then h1
            else
              let h2 := setCircState h1 id 0
              if out = 0xF then circuitLost h2 id p.val false else sendNotice h2 id out
          | _, _ => h1)

/-- Every up circuit with a side on a port that enters DOWN becomes broken; notices leave by the other sides,
and an endpoint here raises the circuit-lost event (R351). -/
def breakCircuits (h : Hw) (p : PortId) : Hw :=
  (h.regs.act.filter (fun c => inArr c.1 (rteOff 0x8008) 8 4095)).foldl (fun g c =>
    let id := (c.1 - rteOff 0x8000) / 8
    let w := g.circ id
    match cOther w p.val with
    | some out =>
      if cState w ≠ 1 then g
      else
        let g0 := setCircState g id 2
        let g1 := { g0 with rte := { g0.rte with broke := SMap.put g0.rte.broke id p } }
        if out = 0xF then circuitLost g1 id p.val true else sendNotice g1 id out
    | none => g) h

/-! ### Packets received here -/

/-- A packet that passed its checks: the key entry's index, the entry and the plain payload. -/
structure Plain where
  idx : Nat
  key : JobKey
  body : Bytes
  deriving DecidableEq, Repr

/-- The context of a job on this module that a failing packet faults. -/
def jobCtx (h : Hw) (job : BitVec 16) : Option CtxId :=
  allCtx.find? (fun c => (h.ctx c).state != 0 && (h.ctx c).state != 7 && (h.ctx c).job == job)

/-- A packet under a key that is not in the table, or bound to another job than the one that it must come from, is
discarded, counted and logged with class 0x41 (R319). -/
def keyUnknown (h : Hw) (q : QPkt) : Hw :=
  match q.inPort with
  | some p => logPort (h.count (errOff p 0x78) 1) p q.pkt.hdr 0x41
  | none => h

/-- The checks of R319 at the destination.  A looped-back packet is plain. -/
def openPkt (h : Hw) (q : QPkt) (x : Hdr) : Hw × Option Plain :=
  match h.sec.jobKeys.find? (fun p => p.2.id == x.key) with
  | none => (keyUnknown h q, none)
  | some (i, k) =>
    match q.inPort with
    | none => (h, some { idx := i, key := k, body := q.pkt.body })
    | some p =>
      match gcmOpen k.key x.nonceBytes x.aad q.pkt.body q.pkt.tag with
      | some b => (h, some { idx := i, key := k, body := b })
      | none =>
        let h1 := logPort (h.count (errOff p 0x80) 1) p x 0x43
        (match jobCtx h k.job with
          | some c => (recordFault h1 { routerRec h1 p x 0x43 with ctx := some c }, none)
          | none => (h1, none))

/-- No packet received before packet `i` from the same port must be taken before it. -/
def nextHere (h : Hw) (i : Nat) (q : QPkt) : Bool :=
  (h.rte.localq.take i).all (fun r => r.inPort != q.inPort || !inOrder r.pkt.hdr q.pkt.hdr)

/-- Takes packet `i` received here, where `ok` holds of its header and its turn has come, and opens it. -/
def takeLocal (h : Hw) (i : Nat) (ok : Hdr → Bool) (f : Hw → QPkt → Hdr → Plain → Hw) : Hw :=
  match h.rte.localq[i]? with
  | none => h
  | some q =>
    if ok q.pkt.hdr && nextHere h i q then
      let r := openPkt { h with rte := { h.rte with localq := dropNth h.rte.localq i } } q q.pkt.hdr
      match r.2 with
      | some p => f r.1 q q.pkt.hdr p
      | none => r.1
    else h

/-- This module grants byte `off` to a job: a page with its remote flag, or the window of an easel on which
the job's context is loaded (R30, R417, R418); a context in gesso grants nothing (R427). -/
def grantsByte (h : Hw) (job : BitVec 16) (off : Nat) : Bool :=
  match h.holder off with
  | none => false
  | some c =>
    (h.ctx c).job == job && (h.ctx c).state != 7 &&
      (if isPal off then h.up (palEasel off)
       else match pageOf off with
         | some p => (match h.owner p with
             | .ctx _ r => r
             | _ => false)
         | none => false)

/-- The bytes [off, off+n) of a request lie in what this module grants; they span at most two pages. -/
def grants (h : Hw) (job : BitVec 16) (off n : Nat) : Bool :=
  grantsByte h job off && grantsByte h job (off + n - 1)

/-- Answers a request under its key (R317): a response to its source; a read response goes on the circuit of
its request (Table 10-4).  Nothing leaves once the key's nonces are used (R318); a loop-back uses none (R29).
`stream` names the stream of a write that is tracked, 0 else (R250, assumption 41). -/
def answerFor (stream : BitVec 16) (h : Hw) (x : Hdr) (k : Plain) (vc typ : Nat) (body : Bytes) (status : BitVec 8) :
    Hw :=
  match SMap.find h.sec.jobKeys k.idx with
  | none => h
  | some key =>
    if key.spent && x.src != h.fa then h
    else
      let c := if typ = 3 then x.circuit else 0
      let y := { h.hdrTo x.src (if c = 0 then vc else 3) typ body.length 0 with
        circuit := c, tag := x.tag, status := status, stream := stream }
      let r := sealPkt h k.idx key y body
      inject r.2 r.1 none

/-- Answers a request that belongs to no stream. -/
def respond (h : Hw) (x : Hdr) (k : Plain) (vc typ : Nat) (body : Bytes) (status : BitVec 8) : Hw :=
  answerFor 0 h x k vc typ body status

/-- The word that an access of a peer meets on an on-die path has an uncorrectable codeword (R164): the peer is
answered as for an uncorrectable word (assumption 119), and the transfer is met. -/
def peerPath (h : Hw) (off n : Nat) : Option Hw :=
  (h.mem.pathBad off n).map (fun _ =>
    logPath { h with mem := h.mem.pathMet off n } (if isPal off then dieOf (palEasel off) else 0) off)

/-- The status with which an access of a peer fails at this module's memory: 1 where it is not granted, 2 where a
word is uncorrectable (R30, R162, R163); a channel that is down gives 1 (assumption 119). -/
def peerFault (h : Hw) (job : BitVec 16) (off n : Nat) (write : Bool) : Option (BitVec 8 × Hw) :=
  if !grants h job off n then some (1, h)
  else if chanDown h off n then some (1, h)
  else match (if write then h.mem.badWrite off n else h.mem.badRead off n) with
    | some w => some (2, reportUe h w none)
    | none => (peerPath h off n).map (fun g => (2, g))

/-- Performs a received write, or refuses it; the status of its answer (R30, R163). -/
def remoteWrite (h : Hw) (x : Hdr) (k : Plain) (tracked : Bool) : Hw :=
  let n := k.body.length
  let say (h : Hw) (st : BitVec 8) : Hw := answerFor (if tracked then x.stream else 0) h x k 5 5 [] st
  if n = 0 then say h 0
  else match peerFault h k.key.job x.off n true with
    | some f => say f.2 f.1
    | none => say (writeLocal h x.off k.body) 0

/-! ### Final-flag streams -/

/-- Key of a stream among those open here. -/
def streamKey (x : Hdr) : Nat := x.src * 65536 + x.stream.toNat

/-- The I/O die by which a packet came. -/
def QPkt.die (q : QPkt) : Fin 2 := if portNorth q.at then 0 else 1

/-- A transaction of a stream arrives: the stream is tracked where it is open, or opens where its die has a free one of
2,048 entries (R250). -/
def openStream (h : Hw) (q : QPkt) (x : Hdr) : Hw × Bool :=
  if x.stream = 0 then (h, false)
  else if (SMap.find h.rte.seen (streamKey x)).isSome then (h, true)
  else if (h.rte.seen.filter (fun p => p.2 == q.die)).length < 2048 then
    ({ h with rte := { h.rte with seen := SMap.put h.rte.seen (streamKey x) q.die } }, true)
  else (h, false)

/-- The stream of a transaction is open here. -/
def streamOpen (h : Hw) (x : Hdr) : Bool := (SMap.find h.rte.seen (streamKey x)).isSome

/-- Packets of a stream, other than its final one, that have reached this module and are not yet performed. -/
def streamHere (h : Hw) (x : Hdr) : Nat :=
  ((h.rte.inq ++ h.rte.localq).filter (fun q =>
    q.pkt.hdr.typ == 0 && q.pkt.hdr.stream == x.stream && q.pkt.hdr.src == x.src &&
      (q.pkt.hdr.dst == h.fa))).length

/-- Takes the first held final transaction of a stream that misses nothing more. -/
def releaseHeld (h : Hw) : Hw :=
  match h.rte.held.find? (fun t => t.2.1 == 0) with
  | none => h
  | some t =>
    let x := t.1.pkt.hdr
    let h1 := { h with rte := { h.rte with
      held := removeFirst (fun t => t.2.1 == 0) h.rte.held
      seen := SMap.del h.rte.seen (streamKey x) } }
    let r := openPkt h1 t.1 x
    match r.2 with
    | some k => remoteWrite r.1 x k (streamOpen h x)
    | none => r.1

/-- A transaction of a stream has been performed: a held final transaction of it misses one less (R249). -/
def streamStep (h : Hw) (x : Hdr) : Hw :=
  if x.stream = 0 then h
  else
    releaseHeld { h with rte := { h.rte with
      held := h.rte.held.map (fun t =>
        if streamKey t.1.pkt.hdr = streamKey x then (t.1, t.2.1 - 1, t.2.2) else t) } }

/-- A received write of a stream or of none. -/
def receiveWrite (h : Hw) (q : QPkt) (x : Hdr) (k : Plain) : Hw :=
  let r := openStream h q x
  streamStep (remoteWrite r.1 x k r.2) x

/-- A request that this module serves meets a channel in retraining, and waits (R180). -/
def peerWaits (h : Hw) (x : Hdr) : Bool :=
  (x.typ == 0 || x.typ == 1 || x.typ == 2 || x.typ == 4) && chanWaits h x.off x.len

/-- REMOTE_WRITE_RECEIVE (R30, R319, R418). -/
def execRemoteWriteReceive (i : Nat) (s : State) : Host.Outcome State Fault Refusal :=
  run s (fun h => takeLocal h i (fun x => x.typ == 0 && !peerWaits h x) receiveWrite)

/-- Transactions of a stream that are still on their way to this module when its final one arrives: a free value from
a peer, since no header names their number (assumption 41).  None where they all came by the loop-back, or the stream
is not tracked, whose final transaction its sender holds back (R250). -/
def streamFar (h : Hw) (q : QPkt) (x : Hdr) : Nat :=
  if q.inPort.isNone || x.stream == 0 || !streamOpen h x then 0 else h.freeWord.toNat

/-- REMOTE_WRITE_FINAL_RECEIVE: the final transaction of a stream is performed once nothing of the stream is
missing, else held (R249). -/
def execRemoteWriteFinalReceive (i : Nat) (s : State) : Host.Outcome State Fault Refusal :=
  run s (fun h =>
    match h.rte.localq[i]? with
    | none => h
    | some q =>
      let x := q.pkt.hdr
      if x.typ ≠ 1 ∨ peerWaits h x then h
      else
        let n := if x.stream = 0 then 0 else streamHere h x + streamFar h q x
        let h1 := (openStream { h.useFree with rte := { h.rte with localq := dropNth h.rte.localq i } } q x).1
        releaseHeld { h1 with rte := { h1.rte with held := h1.rte.held ++ [(q, n, h1.now)] } })

/-- FINAL_STREAM_ABANDON: held final transaction `i` has waited 10 ms; it is discarded, nothing answers, and
event 0x0C4 is raised (R251). -/
def execFinalStreamAbandon (i : Nat) (s : State) : Host.Outcome State Fault Refusal :=
  run s (fun h =>
    match h.rte.held[i]? with
    | none => h
    | some t =>
      if h.now < t.2.2 + 10000000 then h
      else
        let x := t.1.pkt.hdr
        raiseEv { h with rte := { h.rte with
          held := dropNth h.rte.held i
          seen := SMap.del h.rte.seen (streamKey x) } } 0x0C4 (x.src + x.stream.toNat * 65536) [])

/-! ### Requests and responses -/

/-- Serves a read request (R30, R162, R418). -/
def remoteRead (h : Hw) (x : Hdr) (k : Plain) : Hw :=
  match peerFault h k.key.job x.off x.len false with
  | some f => respond f.2 x k 5 3 [] f.1
  | none => respond (touchRead h x.off x.len) x k 5 3 (h.mem.read x.off x.len) 0

/-- REMOTE_READ_REQUEST_RECEIVE (R317, R418). -/
def execRemoteReadRequestReceive (i : Nat) (s : State) : Host.Outcome State Fault Refusal :=
  run s (fun h => takeLocal h i (fun x => x.typ == 2 && !peerWaits h x) (fun h _ x k => remoteRead h x k))

/-- The atomic unit of the word performs a received atomic and answers the old low word (R290, assumption 17). -/
def remoteAtomic (h : Hw) (x : Hdr) (k : Plain) : Hw :=
  let op := wfld (bWord k.body) 0 4
  let b := bWord (k.body.drop 8)
  let c := bWord (k.body.drop 16)
  let n := atomSize op
  if x.off % n != 0 || decide (0xB < op) then respond h x k 5 5 [] 1
  else match peerFault h k.key.job x.off n false with
    | some f => respond f.2 x k 5 5 [] f.1
    | none =>
      let r := atomPerform h op x.off b c
      respond r.2 x k 5 5 (wBytes r.1) 0

/-- ATOMIC_REQUEST_RECEIVE (R290). -/
def execAtomicRequestReceive (i : Nat) (s : State) : Host.Outcome State Fault Refusal :=
  run s (fun h => takeLocal h i (fun x => x.typ == 4 && !peerWaits h x) (fun h _ x k => remoteAtomic h x k))

/-- The object that a peer's sync operation reaches: one in the range of a context of the same job (R271). -/
def peerObj (h : Hw) (job : BitVec 16) (idx : Nat) : Option (Fin 32768) :=
  if allCtx.any (fun c => (h.ctx c).state != 0 && (h.ctx c).job == job && inModRange h c idx) then
    some (Fin.ofNat 32768 idx) else none

/-- A peer's SIGNAL, SYNCRD or SYNCSET (R271, R274, assumption 17). -/
def remoteSync (h : Hw) (q : QPkt) (x : Hdr) (k : Plain) : Hw :=
  let w := bWord k.body
  let v := bWord (k.body.drop 8)
  match peerObj h k.key.job (wfld w 16 15) with
  | none => respond h x k 0 7 [] 1
  | some i =>
    match wfld w 0 2 with
    | 0 => respond (signalObj h (.mod i) (v.toNat % 2 ^ 32) (routerRec h q.at x 0)) x k 0 7 [] 0
    | 1 => respond h x k 0 7 (wBytes (h.obj (.mod i))) 0
    | _ => if setOk (.mod i) v then respond (syncSet h (.mod i) v) x k 0 7 [] 0 else respond h x k 0 7 [] 1

/-- SYNC_OPERATION_RECEIVE (R271). -/
def execSyncOperationReceive (i : Nat) (s : State) : Host.Outcome State Fault Refusal :=
  run s (fun h => takeLocal h i (fun x => x.typ == 6) remoteSync)

/-- The outstanding request that a response answers: its tag, from the peer that was asked (R285). -/
def answered (h : Hw) (x : Hdr) : Option Request :=
  match peerReq h x.tag with
  | some r =>
    let fa := if wfld r.addr 60 4 = 8 then wfld r.addr 48 10 else wfld r.addr 23 10
    if fa = x.src then some r else none
  | none => none

/-- The class that a refusal gives its issuer: 0x17, or the class of the memory at the peer (R30, R162). -/
def statusClass (r : Request) (status : BitVec 8) : BitVec 8 :=
  if status = 1 then 0x17 else memClass (wfld r.addr 0 48)

/-- Takes a response: an answer to nothing outstanding is counted as late (R285), one under another job's key as
unknown (R319). -/
def takeResponse (h : Hw) (q : QPkt) (x : Hdr) (k : Plain) (f : Hw → Request → Hw) : Hw :=
  match answered h x with
  | none => h.count (synOff (portNorth q.at) 0x28) 1
  | some r =>
    if (h.ctx r.who).job ≠ k.key.job then keyUnknown h q else if x.status = 0 then f h r else requestFailed h r (statusClass r x.status)

/-- READ_RESPONSE_RECEIVE (R99). -/
def execReadResponseReceive (i : Nat) (s : State) : Host.Outcome State Fault Refusal :=
  run s (fun h => takeLocal h i (fun x => x.typ == 3) (fun h q x k =>
    takeResponse h q x k (fun h r => answerData h r k.body)))

/-- WRITE_RESPONSE_RECEIVE: a write or atomic response (R244, R288). -/
def execWriteResponseReceive (i : Nat) (s : State) : Host.Outcome State Fault Refusal :=
  run s (fun h => takeLocal h i (fun x => x.typ == 5) (fun h q x k =>
    takeResponse h q x k (fun h r => match r.by_ with
      | .core _ => answerData h r k.body
      | _ => answerDone h r (x.stream != 0))))

/-- SYNC_RESPONSE_RECEIVE (R283). -/
def execSyncResponseReceive (i : Nat) (s : State) : Host.Outcome State Fault Refusal :=
  run s (fun h => takeLocal h i (fun x => x.typ == 7) (fun h q x k =>
    takeResponse h q x k (fun h r => match r.by_ with
      | .core _ => answerData h r k.body
      | _ => answerDone h r false)))

/-! ### Stall watchdog -/

/-- The packets of a VC that wait for a port. -/
def Port.waiting (p : Port) (vc : Nat) : List QPkt := p.txq.filter (fun q => q.pkt.hdr.vc == vc)

/-- The port for which a packet before the router is bound: by its circuit, else by its table version. -/
def boundFor (h : Hw) (q : QPkt) : Option PortId :=
  let x := q.pkt.hdr
  if x.mcast then none
  else if x.circuit ≠ 0 then
    match cOther (h.circ x.circuit) (sideOf q.inPort) with
    | some out => if out = 0xF then none else some (Fin.ofNat 12 out)
    | none => none
  else if x.dst = h.fa then none
  else match h.version x.epoch with
    | some (v, _) => h.route v x.dst
    | none => none

/-- Packets of a VC for a port that are still before the router. -/
def waitsIn (h : Hw) (port : PortId) (vc : Nat) (q : QPkt) : Bool :=
  q.pkt.hdr.vc == vc && boundFor h q == some port

/-- VCs of which something waits for a port (R353). -/
def stallVcs (h : Hw) (port : PortId) : List Nat :=
  ((h.port port).txq ++ (h.port port).txCur.toList ++ h.rte.inq.filter (fun q => boundFor h q == some port)).map
    (fun q => q.pkt.hdr.vc)

/-- STALL_WATCHDOG_EXPIRE: flits of the VC have waited at an UP port for 10 ms with none sent; its packets
for the port are flushed, counted, logged and reported (R353).  A packet of which flits have left already stays, since
the partner waits for its rest (assumption 118). -/
def execStallWatchdogExpire (port : PortId) (vc : Fin 8) (s : State) : Host.Outcome State Fault Refusal :=
  run s (fun h =>
    let p := h.port port
    if p.state ≠ 2 ∨ (stallVcs h port).contains vc.val = false ∨ SMap.get 0 p.stall vc.val < 10000000 then h
    else
      let l := p.waiting vc.val ++ h.rte.inq.filter (waitsIn h port vc.val)
      let n := l.length
      let h0 := { h with rte := { h.rte with inq := h.rte.inq.filter (fun q => !waitsIn h port vc.val q) } }
      let h1 := h0.setPort port { p with
        txq := p.txq.filter (fun q => q.pkt.hdr.vc != vc.val)
        stall := SMap.put p.stall vc.val 0 }
      let h2 := (h1.count (rteOff 0x48) n).setReg (rteOff 0x58)
        (put port.val 0 4 ||| put vc.val 4 3 ||| put (Nat.min n 0xFFFFFF) 8 24 ||| bitw true 63)
      let h3 := raiseEv h2 0x0E1 (port.val + vc.val * 16 + Nat.min n 0xFFFFFF * 256) []
      l.foldl (fun g q => dropPacket g port q 0x42) h3)

/-! ### Congestion maps -/

/-- Bin of an occupancy (R354). -/
def cmapBin (n : Nat) : Nat := if n = 0 then 0 else if 897 ≤ n then 15 else (n - 1) / 64 + 1

/-- Key of port, VC and bin in a window (R355). -/
def cmapKey (p v b : Nat) : Nat := (p * 8 + v) * 16 + b

/-- CMAP_SAMPLE: at an FTC multiple of 1 µs, one count for each port and VC0–VC6; a port that is not UP counts
in bin 0 (R354). -/
def execCmapSample (s : State) : Host.Outcome State Fault Refusal :=
  run s (fun h =>
    if h.ftcNow % 1000 ≠ 0 then h
    else
      let keys := (List.range 12).flatMap (fun p => (List.range 7).map (fun v =>
        let q := h.port (Fin.ofNat 12 p)
        cmapKey p v (if q.state = 2 then cmapBin (SMap.get 0 q.credits v) else 0)))
      { h with rte := { h.rte with cmapNow := keys.foldl (fun m k => SMap.update 0 m k (· + 1)) h.rte.cmapNow } })

/-- CMAP_WINDOW_END: at an FTC multiple of 1 ms the window is written into the next slot (R354, R355). -/
def execCmapWindowEnd (s : State) : Host.Outcome State Fault Refusal :=
  run s (fun h =>
    if h.ftcNow % 1000000 ≠ 0 ∨ h.rte.cmapNow = [] then h
    else
      let n : BitVec 6 := if h.rte.cmapValid then h.rte.cmapNewest + 1 else 0
      { h with rte := { h.rte with
          cmap := SMap.put h.rte.cmap n.toNat h.rte.cmapNow
          cmapNow := []
          cmapNewest := n
          cmapValid := true
          cmapTime := h.ftcNow - 1000000 } })

end Sys2Proof.Machine
end

