-- ==== Sys2Proof/Machine/Links.lean ====
section
/-! DEFINITION. Errair links: flits, retry and credits (R301–R308), packets on the wire (R306, R307), port
states, training, degrade and loss (R310–R314). -/

namespace Sys2Proof.Machine

/-! ### Flits -/

/-- One bit of the CRC-64 register (ECMA-182 polynomial), most significant bit first (assumption 44). -/
def crcBit (c : Nat) : Nat :=
  if c.testBit 63 then (c <<< 1 % 2 ^ 64) ^^^ 0x42F0E1EBA9EA3693 else c <<< 1 % 2 ^ 64

def crcByte (c : Nat) (b : Byte) : Nat :=
  let x := c ^^^ (b.toNat <<< 56)
  crcBit (crcBit (crcBit (crcBit (crcBit (crcBit (crcBit (crcBit x)))))))

/-- CRC-64 of a byte string: initial value all ones, final complement (Table 10-2). -/
def crc64 (b : Bytes) : Word := ~~~(BitVec.ofNat 64 (b.foldl crcByte (2 ^ 64 - 1)))

/-- Fields of a flit header (Table 10-2). -/
def fSeq (w : Word) : BitVec 12 := BitVec.ofNat 12 (wfld w 0 12)
def fAck (w : Word) : BitVec 12 := BitVec.ofNat 12 (wfld w 12 12)
def fNack (w : Word) : Bool := bit w 24
def fKind (w : Word) : Nat := wfld w 38 2

/-- A flit with its CRC. -/
def mkFlit (seq ack : BitVec 12) (nack : Bool) (vc credits kind : Nat) (data : Bytes) : Flit :=
  let w := put seq.toNat 0 12 ||| put ack.toNat 12 12 ||| bitw nack 24 ||| put vc 25 3 |||
    put credits 28 10 ||| put kind 38 2
  let d := sub data 0 240
  { hdr := w, data := d, crc := crc64 (wBytes w ++ d) }

/-- The flit passes its CRC (R302). -/
def flitGood (f : Flit) : Bool := crc64 (wBytes f.hdr ++ sub f.data 0 240) == f.crc

/-! ### Packets on the wire -/

/-- Bytes of a packet in the flit stream (R307); a read request has no payload. -/
def wireLen (x : Hdr) : Nat :=
  32 + (if x.typ = 2 then 0 else 16 * cdiv x.len 16) + (if x.key = 0 then 0 else 16)

/-- A packet as it crosses a link: header, payload padded with zeros, tag. -/
def wireBytes (p : Pkt) : Bytes :=
  wordsBytes [p.w0, p.w1, p.w2, p.w3] ++ sub p.body 0 (16 * cdiv p.body.length 16) ++
    (if p.hdr.key = 0 then [] else sub p.tag 0 16)

/-- Reads a packet from its bytes. -/
def readPkt (b : Bytes) : Pkt :=
  let ws := bytesWords 4 b
  let p : Pkt := { w0 := nthW ws 0, w1 := nthW ws 1, w2 := nthW ws 2, w3 := nthW ws 3, body := [], tag := [] }
  let n := if p.hdr.typ = 2 then 0 else p.hdr.len
  { p with body := sub b 32 n, tag := if p.hdr.key = 0 then [] else sub b (32 + 16 * cdiv n 16) 16 }

/-- Bytes that the packet under way still needs: its header first, then what the header says. -/
def wireNeed (acc : Bytes) : Nat :=
  if acc.length < 32 then 32 - acc.length else wireLen (readPkt acc).hdr - acc.length

/-- Takes a data flit's bytes: the packets completed and the part of one left over.  A unit of zeros where a
header would begin makes the rest fill (R307). -/
def absorb : Nat → Bytes → Bytes → List Pkt × Bytes
  | 0, acc, _ => ([], acc)
  | k + 1, acc, d =>
    if d.isEmpty then ([], acc)
    else if acc.isEmpty && (d.take 16).all (· == 0) then ([], acc)
    else
      let n := Nat.min (wireNeed acc) d.length
      let a := acc ++ d.take n
      if 32 ≤ a.length ∧ wireNeed a = 0 then
        let r := absorb k [] (d.drop n)
        (readPkt a :: r.1, r.2)
      else absorb k a (d.drop n)

/-- The VC that Table 10-4 lists for a type. -/
def vcOk (x : Hdr) : Bool :=
  match x.typ with
  | 0 => x.vc == 4 || (x.vc == 3 && x.circuit != 0)
  | 1 => x.vc == 4 || (x.vc == 3 && x.circuit != 0)
  | 2 => x.vc == 4 || (x.vc == 3 && x.circuit != 0)
  | 3 => x.vc == 5 || (x.vc == 3 && x.circuit != 0)
  | 4 => x.vc == 4
  | 5 => x.vc == 5
  | 6 => x.vc == 0
  | 7 => x.vc == 0
  | 8 => x.vc == 1 || x.vc == 2 || x.vc == 3
  | 9 => x.vc == 0
  | 10 => x.vc == 6
  | _ => false

/-- A packet that R306 does not discard. -/
def pktOk (x : Hdr) : Bool :=
  vcOk x && decide (x.len ≤ 3584) && x.origin != 1 && (x.key != 0 || x.vc == 6)

/-- A packet that a side port may bring (R297, R298). -/
def sideOk (h : Hw) (p : PortId) (x : Hdr) : Bool :=
  let w := h.circ x.circuit
  x.src == h.fa && x.origin == p.val - 8 &&
    (if x.vc = 3 then cState w == 1 && (cSideA w == p.val || cSideB w == p.val)
     else x.vc == 6 && x.dst == h.fa && !x.mcast)

/-- A packet arrives from a port: before the router, or discarded and its flits freed. -/
def arrivePkt (h : Hw) (p : PortId) (flits : Nat) (k : Pkt) : Hw :=
  let x := k.hdr
  let q : QPkt := { pkt := k, inPort := some p, req := none, flits := flits, col := none }
  if pktOk x && (!isSide p || sideOk h p x) then { h with rte := { h.rte with inq := h.rte.inq ++ [q] } }
  else giveBack (discardAt h p x) q

/-! ### Receiving a flit -/

/-- The acknowledgement and the credits of a flit header (R302, R308). -/
def Port.takeAck (p : Port) (w : Word) : Port :=
  let hit := p.replay.any (fun s => s.seq == fAck w)
  let rest := if hit then (p.replay.dropWhile (fun s => s.seq != fAck w)).drop 1 else p.replay
  let v := wfld w 25 3
  { p with
    replay := rest
    replays := if hit then 0 else p.replays
    credits := SMap.set 0 p.credits v (SMap.get 0 p.credits v - wfld w 28 10) }

/-- A nack starts a replay of what is not acknowledged; one after eight replays in succession have failed takes the
degrade decision (R302, R303).  What comes while a replay is being sent tells of the failure that began it. -/
def takeNack (h : Hw) (i : PortId) (w : Word) : Hw :=
  let p := h.port i
  match p.replay.head? with
  | some f =>
    if fNack w && p.replayFrom.isNone then
      (h.setPort i { p with replayFrom := some f.seq, replays := p.replays + 1,
                            decided := p.decided || decide (8 ≤ p.replays) }).count (errOff i 0x58) 1
    else h
  | none => h

/-- A data flit in sequence: its packets reach the router. -/
def takeData (h : Hw) (i : PortId) (f : Flit) : Hw :=
  let p := h.port i
  if fSeq f.hdr ≠ p.rxExpect then h.setPort i { p with nackDue := true }
  else
    let r := absorb 32 p.rxBytes (sub f.data 0 240)
    let h1 := h.setPort i { p with
      rxExpect := p.rxExpect + 1
      nackDue := false
      rxBytes := r.2
      rxFlits := if r.1 = [] then p.rxFlits + 1 else 0 }
    match r.1 with
    | [] => h1
    | k :: ks => ks.foldl (fun g x => arrivePkt g i 0 x) (arrivePkt h1 i (p.rxFlits + 1) k)

/-- A training control flit: the partner has taken the degrade decision (R312). -/
def takeTraining (h : Hw) (i : PortId) : Hw := h.setPort i { h.port i with decided := true }

/-! ### Sending a flit -/

/-- Flits of the shared buffer that the partner holds (R308). -/
def Port.shared (p : Port) : Nat := ((List.range 7).map (fun v => SMap.get 0 p.credits v - 16)).foldl (· + ·) 0

/-- A credit is held for a VC: reserved flits, or shared ones while more than 16 are free (R308). -/
def Port.mayUse (p : Port) (v : Nat) : Bool :=
  decide (SMap.get 0 p.credits v < 16) || decide (16 < 912 - p.shared)

/-- VCs that have a packet waiting and a credit. -/
def Port.ready (p : Port) : List Nat := (List.range 7).filter (fun v => !(p.waiting v).isEmpty && p.mayUse v)

/-- A packet that starts at data offset `o` spans at most 16 flits (R307). -/
def fits (o n : Nat) : Bool := decide (o + n ≤ 16 * 240)

/-- Fills a flit with packets of one queue: the bytes so far, the packets that end in it, the port after. -/
def fill : Nat → (QPkt → Bool) → Bytes → List QPkt → Port → Bytes × List QPkt × Port
  | 0, _, b, l, p => (b, l, p)
  | k + 1, sel, b, l, p =>
    match p.txCur with
    | some q =>
      let n := Nat.min (240 - b.length) p.txBytes.length
      let p1 := { p with txBytes := p.txBytes.drop n }
      if p1.txBytes.isEmpty then fill k sel (b ++ p.txBytes.take n) (l ++ [q]) { p1 with txCur := none }
      else (b ++ p.txBytes.take n, l, p1)
    | none =>
      match p.txq.find? sel with
      | none => (b, l, p)
      | some q =>
        let w := wireBytes q.pkt
        if 240 ≤ b.length || !fits b.length w.length then (b, l, p)
        else fill k sel b l { p with txCur := some q, txBytes := w, txq := removeFirst sel p.txq }

/-- The credits that the next header returns: the first VC that has some (R308). -/
def Port.refund (p : Port) : Nat × Nat :=
  match (List.range 8).find? (fun v => SMap.get 0 p.owed v != 0) with
  | some v => (v, Nat.min 1023 (SMap.get 0 p.owed v))
  | none => (0, 0)

/-- The up circuits that hold a share of a port's output, with the share in 1/64ths (R346, R348). -/
def sharesOf (h : Hw) (i : PortId) : List (Nat × Nat) :=
  (SMap.range h.regs.act (rteOff 0x8008) (rteOff 0x10000)).filterMap (fun p =>
    let s := (if cSideB p.2 = i.val then wfld p.2 8 7 else 0) + (if cSideA p.2 = i.val then wfld p.2 16 7 else 0)
    if cState p.2 = 1 ∧ s ≠ 0 then some ((p.1 - rteOff 0x8000) / 8, s) else none)

/-- A flit slot of a port passes, with a flit of VC `v`, or 8 for none: circuits accrue their credit, 16 flits at most
(R348), and the window of R309 moves on. -/
def flitSlot (h : Hw) (i : PortId) (v : Nat) : Hw :=
  let p := h.port i
  h.setPort i { p with
    recent := (v :: p.recent).take 1023
    circ := (sharesOf h i).map (fun c => (c.1, Nat.min 1024 (SMap.get 0 p.circ c.1 + c.2))) }

/-- Sends a flit of a kind and VC with the acknowledgement, a nack that is due and credits. -/
def sendFlit (h0 : Hw) (i : PortId) (seq : BitVec 12) (kind v : Nat) (d : Bytes) : Hw :=
  let h := flitSlot h0 i v
  let p := h.port i
  let c := p.refund
  let f := mkFlit seq (p.rxExpect - 1) p.nackDue c.1 c.2 kind d
  (h.setPort i { p with
    nackDue := false
    owed := SMap.set 0 p.owed c.1 (SMap.get 0 p.owed c.1 - c.2) }).emit (.flit i f)

/-- Sends the next flit of a replay (R302). -/
def sendReplay (h : Hw) (i : PortId) (s : BitVec 12) : Hw :=
  let p := h.port i
  match p.replay.find? (fun f => f.seq == s) with
  | some f =>
    let next := if s + 1 = p.txNext then none else some (s + 1)
    sendFlit (h.setPort i { p with replayFrom := next }) i s 0 8 f.data
  | none => h.setPort i { p with replayFrom := none }

/-- A circuit holds credit for a flit of a port (R348). -/
def Port.holds (p : Port) (id : Nat) : Bool := id != 0 && decide (64 ≤ SMap.get 0 p.circ id)

/-- The flit of VC `v`, and of circuit `id` or 0, spends its circuit's credit, or counts in its VC's round. -/
def Port.spend (p : Port) (v id : Nat) : Port :=
  if p.holds id then { p with circ := SMap.update 0 p.circ id (· - 64) }
  else if 1 ≤ v ∧ v ≤ 5 then { p with round := SMap.update 0 p.round v (· + 1) }
  else p

/-- Sends a new data flit from the packets of VC `v`, or of one circuit where `id` is not 0. -/
def sendData (h : Hw) (i : PortId) (v id : Nat) : Hw :=
  let p := h.port i
  let r := fill 32 (fun q => q.pkt.hdr.vc == v && (id == 0 || q.pkt.hdr.circuit == id)) [] [] p
  let f : SentFlit := { seq := p.txNext, data := sub r.1 0 240, pkts := r.2.1.map (fun q => { q with flits := 0 }) }
  let p1 := { r.2.2.spend v id with
    txNext := p.txNext + 1
    replay := p.replay ++ [f]
    credits := SMap.update 0 p.credits v (· + 1)
    stall := SMap.set 0 p.stall v 0 }
  let h1 := r.2.1.foldl (fun g q => q.sent (giveBack g q)) (h.setPort i p1)
  sendFlit h1 i f.seq 0 v f.data

/-- Weight of a VC in the round-robin, ERR_VC_CFG (R309). -/
def vcWeight (h : Hw) (i : PortId) (v : Nat) : Nat := wfld (h.reg (errOff i 0x28)) (4 * (v - 1)) 4

/-- The VCs that share the rest of the port: those whose weight in this round is not used up, or all of them in a new
round, which then begins. -/
def roundVcs (h : Hw) (i : PortId) (l : List Nat) : List Nat × Bool :=
  let left := l.filter (fun v => decide (SMap.get 0 (h.port i).round v < vcWeight h i v))
  if left.isEmpty then (l, true) else (left, false)

/-- Sends a flit of one of VC1–VC5 by weighted round-robin (R309); which VC of a round goes first is a free value. -/
def sendRound (h : Hw) (i : PortId) (l : List Nat) : Option Hw :=
  let r := roundVcs h i l
  match r.1[h.freeWord.toNat % r.1.length]? with
  | none => none
  | some v =>
    let h1 := if r.2 then h.setPort i { h.port i with round := [] } else h
    some (sendData h1.useFree i v 0)

/-- VC0 and VC6 take at most 64 flits of any 1,024 while other VCs wait (R309). -/
def Port.urgent (p : Port) (v : Nat) : Bool :=
  p.ready.contains v && (decide ((p.recent.filter (· == v)).length < 64) || p.ready == [v])

/-- Sends the first flit of the packet that the arbitration of R309 chooses: VC0, then VC6, then circuits that hold
credit, then the weighted round-robin. -/
def sendNext (h : Hw) (i : PortId) : Option Hw :=
  let p := h.port i
  if p.urgent 0 then some (sendData h i 0 0)
  else if p.urgent 6 then some (sendData h i 6 0)
  else match (if p.ready.contains 3 then (p.waiting 3).find? (fun q => p.holds q.pkt.hdr.circuit) else none) with
    | some q => some (sendData h i 3 q.pkt.hdr.circuit)
    | none => sendRound h i (p.ready.filter (fun v => decide (1 ≤ v ∧ v ≤ 5)))

/-- FLIT_TRANSMIT: an UP port sends a replay, a data flit of a VC that holds a credit, or an idle flit (R301,
R302, R308, R309).  A packet once begun is sent before another, since no flit names its VC (assumption 10). -/
def execFlitTransmit (port : PortId) (s : State) : Host.Outcome State Fault Refusal :=
  run s (fun h =>
    let p := h.port port
    let idle : Hw := sendFlit h port p.txNext 1 8 []
    if p.state ≠ 2 then h
    else match p.replayFrom with
      | some s => sendReplay h port s
      | none =>
        if 1024 ≤ p.replay.length then idle
        else match p.txCur with
          | some q => if p.mayUse q.pkt.hdr.vc then sendData h port q.pkt.hdr.vc q.pkt.hdr.circuit else idle
          | none => (sendNext h port).getD idle)

/-! ### Taking a flit -/

/-- The FTC as a timestamp of 0.25 ns (R323). -/
def Ftc.stamp (f : Ftc) : Nat := 4 * f.count + f.frac / 250000

/-- The timing record of a flit: t1, t2 and t3 of the exchange, those that its sender knows (R323, assumption 116). -/
def timingRecord (t1 t2 t3 : Nat) : Bytes := leBytes 8 t1 ++ leBytes 8 t2 ++ leBytes 8 t3

/-- A timing flit from a follower is answered once this module has synchronised, with t2 and t3 (R322, R323). -/
def takeTiming (h : Hw) (i : PortId) (d : Bytes) : Hw :=
  if h.ftc.everSynced then
    sendFlit h i (h.port i).txNext 2 8 (timingRecord (leNat (d.take 8)) h.ftc.stamp h.ftc.stamp)
  else h

/-- A corrected codeword and its corrected symbols by lane (R312, Table 10-8). -/
def countFixed (h : Hw) (i : PortId) (lanes : List (Fin 8)) : Hw :=
  lanes.foldl (fun g l =>
    let g1 := g.count (errOff i (0x100 + 8 * l.val)) 1
    g1.setPort i { g1.port i with winSyms := SMap.update 0 (g1.port i).winSyms l.val (· + 1) })
    (h.count (errOff i 0x40) 1)

/-- The FEC counters by codeword: `bad` uncorrectable ones, and each corrected one (Table 10-8). -/
def countFec (h : Hw) (i : PortId) (bad : Nat) (fixed : List (List (Fin 8))) : Hw :=
  fixed.foldl (fun g l => countFixed g i l) (if bad = 0 then h else h.count (errOff i 0x48) bad)

/-- FLIT_RECEIVE: an UP port checks a flit (R300, R302); in RETRAIN the port takes nothing.  `fecTouched`: an
uncorrectable codeword touches the flit; `fec`: the codewords that end with it. -/
def execFlitReceive (port : PortId) (flit : Flit) (fecTouched : Bool) (fec : FecReport)
    (s : State) : Host.Outcome State Fault Refusal :=
  run s (fun h =>
    if (h.port port).state ≠ 2 then h
    else
      let h1 := countFec h port fec.bad fec.fixed
      let p := h1.port port
      if fecTouched || !flitGood flit then
        let h2 := if flitGood flit then h1 else h1.count (errOff port 0x50) 1
        h2.setPort port { p with winFails := p.winFails + 1, nackDue := true }
      else
        let h2 := takeNack (h1.setPort port (p.takeAck flit.hdr)) port flit.hdr
        match fKind flit.hdr with
        | 0 => takeData h2 port flit
        | 1 => h2
        | 2 => takeTiming h2 port flit.data
        | _ => takeTraining h2 port)

/-! ### Port states -/

/-- The port that the FTC follows now (R322, R325); none for a master or with no parent. -/
def ftcPort (h : Hw) : Option PortId :=
  let w := h.breg .ftc 0x18
  if bit w 0 then none
  else if h.ftc.onAlt then some (Fin.ofNat 12 (wfld w 6 4))
  else if bit w 5 then some (Fin.ofNat 12 (wfld w 1 4)) else none

/-- The drift of at most 2 ppm since the follower began to hold over, in 0.25 ns (R325). -/
def Ftc.drift (f : Ftc) (now : Nat) : Nat := (now - f.lostAt) / 125000

/-- The follower holds over from when its parent port leaves UP until it is UP again (R325). -/
def ftcLink (h : Hw) (i : PortId) (up : Bool) : Hw :=
  if ftcPort h ≠ some i then h
  else if up then
    if h.ftc.holdover then
      { h with ftc := { h.ftc with holdover := false, errQ := Nat.min (h.ftc.errQ + h.ftc.drift h.now) 262140 } }
    else h
  else if h.ftc.holdover then h
  else { h with ftc := { h.ftc with holdover := true, lostAt := h.now } }

/-- Moves a port to a state with some lanes and raises the link event (R310, Table 13-13). -/
def setPortState (h : Hw) (i : PortId) (st : BitVec 3) (lanes : BitVec 8) : Hw :=
  let p := h.port i
  let h1 := raiseEv (h.setPort i { p with state := st, lanes := lanes, since := h.now }) 0x0C0
    (i.val + p.state.toNat * 16 + st.toNat * 256 + popc 8 lanes.toNat * 4096) []
  if (p.state = 2) = (st = 2) then h1 else ftcLink h1 i (st == 2)

/-- The packets that a port holds: waiting, in progress, and in the replay buffer. -/
def Port.held (p : Port) : List QPkt := p.replay.flatMap (·.pkts) ++ p.txCur.toList ++ p.txq

/-- A port enters DOWN (R314): its packets are discarded and counted, local requests among them fault with
0x40, circuits through it break; its link starts afresh. -/
def goDown (h : Hw) (i : PortId) : Hw :=
  let p := h.port i
  let h1 := h.setPort i { p with
    txNext := 0, replay := [], replayFrom := none, replays := 0, rxExpect := 0, nackDue := false, rxBytes := [],
    rxFlits := 0, credits := [], owed := [], txq := [], txCur := none, txBytes := [], decided := false,
    chipTrain := false, stall := [], lockLost := 0 }
  let h2 := (setPortState h1 i 4 0).count (errOff i 0x68) 1
  let h3 := p.held.foldl (fun g q => dropPacket (discardAt g i q.pkt.hdr) i q 0x40) h2
  breakCircuits h3 i

/-- A port comes UP: flits not acknowledged are replayed (R313). -/
def goUp (h : Hw) (i : PortId) (lanes : BitVec 8) : Hw :=
  let p := h.port i
  setPortState (h.setPort i { p with
    replayFrom := p.replay.head?.map (·.seq), winStart := h.now, winFails := 0, winSyms := [], lockLost := 0,
    chipTrain := false, replays := 0 }) i 2 lanes

/-- A port enters TRAINING: from the saved equalisation where ERR_EQ_CFG.use_saved asks for it and one is saved, else
from one that the manual leaves open (R311, Table 10-8). -/
def beginTraining (h : Hw) (i : PortId) : Hw :=
  let p := h.port i
  let saved := if bit (h.reg (errOff i 0x20)) 2 then p.eqSaved else none
  let h1 := if saved.isSome then h else h.useFree
  setPortState (h1.setPort i { p with eqNow := saved.getD h.freeWord, decided := false }) i 1 0

/-- Lanes that training may use, ERR_LANE_CFG. -/
def laneMask (h : Hw) (i : PortId) : BitVec 8 := BitVec.ofNat 8 (wfld (h.reg (errOff i 0x18)) 0 8)

/-- The widest set of lanes, 8, 4 or 2, that lies within `l`. -/
def widest (l : BitVec 8) : Option (BitVec 8) :=
  [0xFF#8, 0x0F#8, 0xF0#8, 0x03#8, 0x0C#8, 0x30#8, 0xC0#8].find? (fun c => c &&& l == c)

/-- The module and port that must stand behind a hop port (R331). -/
def partnerOk (h : Hw) (i : PortId) (fa : BitVec 10) (port : BitVec 4) : Bool :=
  isSide i || (fa.toNat == h.fa ^^^ 2 ^ i.val && port.toNat == i.val)

/-- PORT_TRAINING_COMPLETE (R310, R311, R331): a successful full training saves its equalisation; a port with the
wrong partner is MISWIRED, and leaves it at once where accept_miswire is set. -/
def execPortTrainingComplete (port : PortId) (result : TrainResult) (s : State) :
    Host.Outcome State Fault Refusal :=
  run s (fun h =>
    if (h.port port).state ≠ 1 then h
    else match result with
      | .failed => goDown h port
      | .up lanes fa pt eq =>
        match widest (lanes &&& laneMask h port) with
        | none => goDown h port
        | some l =>
          let h1 := h.setPort port { h.port port with
            partnerFa := fa, partnerPort := pt, partnerValid := true, eqNow := eq, eqSaved := some eq }
          if partnerOk h port fa pt then goUp h1 port l
          else
            let h2 := setPortState h1 port 5 l
            if bit (h.reg (errOff port 0x38)) 3 then goUp h2 port l else h2)

/-- PORT_TRAINING_TIMEOUT: no partner has answered within 2 s (R310). -/
def execPortTrainingTimeout (port : PortId) (s : State) : Host.Outcome State Fault Refusal :=
  run s (fun h =>
    let p := h.port port
    if p.state = 1 ∧ p.since + 2000000000 ≤ h.now then goDown h port else h)

/-- PORT_AUTO_UP_RETRY: a DOWN port with auto_up set tries again every 100 ms (R310). -/
def execPortAutoUpRetry (port : PortId) (s : State) : Host.Outcome State Fault Refusal :=
  run s (fun h =>
    let p := h.port port
    if p.state = 4 ∧ bit (h.reg (errOff port 0x38)) 2 ∧ p.since + 100000000 ≤ h.now then
      beginTraining h port
    else h)

/-! ### Degrade -/

/-- DEGRADE_WINDOW_END: a window of 1 ms ends; reaching the threshold takes the decision (R312). -/
def execDegradeWindowEnd (port : PortId) (s : State) : Host.Outcome State Fault Refusal :=
  run s (fun h =>
    let p := h.port port
    if p.state ≠ 2 ∨ h.now < p.winStart + 1000000 then h
    else
      let hit := decide (wfld (h.reg (errOff port 0x30)) 0 16 ≤ p.winFails)
      h.setPort port { p with
        winStart := h.now, winFails := 0, decided := p.decided || hit,
        winSyms := if p.decided || hit then p.winSyms else [] })

/-- The lane that a narrower width avoids: one out of lock, else the one with the most corrected symbols. -/
def worstLane (p : Port) : Nat :=
  match (List.range 8).find? (fun i => p.lockLost.getLsbD i) with
  | some i => i
  | none => (List.range 8).foldl (fun b i =>
      if SMap.get 0 p.winSyms b < SMap.get 0 p.winSyms i then i else b) 0

/-- The half of the lanes in use that does not hold a lane: of 8 lanes a half, of fewer a pair (R312). -/
def avoid (lanes : BitVec 8) (bad : Nat) : BitVec 8 :=
  let parts := if lanes = 0xFF then [0x0F#8, 0xF0#8] else [0x03#8, 0x0C#8, 0x30#8, 0xC0#8]
  (parts.find? (fun l => l &&& lanes == l && !l.getLsbD bad)).getD 0

/-- LANE_DEGRADE: the decision has been taken; at 2 lanes the port goes DOWN, else it retrains narrower and
tells its partner (R312). -/
def execLaneDegrade (port : PortId) (s : State) : Host.Outcome State Fault Refusal :=
  run s (fun h =>
    let p := h.port port
    if p.state ≠ 2 ∨ p.decided = false then h
    else if popc 8 p.lanes.toNat ≤ 2 then goDown h port
    else
      let h1 := sendFlit (h.setPort port { p with decided := false }) port p.txNext 3 8 []
      setPortState (h1.count (errOff port 0x60) 1) port 3 (avoid p.lanes (worstLane p)))

/-- LANE_LOSS_OF_LOCK takes the decision (R312). -/
def execLaneLossOfLock (port : PortId) (lane : Fin 8) (s : State) : Host.Outcome State Fault Refusal :=
  run s (fun h =>
    let p := h.port port
    if p.state = 2 ∧ p.lanes.getLsbD lane.val then
      h.setPort port { p with lockLost := p.lockLost ||| (1#8 <<< lane.val), decided := true }
    else h)

/-- The lanes that a retrain ends with, from those that both ends judge good: the widest width of the lanes tried,
or after a failed training of 4 a pair of them (R312, R313). -/
def retrainLanes (p : Port) (good : BitVec 8) : Option (BitVec 8) :=
  let l := p.lanes &&& good
  if l = p.lanes then widest l
  else if popc 8 p.lanes.toNat = 4 then
    let a := avoid p.lanes (worstLane p)
    if a &&& good = a then some a else widest l
  else widest l

/-- A retrain fails: chip-level recovery falls back to full training, else the port goes DOWN (R310, R311). -/
def retrainFails (h : Hw) (i : PortId) : Hw :=
  if (h.port i).chipTrain then
    beginTraining (h.setPort i { h.port i with chipTrain := false }) i
  else goDown h i

/-- RETRAIN_COMPLETE (R312, R313). -/
def execRetrainComplete (port : PortId) (good : BitVec 8) (s : State) : Host.Outcome State Fault Refusal :=
  run s (fun h =>
    if (h.port port).state ≠ 3 then h
    else match retrainLanes (h.port port) good with
      | some l => goUp h port l
      | none => retrainFails h port)

/-- RETRAIN_TIMEOUT: 50 µs from the decision, 10 ms in chip-level recovery (R310, R311). -/
def execRetrainTimeout (port : PortId) (s : State) : Host.Outcome State Fault Refusal :=
  run s (fun h =>
    let p := h.port port
    if p.state = 3 ∧ p.since + (if p.chipTrain then 10000000 else 50000) ≤ h.now then retrainFails h port else h)

/-- LINK_DOWN: no signal on any active lane, or no good flit for 10 µs (R314). -/
def execLinkDown (port : PortId) (s : State) : Host.Outcome State Fault Refusal :=
  run s (fun h => if (h.port port).state = 2 ∨ (h.port port).state = 3 then goDown h port else h)

/-! ### ERR_CTL -/

/-- retrain_full: a retrain on every lane of lane_mask (R313). -/
def retrainFull (h : Hw) (i : PortId) : Hw :=
  if (h.port i).state = 2 then setPortState h i 3 (laneMask h i) else h

/-- save_eq (R311). -/
def saveEq (h : Hw) (i : PortId) : Hw := h.setPort i { h.port i with eqSaved := some (h.port i).eqNow }

/-- accept_miswire moves a MISWIRED port to UP (R310). -/
def acceptMiswire (h : Hw) (i : PortId) : Hw :=
  if (h.port i).state = 5 then goUp h i (h.port i).lanes else h

end Sys2Proof.Machine
end

