-- ==== Sys2Proof/Machine/FabricTime.lean ====
section
/-! DEFINITION. The fabric time counter (R321–R326): timing exchanges, slewing, holdover, the master's setting,
snapshots. -/

namespace Sys2Proof.Machine

def ftcOff (off : Nat) : Nat := blkBase .ftc + off

/-- This module is the master, FTC_CFG.role. -/
def ftcMaster (h : Hw) : Bool := bit (h.reg (ftcOff 0x18)) 0

/-- Sets synced, and that it has been set since chip-level reset. -/
def Ftc.sync (f : Ftc) (b : Bool) : Ftc := { f with synced := b, everSynced := f.everSynced || b }

/-- Corrects an offset θ of 0.25 ns units (R324): a forward offset of more than 100 µs is stepped and raises
event 0x0C2, any other is slewed. -/
def slewCorrect (h : Hw) (q : Int) : Hw :=
  if 400000 < q then
    raiseEv { h with ftc := { h.ftc with count := h.ftc.count + (q / 4).toNat, owed := 0 } } 0x0C2
      (Nat.min ((q / 4000).toNat) 0xFFFFFFFF) []
  else { h with ftc := { h.ftc with owed := q * 250000 } }

/-- TIMING_FLIT_RECEIVE: an exchange on the port that a follower follows ends (R323, R324).  The error bound
takes at least the offset; what it takes beside is a free value. -/
def execTimingFlitReceive (port : PortId) (stamp : TimingStamp) (s : State) : Host.Outcome State Fault Refusal :=
  run s (fun h =>
    if ftcPort h ≠ some port ∨ (h.port port).state ≠ 2 then h
    else
      let q : Int := (((stamp.t2 : Int) - stamp.t1) + ((stamp.t3 : Int) - stamp.t4)) / 2
      let d : Int := (((stamp.t4 : Int) - stamp.t1) - ((stamp.t3 : Int) - stamp.t2)) / 2
      let e := Nat.min (q.natAbs + h.freeWord.toNat % 65536) 262140
      let h1 := slewCorrect h.useFree q
      { h1 with ftc := ({ h1.ftc with offsetQ := q, delayQ := d, errQ := e }).sync (decide (e ≤ 50)) })

/-- FTC_EXCHANGE_PERIOD: every period_us a follower sends a timing flit with t1 to its parent (R323). -/
def execFtcExchangePeriod (s : State) : Host.Outcome State Fault Refusal :=
  run s (fun h =>
    match ftcPort h with
    | none => h
    | some i =>
      if (h.port i).state ≠ 2 ∨ h.now < h.ftc.exchAt + wfld (h.reg (ftcOff 0x18)) 16 10 * 1000 then h
      else sendFlit { h with ftc := { h.ftc with exchAt := h.now } } i (h.port i).txNext 2 8
        (timingRecord h.ftc.stamp 0 0))

/-- FTC_HOLDOVER_SWITCH: the parent has been out of UP for 100 µs; the follower moves to alt_port, where that is
set and UP (R325). -/
def execFtcHoldoverSwitch (s : State) : Host.Outcome State Fault Refusal :=
  run s (fun h =>
    let w := h.reg (ftcOff 0x18)
    let alt : PortId := Fin.ofNat 12 (wfld w 6 4)
    if h.ftc.holdover && !h.ftc.onAlt && decide (h.ftc.lostAt + 100000 ≤ h.now) && bit w 10 &&
        (h.port alt).state == 2 && !ftcMaster h then
      raiseEv { h with ftc := { h.ftc with
        onAlt := true, holdover := false, errQ := Nat.min (h.ftc.errQ + h.ftc.drift h.now) 262140 } } 0x0C3 alt.val []
    else h)

/-- The error bound in 0.25 ns with the drift of at most 2 ppm since it was taken, in holdover (R325). -/
def errBoundQ (h : Hw) : Nat :=
  if h.ftc.holdover then Nat.min (h.ftc.errQ + h.ftc.drift h.now) 262140 else h.ftc.errQ

/-- HOLDOVER_SYNCED_CLEAR: the bound has passed 12.5 ns in holdover (R325). -/
def execHoldoverSyncedClear (s : State) : Host.Outcome State Fault Refusal :=
  run s (fun h =>
    if h.ftc.holdover && decide (50 < errBoundQ h) then { h with ftc := { h.ftc with synced := false } } else h)

/-- FTC_MASTER_SYNC_TIMEOUT: 1 s after role = 1 was applied the master is synchronised (R322). -/
def execFtcMasterSyncTimeout (s : State) : Host.Outcome State Fault Refusal :=
  run s (fun h =>
    match h.ftc.roleAt with
    | some t =>
      if ftcMaster h && !h.ftc.synced && decide (t + 1000000000 ≤ h.now) then
        { h with ftc := { h.ftc.sync true with errQ := 0 } }
      else h
    | none => h)

/-- A write of FTC_SET: the master's value, before synced first sets; ignored otherwise (R322). -/
def ftcSetValue (h : Hw) (v : Word) : Hw :=
  if ftcMaster h && !h.ftc.everSynced then
    { h with ftc := { h.ftc.sync true with count := v.toNat, frac := 0, errQ := 0 } }
  else h

/-! ### Snapshots -/

/-- BAR0 offsets of the counter registers of the PWR_, COL_, ERR_ and RTE_ blocks but PWR_ENERGY, rising
(R326). -/
def snapRegs : List Nat :=
  [0x70078, 0x70080, 0x70088] ++ (List.range 5).map (fun k => 0x160018 + 8 * k) ++
    (List.range 12).flatMap (fun p =>
      (List.range 9).map (fun k => 0x180040 + 0x1000 * p + 8 * k) ++
        (List.range 8).map (fun k => 0x180100 + 0x1000 * p + 8 * k)) ++
    (List.range 6).map (fun k => 0x400028 + 8 * k)

/-- The record of a snapshot: the FTC value, then the counters in BAR0 order: the contexts' (CTX_PERF),
PWR_ENERGY, the others (R326, assumption 45). -/
def snapWords (h : Hw) : List Word :=
  let perf := (List.range 1024).map (fun k => BitVec.ofNat 64 (SMap.get 0 h.ctxs.perf k))
  BitVec.ofNat 64 h.ftcNow :: perf ++ BitVec.ofNat 64 (h.pwr.energy / 1000000) :: snapRegs.map h.reg

/-- Takes the armed snapshot: the record, done, and the signal that FTC_SNAP_CTL asks for. -/
def takeSnapshot (h : Hw) : Hw :=
  let off := wfld (h.reg (ftcOff 0x38)) 0 48
  let c := h.reg (ftcOff 0x40)
  let b := wordsBytes (snapWords h)
  let h1 := if isLp off && isLp (off + b.length - 1) then { h with mem := h.mem.write off b } else h
  let h2 := { h1 with ftc := { h1.ftc with snapArmed := false } }
  let h3 := h2.setReg (ftcOff 0x48) (h2.reg (ftcOff 0x48) ||| bitw true 1)
  if bit c 15 then signalObj h3 (.mod (Fin.ofNat 32768 (wfld c 0 15))) 1 (FaultRec.blank h3.ftcNow 0 7) else h3

/-- A write of FTC_SNAP_TIME arms or replaces a snapshot; a time already past takes it at once and sets late
(R326). -/
def snapArm (h : Hw) (v : Word) : Hw :=
  let h1 := (h.setReg (ftcOff 0x30) v)
  if v.toNat < h.ftcNow then
    takeSnapshot (h1.setReg (ftcOff 0x48) (h1.reg (ftcOff 0x48) ||| bitw true 2))
  else { h1 with ftc := { h1.ftc with snapArmed := true } }

/-- FTC_SNAPSHOT: the FTC has reached the armed time (R326). -/
def execFtcSnapshot (s : State) : Host.Outcome State Fault Refusal :=
  run s (fun h =>
    if h.ftc.snapArmed && decide ((h.reg (ftcOff 0x30)).toNat ≤ h.ftcNow) then takeSnapshot h else h)

end Sys2Proof.Machine
end

