-- ==== Sys2Proof/Machine/Collect.lean ====
section
/-! DEFINITION. Collectives at work (R362–R383): COLL, acceptance and its checks, the handshake, data packets,
completion and timeout.  Control packets carry their kind in txn_tag: 1 ready, 2 grant, 3 counts; data packets
carry step × 2^38 + offset in the offset field and the overflow indication in txn_tag (assumption 17). -/

namespace Sys2Proof.Machine

def Hw.cslot (h : Hw) (n : SlotId) : Option ColSlot := SMap.find h.col.slots n.val

def Hw.setCslot (h : Hw) (n : SlotId) (s : ColSlot) : Hw :=
  { h with col := { h.col with slots := SMap.put h.col.slots n.val s } }

def Hw.modCslot (h : Hw) (n : SlotId) (f : ColSlot → ColSlot) : Hw :=
  match h.cslot n with
  | some s => h.setCslot n (f s)
  | none => h

/-! ### Checks at acceptance (Table 12-3) -/

/-- A buffer: address and length. -/
abbrev Buf := Nat × Nat

/-- The buffers that a collective uses. -/
def Coll.bufs (c : Coll) : List Buf :=
  [(c.src, c.srcLen), (c.dst, c.dstLen), (c.hdr, c.hdrLen), (c.counts, c.cntLen)].filter (fun b => b.2 != 0)

/-- An address that a descriptor may hold: a multiple of 64 in LPDDR6 or Canvas, or 0 where it is not needed. -/
def umaOk (needed : Bool) (a : Nat) : Bool := (a == 0 && !needed) || (a % 64 == 0 && (isLp a || isCv a))

def overlap (a b : Buf) : Bool := decide (a.1 < b.1 + b.2 ∧ b.1 < a.1 + a.2)

/-- Two buffers of a list overlap. -/
def anyOverlap : List Buf → Bool
  | [] => false
  | a :: l => l.any (overlap a) || anyOverlap l

/-- The buffer lies in pages of the context. -/
def bufHeld (h : Hw) (c : CtxId) (b : Buf) : Bool :=
  (List.range (b.2 / 0x200000 + 2)).all (fun k =>
    let a := Nat.min (b.1 + k * 0x200000) (b.1 + b.2 - 1)
    (isLp a || isCv a) && h.holder a == some c)

/-- Reserved fields, and fields that must be zero for the operation. -/
def collReserved (c : Coll) (d : List Word) : Bool :=
  wfld (nthW d 2) 40 24 != 0 || wfld (nthW d 3) 42 22 != 0 || wfld (nthW d 4) 17 47 != 0 || decide (6 < c.op) ||
    c.red == 3 || (!c.reduces && c.red != 0) || (c.op != 3 && c.op != 4 && c.root != 0) ||
    (!c.anchored && (c.lsb != 0 || c.span != 0)) || (c.op != 6 && (c.counts != 0 || nthW d 7 != 0)) ||
    (c.op == 5 && c.dst != 0) || (c.op == 4 && c.rank != c.root && c.dst != 0)

def collTypeBad (c : Coll) : Bool :=
  if c.reduces then !(c.anchored || c.typ == 0x0D || c.typ == 0x0B || c.typ == 0x0E)
  else c.typ == 0 || decide (0x11 < c.typ) || (c.op == 6 && c.typ != 0x11)

def collSpanBad (c : Coll) : Bool :=
  c.anchored && (decide (c.span < 8) || decide (126 < c.span) || decide (c.span < c.n + 8) ||
    (c.typ == 0x0F && decide (62 < c.span)))

def collSizeBad (c : Coll) : Bool :=
  (c.bits == 4 && c.count % 2 == 1) || (c.bits == 6 && c.count % 4 != 0) ||
    decide (2 ^ 36 < (if c.op = 6 then c.count * c.entry else c.bytes c.count)) ||
    (c.op == 6 && (c.entry % 16 != 0 || decide (c.entry < 16) || decide (1048560 < c.entry) ||
      decide (c.size * c.count < c.cap)))

def collUmaBad (c : Coll) : Bool :=
  !(umaOk (c.srcLen != 0) c.src && umaOk (c.dstLen != 0) c.dst && umaOk (c.op == 6) c.hdr &&
    umaOk (c.op == 6) c.counts)

/-- The buffers whose overlap counts: the source may be the destination where Table 12-3 says so. -/
def Coll.apart (c : Coll) : List Buf :=
  if c.src = c.dst ∧ (c.op = 0 ∨ (c.op = 3 ∧ c.rank = c.root)) then c.bufs.drop 1 else c.bufs

/-- The class of the first check that fails. -/
def acceptFault (h : Hw) (x : CtxId) (d : List Word) : Option (BitVec 8) :=
  let c := collOf h d
  let g := groupReg h c.group
  if collReserved c d || collTypeBad c || collSpanBad c ||
      ((c.op == 3 || c.op == 4) && decide (c.size ≤ c.root)) || (c.op == 5 && c.count != 0) || collSizeBad c ||
      collUmaBad c then some 0x28
  else if !bit g 32 || wfld g 20 6 != x.val then some 0x29
  else if anyOverlap c.apart then some 0x2A
  else if c.bufs.all (bufHeld h x) then none else some 0x13

/-! ### Sending -/

/-- FA of a rank of the slot's group. -/
def rankFa (h : Hw) (s : ColSlot) (r : Nat) : Nat :=
  ((groupMembers h (collOf h s.desc).group)[r]?).getD 0

/-- Why a slot cannot send to a module (R317, R318, R314). -/
def collSendFault (h : Hw) (s : ColSlot) (fa : Nat) : Option (BitVec 8) := sendFault h (h.ctx s.ctx).job fa

/-- Sends one packet of a collective. -/
def sendColl (h : Hw) (n : SlotId) (s : ColSlot) (fa vc typ off : Nat) (tag : BitVec 16) (body : Bytes) : Hw :=
  match sendEntry h (h.ctx s.ctx).job with
  | none => h
  | some (i, k) =>
    let r := sealPkt h i k { h.hdrTo fa vc typ body.length off with sig := s.sig, tag := tag } body
    { r.2 with rte := { r.2.rte with
      inq := r.2.rte.inq ++ [{ pkt := r.1, inPort := none, req := none, flits := 0, col := some n }] } }

/-- Payload of a control packet: digest, sequence number, signature, and a count. -/
def ctlBody (h : Hw) (s : ColSlot) (v : Nat) : Bytes :=
  let g := (collOf h s.desc).group
  wordsBytes [put (groupDigest h g).toNat 0 32 ||| put s.seq 32 32, put s.sig.toNat 0 32 ||| put v 32 32]

def sendCtl (h : Hw) (n : SlotId) (s : ColSlot) (r : Nat) (kind : BitVec 16) (v : Nat) : Hw :=
  sendColl h n s (rankFa h s r) 0 9 0 kind (ctlBody h s v)

/-- Entry counts of an all-to-all by destination rank, as memory holds them. -/
def readCounts (h : Hw) (c : Coll) : List Nat :=
  if c.acts.op = 6 then (List.range c.size).map (fun j => leNat (h.mem.read (c.counts + 4 * j) 4)) else []

/-- Ranks to which this member sends data. -/
def collTargets (c : Coll) (own : Vec) : List Nat :=
  if c.acts.op = 6 then (List.range c.size).filter (fun r => r != c.rank)
  else ((collSends c own []).map (fun p => p.1.rank)).eraseDups

/-- A packet that a slot may send: its key in `sent`, step, rank, virtual channel, offset in its message, bytes. -/
structure Ready where
  key : Nat
  step : Nat
  rank : Nat
  vc : Nat
  off : Nat
  body : Bytes
  deriving DecidableEq, Repr

/-- The block that an all-to-all sends to a rank (R379). -/
def a2aBlock (c : Coll) (s : ColSlot) (j : Nat) : Bytes :=
  sub s.src (j * c.count * c.entry) (Nat.min ((s.want[j]?).getD 0) c.count * c.entry)

/-- The packets of a message of elements of which everything is known (R374). -/
def msgReady (c : Coll) (m : Msg) (v : Vec) : List Ready :=
  (List.range (c.msgPkts m)).filterMap (fun i => (c.packet m v i).map (fun b =>
    { key := m.pktKey i, step := m.step, rank := m.rank, vc := m.vc, off := 3584 * i, body := b }))

/-- The two rounds of an all-to-all (R376): a count for every other member, then, once all have been sent, the blocks
to ranks own + 1, own + 2 and so on. -/
def a2aOrder (c : Coll) : List Nat := (List.range (c.size - 1)).map (fun t => (c.rank + 1 + t) % c.size)

def countKey (r : Nat) : Nat := (9 * 1024 + r) * 2 ^ 32

def a2aReady (c : Coll) (s : ColSlot) : List Ready :=
  let counts : List Ready := (a2aOrder c).map (fun r =>
    { key := countKey r, step := 9, rank := r, vc := 0, off := 0, body := [] })
  if (a2aOrder c).all (fun r => s.sent.contains (countKey r)) then
    (a2aOrder c).flatMap (fun r =>
      let b := a2aBlock c s r
      (List.range (cdiv b.length 3584)).map (fun i =>
        { key := (a2aMsg r).pktKey i, step := 8, rank := r, vc := 3, off := 3584 * i,
          body := (b.drop (3584 * i)).take 3584 }))
  else counts

/-- What a slot may send now: the packets with all inputs here, to ranks that granted, not yet sent. -/
def readyMsgs (h : Hw) (s : ColSlot) : List Ready :=
  let c := collOf h s.desc
  let l : List Ready :=
    if c.acts.op = 6 then a2aReady c s
    else (collSends c (ownVec c s.src) s.parts).flatMap (fun p =>
      match p.2 with
      | some v => msgReady c.acts p.1 v
      | none => [])
  l.filter (fun m => s.grants.contains m.rank && !s.sent.contains m.key)

/-- Sends one packet with the overflow indication so far (R378), or a count; a member that cannot send faults. -/
def sendOne (h : Hw) (n : SlotId) (m : Ready) : Hw :=
  match h.cslot n with
  | none => h
  | some s =>
    match collSendFault h s (rankFa h s m.rank) with
    | some cls => colFault h n cls 0 m.rank
    | none =>
      let h1 := if m.step = 9 then sendCtl h n s m.rank 3 ((s.want[m.rank]?).getD 0)
        else perfAdd (sendColl h n s (rankFa h s m.rank) m.vc 8 (m.step * 2 ^ 38 + m.off)
          (if s.ovfLocal || s.ovfAny then 1 else 0) m.body) s.ctx 12 m.body.length
      h1.modCslot n (fun t => { t with sent := t.sent ++ [m.key] })

/-- Sends whatever a slot may send now. -/
def sendAll (h : Hw) (n : SlotId) : Hw :=
  match h.cslot n with
  | some s => if s.running then (readyMsgs h s).foldl (fun g m => sendOne g n m) h else h
  | none => h

/-- Sends whatever a slot may send now; the counts of an all-to-all, and then the blocks that they let go. -/
def collStep (h : Hw) (n : SlotId) : Hw := sendAll (sendAll h n) n

/-- Sends the ready packets that a slot owes, or faults where it cannot. -/
def sendReadies (h : Hw) (n : SlotId) (rs : List Nat) : Hw :=
  rs.foldl (fun g r =>
    match g.cslot n with
    | none => g
    | some s =>
      match collSendFault g s (rankFa g s r) with
      | some cls => colFault g n cls 0 r
      | none => (sendCtl g n s r 1 0).modCslot n (fun t => { t with
          readies := t.readies.filter (fun p => p.1 != r) ++ [(r, g.now)] })) h

/-! ### The handshake -/

/-- The slots by number. -/
def slotList (h : Hw) : List (SlotId × ColSlot) := h.col.slots.map (fun p => (Fin.ofNat 64 p.1, p.2))

/-- The collective of a digest and sequence number for a job. -/
def findColl (h : Hw) (digest : BitVec 32) (seq : Nat) (job : BitVec 16) : Option (SlotId × ColSlot) :=
  (slotList h).find? (fun p => p.2.seq == seq && (h.ctx p.2.ctx).job == job &&
    groupDigest h (collOf h p.2.desc).group == digest)

/-- The sequence number has been passed: the groups of the digest that the job has are beyond it. -/
def seqPassed (h : Hw) (digest : BitVec 32) (seq : Nat) (job : BitVec 16) : Bool :=
  let l := (List.range 64).filter (fun g => bit (groupReg h g) 32 &&
    (h.ctx (Fin.ofNat 64 (wfld (groupReg h g) 20 6))).job == job && groupDigest h g == digest)
  !l.isEmpty && l.all (fun g => decide (seq < SMap.get 0 h.col.seqs g))

/-- Compares a ready with the slot's own signature: a grant, or fault 0x22 (R371). -/
def compareReady (h : Hw) (n : SlotId) (s : ColSlot) (r : HeldReady) : Hw :=
  let rank := position (groupMembers h (collOf h s.desc).group) r.src.toNat
  if r.sig = s.sig then sendCtl h n s rank 2 0 else colFault (h.count (colOff 0x18) 1) n 0x22 0 rank

/-- Holds a ready in the control table of 2,048 entries; one that finds it full is discarded and counted (R371). -/
def holdReady (h : Hw) (r : HeldReady) : Hw :=
  if decide (2048 ≤ h.col.held.length) && !h.col.held.contains r then h.count (colOff 0x30) 1
  else { h with col := { h.col with held := h.col.held.filter (fun x => x != r) ++ [r] } }

/-- A ready packet (R371): compared, held, or discarded and counted. -/
def takeReady (h : Hw) (r : HeldReady) : Hw :=
  match findColl h r.digest r.seq.toNat r.job with
  | some (n, s) =>
    if s.running then compareReady h n s r else holdReady h r
  | none => if seqPassed h r.digest r.seq.toNat r.job then h.count (colOff 0x30) 1 else holdReady h r

/-- The held readies of a collective that starts. -/
def takeHeld (h : Hw) (n : SlotId) (s : ColSlot) : Hw :=
  let g := (collOf h s.desc).group
  let mine (r : HeldReady) : Bool :=
    r.digest == groupDigest h g && r.seq.toNat == s.seq && r.job == (h.ctx s.ctx).job
  let h1 := { h with col := { h.col with held := h.col.held.filter (fun r => !mine r) } }
  (h.col.held.filter mine).foldl (fun a r =>
    match a.cslot n with
    | some t => compareReady a n t r
    | none => a) h1

/-- The reads of a collective's start: its source and the counts of an all-to-all. -/
def collReads (c : Coll) : List Buf := [(c.src, c.srcLen), (c.counts, c.cntLen)].filter (fun b => b.2 != 0)

/-- The first fault that accesses of some buffers meet: a channel that is down (R180), an uncorrectable word, an
on-die path (R164); with the hardware that has reported it. -/
def bufFault (h : Hw) (c : CtxId) (write : Bool) (l : List Buf) : Option (BitVec 8 × Nat × Hw) :=
  (l.filter (fun b => b.2 != 0)).findSome? (fun b =>
    if chanDown h b.1 b.2 then some (0x06, b.1, h)
    else match (if write then h.mem.badWrite b.1 b.2 else h.mem.badRead b.1 b.2) with
      | some o => some (memClass o, o, reportUe h o (some c))
      | none => (h.mem.pathBad b.1 b.2).map (fun o => (0x05, o, { h with mem := h.mem.pathMet b.1 b.2 })))

/-- A collective starts its handshake (R369, R371): the source is read, readies leave, held ones are answered.  It
waits while a channel of its source is in retraining (R180). -/
def startColl (h : Hw) (n : SlotId) : Hw :=
  match h.cslot n with
  | none => h
  | some s =>
    let c := collOf h s.desc
    if (collReads c).any (fun b => chanWaits h b.1 b.2) then h
    else match bufFault h s.ctx false (collReads c) with
    | some f => colFault f.2.2 n f.1 (BitVec.ofNat 64 f.2.1) 0
    | none =>
      let b := h.mem.read c.src c.srcLen
      let k := readCounts h c
      let s0 := { s with running := true, src := b, want := k, ovfLocal := ownOvf c b }
      let s1 := if c.acts.op = 6 then
          { s0 with parts := [((a2aMsg c.rank).key, 0, a2aBlock c s0 c.rank)], counts := [(c.rank, (k[c.rank]?).getD 0)] }
        else s0
      let h1 := ((collReads c).foldl (fun g r => touchRead g r.1 r.2) h).setCslot n s1
      takeHeld (sendReadies h1 n (collTargets c (ownVec c b))) n s1

/-- The next collective of a group that waits for its turn: none of the group is running (R369). -/
def nextOfGroup (h : Hw) (g : Nat) : Option SlotId :=
  let l := (slotList h).filter (fun p => (collOf h p.2.desc).group == g)
  if l.any (fun p => p.2.running) then none
  else (sortBy (fun a b => decide (a.2.seq ≤ b.2.seq)) l).head?.map (·.1)

/-- Collectives whose turn has come start. -/
def startColls (h : Hw) : Hw :=
  ((slotList h).map (fun p => (collOf h p.2.desc).group)).eraseDups.foldl (fun a g =>
    match nextOfGroup a g with
    | some m => startColl a m
    | none => a) h

/-! ### COLL and its acceptance -/

/-- COLL: s[rs1] is the descriptor; it waits to hand it over (R362, R363).  In service mode it does nothing
(assumption 22). -/
def execColl (e : EaselId) (f : FmtI) (s : State) : Host.Outcome State Fault Refusal :=
  run s (fun h => issue h e (wordI 0x24 0x00 f) f.pneg f.pred (resv (f.rd == 0 && f.imm == 0)) (fun h =>
    let x := h.easel e
    let a := x.cur.get f.rs1
    if a.toNat % 64 ≠ 0 then .fault 0x14 a
    else if x.service then .done h
    else .block h (.coll a)))

/-- A refused collective: its record and the error log; it sends nothing (R367). -/
def refuseColl (h : Hw) (n : SlotId) (s : ColSlot) (cls : BitVec 8) (addr : Word) : Hw :=
  let h1 := h.setReg (colOff 0x40) (put (collOf h s.desc).group 0 6 ||| put s.ctx.val 6 6 |||
    put cls.toNat 12 8 ||| bitw true 63)
  recordFault h1 { colAgent h n s with cls := cls, addr := addr }

/-- A slot takes a descriptor that was read: its checks, its sequence number and signature (R367–R370). -/
def acceptColl (h : Hw) (n : SlotId) (s : ColSlot) (uma : Word) : Hw :=
  match acceptFault h s.ctx s.desc with
  | some cls => refuseColl h n s cls uma
  | none =>
    let c := collOf h s.desc
    let q := SMap.get 0 h.col.seqs c.group
    let first := (slotList h).all (fun p => (collOf h p.2.desc).group != c.group)
    let h1 := { h with col := { h.col with seqs := SMap.put h.col.seqs c.group ((q + 1) % 2 ^ 32) } }
    let h2 := h1.setCslot n { s with seq := q, sig := c.signature (groupDigest h c.group) q, acceptAt := h.now }
    if first then startColl h2 n else h2

/-- The descriptor of a collective lies on a channel in retraining (R180). -/
def descWaits (h : Hw) (c : CtxId) (uma : Word) : Bool :=
  match decodeUma h c uma with
  | .local off => chanWaits h off 64
  | _ => false

/-- COLL_ACCEPT: the stores and queues of the context on the easel are empty and slot `slot` is free: the slot
takes the descriptor and the core goes on (R363). -/
def execCollAccept (e : EaselId) (slot : SlotId) (s : State) : Host.Outcome State Fault Refusal :=
  run s (fun h =>
    let x := h.easel e
    match x.blocked with
    | some b =>
      (match b.what with
        | .coll uma =>
          if x.stopped || x.loaded.isNone || (h.cslot slot).isSome || !fenceHolds h e 0xF || descWaits h x.actx uma then h
          else
            let h1 := finishWait h e false id
            let mk (d : List Word) : ColSlot :=
              { easel := e, ctx := x.actx, serial := b.serial, pc := b.pc, inst := b.inst, desc := d,
                running := false, seq := 0, sig := 0, acceptAt := 0, src := [], want := [], readies := [], grants := [],
                sent := [], parts := [], counts := [], ovfLocal := false, ovfAny := false }
            match decodeUma h1 x.actx uma with
            | .local off =>
              (match bufFault h1 x.actx false [(off, 64)] with
                | some f => refuseColl f.2.2 slot (mk []) f.1 uma
                | none => acceptColl (touchRead h1 off 64) slot (mk (bytesWords 8 (h1.mem.read off 64))) uma)
            | .fault c => refuseColl h1 slot (mk []) c uma
            | _ => refuseColl h1 slot (mk []) 0x28 uma
        | _ => h)
    | none => h)

/-! ### Packets received -/

/-- Fields of a control packet. -/
def ctlReady (x : Hdr) (k : Plain) : HeldReady :=
  let w := bWord k.body
  { src := BitVec.ofNat 10 x.src, digest := BitVec.ofNat 32 (wfld w 0 32), seq := BitVec.ofNat 32 (wfld w 32 32),
    sig := BitVec.ofNat 32 (wfld (bWord (k.body.drop 8)) 0 32), job := k.key.job }

/-- COLL_READY_RECEIVE (R371). -/
def execCollReadyReceive (i : Nat) (s : State) : Host.Outcome State Fault Refusal :=
  run s (fun h => takeLocal h i (fun x => x.typ == 9 && x.tag == 1) (fun h _ x k => takeReady h (ctlReady x k)))

/-- Discards a packet of no collective in progress here (R371); one of a collective of another job, `other`, is under
a key that is not its own (R319). -/
def strayColl (h : Hw) (q : QPkt) (other : Bool) : Hw := if other then keyUnknown h q else h.count (colOff 0x28) 1

/-- The collective of a digest and sequence number belongs to another job. -/
def otherJob (h : Hw) (digest : BitVec 32) (seq : Nat) : Bool :=
  (slotList h).any (fun p => p.2.seq == seq && groupDigest h (collOf h p.2.desc).group == digest)

/-- The rank of the sender in a slot's group. -/
def senderRank (h : Hw) (s : ColSlot) (fa : Nat) : Nat := position (groupMembers h (collOf h s.desc).group) fa

/-- COLL_GRANT_RECEIVE: the sender's data may leave (R371). -/
def execCollGrantReceive (i : Nat) (s : State) : Host.Outcome State Fault Refusal :=
  run s (fun h => takeLocal h i (fun x => x.typ == 9 && x.tag == 2) (fun h q x k =>
    let r := ctlReady x k
    match findColl h r.digest r.seq.toNat r.job with
    | some (n, t) =>
      let m := senderRank h t x.src
      collStep (h.setCslot n { t with
        grants := t.grants ++ [m], readies := t.readies.filter (fun p => p.1 != m) }) n
    | none => strayColl h q (otherJob h r.digest r.seq.toNat)))

/-- COLL_READY_RESEND: every unanswered ready each 100 µs (R371). -/
def execCollReadyResend (slot : SlotId) (s : State) : Host.Outcome State Fault Refusal :=
  run s (fun h =>
    match h.cslot slot with
    | some t => sendReadies h slot ((t.readies.filter (fun p => decide (p.2 + 100000 ≤ h.now))).map (·.1))
    | none => h)

/-- COLL_COUNTS_RECEIVE: a member's count for this destination (R376). -/
def execCollCountsReceive (i : Nat) (s : State) : Host.Outcome State Fault Refusal :=
  run s (fun h => takeLocal h i (fun x => x.typ == 9 && x.tag == 3) (fun h q x k =>
    let r := ctlReady x k
    match findColl h r.digest r.seq.toNat r.job with
    | some (n, t) => h.setCslot n { t with
        counts := t.counts ++ [(senderRank h t x.src, wfld (bWord (k.body.drop 8)) 32 32)] }
    | none => strayColl h q (otherJob h r.digest r.seq.toNat)))

/-- COLL_DATA_RECEIVE: data of a collective in progress, by its signature (R370, R371, R374, R378). -/
def execCollDataReceive (i : Nat) (s : State) : Host.Outcome State Fault Refusal :=
  run s (fun h => takeLocal h i (fun x => x.typ == 8) (fun h q x k =>
    match (slotList h).find? (fun p => p.2.running && p.2.sig == x.sig && (h.ctx p.2.ctx).job == k.key.job &&
        (groupMembers h (collOf h p.2.desc).group).contains x.src) with
    | some (n, t) =>
      let key := (x.off / 2 ^ 38) * 1024 + senderRank h t x.src
      collStep (h.setCslot n { t with
        parts := t.parts ++ [(key, x.off % 2 ^ 38, k.body)], ovfAny := t.ovfAny || x.tag == 1 }) n
    | none => strayColl h q ((slotList h).any (fun p => p.2.running && p.2.sig == x.sig &&
        (groupMembers h (collOf h p.2.desc).group).contains x.src))))

/-! ### The end of a collective -/

/-- Every packet of every message has been sent. -/
def collSentAll (h : Hw) (s : ColSlot) : Bool :=
  let c := collOf h s.desc
  if c.acts.op = 6 then
    (a2aOrder c).all (fun r => s.sent.contains (countKey r)) && (a2aReady c s).all (fun m => s.sent.contains m.key)
  else (collSends c (ownVec c s.src) s.parts).all (fun p =>
    (List.range (c.acts.msgPkts p.1)).all (fun i => s.sent.contains (p.1.pktKey i)))

/-- Entries dropped at the source (R379); none where a count of 0 makes the collective a barrier (R368). -/
def dropSrc (c : Coll) (s : ColSlot) : Nat :=
  if c.acts.op = 6 then (s.want.map (fun k => k - c.count)).foldl (· + ·) 0 else 0

/-- A reduce tells nothing downward (R374): whether a member below its root shows a saturation outside its own
subtree is left open (assumption 50). -/
def ovfElsewhere (h : Hw) (c : Coll) : Bool := c.op == 4 && c.rank != c.root && bit h.freeWord 0

/-- The result header, with the kept counts of an all-to-all (Table 12-5). -/
def collHeader (h : Hw) (s : ColSlot) (a : A2a) : Bytes :=
  let c := collOf h s.desc
  let got := (a.kept.map (·.2)).foldl (· + ·) 0
  wordsBytes [bitw s.ovfLocal 8 ||| bitw (s.ovfLocal || s.ovfAny || ovfElsewhere h c) 9,
    BitVec.ofNat 64 (dropSrc c s),
    BitVec.ofNat 64 a.dropped, BitVec.ofNat 64 got, put s.seq 0 32 ||| put s.sig.toNat 32 32,
    BitVec.ofNat 64 h.ftcNow, 0, 0] ++
  (if c.op = 6 then (List.range c.size).flatMap (fun r =>
      leBytes 4 (((a.kept.find? (fun p => p.1 == r)).map (·.2)).getD 0)) else [])

/-- What an all-to-all keeps; nothing for other operations. -/
def slotA2a (h : Hw) (s : ColSlot) : A2a :=
  let c := collOf h s.desc
  let none_ : A2a := { out := [], kept := [], dropped := 0 }
  if c.acts.op = 6 then (a2aResult c (groupMembers h c.group) s.parts s.counts).getD none_ else none_

/-- Frees a slot and starts the next collective of its group (R369, R381). -/
def endColl (h : Hw) (n : SlotId) (g : Nat) : Hw :=
  let h1 := freeColl h n false
  match nextOfGroup h1 g with
  | some m => startColl h1 m
  | none => h1

/-- A finished collective writes its destination and header and signals (R380, R381). -/
def finishColl (h : Hw) (n : SlotId) (s : ColSlot) (b : Bytes) : Hw :=
  let c := collOf h s.desc
  let a := slotA2a h s
  let hdr := if c.hdr = 0 then [] else collHeader h s a
  match bufFault h s.ctx true [(c.dst, b.length), (c.hdr, hdr.length)] with
  | some f => colFault f.2.2 n f.1 (BitVec.ofNat 64 f.2.1) 0
  | none =>
    let h1 := writeLocal h.useFree c.dst b
    let h2 := if c.hdr = 0 then h1 else writeLocal h1 c.hdr hdr
    let k := dropSrc c s + a.dropped
    let h3 := if k = 0 then h2 else h2.count (colOff 0x38) k
    let h4 := if c.sig then signalObj h3 (.easel s.ctx s.easel (Fin.ofNat 512 c.so)) 1 (colAgent h3 n s) else h3
    endColl h4 n c.group

/-- COLL_COMPLETE: the result is here and every message has been sent (R381). -/
def execCollComplete (slot : SlotId) (s : State) : Host.Outcome State Fault Refusal :=
  run s (fun h =>
    match h.cslot slot with
    | some t =>
      if t.running && collSentAll h t && !(collOf h t.desc).bufs.any (fun b => chanWaits h b.1 b.2) then
        match slotResult h t with
        | some b => finishColl h slot t b
        | none => h
      else h
    | none => h)

/-- The partners on which a collective waits: those whose grant is missing, else those whose data are. -/
def waitsFor (h : Hw) (s : ColSlot) : List Nat :=
  if !s.readies.isEmpty then s.readies.map (·.1)
  else if s.running then missingRanks (collOf h s.desc) s.parts s.counts else []

/-- COLL_TIMEOUT: the timeout that runs from acceptance has expired; 0x21 (R382).  The partner named is one of those
waited for, as a free value chooses; 0 where there is none. -/
def execCollTimeout (slot : SlotId) (s : State) : Host.Outcome State Fault Refusal :=
  run s (fun h =>
    match h.cslot slot with
    | some t =>
      let c := collOf h t.desc
      (match tcodeNs c.tcode with
        | some d =>
          if t.acceptAt + d ≤ h.now then
            let l := waitsFor h t
            let peer := (l[h.freeWord.toNat % l.length]?).getD 0
            colFault (h.useFree.count (colOff 0x20) 1) slot 0x21 0 peer
          else h
        | none => h)
    | none => h)

end Sys2Proof.Machine
end

