-- ==== Sys2Proof/Machine/SketchOps.lean ====
section
/-! DEFINITION. Sketch, varnish and scrape: the sketch-class instructions (R225–R227), the varnish and scrape
points (R235, R236, R239), folding and zeroing of slots (R237, R239). -/

namespace Sys2Proof.Machine

/-! ### SKETCH and SKETCHR -/

/-- Sets sbm, sketch mode and the sketch sequence from an operand in the layout of SKETCH (R225, R227). -/
def setSketch (h : Hw) (e : EaselId) (v : Word) : Hw :=
  let m : BitVec 8 := v.setWidth 8
  let h1 := h.modCur e (fun r => { r with sbm := m, sketch := bit v 8 && m != 0 })
  { h1 with sk := { h1.sk with
      seqs := SMap.set 0 h1.sk.seqs ((h.easel e).actx.val * 208 + e.val) (BitVec.ofNat 8 (wfld v 16 8)) } }

/-- SKETCH: imm38 [7:0] mask, [8] on, [23:16] seq (R227). -/
def execSketch (e : EaselId) (f : FmtI) (s : State) : Host.Outcome State Fault Refusal :=
  run s (fun h => issue h e (wordI 0x20 0x00 f) f.pneg f.pred
    (resv (f.rd == 0 && f.rs1 == 0 && fld f.imm.toNat 9 7 == 0 && fld f.imm.toNat 24 14 == 0)) (fun h =>
      .done (setSketch h e (f.imm.setWidth 64))))

/-- SKETCHR: s[rs1] in the layout of SKETCH's immediate (R227). -/
def execSketchr (e : EaselId) (f : FmtI) (s : State) : Host.Outcome State Fault Refusal :=
  run s (fun h => issue h e (wordI 0x20 0x01 f) f.pneg f.pred (resv (f.rd == 0 && f.imm == 0)) (fun h =>
    .done (setSketch h e ((h.easel e).cur.get f.rs1))))

/-! ### VARNISH, SCRAPE, SKOCC -/

/-- VARNISH: imm38[2:0] branch, s[rs1] count (R227, R235).  The waiting instructions of this class do nothing
in service mode (assumption 22). -/
def varnishI (e : EaselId) (f : FmtI) (h : Hw) : Hw :=
  settle (issue h e (wordI 0x20 0x02 f) f.pneg f.pred (resv (f.rd == 0 && immBelow f 3)) (fun h =>
    let x := h.easel e
    if x.service then .done h else .block h (.varnish (f.imm.setWidth 3) (x.cur.get f.rs1) none))) e

/-- VARNISH (R235). -/
def execVarnish (e : EaselId) (f : FmtI) (s : State) : Host.Outcome State Fault Refusal := run s (varnishI e f)

/-- SCRAPE: imm38[7:0] mask (R227, R239). -/
def scrapeI (e : EaselId) (f : FmtI) (h : Hw) : Hw :=
  settle (issue h e (wordI 0x20 0x03 f) f.pneg f.pred (resv (f.rd == 0 && f.rs1 == 0 && immBelow f 8)) (fun h =>
    if (h.easel e).service then .done h else .block h (.scrape (f.imm.setWidth 8) none))) e

/-- SCRAPE (R239). -/
def execScrape (e : EaselId) (f : FmtI) (s : State) : Host.Outcome State Fault Refusal := run s (scrapeI e f)

/-- SKOCC: waits as VARNISH does, then the held count to s[rd] (R227). -/
def skoccI (e : EaselId) (f : FmtI) (h : Hw) : Hw :=
  settle (issue h e (wordI 0x20 0x04 f) f.pneg f.pred (resv (f.rs1 == 0 && f.imm == 0)) (fun h =>
    if (h.easel e).service then .done h else .block h (.skocc f.rd))) e

/-- SKOCC (R227). -/
def execSkocc (e : EaselId) (f : FmtI) (s : State) : Host.Outcome State Fault Refusal := run s (skoccI e f)

/-! ### The varnish point -/

/-- Nanoseconds of a number of cycles of an easel's clock, rounded up. -/
def cyclesNs (mhz n : Nat) : Nat := if mhz = 0 then 0 else cdiv (n * 1000) mhz

/-- The point falls 32 + 4 × g cycles after the wait has ended (R236). -/
def pointDue (h : Hw) (e : EaselId) (since : Nat) : Bool :=
  let x := h.easel e
  let g := (skRegions h x.actx (partOf e)).length
  !x.stopped && decide (since + cyclesNs x.clockMhz (32 + 4 * g) ≤ h.now)

/-- Inserts a slot after those issued no later. -/
def insertSlot (s : SketchSlot) : List SketchSlot → List SketchSlot
  | [] => [s]
  | t :: l => if s.order < t.order then s :: t :: l else t :: insertSlot s l

/-- Slots in issue order (R235). -/
def issueOrder (l : List SketchSlot) : List SketchSlot := l.foldl (fun acc s => insertSlot s acc) []

/-- Bytes that a slot holds. -/
def slotLen (s : SketchSlot) : Nat := popc 64 s.mask.toNat

/-- The writes that VARNISH b, n commits (R235). -/
def varnishes (c : CtxId) (e : EaselId) (b : BitVec 3) (n : Word) (s : SketchSlot) : Bool :=
  s.ctx == c && s.easel == e && s.branch == b && decide (s.seq.toNat < Nat.min n.toNat 256)

/-- Commits slots: in issue order they join the varnished image (R235, R236, R242). -/
def commitSlots (h : Hw) (p : SketchSlot → Bool) : Hw :=
  let ss := issueOrder (h.sk.slots.filter p)
  let h1 := { h with
    sk := { h.sk with slots := h.sk.slots.filter (fun s => !p s) }
    mem := { h.mem with unfolded := h.mem.unfolded ++ ss } }
  ss.foldl (fun g s => (perfAdd g s.ctx 10 (slotLen s)).countWrap (blkBase (.skt s.part) + 0x28) (slotLen s)) h1

/-- VARNISH_POINT (R235, R236). -/
def execVarnishPoint (e : EaselId) (s : State) : Host.Outcome State Fault Refusal :=
  run s (fun h =>
    let x := h.easel e
    match x.blocked with
    | some b =>
      (match b.what with
        | .varnish br n (some t) =>
          if pointDue h e t then
            finishWait (dropPrefetch (commitSlots h (varnishes x.actx e br n)) e) e false id
          else h
        | _ => h)
    | none => h)

/-- Discards slots: they leave the held count and wait to be zeroed (R239, R241, R242). -/
def discardSlots (h : Hw) (p : SketchSlot → Bool) : Hw :=
  let ss := h.sk.slots.filter p
  let h1 := { h with sk := { h.sk with
    slots := h.sk.slots.filter (fun s => !p s), toZero := h.sk.toZero ++ ss } }
  ss.foldl (fun g s => (perfAdd g s.ctx 11 (slotLen s)).countWrap (blkBase (.skt s.part) + 0x30) (slotLen s)) h1

/-- SCRAPE_POINT (R239). -/
def execScrapePoint (e : EaselId) (s : State) : Host.Outcome State Fault Refusal :=
  run s (fun h =>
    let x := h.easel e
    match x.blocked with
    | some b =>
      (match b.what with
        | .scrape m (some t) =>
          if pointDue h e t then
            finishWait (dropPrefetch (discardSlots h (fun s =>
              s.ctx == x.actx && s.easel == e && m.getLsbD s.branch.toNat)) e) e false id
          else h
        | _ => h)
    | none => h)

/-! ### Folding and zeroing -/

/-- The fold agent's fault against the slot's context. -/
def foldFault (h : Hw) (s : SketchSlot) (cls : BitVec 8) (addr : Nat) : Hw :=
  recordFault h { FaultRec.blank h.ftcNow cls 7 with ctx := some s.ctx, addr := BitVec.ofNat 64 addr }

/-- Folds the bytes that a slot holds of home word `w` (an index of 64-bit words): a word that is
uncorrectable and not wholly covered stays and faults the context (R237). -/
def foldWord (s : SketchSlot) (h : Hw) (w : Nat) : Hw :=
  let idx := (List.range 8).filter (fun i => s.mask.toNat.testBit (8 * (w % 8) + i))
  if idx = [] then h
  else if idx.length < 8 ∧ h.mem.bad w then foldFault h s (memClass (8 * w)) (8 * w)
  else
    let h := if idx.length < 8 then touchRead h (8 * w) 8 else h
    let cells := idx.foldl (fun m i => SMap.set 0 m (8 * w + i) ((s.bytes[8 * (w % 8) + i]?).getD 0)) h.mem.cells
    { h with mem := { h.mem with cells := cells, ecc := SMap.del h.mem.ecc w } }

/-- A varnished slot merges into its home granule and is freed; an uncorrectable one writes nothing and faults its
context with 0x03 (R237).  Its words are read from the pool, corrected errors counted (R160). -/
def foldSlot (h : Hw) (sl : SketchSlot) (bad : Bool) : Hw :=
  let ws := slotWords sl (64 * sl.granule) 64
  let h1 := { h with mem := { h.mem with unfolded := h.mem.unfolded.erase sl } }
  match ws.find? (fun w => h.mem.bad (w / 8)) with
  | some w => foldFault (reportUe h1 w (some sl.ctx)) sl 3 (64 * sl.granule)
  | none =>
    if bad then foldFault h1 sl 3 (64 * sl.granule)
    else (List.range 8).foldl (fun g k => foldWord sl g (8 * sl.granule + k))
      (ws.foldl (fun g w => touchRead g w 8) h1)

/-- The varnished slot of a partition that is folded next: the oldest before which no slot of another partition's
pool holds the same granule, so that a fold never overwrites a later varnish (R237). -/
def foldNext (u : List SketchSlot) (p : PartId) : Option SketchSlot :=
  u.find? (fun s => s.part == p && u.find? (fun t => t.granule == s.granule) == some s)

/-- SKETCH_FOLD: the next varnished slot of a partition is folded; `slotBad` where its bytes are found uncorrectable
on the way (R237). -/
def execSketchFold (p : PartId) (slotBad : Bool) (s : State) : Host.Outcome State Fault Refusal :=
  run s (fun h =>
    match foldNext h.mem.unfolded p with
    | none => h
    | some sl => foldSlot h sl slotBad)

/-- Every varnished slot of an easel's Palette window is folded, before the window is saved (R233, R237, R240). -/
def foldPalette (h : Hw) (e : EaselId) : Hw :=
  (h.mem.unfolded.filter (fun s => isPal (64 * s.granule) && palEasel (64 * s.granule) == e)).foldl
    (fun g s => foldSlot g s false) h

/-- SKETCH_SLOT_ZERO: the oldest discarded slot of a partition is zeroed and freed (R239). -/
def execSketchSlotZero (p : PartId) (s : State) : Host.Outcome State Fault Refusal :=
  run s (fun h => { h with sk := { h.sk with toZero := removeFirst (fun s => s.part == p) h.sk.toZero } })

end Sys2Proof.Machine
end

