-- ==== Sys2Proof/Machine/HostIf.lean ====
section
/-! DEFINITION. The host interface (chapter 13): queues and completions, the event controller and the event
rings, doorbells and MSI-X. -/

namespace Sys2Proof.Machine

/-- BAR0 offset of a register of function `f`'s HIF_ instance. -/
def hifOff (f : FnId) (o : Nat) : Nat := f.val * 0x1000 + o

/-- The host can reach the module beyond what R515 serves: the link is up, the module is ready and no power
cycle is pending (R504, R515). -/
def Hw.hostOpen (h : Hw) : Bool := h.hostUp && h.bru.ready && !h.flt.powerCycle

/-- Function `f` exists: the PF, or a VF while VF Enable is set (R389). -/
def Hw.fnOn (h : Hw) (f : FnId) : Bool := f == 0 || h.hif.vfEnable

/-! ### Writing entries (R398, R408) -/

/-- Sends vector `v` of a function, or sets its Pending Bit while it is masked (R408). -/
def sendMsix (h : Hw) (f : FnId) (v : Fin 3) : Hw :=
  if (h.fn f).msixMask.getLsbD v.val then
    h.modFn f (fun x => { x with msixPend := x.msixPend ||| (1#3 <<< v.val) })
  else h.emit (.msix f v)

/-- An entry written as two Memory Writes without Relaxed Ordering, the second holding the phase (R398). -/
def writeEntry (h : Hw) (addr : Nat) (first : List Word) (last : Word) : Hw :=
  (h.emit (.hostWrite (BitVec.ofNat 64 addr) (wordsBytes first) false)).emit
    (.hostWrite (BitVec.ofNat 64 (addr + 8 * first.length)) (wBytes last) false)

/-- Index after `i` in a ring of `n` entries. -/
def ringNext (i : BitVec 17) (n : Nat) : BitVec 17 := if i.toNat + 1 < n then i + 1 else 0

/-- Entries of a ring between its head and its tail. -/
def ringUsed (head tail : BitVec 17) (n : Nat) : Nat :=
  if head.toNat ≤ tail.toNat then tail.toNat - head.toNat else tail.toNat + n - head.toNat

def cplSize (h : Hw) (f : FnId) : Nat := wfld (h.reg (hifOff f 0x38)) 0 17
def cplOn (h : Hw) (f : FnId) : Bool := bit (h.reg (hifOff f 0x38)) 17 && (h.fn f).cplError == 0
def evrSize (h : Hw) (f : FnId) : Nat := wfld (h.reg (hifOff f 0x50)) 0 17
def evrOn (h : Hw) (f : FnId) : Bool := bit (h.reg (hifOff f 0x50)) 17 && (h.fn f).evrError == 0

/-- The completion queue holds size − 1 unconsumed entries (R397). -/
def cplFull (h : Hw) (f : FnId) : Bool :=
  decide (cplSize h f ≤ ringUsed (h.fn f).cplHead (h.fn f).cplTail (cplSize h f) + 1)

/-- The command queue stops with an error and event 0x181 (R399). -/
def stopQueue (h : Hw) (f : FnId) (err : BitVec 8) : Hw :=
  raiseEv (h.modFn f (fun x => { x with running := false, error := err, fetching := none })) 0x181 f.val []

/-- Writes one completion entry at the tail (R397, R398). -/
def writeCpl (h : Hw) (f : FnId) (w : Word × Word) : Hw :=
  let x := h.fn f
  if !h.hostUp then stopQueue (h.modFn f (fun y => { y with cplError := 5 })) f 5
  else
    let empty := x.cplHead == x.cplTail
    let h1 := writeEntry h ((h.reg (hifOff f 0x30)).toNat + 16 * x.cplTail.toNat) [w.1] (w.2 ||| bitw x.cplPhase 63)
    let t := ringNext x.cplTail (cplSize h f)
    let h2 := h1.modFn f (fun y => { y with
      cplTail := t, cplPhase := if t = 0 then !y.cplPhase else y.cplPhase })
    if empty then sendMsix h2 f 1 else h2

/-- Writes the completions that wait, while the ring has room; a disabled ring takes none (R397, R399). -/
def flushCpl (f : FnId) : List (Word × Word) → Hw → Hw
  | [], h => h.modFn f (fun x => { x with cplWait := [] })
  | w :: l, h =>
    if !cplOn h f then flushCpl f l h
    else if cplFull h f then h.modFn f (fun x => { x with cplWait := w :: l })
    else flushCpl f l (writeCpl h f w)

/-- A command completes with a status and a result (Table 13-5). -/
def complete (h : Hw) (f : FnId) (c : HostCmd) (status : BitVec 8) (result : Nat) : Hw :=
  let w := nthW c.words 0
  let w0 := put (wfld w 16 16) 0 16 ||| put status.toNat 16 8 ||| put (wfld w 8 6) 24 6 ||| put c.head.toNat 32 32
  flushCpl f ((h.fn f).cplWait ++ [(w0, put result 0 63)]) h

/-! ### Starting commands (R396, R397) -/

def HostCmd.op (c : HostCmd) : Nat := wfld (nthW c.words 0) 0 8
def HostCmd.ctx (c : HostCmd) : CtxId := Fin.ofNat 64 (wfld (nthW c.words 0) 8 6)
def HostCmd.barrier (c : HostCmd) : Bool := bit (nthW c.words 0) 14
def HostCmd.tag (c : HostCmd) : BitVec 16 := BitVec.ofNat 16 (wfld (nthW c.words 0) 16 16)

/-- The opcodes of Tables 13-6, 14-2 and 16-10. -/
def opKnown (op : Nat) : Bool :=
  decide (op ≤ 2) || decide (0x10 ≤ op ∧ op ≤ 0x1A) || decide (0x20 ≤ op ∧ op ≤ 0x25) ||
    decide (0x30 ≤ op ∧ op ≤ 0x37)

/-- The first command fetched and not started, where it may start: a barrier waits for every earlier
command, and 256 may be in progress (R397). -/
def mayStart (x : HifFn) : Option HostCmd :=
  match x.fetched with
  | [] => none
  | c :: _ =>
    if (c.barrier && !x.inProgress.isEmpty) || decide (256 ≤ x.inProgress.length) then none else some c

/-- Commands with reserved opcodes that have come to the front complete with 0x02 (Table 13-6). -/
def skipReserved (f : FnId) : Nat → Hw → Hw
  | 0, h => h
  | n + 1, h =>
    match mayStart (h.fn f) with
    | some c =>
      if opKnown c.op then h
      else skipReserved f n (complete (h.modFn f (fun x => { x with fetched := x.fetched.drop 1 })) f c 2 0)
    | none => h

def skipAll (h : Hw) (f : FnId) : Hw := skipReserved f (h.fn f).fetched.length h

/-- Reserved bits and unused operand words are zero: `masks` gives the bits that each word uses. -/
def wordsOk (c : HostCmd) (named : Bool) (masks : List Word) : Bool :=
  nthW c.words 0 &&& ~~~(if named then 0xFFFF7FFF else 0xFFFF40FF) == 0 &&
    (List.range 7).all (fun i => nthW c.words (i + 1) &&& ~~~(nthW masks i) == 0)

/-- Starts the command at the front of a function's queue, where its opcode is `op`, with the dispatch acquire of
the context it acts on (R263).  `named`: its word 0 names a context; `masks`: the operand bits it uses. -/
def command (h : Hw) (f : FnId) (op : Nat) (named : Bool) (masks : List Word) (body : Hw → HostCmd → Hw) : Hw :=
  match mayStart (h.fn f) with
  | some c =>
    if c.op ≠ op then h
    else
      let h0 := h.modFn f (fun x => { x with fetched := x.fetched.drop 1 })
      let h1 := if named then dispatchAcquire h0 c.ctx else h0
      skipAll (if wordsOk c named masks then body h1 c else complete h1 f c 2 0) f
  | none => h

/-- A command stays in progress. -/
def hold (h : Hw) (f : FnId) (c : HostCmd) : Hw :=
  h.modFn f (fun x => { x with inProgress := x.inProgress ++ [{ cmd := c, silent := false }] })

/-- Ends a command that is no longer in progress; one whose function was reset writes no completion (R401). -/
def endRun (h : Hw) (f : FnId) (r : RunCmd) (status : BitVec 8) (result : Nat) : Hw :=
  if r.silent then h else complete h f r.cmd status result

/-- A FENCE that no earlier command in progress precedes completes (Table 13-6). -/
def endFences (f : FnId) : Nat → Hw → Hw
  | 0, h => h
  | n + 1, h =>
    match (h.fn f).inProgress with
    | r :: l => if r.cmd.op = 2 then endFences f n (endRun (h.modFn f (fun x => { x with inProgress := l })) f r 0 0) else h
    | [] => h

/-- The command in progress that was fetched as number `seq` ends. -/
def finishCmd (h : Hw) (f : FnId) (seq : Nat) (status : BitVec 8) (result : Nat) : Hw :=
  match (h.fn f).inProgress.find? (fun r => r.cmd.seq == seq) with
  | some r =>
    let h1 := h.modFn f (fun x => { x with inProgress := x.inProgress.filter (fun q => q.cmd.seq != seq) })
    skipAll (endFences f (h1.fn f).inProgress.length (endRun h1 f r status result)) f
  | none => h

/-! ### Commands of chapter 13 -/

/-- CMD_NOP: completes with 0x00 (R396). -/
def execCmdNop (fn : FnId) (s : State) : Host.Outcome State Fault Refusal :=
  run s (fun h => command h fn 0x00 false [] (fun h c => complete h fn c 0 0))

/-- A context assigned to function `f` holds module-scope object `i` (Table 13-7). -/
def fnHoldsObj (h : Hw) (f : FnId) (i : Nat) : Bool :=
  allCtx.any (fun c => (h.ctx c).state != 0 && (h.ctx c).fn == f && inModRange h c i)

/-- CMD_SYNC_SIGNAL: a SIGNAL of a module-scope object (R275, R396). -/
def execCmdSyncSignal (fn : FnId) (s : State) : Host.Outcome State Fault Refusal :=
  run s (fun h => command h fn 0x01 false [0x7FFF, 0xFFFFFFFF] (fun h c =>
    let i := (nthW c.words 1).toNat
    if !fnHoldsObj h fn i then complete h fn c 4 0
    else
      complete (signalObj h (.mod (Fin.ofNat 32768 i)) (nthW c.words 2).toNat
        (FaultRec.blank h.ftcNow 0 8)) fn c 0 0))

/-- CMD_FENCE: completes once every earlier command of the queue has completed; later ones without barrier start
meanwhile (R397, Table 13-6). -/
def execCmdFence (fn : FnId) (s : State) : Host.Outcome State Fault Refusal :=
  run s (fun h => command h fn 0x02 false [] (fun h c =>
    if (h.fn fn).inProgress.isEmpty then complete h fn c 0 0 else hold h fn c))

/-! ### Command fetch and doorbells -/

/-- The size that the queue engine read when the queue was enabled (R44, R399). -/
def cmdqSize (h : Hw) (f : FnId) : Nat := (h.fn f).size

/-- COMMAND_FETCH: one host read of up to 16 commands from the head towards the tail, which may wrap at the ring's
end (R397, Table 13-12).  No command is fetched during a runtime handover, before ready or while a power cycle is pending (R504, R540). -/
def execCommandFetch (fn : FnId) (s : State) : Host.Outcome State Fault Refusal :=
  run s (fun h =>
    let x := h.fn fn
    let n := Nat.min 16 (ringUsed x.head x.tail (cmdqSize h fn))
    if !h.hostOpen || !x.running || x.fetching.isSome || n == 0 || h.fwu.paused || (cplOn h fn && cplFull h fn) then h
    else
      let a := x.base.toNat + 64 * x.head.toNat
      let t := h.nextTag
      (hostRead h (.cmdFetch fn) none (BitVec.ofNat 64 a) a (64 * n)).modFn fn
        (fun y => { y with fetching := some (t, n) }))

/-- The commands of a read, each with the head after the read, numbered from `seq` (R397). -/
def splitCmds (head : BitVec 17) : Nat → Nat → Bytes → List HostCmd
  | _, 0, _ => []
  | seq, n + 1, b => { words := bytesWords 8 b, head := head, seq := seq } :: splitCmds head (seq + 1) n (b.drop 64)

/-- A command read returns: its commands wait to start, and the dispatch acquire follows at the start (R263, R397). -/
def takeFetched (h : Hw) (f : FnId) (tag : BitVec 16) (b : Bytes) : Hw :=
  let x := h.fn f
  match x.fetching with
  | some (t, n) =>
    if t ≠ tag then h
    else
      let size := cmdqSize h f
      let head : BitVec 17 := BitVec.ofNat 17 ((x.head.toNat + n) % Nat.max size 1)
      skipAll (h.modFn f (fun y => { y with
        head := head, fetching := none, fetchSeq := y.fetchSeq + n
        fetched := y.fetched ++ splitCmds head y.fetchSeq n b })) f
  | none => h

/-- A command read ends with an error or poisoned data: the queue stops with error 0x04 (R399). -/
def fetchFailed (h : Hw) (f : FnId) (tag : BitVec 16) : Hw :=
  match (h.fn f).fetching with
  | some (t, _) => if t = tag then stopQueue h f 4 else h
  | none => h

/-- A bad access of a function: counted, and event 0x180 (R392). -/
def badAccess (h : Hw) (f : FnId) : Hw := raiseEv (h.count (hifOff f 0x78) 1) 0x180 f.val []

/-- A request that R392 performs. -/
def formOk (off size : Nat) : Bool := (size == 4 || size == 8) && off % size == 0

/-- A request to a doorbell at a BAR4 offset (R389, R392, R401, R409): a write of 4 or 8 bytes at the doorbell itself
rings it with an index, one of its upper half changes nothing, reads return 0, and poisoned writes and bad accesses
end as in BAR0.  Before ready, and with a power cycle pending, BAR4 answers Unsupported Request (R504, R515). -/
def doorbell (h : Hw) (f : FnId) (at_ : Nat) (a : DbAccess) (ring : Hw → BitVec 17 → Hw) : Hw :=
  if !h.hostUp || !h.fnOn f then h
  else match a with
    | .read off size =>
      if !h.hostOpen || !formOk (at_ + off) size then h.emit .unsupported else h.emit (.readDone (.fn f) 0)
    | .write off size data poisoned =>
      if !h.hostOpen then h.emit .unsupported
      else if poisoned then raiseEv h 0x185 f.val []
      else if !formOk (at_ + off) size then badAccess h f
      else if off = 0 then ring h (data.setWidth 17)
      else h

/-- A request of a function is performed after its earlier ones: behind one that waits, it waits too (R180, R261). -/
def inTurn (h : Hw) (f : FnId) (q : HostReq) (eff : Hw → Hw) : Hw :=
  if (h.fn f).waiting.isEmpty then eff h else h.modFn f (fun x => { x with waiting := x.waiting ++ [q] })

/-- HIF_DB_CMDQ_TAIL: the new tail; ignored and counted while the queue is disabled, and an error at or
beyond the size (R399, R409). -/
def ringCmdqTail (h : Hw) (fn : FnId) (a : DbAccess) : Hw :=
  doorbell h fn 0x000 a (fun h index =>
    if !(h.fn fn).running then h.count (hifOff fn 0x78) 1
    else if cmdqSize h fn ≤ index.toNat then stopQueue h fn 3
    else h.modFn fn (fun x => { x with tail := index }))

/-- HIF_DB_CMDQ_TAIL in its function's order (R261). -/
def execHifDbCmdqTail (fn : FnId) (a : DbAccess) (s : State) : Host.Outcome State Fault Refusal :=
  run s (fun h => inTurn h fn (.cmdqTail a) (fun g => ringCmdqTail g fn a))

/-- An index lies between a ring's head and its tail: it passes only entries that were written. -/
def ringWithin (head tail index : BitVec 17) (n : Nat) : Bool :=
  decide (ringUsed head index n ≤ ringUsed head tail n)

/-- HIF_DB_CPLQ_HEAD: consumed completions (R408, R409). -/
def ringCplqHead (h : Hw) (fn : FnId) (a : DbAccess) : Hw :=
  doorbell h fn 0x008 a (fun h index =>
    if !cplOn h fn then h
    else if cplSize h fn ≤ index.toNat then
      raiseEv (h.modFn fn (fun x => { x with cplError := 3 })) 0x182 fn.val []
    else
      let x := h.fn fn
      let past := !ringWithin x.cplHead x.cplTail index (cplSize h fn)
      let wrap := past && decide (index.toNat < x.cplTail.toNat)
      let h1 := h.modFn fn (fun y => { y with
        cplHead := index
        cplTail := if past then index else y.cplTail
        cplPhase := if wrap then !y.cplPhase else y.cplPhase })
      let y := h1.fn fn
      flushCpl fn y.cplWait (if y.cplHead ≠ y.cplTail then sendMsix h1 fn 1 else h1))

/-- HIF_DB_CPLQ_HEAD in its function's order (R261). -/
def execHifDbCplqHead (fn : FnId) (a : DbAccess) (s : State) : Host.Outcome State Fault Refusal :=
  run s (fun h => inTurn h fn (.cplqHead a) (fun g => ringCplqHead g fn a))

/-- HIF_DB_EVR_HEAD: consumed event records (R408, R409). -/
def ringEvrHead (h : Hw) (fn : FnId) (a : DbAccess) : Hw :=
  doorbell h fn 0x010 a (fun h index =>
    if !evrOn h fn then h
    else if evrSize h fn ≤ index.toNat then
      raiseEv (h.modFn fn (fun x => { x with evrError := 3 })) 0x182 fn.val []
    else
      let x := h.fn fn
      let past := !ringWithin x.evrHead x.evrTail index (evrSize h fn)
      let wrap := past && decide (index.toNat < x.evrTail.toNat)
      let h1 := h.modFn fn (fun y => { y with
        evrHead := index
        evrTail := if past then index else y.evrTail
        evrPhase := if wrap then !y.evrPhase else y.evrPhase })
      let y := h1.fn fn
      if y.evrHead ≠ y.evrTail then sendMsix h1 fn 0 else h1)

/-- HIF_DB_EVR_HEAD in its function's order (R261). -/
def execHifDbEvrHead (fn : FnId) (a : DbAccess) (s : State) : Host.Outcome State Fault Refusal :=
  run s (fun h => inTurn h fn (.evrHead a) (fun g => ringEvrHead g fn a))

/-- Why a ring of a size and base is refused (R399, R400). -/
def ringError (size : Nat) (base : Word) : BitVec 8 :=
  if size < 2 ∨ 65536 < size ∨ popc 17 size ≠ 1 then 1
  else if wfld base 0 12 ≠ 0 then 2
  else 0

/-- A write of HIF_CMDQ_CTL: a change of enable from 0 to 1 checks the queue and starts it, clearing it
stops fetching at once (R399). -/
def writeCmdqCtl (h : Hw) (f : FnId) (ctl : Word) : Hw :=
  let k := hifOff f 0x20
  let was := bit (h.reg k) 17
  let h1 := h.setReg k (ctl &&& 0x3FFFF)
  if bit ctl 17 && !was then
    let e := ringError (wfld ctl 0 17) (h.reg (hifOff f 0x18))
    if e ≠ 0 then h1.modFn f (fun x => { x with running := false, error := e })
    else h1.modFn f (fun x => { x with
      base := h.reg (hifOff f 0x18), size := wfld ctl 0 17, running := true, error := 0, head := 0, tail := 0
      fetching := none })
  else if !bit ctl 17 then h1.modFn f (fun x => { x with running := false, fetching := none })
  else h1

/-! ### Events (R402–R408, R569) -/

/-- EVENT_RAISE: a source raises by a doorbell write (R402). -/
def execEventRaise (src : BitVec 10) (payload : BitVec 32) (s : State) : Host.Outcome State Fault Refusal :=
  run s (fun h => raiseEv h src.toNat payload.toNat [])

/-- The lowest source pending and not masked. -/
def nextSource (h : Hw) : Option Nat :=
  (List.range 1024).find? (fun i =>
    bit (h.reg (0x40200 + 8 * (i / 64))) (i % 64) && !bit (h.reg (0x40100 + 8 * (i / 64))) (i % 64))

/-- EVENT_ARBITRATE: the lowest such source becomes a record, where the queue has room (R405). -/
def execEventArbitrate (s : State) : Host.Outcome State Fault Refusal :=
  run s (fun h =>
    match nextSource h with
    | none => h
    | some i =>
      if 256 ≤ h.evc.queue.length then h
      else
        let k := 0x40200 + 8 * (i / 64)
        let h1 := h.setReg k (h.reg k &&& ~~~(bitw true (i % 64)))
        { h1 with evc := { h1.evc with
            queue := h1.evc.queue ++ [{ src := BitVec.ofNat 10 i
                                        count := BitVec.ofNat 22 (SMap.get 0 h.evc.count i)
                                        payload := SMap.get 0 h.evc.payload i
                                        detail := SMap.get [] h.evc.detail i
                                        ftc := h.ftcNow }]
            count := SMap.set 0 h1.evc.count i 0 } })

/-- The owning chapter marks the record critical (Tables 15-5, 16-13, 17-8). -/
def isCritical (src : Nat) (payload : BitVec 32) : Bool :=
  [0x019, 0x01B, 0x045, 0x046, 0x047, 0x241].contains src ||
    (src == 0x01C && decide (2 ≤ fld payload.toNat 0 2 ∧ 2 ≤ fld payload.toNat 2 2)) ||
    (src == 0x022 && payload.getLsbD 8)

/-- Writes a record to a function's event ring, or drops and counts it (R407, Table 13-9). -/
def writeEvent (h : Hw) (src : Nat) (c : Option CtxId) (payload : BitVec 32) (ftc : Nat) (detail : List Word)
    (f : FnId) : Hw :=
  let x := h.fn f
  let n := evrSize h f
  if !evrOn h f then h.count (hifOff f 0x70) 1
  else if n ≤ ringUsed x.evrHead x.evrTail n + 1 then
    (h.count (hifOff f 0x70) 1).modFn f (fun y => { y with evrLost := true })
  else
    let crit := isCritical src payload
    let w0 := put src 0 10 ||| put ((c.map (·.val)).getD 0) 10 6 ||| bitw c.isSome 16 ||| bitw x.evrLost 17 |||
      bitw crit 18 ||| put payload.toNat 32 32
    let seq := x.evrSeq + 1
    let h1 := writeEntry h ((h.reg (hifOff f 0x48)).toNat + 64 * x.evrTail.toNat)
      [w0, BitVec.ofNat 64 ftc, nthW detail 0, nthW detail 1, nthW detail 2, nthW detail 3, nthW detail 4]
      (put seq 0 63 ||| bitw x.evrPhase 63)
    let t := ringNext x.evrTail n
    let h2 := h1.modFn f (fun y => { y with
      evrTail := t, evrPhase := if t = 0 then !y.evrPhase else y.evrPhase, evrSeq := seq, evrLost := false })
    let h3 := if x.evrHead = x.evrTail then sendMsix h2 f 0 else h2
    if crit && f == 0 then sendMsix h3 f 2 else h3

/-- Functions to which a record of a per-context source goes for context `c` (Tables 14-13, 16-13). -/
def ctxTargets (h : Hw) (src : Nat) (c : CtxId) : List FnId :=
  let f := (h.ctx c).fn
  if src = 0x041 ∨ src = 0x141 then (if f = 0 then [0] else [0, f]) else [f]

/-- The function to which a record of another source goes (R390). -/
def oneTarget (h : Hw) (src : Nat) (payload : BitVec 32) : FnId :=
  if 0x200 ≤ src ∧ src < 0x240 then (h.ctx (Fin.ofNat 64 (src - 0x200))).fn
  else if [0x180, 0x181, 0x182, 0x183, 0x185].contains src then Fin.ofNat 64 payload.toNat
  else 0

/-- Sources that serve every context (R569), and event 0x141 likewise. -/
def perCtxSource (src : Nat) : Bool := [0x040, 0x041, 0x140, 0x141, 0x143].contains src

/-- One ring record for each context whose condition of the source has been raised (R569). -/
def deliverPerCtx (h : Hw) (r : EvRecord) : Hw :=
  let src := r.src.toNat
  let l := SMap.range h.evc.perCtx (src * 128) (src * 128 + 128)
  let h1 := l.foldl (fun g p =>
    let k := p.1 - src * 128
    let d := SMap.get [] g.evc.perCtxDetail p.1
    if k < 64 then
      (ctxTargets g src (Fin.ofNat 64 k)).foldl
        (fun g2 f => writeEvent g2 src (some (Fin.ofNat 64 k)) p.2 r.ftc d f) g
    else writeEvent g src none p.2 r.ftc d 0) h
  { h1 with evc := { h1.evc with
      perCtx := SMap.eraseRange h1.evc.perCtx (src * 128) (src * 128 + 128)
      perCtxDetail := SMap.eraseRange h1.evc.perCtxDetail (src * 128) (src * 128 + 128) } }

/-- Writes what a record of the record queue gives to the event rings (R407, R569). -/
def deliverRecord (h : Hw) (r : EvRecord) : Hw :=
  let src := r.src.toNat
  if perCtxSource src then deliverPerCtx h r
  else
    let c : Option CtxId := if 0x200 ≤ src ∧ src < 0x240 then some (Fin.ofNat 64 (src - 0x200)) else none
    writeEvent h src c r.payload r.ftc r.detail (oneTarget h src r.payload)

/-- EVENT_RECORD_DELIVER: firmware handles the oldest record of the queue (R405); while the link is down and
any ring is enabled, records wait (R388), and during a handover they wait too (R540). -/
def execEventRecordDeliver (s : State) : Host.Outcome State Fault Refusal :=
  run s (fun h =>
    match h.evc.queue with
    | [] => h
    | r :: l =>
      let waits := !h.hostUp && h.hif.fns.any (fun p => evrOn h (Fin.ofNat 64 p.1))
      if waits || h.fwu.paused then h
      else deliverRecord { h with evc := { h.evc with queue := l } } r)

end Sys2Proof.Machine
end

