-- ==== Sys2Proof/Machine/Capture.lean ====
section
/-! DEFINITION. Fault captures: their sections, the room for them, and the end of a capture (R492–R496). -/

namespace Sys2Proof.Machine

/-- The body of a section (R496): bytes, or what it states in words, laid out as the runtime firmware's release
publishes (`Config.capLayout`, assumption 12). -/
inductive SectBody where
  | bytes (b : Bytes)
  | facts (l : List Word)
  deriving DecidableEq, Repr

/-- A section (R496): type, unit, context and body. -/
structure Sect where
  typ : Nat
  unit : Nat
  ctx : Option CtxId
  body : SectBody
  deriving DecidableEq, Repr

/-- The header words (Table 16-4). -/
def Capture.words (c : Capture) : List Word :=
  [ put c.id.toNat 0 16 ||| put c.level.toNat 16 3 ||| bitw c.incomplete 19 ||| bitw c.palettes 20 |||
      bitw c.fallback 21 ||| bitw c.dropped 22 ||| bitw c.damaged 23 ||| put c.trigger.toNat 24 8 |||
      put c.bytes 32 32,
    BitVec.ofNat 64 c.ftcStart, BitVec.ofNat 64 c.ftcEnd, c.contexts,
    put c.easel.toNat 0 8 ||| put c.parts.toNat 8 4 ||| put c.records 32 32,
    BitVec.ofNat 64 c.offset, 0, 0 ]

/-- Core state of Table 3-1 with cs_epc and cs_fclass to cs_finst, one word per register. -/
def coreWords (r : CoreRegs) (f : FaultCsr) : List Word :=
  r.pc :: ((List.range 32).map (fun i => if i = 0 then 0 else SMap.get 0 r.s i)) ++
    ((List.range 8).map (fun i => bitw (i == 0 || r.p.getLsbD i) 0)) ++
    ((List.range 256).map (fun i => SMap.get 0 r.td i)) ++
    [put r.sbm.toNat 0 8, r.arith] ++ ((List.range 4).map (fun i => SMap.get 0 r.scratch i)) ++
    [r.serial, f.epc, f.fclass, f.fserial, f.fpc, f.faddr, f.finst]

/-- Accumulators: anchor words, entries and status tags, then cs_arith (Table 16-5). -/
def accWords (a : AccSets) (arith : Word) : List Word :=
  ((List.range 4).map (fun i => SMap.get 0 a.anchors i)) ++
    ((List.range 49152).flatMap (fun i =>
      let x := a.read i
      [BitVec.ofNat 64 x.v.toNat, BitVec.ofNat 64 (x.v.toNat / 2 ^ 64), put x.tag.toNat 0 2])) ++ [arith]

def TDesc.words (t : TDesc) : List Word := [t.w0, t.w1, t.w2, t.w3]

/-- A queued engine instruction: its word and serial, what it copied at issue, its sketch state and its progress (R123,
R125). -/
def QEntry.facts (i : QEntry) : List Word :=
  [i.inst, i.serial] ++ i.ta.words ++ i.tb.words ++ i.tc.words ++ i.xs ++
    [i.arith, put i.sbm.toNat 0 8 ||| bitw i.sketch 8 ||| put i.seq.toNat 16 8 ||| bitw i.started 24,
      BitVec.ofNat 64 i.prog, BitVec.ofNat 64 i.acked.length]

/-- Sections of an easel and the context loaded on it. -/
def easelSects (h : Hw) (e : EaselId) : List Sect :=
  let x := h.easel e
  match x.loaded with
  | none => []
  | some c =>
    let mk := fun t b => { typ := t, unit := e.val, ctx := some c, body := b : Sect }
    let words := fun t l => mk t (.bytes (wordsBytes l))
    [words 2 (coreWords x.core x.csr), mk 3 (.facts ((x.me ++ x.vu ++ x.ce).flatMap QEntry.facts)),
      words 4 ((List.range 512).map (fun i => h.obj (.easel c e (Fin.ofNat 512 i))))] ++
      (if (h.ctx c).capPalettes then
        [mk 5 (.bytes (h.mem.read (palBase e.val) 0x200000)), words 6 (accWords x.acc x.core.arith)]
       else [])

/-- The sketch summary of a partition for a context: easel, branch, number of unvarnished slots and the highest sequence
among them (R241). -/
def sketchSummary (h : Hw) (c : CtxId) (p : PartId) : List Word :=
  (partEasels p).flatMap (fun e => (List.range 8).flatMap (fun b =>
    let l := h.sk.slots.filter (fun s => s.ctx == c && s.easel == e && s.branch == BitVec.ofNat 3 b)
    if l.isEmpty then []
    else [put e.val 0 8 ||| put b 8 3 ||| put l.length 16 32 |||
      put ((l.map (·.seq.toNat)).foldl Nat.max 0) 48 8]))

/-- A context's module-scope objects and its pending waits on them. -/
def syncFacts (h : Hw) (c : CtxId) : List Word :=
  let r := modRange h c
  (List.range r.2).map (fun i => h.obj (.mod (Fin.ofNat 32768 (r.1 + i)))) ++
    (h.sync.waiters.filter (fun w => w.ctx == c)).flatMap (fun w => match w.obj with
      | .mod i => [put i.val 0 15 ||| put w.easel.val 16 8 ||| bitw w.consume 24 ||| put w.threshold 32 32]
      | .easel _ _ _ => [])

/-- Module-side sections of a context. -/
def ctxSects (h : Hw) (c : CtxId) : List Sect :=
  let mk := fun t u b => { typ := t, unit := u, ctx := some c, body := b : Sect }
  [mk 1 0xFFFF (.bytes (wordsBytes ((h.ctx c).faults.flatMap (·.words)))), mk 7 0xFFFF (.facts (syncFacts h c))] ++
    ((h.glz.slots.filter (fun p => p.2.state != 0 && p.2.ctx == c)).map (fun p =>
      mk 8 p.1 (.facts (glzStatus p.2 :: p.2.desc)))) ++
    ((h.col.slots.filter (fun p => p.2.ctx == c)).map (fun p =>
      mk 9 p.1 (.facts (p.2.desc ++ [BitVec.ofNat 64 p.2.seq, bitw p.2.running 0 ||| put p.2.sent.length 32 32])))) ++
    (((List.range 4).filter (fun p => h.sk.slots.any (fun s => s.ctx == c && partOf s.easel == Fin.ofNat 4 p))).map
      (fun p => mk 10 p (.facts (sketchSummary h c (Fin.ofNat 4 p)))))

/-- A port's state. -/
def portFacts (h : Hw) (i : PortId) : List Word :=
  let x := h.port i
  [put x.state.toNat 0 3 ||| put x.lanes.toNat 8 8 ||| put x.partnerFa.toNat 16 10 ||| put x.partnerPort.toNat 28 4 |||
    bitw x.partnerValid 32]

/-- Power, thermal and supervisor state. -/
def powerFacts (h : Hw) : List Word :=
  [BitVec.ofNat 64 h.pwr.est, BitVec.ofNat 64 h.pwr.me, BitVec.ofNat 64 h.pwr.vinMv, BitVec.ofNat 64 h.pwr.iin10ma,
    BitVec.ofNat 64 h.pwr.target, put h.pwr.idle.toNat 0 2 ||| put h.pwr.droop.toNat 2 2 ||| bitw h.pwr.thrOpen 4 |||
      bitw h.thm.tripped 5 ||| bitw h.sup.s0.started 6 ||| bitw h.sup.s1.started 7]

/-- The event controller's queue and pending words. -/
def eventFacts (h : Hw) : List Word :=
  (List.range 16).map (fun k => h.reg (0x40200 + 8 * k)) ++
    h.evc.queue.flatMap (fun r =>
      [put r.src.toNat 0 10 ||| put r.count.toNat 10 22 ||| put r.payload.toNat 32 32, BitVec.ofNat 64 r.ftc])

/-- Sections of shared state: ports, power, events, command queues; `c` where they are kept with a context. -/
def moduleSects (h : Hw) (c : Option CtxId) : List Sect :=
  let mk := fun t u l => { typ := t, unit := u, ctx := c, body := .facts l : Sect }
  ((List.range 12).map (fun i => mk 11 i (portFacts h (Fin.ofNat 12 i)))) ++
    [mk 12 0xFFFF (powerFacts h), mk 13 0xFFFF (eventFacts h)] ++
    ((List.range 64).map (fun f =>
      let x := h.fn (Fin.ofNat 64 f)
      mk 14 f [put x.head.toNat 0 17 ||| put x.tail.toNat 32 17, put x.cplTail.toNat 0 17 ||| put x.cplHead.toNat 32 17]))

/-- Contexts that a mask of words names. -/
def maskCtxs (w : Word) : List CtxId := allCtx.filter (fun c => bit w c.val)

/-- Easels within a capture's scope (R492). -/
def capEasels (c : Capture) : List EaselId :=
  if c.level = 0 then []
  else if c.level = 1 then [Fin.ofNat 208 c.easel.toNat]
  else allEasels.filter (fun e => c.parts.getLsbD (partOf e).val)

/-- Every section of a capture (R492). -/
def capSects (h : Hw) (c : Capture) : List Sect :=
  let cs := maskCtxs c.contexts
  ((capEasels c).flatMap (easelSects h)) ++ (cs.flatMap (ctxSects h)) ++
    moduleSects h (if c.level = 0 then cs.head? else none)

/-- The bytes of a section: its header, with a version that is free, and its body. -/
def Sect.bytes (n : Nat) (s : Sect) : Bytes :=
  let body := match s.body with
    | .bytes b => b
    | .facts l => Config.capLayout s.typ l
  wordsBytes [put s.typ 0 8 ||| put (wfld (Config.freeValue n) 16 8) 8 8 ||| put s.unit 16 16 |||
    put ((s.ctx.map (·.val)).getD 0) 32 6 ||| bitw s.ctx.isSome 38, BitVec.ofNat 64 body.length] ++ body

/-- Bytes of a list of sections, each with its own free values. -/
def sectsBytes (n : Nat) : List Sect → Bytes
  | [] => []
  | s :: l => s.bytes n ++ sectsBytes (n + 1) l

/-- The section belongs to a confidential context and is not its fault records (R494). -/
def sectConf (h : Hw) (s : Sect) : Bool :=
  match s.ctx with
  | some c => (h.ctx c).conf && s.typ != 1
  | none => false

def sectPal (s : Sect) : Bool := s.typ == 5 || s.typ == 6

/-- Some LPDDR6 channel is down, so that captures go to Canvas (R493). -/
def lpDown (h : Hw) : Bool := h.memctl.chUp != BitVec.allOnes 96

/-- Base and size of the area in use (R493). -/
def capArea (fallback : Bool) : Nat × Nat :=
  if fallback then (0x107EC000000, 0x4000000) else (0xBFC0000000, 0x40000000)

/-- Length rounded up to 64 bytes. -/
def up64 (n : Nat) : Nat := (n + 63) / 64 * 64

/-- Room at an offset: no capture held overlaps [o, o + n). -/
def capFree (l : List Capture) (o n : Nat) : Bool :=
  l.all (fun c => c.dropped || c.isOpen || decide (c.offset + up64 c.bytes ≤ o ∨ o + n ≤ c.offset))

/-- Where a capture of `n` bytes goes: after the newest of its area, or round to its start (R493). -/
def capPlace (h : Hw) (fallback : Bool) (n : Nat) : Option Nat :=
  let (base, size) := capArea fallback
  let held := h.flt.captures.filter (fun c => c.fallback == fallback && !c.dropped && !c.isOpen)
  let next := match held.getLast? with
    | some c => c.offset + up64 c.bytes
    | none => base
  if next + n ≤ base + size ∧ capFree held next n then some next
  else if n ≤ size ∧ capFree held base n then some base
  else none

/-- Writes a confidential context's sections into the pages it named (R494); the flag says they fitted. -/
def writeConf (h : Hw) (c : CtxId) (l : List Sect) : Hw × Bool :=
  let b := sectsBytes h.free l
  let x := h.ctx c
  let held := (List.range x.capCount).all (fun i => match h.owner (x.capFirst + i) with
    | .ctx d _ => d == c
    | _ => false)
  if l.isEmpty then (h, true)
  else if held && decide (b.length ≤ x.capCount * 0x200000) then
    ({ h with mem := h.mem.write (x.capFirst * 0x200000) b, free := h.free + l.length }, true)
  else (h, false)

/-- Writes the confidential sections of each context covered. -/
def writeConfs (h : Hw) (cs : List CtxId) (l : List Sect) : Hw × Bool :=
  cs.foldl (fun (g : Hw × Bool) c =>
    let r := writeConf g.1 c (l.filter (fun s => s.ctx == some c))
    (r.1, g.2 && r.2)) (h, true)

/-- The context of a context-level capture; none for the other levels. -/
def Capture.owner (c : Capture) : Option CtxId := if c.level = 0 then (maskCtxs c.contexts).head? else none

/-- Puts a finished capture in the directory and raises events 0x041 and 0x042 (R512). -/
def listCapture (h : Hw) (c : Capture) : Hw :=
  let h1 := { h with flt := { h.flt with
    captures := (h.flt.captures.filter (fun d => d.id != c.id)) ++ [c] } }
  let d := c.words.take 5
  let h2 := if c.dropped then h1
    else raiseFor h1 0x041 ((c.owner.map (·.val)).getD 64) (c.id.toNat + c.level.toNat * 65536) d
  if c.incomplete || c.dropped then raiseEv h2 0x042 (c.id.toNat + b2n c.dropped * 65536) d else h2

/-- Writes a capture's header and sections at its place. -/
def storeCapture (h : Hw) (c : Capture) (l : List Sect) (o : Nat) : Hw :=
  let b := sectsBytes h.free l
  let c1 := { c with offset := o, bytes := 64 + b.length, palettes := l.any sectPal }
  listCapture { h with mem := h.mem.write o (wordsBytes c1.words ++ b), free := h.free + l.length } c1

/-- Ends an open capture: its sections are written, those of confidential contexts into their own pages;
Palettes and accumulators go where room is short or in the fallback area; without room for the rest only
the header is kept (R493–R495).  `cut`: it is cut short and keeps the sections already written. -/
def closeCapture (h : Hw) (id : BitVec 16) (cut : Bool) : Hw :=
  match h.flt.captures.find? (fun c => c.id == id && c.isOpen) with
  | none => h
  | some c =>
    let all := capSects h c
    let kept := if cut then all.take (h.freeWord.toNat % (all.length + 1)) else all
    let h0 := if cut then h.useFree else h
    let fb := lpDown h
    let (h1, fit) := writeConfs h0 (maskCtxs c.contexts) (kept.filter (sectConf h))
    let open_ := kept.filter (fun s => !sectConf h s)
    let small := open_.filter (fun s => !sectPal s)
    let recs := ((open_.filter (fun s => s.typ == 1)).map (fun s => ((s.bytes 0).length - 16) / 64)).foldl (· + ·) 0
    let c1 := { c with
      isOpen := false, incomplete := cut || !fit, fallback := fb, ftcEnd := h.ftcNow, records := recs }
    let size := fun l => 64 + (sectsBytes h1.free l).length
    let first := if fb then small else open_
    match capPlace h1 fb (size first) with
    | some o => storeCapture h1 c1 first o
    | none =>
      match capPlace h1 fb (size small) with
      | some o => storeCapture h1 c1 small o
      | none => listCapture h1 { c1 with dropped := true }

/-- Ends every open capture that satisfies `p`. -/
def closeWhere (h : Hw) (p : Capture → Bool) (cut : Bool) : Hw :=
  (h.flt.captures.filter (fun c => c.isOpen && p c)).foldl (fun g c => closeCapture g c.id cut) h

/-- Bound of a capture's level in nanoseconds (R495); none for a context-level capture. -/
def capBound (level : BitVec 3) : Option Nat :=
  match level.toNat with
  | 1 => some 100000
  | 2 => some 10000000
  | 3 => some 20000000
  | _ => none

/-- CAPTURE_BOUND_EXPIRE: a capture not ended within its bound is cut short (R495). -/
def execCaptureBoundExpire (id : BitVec 16) (s : State) : Host.Outcome State Fault Refusal :=
  run s (fun h =>
    match h.flt.captures.find? (fun c => c.id == id && c.isOpen) with
    | some c =>
      (match capBound c.level with
        | some n => if c.ftcStart + n ≤ h.ftcNow then closeCapture h id true else h
        | none => h)
    | none => h)

end Sys2Proof.Machine
end

