-- ==== Sys2Proof/Machine/Recover.lean ====
section
/-! DEFINITION. Throttle intervals (R461), the request for a power cycle (R504), the thermal trip (R471) and the
start of recoveries with what concurrent faults do to them (R497, R506). -/

namespace Sys2Proof.Machine

/-! ### Throttle intervals (R461) -/

/-- Lowest of F_lim and F_warn over the easels in force. -/
def lowestF (h : Hw) : Nat :=
  (h.bru.enabled.map (fun e => Nat.min (h.easel e).flim (warnF h e))).foldl Nat.min 64

/-- Something throttles: an easel's F_lim or F_warn below 64, or the fallback's clock cap. -/
def throttled (h : Hw) : Bool := decide (lowestF h < 64) || h.thm.fallback

/-- Cause bits of PWR_TLOG_INFO (Table 15-6). -/
def throttleCause (h : Hw) : BitVec 8 :=
  BitVec.ofNat 8
    (b2n (decide (h.pwr.fShort < 64 ∨ h.pwr.fSust < 64)) + b2n (decide (h.pwr.fFast < 64)) * 2 +
      b2n (h.thm.junction.any (fun p => decide (p.2.fthm < 64))) * 4 +
      b2n (h.pwr.pinWarn || h.pwr.uvWarn) * 8 + b2n (h.pwr.droop != 0) * 16 + b2n h.thm.fallback * 32 +
      b2n (h.pwr.leakWet || h.pwr.leakPins != 0) * 64)

/-- Follows a change of F_lim, F_warn or the clock cap: an interval begins, with event 0x010, or one in
progress goes on; `before` tells whether something throttled before the change. -/
def throttleStep (before : Bool) (h : Hw) : Hw :=
  if throttled h then
    if h.pwr.thrOpen then
      { h with pwr := { h.pwr with
          thrMin := Nat.min h.pwr.thrMin (lowestF h), thrCause := h.pwr.thrCause ||| throttleCause h } }
    else
      raiseEv (({ h with
        tray := { h.tray with throttled := true }
        pwr := { h.pwr with thrOpen := true, thrStart := h.ftcNow, thrMin := lowestF h, thrCause := throttleCause h } }).count
          0x70078 1) 0x010 (throttleCause h).toNat []
  else if before then { h with pwr := { h.pwr with thrLast := h.now } }
  else h

/-- Applies an effect on what throttles. -/
def throttling (h : Hw) (f : Hw → Hw) : Hw := throttleStep (throttled h) (f h)

/-! ### Power cycle (R504) and thermal trip (R471) -/

/-- A port goes OFF and stays there. -/
def portOff (h : Hw) (i : PortId) : Hw :=
  let h1 := if (h.port i).state = 2 ∨ (h.port i).state = 3 then goDown h i else h
  if (h1.port i).state = 0 then h1 else setPortState h1 i 0 0

def allPorts : List PortId := (List.range 12).map (Fin.ofNat 12)

/-- Requests a power cycle with the class of its trigger: critical event 0x047, FAULT#, the request to the
tray controller, compute dies off, every port OFF; captures in progress are cut short (R504, R506). -/
def powerCycle (h : Hw) (trigger : BitVec 8) : Hw :=
  if h.flt.powerCycle then h
  else
    let h1 := closeWhere h (fun _ => true) true
    let h2 := raiseEv { h1 with
      flt := { h1.flt with powerCycle := true, recoveries := [] }
      pins := { h1.pins with fault := true, computeOn := false }
      tray := { h1.tray with pcRequest := true } } 0x047 trigger.toNat []
    let h3 := allPorts.foldl portOff h2
    (h3.setReg 0xC0090 (put trigger.toNat 0 8 ||| bitw true 63)).emit .i3cIbi

/-- The trip latches its cause, asserts THERMTRIP# and FAULT#, stops the compute dies and asks for the power
cycle (R471, R504); no fault class triggers it, so its class is 0. -/
def trip (h : Hw) (cause sensor : Nat) : Hw :=
  if h.thm.tripped then h
  else
    let h1 := throttling h (fun g => { g with
      thm := { g.thm with tripped := true }, pins := { g.pins with thermtrip := true, fault := true } })
    let h2 := (h1.setReg 0x80030 (put cause 0 3 ||| put sensor 3 8 ||| bitw true 63)).emit .i3cIbi
    powerCycle h2 0

/-! ### Starting a recovery (R497, R506) -/

/-- Fault class codes that a chapter assigns (Tables 0-6, 1-7, 2-7, 3-12, 4-12, 5-2, 6-6, 9-6, 10-7, 11-4, 12-8,
16-3 and R441); the module reports no other (R6, R66, R158). -/
def assignedClass (c : BitVec 8) : Bool :=
  let n := c.toNat
  ([(1, 6), (0x10, 0x17), (0x20, 0x2A), (0x30, 0x3A), (0x40, 0x44), (0x48, 0x4A), (0x50, 0x55), (0x60, 0x64),
    (0x70, 0x72)] : List (Nat × Nat)).any (fun r => decide (r.1 ≤ n ∧ n ≤ r.2))

/-- What may be named as the trigger of a recovery: an assigned class, or 0 where no fault class names the cause. -/
def triggerOk (c : BitVec 8) : Bool := c == 0 || assignedClass c

def recLevel : RecUnit → BitVec 3
  | .engine _ => 1
  | .partition _ => 2
  | .chip => 3

/-- Scope `a` lies within scope `b`. -/
def recWithin : RecUnit → RecUnit → Bool
  | _, .chip => true
  | .engine e, .partition p => partOf e == p
  | a, b => a == b

/-- Easels of a unit that are enabled at this start. -/
def unitEasels (h : Hw) : RecUnit → List EaselId
  | .engine e => [e]
  | .partition p => (partEasels p).filter h.bru.enabled.contains
  | .chip => h.bru.enabled

/-- The reset of a unit takes unvarnished sketch data of the context with it: a partition's takes its whole pool (R502). -/
def unitSketch (h : Hw) (u : RecUnit) (c : CtxId) : Bool :=
  match u with
  | .partition p => h.sk.slots.any (fun s => s.part == p && s.ctx == c)
  | _ => false

/-- Contexts that a reset of a unit covers: the loaded ones, those with sketch data in a partition's pool, and for the
chip every context (R491, R492, R502). -/
def unitCtxs (h : Hw) (u : RecUnit) : List CtxId :=
  match u with
  | .chip => allCtx.filter (fun c => (h.ctx c).state != 0)
  | u => allCtx.filter (fun c => unitSketch h u c || (unitEasels h u).any (fun e => (h.easel e).loaded == some c))

/-- The mask of a list of contexts. -/
def ctxMask (l : List CtxId) : Word := l.foldl (fun w c => w ||| bitw true c.val) 0

/-- Records a fault of a context caused by a reset; the reset's capture covers it (R491, R501). -/
def resetFault (h : Hw) (c : CtxId) (cls : BitVec 8) : Hw :=
  let x := h.ctx c
  if x.state = 0 ∨ x.state = 7 ∨ x.faults ≠ [] then h
  else stopFaulted (perfAdd h c 13 1) c { FaultRec.blank h.ftcNow cls 8 with ctx := some c }

/-- A partition reset takes state that a context still needed: 0x72, after its primary fault where it has one,
once (R491, R502). -/
def lostFault (h : Hw) (c : CtxId) : Hw :=
  let l := (h.ctx c).faults
  if l = [] then resetFault h c 0x72
  else if l.any (fun r => r.cls == 0x72) then h
  else recordFault h { FaultRec.blank h.ftcNow 0x72 8 with ctx := some c }

/-- Chip-level recovery ends every command in progress with 0x05 and tells the PF (R503). -/
def abortCommands (h : Hw) (trigger : BitVec 8) : Hw :=
  let fns := h.hif.fns.map (fun p => (Fin.ofNat 64 p.1 : FnId))
  let h1 := fns.foldl (fun g f =>
    ((g.fn f).inProgress.foldl (fun g2 r => if r.silent then g2 else complete g2 f r.cmd 5 0) g).modFn f
      (fun x => { x with inProgress := [], fetched := [], running := false })) h
  writeEvent h1 0x045 none (trigger.setWidth 32) h1.ftcNow [] 0

/-- The decision to recover a unit: captures of the contexts it covers that are being written are cut short (that of
the very fault that starts an engine's recovery goes on), its easels stop, its capture
opens, contexts loaded there fault with 0x72; at chip level FAULT# is asserted and commands end (R495, R501–R503). -/
def beginRecovery (h : Hw) (u : RecUnit) (trigger : BitVec 8) (cmds : List (FnId × Nat)) : Hw :=
  let cs := unitCtxs h u
  let es := unitEasels h u
  let easel : BitVec 8 := match u with
    | .engine e => BitVec.ofNat 8 e.val
    | _ => 0xFF
  let parts : BitVec 4 := match u with
    | .engine _ => 0
    | .partition p => 1#4 <<< p.val
    | .chip => 0xF
  let g := closeWhere h (fun k => k.level == 0 && (k.contexts &&& ctxMask cs) != 0 &&
    (k.ftcStart != h.ftcNow || recLevel u != 1)) true
  let h0 := { g with flt := { g.flt with
    recoveries := g.flt.recoveries ++ [{ unit := u, trigger := trigger, start := h.now, cmds := cmds }] } }
  let h1 := openCapture (es.foldl (fun g e => g.modEasel e (fun x => { x with stopped := true })) h0)
    (recLevel u) trigger (ctxMask cs) easel parts
  match u with
  | .chip =>
    let h2 := abortCommands { h1 with
      pins := { h1.pins with fault := true }, memctl := { h1.memctl with selfRefresh := true }
      pwr := { h1.pwr with idle := 0, quietSince := none } } trigger
    throttleStep (throttled h) { h2 with bru := { h2.bru with ready := false } }
  | .partition _ => cs.foldl lostFault h1
  | .engine _ => cs.foldl (fun g c => resetFault g c 0x72) h1

/-- The recoveries within a unit give way to its own: their captures are cut short and their commands end
with it (R495, R506). -/
def preempt (h : Hw) (u : RecUnit) (trigger : BitVec 8) (cmds : List (FnId × Nat)) : Hw :=
  let gone := h.flt.recoveries.filter (fun r => recWithin r.unit u)
  let h1 := closeWhere h (fun c => c.level != 0 && decide (c.level < (recLevel u)) &&
    (u == .chip || gone.any (fun r => r.unit == .engine (Fin.ofNat 208 c.easel.toNat)))) true
  beginRecovery { h1 with flt := { h1.flt with
    recoveries := h1.flt.recoveries.filter (fun r => !recWithin r.unit u) } } u trigger
    (gone.flatMap (·.cmds) ++ cmds)

/-- A command that asks for a level which a recovery in progress covers waits for its end (R506). -/
def joinRecovery (h : Hw) (u : RecUnit) (cmds : List (FnId × Nat)) : Hw :=
  { h with flt := { h.flt with
      recoveries := h.flt.recoveries.map (fun r =>
        if recWithin u r.unit then { r with cmds := r.cmds ++ cmds } else r) } }

/-- A fault that needs recovery of the chip (R506). -/
def chipFault (h : Hw) (trigger : BitVec 8) (cmds : List (FnId × Nat)) : Hw :=
  if h.flt.powerCycle then h
  else if h.chipRec then powerCycle h trigger
  else preempt h .chip trigger cmds

/-- A fault, or a command, that needs recovery of a partition (R506). -/
def partitionFault (h : Hw) (p : PartId) (trigger : BitVec 8) (cmds : List (FnId × Nat)) : Hw :=
  if h.flt.powerCycle then h
  else if h.flt.recoveries.any (fun r => recWithin (.partition p) r.unit) then joinRecovery h (.partition p) cmds
  else preempt h (.partition p) trigger cmds

/-- A fault, or a command, that needs recovery of an easel: a second fault of the easel in recovery, and a
third engine recovery in one partition within 1 s, need the partition's (R497, R506). -/
def engineFaultRec (h : Hw) (e : EaselId) (trigger : BitVec 8) (cmds : List (FnId × Nat)) : Hw :=
  let p := partOf e
  if h.flt.powerCycle then h
  else if h.flt.recoveries.any (fun r => r.unit != .engine e && recWithin (.engine e) r.unit) then
    joinRecovery h (.engine e) cmds
  else if h.flt.recoveries.any (fun r => r.unit == .engine e) then
    if cmds.isEmpty then partitionFault h p trigger [] else joinRecovery h (.engine e) cmds
  else
    let recent := h.flt.engHistory.filter (fun q => decide (h.now < q.1 + 1000000000))
    let h1 := { h with flt := { h.flt with engHistory := recent ++ [(h.now, p.val)] } }
    if 2 ≤ (recent.filter (fun q => q.2 == p.val)).length then partitionFault h1 p trigger cmds
    else beginRecovery h1 (.engine e) trigger cmds

/-- Starts the recovery of a unit, or what R506 makes of it. -/
def startRecovery (h : Hw) (u : RecUnit) (trigger : BitVec 8) (cmds : List (FnId × Nat)) : Hw :=
  match u with
  | .engine e => engineFaultRec h e trigger cmds
  | .partition p => partitionFault h p trigger cmds
  | .chip => chipFault h trigger cmds

/-- An uncorrectable word in a firmware-owned area (R505): 0 firmware code or data, 2 the capture area. -/
def firmwareUe (h : Hw) (off : Nat) (cls : BitVec 8) : Hw :=
  let inCap := decide (0xBFC0000000 ≤ off ∧ off < 0xC000000000) || decide (0x107EC000000 ≤ off ∧ off < 0x107F0000000)
  if inCap then
    raiseEv { h with flt := { h.flt with captures := h.flt.captures.map (fun c =>
      if c.offset ≤ off ∧ off < c.offset + c.bytes ∧ !c.dropped ∧ !c.isOpen then { c with damaged := true } else c) } }
      0x048 (cls.toNat + 2 * 256) [BitVec.ofNat 64 off]
  else chipFault (raiseEv h 0x048 cls.toNat [BitVec.ofNat 64 off]) cls []

/-- The context whose save area holds a page. -/
def saveOwner (h : Hw) (p : Nat) : Option CtxId := allCtx.find? (fun c => (h.ctx c).savePages.contains p)

/-- An uncorrectable word met by a reader that acts for no context: handled by where it lies (R162, R505). -/
def ueFound (h : Hw) (off : Nat) : Hw :=
  match pageOf off with
  | some p =>
    (match h.owner p with
      | .firmware =>
        let cls := memClass off
        let h1 := logMemError (countMemError h off 1 true) off cls
        (match saveOwner h p with
          | some c => recordFault h1 { FaultRec.blank h.ftcNow 3 7 with ctx := some c, addr := BitVec.ofNat 64 off }
          | none => firmwareUe h1 off cls)
      | _ => reportUe h off none)
  | none => reportUe h off none

/-- POWER_CYCLE_REQUEST: recovery needs a power cycle: chip recovery failed or a chip-level fault met one in
progress (R497, R504).  A reserved trigger class is none that the module reports (R6). -/
def execPowerCycleRequest (trigger : BitVec 8) (s : State) : Host.Outcome State Fault Refusal :=
  run s (fun h => if h.chipRec && triggerOk trigger then powerCycle h trigger else h)

/-- Time that a level may take before the next (Table 16-6). -/
def recLimit : RecUnit → Nat
  | .engine _ => 1000000
  | .partition _ => 100000000
  | .chip => 4000000000

/-- RECOVERY_ESCALATION_TIMEOUT: a recovery that has not ended within its level's time goes to the next
level (Table 16-6). -/
def execRecoveryEscalationTimeout (u : RecUnit) (s : State) : Host.Outcome State Fault Refusal :=
  run s (fun h =>
    match h.flt.recoveries.find? (fun r => r.unit == u) with
    | some r =>
      if h.now < r.start + recLimit u then h
      else (match u with
        | .engine e => partitionFault h (partOf e) r.trigger []
        | .partition _ => chipFault h r.trigger []
        | .chip => powerCycle h r.trigger)
    | none => h)

/-- CP_SILENCE_TIMEOUT: a command-processor core silent for 10 ms starts chip-level recovery (R497); no fault
class names it, so its trigger class is 0. -/
def execCpSilenceTimeout (_core : Fin 8) (s : State) : Host.Outcome State Fault Refusal :=
  run s (fun h => chipFault h 0 [])

/-- ENGINE_BOUNDARY_TIMEOUT: an engine that does not reach its boundary within 100 µs of a stop starts
engine-level recovery (R497); it concerns an easel that has been stopped so long with an instruction executing. -/
def execEngineBoundaryTimeout (e : EaselId) (s : State) : Host.Outcome State Fault Refusal :=
  run s (fun h =>
    let x := h.easel e
    if h.up e && x.stopped && decide (100000 ≤ x.stopNs) && (x.me ++ x.vu ++ x.ce).any (·.started) then engineFaultRec h e 0 [] else h)

end Sys2Proof.Machine
end

