-- ==== Sys2Proof/Machine/MemEvents.lean ====
section
/-! DEFINITION. What the memories do on their own: Canvas refresh, LPDDR6 channels and temperature, and the
patrol scrub (R173–R194). -/

namespace Sys2Proof.Machine

/-! ### Canvas refresh (R173–R175) -/

def Hw.canvasSensor (h : Hw) (n : Nat) : Sensor := SMap.get Sensor.init h.thm.canvas n

def Hw.setCanvasSensor (h : Hw) (n : Nat) (x : Sensor) : Hw :=
  { h with thm := { h.thm with canvas := SMap.put h.thm.canvas n x } }

/-- What a Canvas sensor counts for in refresh: a failed one reads 105 °C (R175). -/
def refreshReading (x : Sensor) : Int := if x.failed then 105 else x.reading

/-- The sensors of a Canvas stack. -/
def dieSensors (h : Hw) (d : Fin 2) : List Sensor := (List.range 16).map (fun i => h.canvasSensor (16 * d.val + i))

/-- Sets a stack's refresh from its sensors: doubled above 85 °C, and the time since which all read 82 °C or
less. -/
def refreshFrom (h : Hw) (d : Fin 2) : Hw :=
  let l := (dieSensors h d).map refreshReading
  let m := h.memctl
  let hot := l.any (fun t => decide (85 < t))
  let cool := l.all (fun t => decide (t ≤ 82))
  { h with memctl := { m with
      refresh2x := if hot then m.refresh2x ||| (1#2 <<< d.val) else m.refresh2x
      coolSince := if !cool then SMap.del m.coolSince d.val
                   else if (SMap.find m.coolSince d.val).isSome then m.coolSince
                   else SMap.put m.coolSince d.val h.now } }

/-- CANVAS_TEMP_SAMPLE: a reading may double the refresh, or start the trip at 105 °C (R173, R174). -/
def execCanvasTempSample (sensor : Fin 32) (reading : Int) (s : State) : Host.Outcome State Fault Refusal :=
  run s (fun h =>
    let x := { h.canvasSensor sensor.val with reading := reading }
    let h1 := refreshFrom (h.setCanvasSensor sensor.val x) (Fin.ofNat 2 (sensor.val / 16))
    if !x.failed && decide (105 ≤ reading) then trip h1 1 sensor.val else h1)

/-- CANVAS_REFRESH_RESTORE: every sensor of the stack has read 82 °C or less for 10 ms (R173). -/
def execCanvasRefreshRestore (die : Fin 2) (s : State) : Host.Outcome State Fault Refusal :=
  run s (fun h =>
    match SMap.find h.memctl.coolSince die.val with
    | some t =>
      if h.now < t + 10000000 then h
      else { h with memctl := { h.memctl with refresh2x := h.memctl.refresh2x &&& ~~~(1#2 <<< die.val) } }
    | none => h)

/-! ### LPDDR6 (R180, R184) -/

/-- LPDDR6_RECENTRE: a pause of at most 250 ns; requests wait and do not fail (R180). -/
def execLpddr6Recentre (_ch : Fin 96) (s : State) : Host.Outcome State Fault Refusal := run s id

/-- Channel `ch` is marked down: event 0x084 with bit 8, and chip-level recovery (R180, R497). -/
def channelDown (h : Hw) (ch : Fin 96) : Hw :=
  let h1 := { h with memctl := { h.memctl with
    chLost := SMap.del h.memctl.chLost ch.val, chUp := h.memctl.chUp &&& ~~~(1#96 <<< ch.val) } }
  chipFault (raiseEv h1 0x084 (ch.val + 256) []) 0x06 []

/-- LPDDR6_CHANNEL_RETRAIN: a channel loses training and is retrained, or its retrain ends (R180). -/
def execLpddr6ChannelRetrain (ch : Fin 96) (phase : RetrainPhase) (s : State) :
    Host.Outcome State Fault Refusal :=
  run s (fun h =>
    let losing := (SMap.find h.memctl.chLost ch.val).isSome
    match phase with
    | .lost =>
      if losing || !h.memctl.chUp.getLsbD ch.val then h
      else ({ h with memctl := { h.memctl with chLost := SMap.put h.memctl.chLost ch.val h.now } }).count
        (blkBase (.lpm (Fin.ofNat 2 (ch.val / 48))) + 0x50) 1
    | .done =>
      if !losing then h
      else raiseEv { h with memctl := { h.memctl with chLost := SMap.del h.memctl.chLost ch.val } } 0x084 ch.val []
    | .failed => if losing then channelDown h ch else h)

/-- LPDDR6_RETRAIN_TIMEOUT: requests to the channel have waited for 2 ms (R180). -/
def execLpddr6RetrainTimeout (ch : Fin 96) (s : State) : Host.Outcome State Fault Refusal :=
  run s (fun h =>
    match SMap.find h.memctl.chLost ch.val with
    | some t => if t + 2000000 ≤ h.now then channelDown h ch else h
    | none => h)

/-- LPDDR6_TEMP_READ: a package's temperature; 95 °C or more raises event 0x083, and a package beyond its
range or unreadable is refreshed at the highest rate until chip-level reset, any other as it requests (R184). -/
def execLpddr6TempRead (pkg : Fin 24) (reading : PkgTemp) (s : State) : Host.Outcome State Fault Refusal :=
  run s (fun h =>
    let high := { h with memctl := { h.memctl with pkgHigh := h.memctl.pkgHigh ||| (1#24 <<< pkg.val) } }
    let store := fun (g : Hw) (t : Nat) =>
      let g1 := { g with memctl := { g.memctl with pkgTemp := SMap.put g.memctl.pkgTemp pkg.val t } }
      if 95 ≤ t then raiseEv g1 0x083 (pkg.val + Nat.min t 255 * 65536) [] else g1
    match reading with
    | .celsius t rate => store { h with memctl := { h.memctl with pkgRate := SMap.put h.memctl.pkgRate pkg.val rate } } t
    | .beyondRange t => store high t
    | .unreadable => raiseEv high 0x083 (pkg.val + 256) [])

/-! ### Patrol scrub (R186–R188) -/

/-- First offset and number of words of a scrubbed memory. -/
def scrubRange : ScrubMem → Nat × Nat
  | .palette e => (palBase e.val, 0x40000)
  | .canvas d => (0x10000000000 + d.val * 0x800000000, 0x100000000)
  | .lpddr6 => (0, 0x1800000000)

/-- Key of a memory's scrub position. -/
def scrubKey : ScrubMem → Nat
  | .palette e => e.val
  | .canvas d => 208 + d.val
  | .lpddr6 => 210

/-- Counts a corrected word of a 1 KiB region of Canvas or LPDDR6, and raises event 0x081 when the count
reaches the block's threshold (R188). -/
def regionError (h : Hw) (off : Nat) : Hw :=
  let k := off / 1024
  let n := SMap.get 0 h.memctl.regionCe k + 1
  let h1 := { h with memctl := { h.memctl with regionCe := SMap.put h.memctl.regionCe k n } }
  let lp := isLp off
  let thr := if lp then wfld (h.breg (.lpm (Fin.ofNat 2 (lpChannel off / 48))) 0x48) 0 16
             else wfld (h.breg (.cnv (Fin.ofNat 2 ((off - 0x10000000000) / 0x800000000))) 0x50) 0 16
  if thr ≠ 0 ∧ n = thr then
    raiseEv h1 0x081 (if lp then 1 + 2 * lpChannel off else 2 * ((off - 0x10000000000) / 0x800000000))
      [BitVec.ofNat 64 (k * 1024)]
  else h1

/-- The scrub corrects a word where it stands, counted and logged (R160, R161). -/
def scrubWord (h : Hw) (off : Nat) : Hw :=
  logMemError (countMemError { h with mem := { h.mem with ecc := SMap.del h.mem.ecc (off / 8) } } off 1 false) off 0

/-- PATROL_SCRUB_READ: the scrub reads the next word of a memory, where `errors.bits` bits have turned since it
was last checked, and applies R160–R163; a pass that ends forgets its region counts (R186–R188).  With `errors.path` the
next crossing of the word on an on-die path will fail (R164): the scrub read is where errors appear in the model
(assumption 120). -/
def execPatrolScrubRead (m : ScrubMem) (errors : WordErrors) (s : State) : Host.Outcome State Fault Refusal :=
  run s (fun h =>
    let (base, n) := scrubRange m
    let pal := isPal base
    if h.memctl.selfRefresh && !pal then h
    else
      let i := SMap.get 0 h.memctl.scrubPos (scrubKey m) % n
      let off := base + 8 * i
      let e := SMap.get 0 h.mem.ecc (off / 8) + errors.bits
      let h1 := { h with
        mem := { h.mem with ecc := SMap.set 0 h.mem.ecc (off / 8) e
                            path := if errors.path then (off / 8) :: h.mem.path.filter (· != off / 8) else h.mem.path }
        memctl := { h.memctl with scrubPos := SMap.put h.memctl.scrubPos (scrubKey m) ((i + 1) % n) } }
      let h2 := if 3 ≤ e then ueFound h1 off
        else if e = 0 then h1
        else if pal then scrubWord h1 off
        else regionError (scrubWord h1 off) off
      if i + 1 = n ∧ !pal then
        { h2 with memctl := { h2.memctl with
            regionCe := SMap.eraseRange h2.memctl.regionCe (base / 1024) ((base + 8 * n) / 1024) } }
      else h2)

end Sys2Proof.Machine
end

