-- ==== Sys2Proof/Machine/Power.lean ====
section
/-! DEFINITION. Power measurement, the limiting loops, boost and the protective responses (R452–R463). -/

namespace Sys2Proof.Machine

/-- The variant's power limit in watts (Table 0-1). -/
def variantW (h : Hw) : Nat := if h.pins.variant1800 then 1800 else 2400

/-- A cap as stored (R456). -/
def clampCap (h : Hw) (w : Nat) : Nat := Nat.max 1200 (Nat.min (variantW h) w)

/-- A cap in force, in 0.1 W: the lower of the register and the tray controller's cap (R456); a short limit below
the sustained one is both (Table 1-11). -/
def capInForce (h : Hw) (off : Nat) : Nat :=
  let own := Nat.min (wfld (h.reg off) 0 12) (wfld (h.reg 0x70020) 0 12)
  let t := h.reg 0xC0018
  10 * (if bit t 12 then Nat.min own (wfld t 0 12) else own)

/-- The active supervisor, where it writes outputs (R474). -/
def supWrites (h : Hw) : Bool :=
  match h.sup.holder with
  | some i => if i = 0 then h.sup.s0.writing else h.sup.s1.writing
  | none => false

/-- The thermal zone of an easel, 24 × die + z (R467). -/
def zoneOf (e : EaselId) : Nat :=
  let r := e.val % 104 / 13
  let c := e.val % 13
  24 * (e.val / 104) + 6 * (r / 2) + Nat.min (c / 2) 5

def Hw.zone (h : Hw) (z : Nat) : Sensor := SMap.get Sensor.init h.thm.junction z

def Hw.setZone (h : Hw) (z : Nat) (x : Sensor) : Hw :=
  { h with thm := { h.thm with junction := SMap.put h.thm.junction z x } }

/-- Sets every easel's clock to the target, or to the fallback's cap (R459, R470). -/
def setClocks (h : Hw) (mhz : Nat) : Hw :=
  let h1 := { h with pwr := { h.pwr with target := mhz } }
  h1.bru.enabled.foldl (fun g e => g.modEasel e (fun x => { x with
    clockMhz := if h1.thm.fallback then 1600 else mhz })) h1

/-- The boost target returns to 2.1 GHz at once (R460). -/
def boostDrop (h : Hw) : Hw := if h.pwr.target = 2100 then h else setClocks h 2100

/-- F_pwr, the lowest of the three loops' outputs (Table 15-6). -/
def fPwr (h : Hw) : Nat := Nat.min h.pwr.fFast (Nat.min h.pwr.fShort h.pwr.fSust)

/-- F_lim is below 64 on some easel. -/
def limLow (h : Hw) : Bool := h.bru.enabled.any (fun e => decide ((h.easel e).flim < 64))

/-- Sets F_lim of every easel from the loops and its zone; a loop output below 64 drops boost (R457, R460). -/
def setFlims (h : Hw) : Hw :=
  let h0 := { h with tray := { h.tray with fMin := Nat.min h.tray.fMin (fPwr h) } }
  let g := h.bru.enabled.foldl (fun g e => g.modEasel e (fun x => { x with
    flim := Nat.min (fPwr h) (h.zone (zoneOf e)).fthm })) h0
  let h1 := if limLow h || limLow g then { g with pwr := { g.pwr with limLowAt := some h.now } } else g
  if fPwr h < 64 ∨ h.thm.junction.any (fun p => decide (p.2.fthm < 64)) then boostDrop h1 else h1

/-- A valid junction sensor reads at least `t`. -/
def junctionAt (h : Hw) (t : Int) : Bool := h.thm.junction.any (fun p => !p.2.failed && decide (t ≤ p.2.reading))

/-- Notes when a valid junction sensor last read above 85 °C (R460). -/
def noteHot (h : Hw) : Hw := if junctionAt h 86 then { h with pwr := { h.pwr with hotAt := some h.now } } else h

/-! ### Loops (R452–R457) -/

/-- A loop's output from its window (R457); `limit` in 0.1 W.  f_avg is the mean over the easels that worked. -/
def loopOutput (prev : Nat) (win : List PSample) (limit rise : Nat) : Nat :=
  let n := win.length
  let p : Nat := (win.map (·.p)).foldl (· + ·) 0
  let me : Nat := (win.map (·.me)).foldl (· + ·) 0
  let busy : Nat := (win.map (·.busy)).foldl (· + ·) 0
  let f : Nat := if busy = 0 then 64 else (win.map (·.f)).foldl (· + ·) 0
  if n = 0 ∨ me = 0 then Nat.min 64 (prev + rise)
  else
    let allowed : Int := ((limit * n + me : Nat) : Int) - (p : Int)
    let v : Int := Int.fdiv ((f : Int) * allowed) ((Nat.max busy 1 * me : Nat) : Int)
    let f1 := (max 1 (min 64 v)).toNat
    if f1 ≤ prev then f1 else Nat.min f1 (prev + rise)

/-- Applied F of the easels whose ME has an instruction executing that no collective holds: its sum, and their
number (R457). -/
def appliedF (h : Hw) : Nat × Nat :=
  let l := h.bru.enabled.filter (fun e => match (h.easel e).me with
    | q :: _ => q.started && !(h.col.slots.any (fun p => p.2.ctx == q.ctx))
    | [] => false)
  ((l.map (easelF h)).foldl (· + ·) 0, l.length)

/-- Means of P and P_me, and the applied F, of the newest `n` samples of a window. -/
def meanSample (l : List PSample) (n : Nat) : PSample :=
  let w := l.take n
  let k := Nat.max w.length 1
  { p := (w.map (·.p)).foldl (· + ·) 0 / k
    me := (w.map (·.me)).foldl (· + ·) 0 / k
    f := (w.map (·.f)).foldl (· + ·) 0
    busy := (w.map (·.busy)).foldl (· + ·) 0 }

/-- POWER_ESTIMATE: the weighted activity and its ME part in 0.1 W, before the gain, give P_est and P_me, and
the fast loop its output, raised by at most 1 per 10 µs (R452, R457). -/
def execPowerEstimate (est : Nat) (me : Nat) (s : State) : Host.Outcome State Fault Refusal :=
  run s (fun h => throttling h (fun h =>
    let x : PSample := { p := est * h.pwr.gain / 16384, me := me * h.pwr.gain / 16384,
                         f := (appliedF h).1, busy := (appliedF h).2 }
    let win := (x :: h.pwr.estWin).take 1000
    let rise := if h.pwr.fFastRaise + 10000 ≤ h.now then 1 else 0
    let f := loopOutput h.pwr.fFast (win.take 10) (variantW h * 12) rise
    setFlims { h with pwr := { h.pwr with
      estWin := win, est := (meanSample win 10).p, me := x.me, fFast := f
      fFastRaise := if h.pwr.fFast < f then h.now else h.pwr.fFastRaise } }))

/-- POWER_MEASURE: a 1 ms sample of the input, with the estimator's means over the same time (R453). -/
def execPowerMeasure (mv : Nat) (ma : Nat) (s : State) : Host.Outcome State Fault Refusal :=
  run s (fun h =>
    let m := meanSample h.pwr.estWin 1000
    { h with pwr := { h.pwr with
        vinMv := mv, iin10ma := ma / 10, energy := h.pwr.energy + mv * ma
        measWin := ({ p := mv * ma / 100000, me := m.me, f := m.f, busy := m.busy } :: h.pwr.measWin).take 1000
        estMean := (m.p :: h.pwr.estMean).take 10 } })

/-- GAIN_RECALIBRATE: every 10 ms the active supervisor corrects the gain (R454). -/
def execGainRecalibrate (s : State) : Host.Outcome State Fault Refusal :=
  run s (fun h =>
    let meas := (meanSample h.pwr.measWin 10).p
    let e := h.pwr.estMean.foldl (· + ·) 0 / Nat.max h.pwr.estMean.length 1
    if !supWrites h || decide (meas < 3000) || e == 0 then h
    else
      let g := h.pwr.gain
      let u := g * meas / e
      if u * 10 < 16384 * 8 ∨ 16384 * 125 < u * 100 then raiseEv h 0x013 u []
      else { h with pwr := { h.pwr with gain := Nat.max (g * 95 / 100) (Nat.min (g * 105 / 100) u) } })

/-- SHORT_LOOP_UPDATE: every 1 ms, over a 10 ms window (Table 15-1). -/
def execShortLoopUpdate (s : State) : Host.Outcome State Fault Refusal :=
  run s (fun h =>
    if !supWrites h then h
    else throttling h (fun h => setFlims { h with pwr := { h.pwr with
      fShort := loopOutput h.pwr.fShort (h.pwr.measWin.take 10) (capInForce h 0x70020) 4 } }))

/-- SUSTAINED_LOOP_UPDATE: every 10 ms, over a 1 s window (Table 15-1). -/
def execSustainedLoopUpdate (s : State) : Host.Outcome State Fault Refusal :=
  run s (fun h =>
    if !supWrites h then h
    else throttling h (fun h => setFlims { h with pwr := { h.pwr with
      fSust := loopOutput h.pwr.fSust h.pwr.measWin (capInForce h 0x70018) 4 } }))

/-- A clamp or cut of Table 15-2 acts. -/
def clamped (h : Hw) : Bool :=
  h.pwr.pinWarn || h.pwr.uvWarn || h.pwr.leakWet || h.pwr.leakPins != 0 || h.pwr.droop != 0

/-- A time lies within the last millisecond. -/
def lastMs (h : Hw) (t : Option Nat) : Bool := t.any (fun n => decide (h.now < n + 1000000))

/-- BOOST_TARGET_UPDATE: once per 1 ms the clock target rises by 50 MHz, falls by 100 MHz or drops to 2.1 GHz
(R459, R460). -/
def execBoostTargetUpdate (s : State) : Host.Outcome State Fault Refusal :=
  run s (fun h =>
    let t := h.pwr.target
    if !supWrites h then h
    else if !bit (h.reg 0x70028) 0 || h.pins.variant1800 || h.thm.fallback || clamped h || junctionAt h 90 ||
        decide (fPwr h < 64) || h.thm.junction.any (fun p => decide (p.2.fthm < 64)) then boostDrop h
    else if capInForce h 0x70020 < (meanSample h.pwr.measWin 10).p + 1500 then setClocks h (Nat.max 2100 (t - 100))
    else if lastMs h h.pwr.limLowAt || lastMs h h.pwr.hotAt || junctionAt h 86 then h
    else setClocks h (Nat.min 2400 (t + 50)))

/-- THROTTLE_INTERVAL_END: nothing has throttled for 10 µs: the interval ends there, and its entry goes into the
log of 64 (R461, Table 15-6). -/
def execThrottleIntervalEnd (s : State) : Host.Outcome State Fault Refusal :=
  run s (fun h =>
    if !h.pwr.thrOpen || throttled h || decide (h.now < h.pwr.thrLast + 10000) then h
    else
      let e : TLog := { start := h.pwr.thrStart, duration := h.ftcNow - h.pwr.thrStart,
                        fMin := h.pwr.thrMin, cause := h.pwr.thrCause }
      { h with pwr := { h.pwr with
          thrOpen := false, tlog := (e :: h.pwr.tlog).take 64
          tlogNewest := if h.pwr.tlog.isEmpty then 0 else h.pwr.tlogNewest + 1 } })

/-- Stores a power cap (R456). -/
def writeCap (h : Hw) (short : Bool) (w : Nat) : Hw :=
  h.setReg (if short then 0x70020 else 0x70018) (BitVec.ofNat 64 (clampCap h w))

/-! ### Protective responses (R463) -/

/-- One more clamp of Table 15-2. -/
def countClamp (h : Hw) : Hw := h.count 0x70080 1

/-- PWRWARN_ASSERT: F_warn = 16 and the boost target at 2.1 GHz (Table 15-2). -/
def execPwrwarnAssert (s : State) : Host.Outcome State Fault Refusal :=
  run s (fun h =>
    if h.pwr.pinWarn then h
    else throttling h (fun h => countClamp (boostDrop { h with pwr := { h.pwr with pinWarn := true } })))

/-- PWRWARN_RELEASE: hold_us after deassertion. -/
def execPwrwarnRelease (s : State) : Host.Outcome State Fault Refusal :=
  run s (fun h => throttling h (fun h => { h with pwr := { h.pwr with pinWarn := false } }))

/-- UNDERVOLTAGE_WARNING: the input has been below uv_mv for 10 µs; as PWRWARN#, with event 0x011. -/
def execUndervoltageWarning (mv : Nat) (s : State) : Host.Outcome State Fault Refusal :=
  run s (fun h =>
    if h.pwr.uvWarn || decide (wfld (h.reg 0x70038) 16 16 ≤ mv) then h
    else throttling h (fun h =>
      raiseEv (countClamp (boostDrop { h with pwr := { h.pwr with uvWarn := true } })) 0x011 mv []))

/-- UNDERVOLTAGE_RELEASE: the input has been 1,000 mV above uv_mv for hold_us. -/
def execUndervoltageRelease (s : State) : Host.Outcome State Fault Refusal :=
  run s (fun h => throttling h (fun h => { h with pwr := { h.pwr with uvWarn := false } }))

/-- DROOP_CUT: F_warn = 0 on a compute die's easels; counted. -/
def execDroopCut (die : Fin 2) (s : State) : Host.Outcome State Fault Refusal :=
  run s (fun h =>
    if h.pwr.droop.getLsbD die.val then h
    else throttling h (fun h =>
      (boostDrop { h with pwr := { h.pwr with droop := h.pwr.droop ||| (1#2 <<< die.val) } }).count 0x70088 1))

/-- DROOP_RELEASE: the supply has been within the threshold for 500 ns. -/
def execDroopRelease (die : Fin 2) (s : State) : Host.Outcome State Fault Refusal :=
  run s (fun h => throttling h (fun h =>
    { h with pwr := { h.pwr with droop := h.pwr.droop &&& ~~~(1#2 <<< die.val) } }))

/-- The module's hold time after a deassertion, in nanoseconds (Table 15-2). -/
def holdNs (h : Hw) : Nat := wfld (h.reg 0x70038) 0 16 * 1000

/-- A tray leak pin changes: the clamp with event 0x01B, or its release after the hold time (Table 15-2). -/
def leakPin (h : Hw) (pin : Nat) (on : Bool) : Hw :=
  let i := pin - 1
  if on then
    throttling h (fun h => raiseEv (countClamp (boostDrop { h with pwr := { h.pwr with
      leakPins := h.pwr.leakPins ||| (1#2 <<< i), leakPinEnd := SMap.del h.pwr.leakPinEnd i } })) 0x01B (2 ^ i) [])
  else { h with pwr := { h.pwr with leakPinEnd := SMap.put h.pwr.leakPinEnd i (h.now + holdNs h) } }

/-- Leak pins whose hold time has passed are released. -/
def leakPinsDue (h : Hw) : Hw :=
  (h.pwr.leakPinEnd.filter (fun p => decide (p.2 ≤ h.now))).foldl (fun g p => throttling g (fun g =>
    { g with pwr := { g.pwr with
        leakPins := g.pwr.leakPins &&& ~~~(1#2 <<< p.1), leakPinEnd := SMap.del g.pwr.leakPinEnd p.1 } })) h

/-- PIN_FILTER_ACCEPT: a board pin's new level is accepted and raises its source (R404); the leak pins clamp
under this filter (Table 15-2). -/
def execPinFilterAccept (pin : Fin 4) (asserted : Bool) (s : State) : Host.Outcome State Fault Refusal :=
  run s (fun h =>
    if h.evc.level.getLsbD pin.val == asserted then h
    else
      let l := if asserted then h.evc.level ||| (1#4 <<< pin.val) else h.evc.level &&& ~~~(1#4 <<< pin.val)
      let h1 := raiseEv { h with evc := { h.evc with level := l } } pin.val (b2n asserted) []
      if pin = 1 ∨ pin = 2 then leakPin h1 pin.val asserted else h1)

end Sys2Proof.Machine
end

