-- ==== Sys2Proof/Machine/Thermal.lean ====
section
/-! DEFINITION. Leak sensing, the thermal loop, sensors and the trip, and the package supervisors (R467–R479). -/

namespace Sys2Proof.Machine

/-! ### Leak traces (R472, R473) -/

def leakCode : LeakCode → Nat
  | .dry => 0
  | .wet => 1
  | .openFault => 2
  | .excitation => 3

def Hw.leakReported (h : Hw) (t : Nat) : LeakCode := SMap.get .dry h.thm.reported t

/-- Bits [3:0] of THM_LEAK. -/
def leakWord (h : Hw) : Nat := leakCode (h.leakReported 0) + 4 * leakCode (h.leakReported 1)

/-- One measurement of a trace: a changed state is counted while it persists (R472). -/
def measureTrace (h : Hw) (t : Nat) (c : LeakCode) : Hw :=
  if c = h.leakReported t then { h with thm := { h.thm with seen := SMap.put h.thm.seen t 0 } }
  else
    let same := SMap.find h.thm.candidate t == some c
    let n := if same then SMap.get 0 h.thm.seen t + 1 else 1
    { h with thm := { h.thm with candidate := SMap.put h.thm.candidate t c, seen := SMap.put h.thm.seen t n } }

/-- LEAK_TRACE_MEASURE: every 100 µs both traces are measured (R472). -/
def execLeakTraceMeasure (a b : LeakCode) (s : State) : Host.Outcome State Fault Refusal :=
  run s (fun h => measureTrace (measureTrace h 0 a) 1 b)

/-- The latched response to a wet trace (Table 15-2, R473). -/
def leakWet (h : Hw) (t : Fin 2) : Hw :=
  let h1 := throttling h (fun h => countClamp (boostDrop { h with
    pwr := { h.pwr with leakWet := true }
    pins := { h.pins with leakOut := true } }))
  powerCycle ((raiseEv h1 0x01B (2 ^ t.val) []).emit .i3cIbi) 0

/-- LEAK_TRACE_CHANGE: a state that has persisted for ten measurements is reported (R472, R473). -/
def execLeakTraceChange (trace : Fin 2) (s : State) : Host.Outcome State Fault Refusal :=
  run s (fun h =>
    match SMap.find h.thm.candidate trace.val with
    | some c =>
      if SMap.get 0 h.thm.seen trace.val < 10 then h
      else
        let h1 := { h with thm := { h.thm with
          reported := SMap.put h.thm.reported trace.val c, seen := SMap.put h.thm.seen trace.val 0
          candidate := SMap.del h.thm.candidate trace.val } }
        (match c with
          | .dry => h1
          | .wet => if h1.pwr.leakWet then h1 else leakWet h1 trace
          | _ => raiseEv h1 0x01C (leakWord h1) [])
    | none => h)

/-! ### Thermal loop (R467–R470) -/

/-- A zone's reading in millionths of a degree: its sensor's, or the model's where the sensor has failed or the
module is in fallback (R467, R470). -/
def zoneReading (h : Hw) (z : Nat) : Int :=
  let x := h.zone z
  if x.failed || h.thm.fallback then x.model else x.reading * 1000000

/-- F_thm after one update of a zone (R468). -/
def nextFthm (f : Nat) (t theta : Int) (also : Bool) : Nat :=
  if 105000000 ≤ t then 8
  else if theta ≤ t || also then Nat.max 1 (f - 4)
  else if theta - 2000000 < t then f
  else Nat.min 64 (f + 1)

/-- A valid Canvas sensor of a die reads 100 °C or more. -/
def canvasHot (h : Hw) (d : Nat) : Bool :=
  h.thm.canvas.any (fun p => p.1 / 16 == d && !p.2.failed && decide (100 ≤ p.2.reading))

/-- An LPDDR6 package reads 95 °C or more. -/
def lpddrHot (h : Hw) : Bool := h.memctl.pkgTemp.any (fun p => decide (95 ≤ p.2))

/-- THERMAL_LOOP_UPDATE: every 100 µs the active supervisor updates F_thm of each zone (R468). -/
def execThermalLoopUpdate (s : State) : Host.Outcome State Fault Refusal :=
  run s (fun h =>
    if !supWrites h then h
    else throttling h (fun h =>
      let theta : Int := (wfld (h.reg 0x80018) 0 7 : Nat) * 1000000
      let lp := lpddrHot h
      setFlims ((List.range 48).foldl (fun g z =>
        let x := h.zone z
        g.setZone z { x with fthm := nextFthm x.fthm (zoneReading h z) theta (lp || canvasHot h (z / 24)) }) h)))

/-- A zone's model temperature after 10 µs: filtered with a 50 ms time constant towards inlet + θ × P (R469). -/
def nextModel (h : Hw) (z : Nat) (inlet : Int) (p : Nat) : Int :=
  let x := h.zone z
  let target : Int := inlet * 100000 + (Config.zoneTheta z * p * 1000 : Nat)
  x.model + (target - x.model) / 5000

/-- SAMPLE_SET_PUBLISH: sensor readings and powers reach both supervisors; event 0x025 when the inlet leaves
15–40 °C; a junction sensor at 90 °C drops boost (R460, R467, R469, R474). -/
def execSampleSetPublish (set : SampleSet) (s : State) : Host.Outcome State Fault Refusal :=
  run s (fun h0 =>
    let h := noteHot h0
    let h1 := (List.range 48).foldl (fun g z =>
      let x := h.zone z
      g.setZone z { x with
        reading := (set.junction[z]?).getD x.reading
        model := nextModel h z set.inlet ((set.zonePower[z]?).getD 0) }) h
    let h2 := (List.range 32).foldl (fun g n =>
      let x := h.canvasSensor n
      g.setCanvasSensor n { x with reading := (set.canvas[n]?).getD x.reading }) h1
    let h3 := refreshFrom (refreshFrom h2 0) 1
    let bad := decide (set.inlet < 150 ∨ 400 < set.inlet)
    let h4 := { h3 with
      thm := { h3.thm with inlet := set.inlet, outlet := set.outlet, inletBad := bad }
      sup := { h3.sup with sets := h3.sup.sets + 1 } }
    let h5 := if bad && !h.thm.inletBad then raiseEv h4 0x025 (wrapInt 32 set.inlet) [] else h4
    noteHot (if junctionAt h5 90 then boostDrop h5 else h5))

/-- Junction sensors that have failed. -/
def failedSensors (h : Hw) : Nat := (h.thm.junction.filter (fun p => p.2.failed)).length

/-- Enters fallback when two junction sensors have failed: clocks at 1.6 GHz, no boost, event 0x019 (R470). -/
def checkFallback (h : Hw) : Hw :=
  if h.thm.fallback || decide (failedSensors h < 2) then h
  else throttling h (fun h =>
    raiseEv (setClocks { h with thm := { h.thm with fallback := true } } 2100) 0x019 (failedSensors h) [])

/-- One 10 ms check of a junction sensor (R469). -/
def checkJunction (faulty : List Nat) (h : Hw) (z : Nat) : Hw :=
  let x := h.zone z
  if x.failed then h
  else
    let below := if x.reading * 1000000 + 15000000 < x.model then x.below + 1 else 0
    let bad := faulty.contains z || decide (x.reading < -40 ∨ 150 < x.reading) || decide (10 ≤ below)
    let h1 := (noteHot h).setZone z { x with below := below, failed := bad }
    if bad then raiseEv h1 0x018 z [] else h1

/-- Mean of a die's valid junction sensors, in millionths. -/
def dieMean (h : Hw) (d : Nat) : Option Int :=
  let l := ((List.range 24).map (fun i => h.zone (24 * d + i))).filter (fun x => !x.failed)
  if l.isEmpty then none else some ((l.map (·.reading)).foldl (· + ·) 0 * 1000000 / l.length)

/-- One 10 ms check of a Canvas sensor (R469); a failed one keeps doubled refresh (R175). -/
def checkCanvas (faulty : List Nat) (h : Hw) (n : Nat) : Hw :=
  let x := h.canvasSensor n
  if x.failed then h
  else
    let low := match dieMean h (n / 16) with
      | some m => decide (x.reading * 1000000 + 15000000 < m)
      | none => false
    let below := if low then x.below + 1 else 0
    let bad := faulty.contains (64 + n) || decide (10 ≤ below)
    let h1 := h.setCanvasSensor n { x with below := below, failed := bad }
    if bad then
      let d : Fin 2 := Fin.ofNat 2 (n / 16)
      refreshFrom { raiseEv h1 0x018 (64 + n) [] with
        memctl := { h1.memctl with sensorFail := h1.memctl.sensorFail ||| (1#2 <<< d.val) } } d
    else h1

/-- SENSOR_CHECK: every 10 ms; `faulty` are the sensors that report an electrical fault, 0–47 junction and
64–95 Canvas (R469, R470). -/
def execSensorCheck (faulty : List Nat) (s : State) : Host.Outcome State Fault Refusal :=
  run s (fun h =>
    let h1 := (List.range 48).foldl (checkJunction faulty) h
    checkFallback ((List.range 32).foldl (checkCanvas faulty) h1))

/-- Code and sensor of a trip cause, where its condition holds (R471, Table 15-7). -/
def tripCode (h : Hw) : TripCause → Option (Nat × Nat)
  | .junction z => if !(h.zone z.val).failed && decide (110 ≤ (h.zone z.val).reading) then some (0, z.val) else none
  | .canvas n =>
    if !(h.canvasSensor n.val).failed && decide (105 ≤ (h.canvasSensor n.val).reading) then some (1, n.val) else none
  | .pin => some (2, 0)
  | .supervisor z =>
    if (h.zone z.val).failed && decide (110000000 ≤ (h.zone z.val).model) then some (3, z.val) else none

/-- THERMAL_TRIP: a trip condition holds; THERMTRIP_IN# is measured on the trip path (R471). -/
def execThermalTrip (cause : TripCause) (s : State) : Host.Outcome State Fault Refusal :=
  run s (fun h => match tripCode h cause with
    | some (c, n) => trip h c n
    | none => h)

/-! ### Package supervisors (R474–R479) -/

def Hw.supOf (h : Hw) (i : Fin 2) : Sup := if i = 0 then h.sup.s0 else h.sup.s1

def Hw.modSup (h : Hw) (i : Fin 2) (f : Sup → Sup) : Hw :=
  if i = 0 then { h with sup := { h.sup with s0 := f h.sup.s0 } }
  else { h with sup := { h.sup with s1 := f h.sup.s1 } }

/-- The other supervisor. -/
def otherSup (i : Fin 2) : Fin 2 := if i = 0 then 1 else 0

/-- The lease has run out 300 µs after the last renewal (R475). -/
def leaseOver (h : Hw) : Bool := decide (h.sup.renewed + 300000 ≤ h.now)

/-- Supervisor `i` becomes active: it alone writes outputs, and boost starts again at 2.1 GHz (R460, R477). -/
def makeActive (h : Hw) (i : Fin 2) : Hw :=
  let h1 := (h.modSup i (fun x => { x with writing := true, lastSwitch := h.ftcNow })).modSup (otherSup i)
    (fun x => { x with writing := false, lastSwitch := h.ftcNow })
  boostDrop { h1 with sup := { h1.sup with holder := some i, renewed := h.now, swapPending := false } }

/-- A supervisor is marked suspect, with event 0x021 (R476). -/
def markSuspect (h : Hw) (i : Fin 2) : Hw :=
  if (h.supOf i).suspect then h
  else raiseEv (h.modSup i (fun x => { x with suspect := true })) 0x021 i.val []

/-- The outcome of the self-checks after a divergence (R476). -/
def divergence (h : Hw) (a : Fin 2) (passA passB : Bool) : Hw :=
  let b := otherSup a
  let h1 := ((h.modSup a (fun x => { x with scFail := !passA })).modSup b (fun x => { x with scFail := !passB }))
  let h2 := (raiseEv h1 0x020 h1.sup.diverge []).count (blkBase (.sup 0) + 0x30) 1
  let h3 := h2.count (blkBase (.sup 1) + 0x30) 1
  if passA then markSuspect h3 b
  else
    let h4 := markSuspect (h3.modSup a (fun x => { x with writing := false })) a
    if passB then h4 else markSuspect h4 b

/-- A comparison that matches: a planned swap takes place, and a restarted standby is one match nearer to being
synchronised (R478, R479). -/
def digestMatch (h : Hw) (a : Fin 2) : Hw :=
  let b := otherSup a
  let h1 := ({ h with sup := { h.sup with diverge := 0 } }).modSup b (fun x =>
    if x.restartAt.isSome then { x with matches_ := x.matches_ + 1 } else x)
  if h1.sup.swapPending then raiseEv (makeActive h1 b) 0x023 b.val [] else h1

/-- DIGEST_COMPARE: every 10 µs; `none` where a supervisor submits nothing, `pass` how its self-check ends where
one is run.  While the standby loads its state a difference only restarts its count (R476, R479). -/
def execDigestCompare (d0 d1 : Option Word) (pass0 pass1 : Bool) (s : State) : Host.Outcome State Fault Refusal :=
  run s (fun h =>
    match h.sup.holder with
    | none => h
    | some a =>
      let b := otherSup a
      let missing := d0.isNone || d1.isNone
      if !missing && d0 == d1 then digestMatch h a
      else if (h.supOf b).restartAt.isSome then h.modSup b (fun x => { x with matches_ := 0 })
      else
        let n := h.sup.diverge + 1
        let h1 := { h with sup := { h.sup with diverge := Nat.min 3 n } }
        if missing ∨ n = 3 then
          divergence h1 a (if a = 0 then pass0 else pass1) (if a = 0 then pass1 else pass0)
        else h1)

/-- LEASE_RENEW: the active supervisor renews; a renewal at or after expiry fails and its sender becomes standby
(R475). -/
def execLeaseRenew (i : Fin 2) (s : State) : Host.Outcome State Fault Refusal :=
  run s (fun h =>
    if h.sup.holder ≠ some i || !(h.supOf i).writing then h
    else if leaseOver h then h.modSup i (fun x => { x with writing := false })
    else { h with sup := { h.sup with renewed := h.now } })

/-- LEASE_EXPIRE: the standby takes the lease, provided it is synchronised; with no supervisor able to hold it
the chip recovers (R475, R477, R497). -/
def execLeaseExpire (s : State) : Host.Outcome State Fault Refusal :=
  run s (fun h =>
    match h.sup.holder with
    | none => h
    | some a =>
      let b := otherSup a
      let x := h.supOf b
      if !leaseOver h then h
      else if x.started && x.synced then
        raiseEv ((makeActive h b).count (blkBase (.sup b) + 0x28) 1) 0x022 (b.val + 256 * b2n x.suspect) []
      else chipFault { h.modSup a (fun y => { y with writing := false }) with
        sup := { (h.modSup a (fun y => { y with writing := false })).sup with holder := none } } 0 [])

/-- Why a planned swap is refused (R478). -/
def swapError (h : Hw) : BitVec 8 :=
  match h.sup.holder with
  | none => 3
  | some a =>
    let x := h.supOf (otherSup a)
    if !x.synced then 1 else if x.suspect then 2 else if h.sup.swapPending || leaseOver h then 3 else 0

/-- A write of SUP_SWAP.go to instance `i` (R478). -/
def requestSwap (h : Hw) (i : Fin 2) : Hw :=
  let e := swapError h
  let h1 := h.modSup i (fun x => { x with swapError := e })
  if e = 0 then { h1 with sup := { h1.sup with swapPending := true } } else h1

/-- A write of SUP_CTL.restart to instance `i`: the standby restarts; the active ignores it (R479). -/
def restartSup (h : Hw) (i : Fin 2) : Hw :=
  if h.sup.holder = some i then h
  else h.modSup i (fun x => { x with
    started := true, synced := false, matches_ := 0, restartAt := some h.now, scFail := false })

/-- The standby has matched for 100 successive periods and is synchronised, with event 0x024 (R479). -/
def syncSup (h : Hw) (i : Fin 2) : Hw :=
  raiseEv (h.modSup i (fun x => { x with synced := true, suspect := false, restartAt := none })) 0x024 i.val []

/-- SUP_SYNC_COMPLETE (R479). -/
def execSupSyncComplete (i : Fin 2) (s : State) : Host.Outcome State Fault Refusal :=
  run s (fun h =>
    let x := h.supOf i
    if h.sup.holder ≠ some i && x.restartAt.isSome && decide (100 ≤ x.matches_) then syncSup h i else h)

end Sys2Proof.Machine
end

