-- ==== Sys2Proof/Machine/BlkRules.lean ====
section
/-! DEFINITION. What a commit of each block checks and does: the combination rules (R36) of the blocks'
chapters, the effects at the apply point, and a commit by firmware. -/

namespace Sys2Proof.Machine

/-! ### Captured fields -/

/-- The register word when the staged fields of a captured word become active. -/
def mergeStaged (h : Hw) (k : Nat) (v : Word) : Word :=
  let m := (regAt h.pins.variant1800 k).staged
  (h.reg k &&& ~~~m) ||| (v &&& m)

/-- All captured fields become active. -/
def applyRegs (h : Hw) (cap : SMap Word) : Hw := cap.foldl (fun g p => g.setReg p.1 (mergeStaged g p.1 p.2)) h

/-- The captured copy writes the register. -/
def inCap (cap : SMap Word) (k : Nat) : Bool := (SMap.find cap k).isSome

/-- A field lies within bounds. -/
def within (lo hi n : Nat) : Bool := decide (lo ≤ n ∧ n ≤ hi)

/-! ### Combination rules (R36) -/

/-- HIF_ (R400): a ring enabled with a bad size or base. -/
def hifOk (h : Hw) (f : FnId) : Bool :=
  let ok := fun base ctl => !bit (h.reg (hifOff f ctl)) 17 ||
    ringError (wfld (h.reg (hifOff f ctl)) 0 17) (h.reg (hifOff f base)) == 0
  ok 0x30 0x38 && ok 0x48 0x50

/-- EVC_ (R404). -/
def evcOk (h : Hw) : Bool :=
  (List.range 4).all (fun p =>
    let c := wfld (h.reg (0x40300 + 8 * p)) 0 16
    decide (c ≠ 0) && (!(p == 1 || p == 2) || decide (25000 ≤ c)))

/-- PWR_ (R459, R462, Table 15-6). -/
def pwrOk (h : Hw) : Bool :=
  !(h.pins.variant1800 && bit (h.reg 0x70028) 0) && within 1000 64000 (wfld (h.reg 0x70030) 0 16) &&
    within 0 100 (wfld (h.reg 0x70030) 16 8) && within 0 10000 (wfld (h.reg 0x70038) 0 16) &&
    within 42000 48000 (wfld (h.reg 0x70038) 16 16) && within 20 100 (wfld (h.reg 0x70040) 0 8) &&
    within 100 1000000 (wfld (h.reg 0x70050) 0 24)

/-- FTC_ (R329). -/
def ftcOk (h : Hw) : Bool :=
  let w := h.reg 0xD0018
  let pp := wfld w 1 4
  let ap := wfld w 6 4
  !(bit w 5 && bit w 10 && pp == ap) && (!bit w 5 || decide (pp < 10)) && (!bit w 10 || decide (ap < 10)) &&
    within 1 1000 (wfld w 16 10)

/-- A region of SKT_ (R222): base, pages, context, valid. -/
def regionOf (h : Hw) (p : PartId) (m : Nat) : Nat × Nat × Nat × Bool :=
  let b := blkBase (.skt p)
  let c := h.reg (b + 0x608 + 16 * m)
  (wfld (h.reg (b + 0x600 + 16 * m)) 0 48, wfld c 0 23, wfld c 24 6, bit c 31)

/-- A region's base is aligned and it lies in a Palette window of the partition or in its Canvas range below the
pool (R222). -/
def regionPlaced (p : PartId) (base pages : Nat) : Bool :=
  let n := pages * 4096
  base % 4096 == 0 &&
    ((isPal base && partOf (palEasel base) == p && decide (base + n ≤ palBase (palEasel base).val + 0x200000)) ||
      (let lo := 0x10000000000 + p.val * 0x400000000
       decide (lo ≤ base ∧ base < lo + 0x3F0000000 ∧ base + n ≤ lo + 0x3F0000000)))

/-- The context holds unvarnished sketch data in the partition. -/
def holdsSketch (h : Hw) (p : PartId) (c : Nat) : Bool := h.sk.slots.any (fun s => s.part == p && s.ctx.val == c)

/-- Some slot of the partition's pool is in use. -/
def poolBusy (h : Hw) (p : PartId) : Bool :=
  (h.sk.slots ++ h.sk.toZero ++ h.mem.unfolded).any (fun s => s.part == p)

/-- SKT_ (R222–R224). -/
def sktOk (old new : Hw) (p : PartId) : Bool :=
  let on := bit (new.breg (.skt p) 0x10) 0
  let rs := (List.range 64).map (regionOf new p)
  let live := rs.filter (fun r => r.2.2.2)
  let covers := live.filter (fun r => decide (0 < r.2.1))
  let sum := ((List.range 64).map (fun c => wfld (new.breg (.skt p) (0x100 + 8 * c)) 0 23)).foldl (· + ·) 0
  decide (sum ≤ 4194304) && (on || live.isEmpty) && live.all (fun r => regionPlaced p r.1 r.2.1) &&
    !anyOverlap (covers.map (fun r => (r.1, r.2.1 * 4096))) &&
    (on || !bit (old.breg (.skt p) 0x10) 0 || !poolBusy old p) &&
    (List.range 64).all (fun m =>
      let a := regionOf old p m
      let b := regionOf new p m
      !(a.2.2.2 && holdsSketch old p a.2.2.1) ||
        (b.2.2.2 && b.1 == a.1 && b.2.2.1 == a.2.2.1 && decide (a.2.1 ≤ b.2.1)))

/-- A valid group names each FA once, the own FA among them, within the member list (R359). -/
def groupOk (h : Hw) (g : Nat) : Bool :=
  let w := groupReg h g
  let l := groupMembers h g
  decide (wfld w 16 4 ≤ 10) && (!bit w 32 ||
    (decide (wfld w 0 13 + 2 ^ wfld w 16 4 ≤ 8192) && distinct l && l.contains h.fa))

/-- A commit changes the group: its entry or its members. -/
def groupChanged (old new : Hw) (g : Nat) : Bool :=
  old.reg (colOff (0x100 + 8 * g)) != new.reg (colOff (0x100 + 8 * g)) ||
    groupMembers old g != groupMembers new g

/-- A collective on the group is in progress or waiting. -/
def groupBusy (h : Hw) (g : Nat) : Bool := h.col.slots.any (fun p => (collOf h p.2.desc).group == g)

/-- COL_ (R359, R360, Table 12-9). -/
def colOk (old new : Hw) (cap : SMap Word) : Bool :=
  (List.range 64).all (fun g =>
    groupOk new g && !(groupChanged old new g && groupBusy old g)) &&
    cap.all (fun p => decide (p.1 < colOff 0x10000) || (p.2 &&& 0xFC00FC00FC00FC00) == 0)

/-- ERR_ (R328, Table 10-8). -/
def errOk (h : Hw) (i : PortId) : Bool :=
  let l := wfld (h.reg (errOff i 0x18)) 0 8
  (List.range 4).any (fun k => decide (l / 4 ^ k % 4 = 3)) && decide (wfld (h.reg (errOff i 0x20)) 0 2 ≠ 3) &&
    (List.range 5).all (fun k => decide (wfld (h.reg (errOff i 0x28)) (4 * k) 4 ≠ 0)) &&
    decide (wfld (h.reg (errOff i 0x30)) 0 16 ≠ 0)

/-- Ranges of SYN_MOD_ALLOC that hold objects. -/
def synRanges (h : Hw) (i : Fin 2) : List Buf :=
  ((List.range 64).map (fun c =>
    let w := h.breg (.syn i) (0x100 + 8 * c)
    (wfld w 0 15, wfld w 16 16))).filter (fun r => decide (r.2 ≠ 0))

/-- SYN_ (R295). -/
def synOk (h : Hw) (i : Fin 2) : Bool :=
  !anyOverlap (synRanges h i) && (synRanges h i).all (fun r => decide (r.1 + r.2 ≤ 32768)) &&
    within 100 10000 (wfld (h.breg (.syn i) 0x10) 0 14)

/-- A routing entry is legal (R334). -/
def routeOk (e : Nat) : Bool := decide (e < 32) && (decide (e / 16 % 2 = 0) || decide (e % 16 < 10))

/-- A word of four routing entries is legal. -/
def routeWordOk (w : Word) : Bool := (List.range 4).all (fun j => routeOk (wfld w (16 * j) 16))

/-- A circuit entry is legal on its own (R346). -/
def circOk (w : Word) : Bool :=
  let side := fun n => decide (n < 12 ∨ n = 15)
  cSideA w != cSideB w && side (cSideA w) && side (cSideB w) && decide (wfld w 8 7 ≤ 64) && decide (wfld w 16 7 ≤ 64) &&
    (w &&& 0xFFFFFFF000808000) == 0 && decide (cState w < 2)

/-- Share that the up entries reserve toward an output port. -/
def portShare (h : Hw) (port : PortId) : Nat := ((sharesOf h port).map (·.2)).foldl (· + ·) 0

/-- RTE_ (R330, R334, R340, R346). -/
def rteOk (old new : Hw) (cap : SMap Word) : Bool :=
  let rack := fun (h : Hw) => wfld (h.reg 0x400010) 6 4
  let e := new.reg 0x400018
  (rack old == rack new ||
    (allCtx.all (fun c => (old.ctx c).state == 0) && ([6, 7, 8, 9] : List PortId).all (fun i => (old.port i).state != 2))) &&
    (!inCap cap 0x400018 || bit e (if bit e 0 then 2 else 1)) &&
    cap.all (fun p =>
      if rteOff 0x1000 ≤ p.1 ∧ p.1 < rteOff 0x2000 then routeWordOk p.2
      else if rteOff 0x8008 ≤ p.1 ∧ p.1 < rteOff 0x10000 then circOk p.2
      else true) &&
    (List.range 12).all (fun i => decide (portShare new (Fin.ofNat 12 i) ≤ 48))

/-- The captured copy passes the block's rules; `new` is `old` with the copy active. -/
def blkOk (old new : Hw) (b : BlockId) (cap : SMap Word) : Bool :=
  match b with
  | .hif f => hifOk new f
  | .evc => evcOk new
  | .pwr => pwrOk new
  | .thm => within 70 95 (wfld (new.reg 0x80018) 0 7)
  | .ftc => ftcOk new
  | .cnv i => within 1 24 (wfld (new.breg (.cnv i) 0x18) 0 5)
  | .lpm i => within 1 72 (wfld (new.breg (.lpm i) 0x28) 0 7)
  | .glz i => let n := wfld (new.breg (.glz i) 0x10) 0 12; decide (n = 0) || within 64 2000 n
  | .skt p => sktOk old new p
  | .col => colOk old new cap
  | .err i => errOk new i
  | .syn i => synOk new i
  | .rte => rteOk old new cap
  | _ => true

/-! ### Effects at the apply point -/

/-- HIF_ (R400): a ring set enabled starts from its first entry. -/
def hifApply (new : Hw) (f : FnId) (cap : SMap Word) : Hw :=
  let h1 := if inCap cap (hifOff f 0x38) then
      new.modFn f (fun x => { x with
        cplTail := 0, cplHead := 0, cplPhase := true, cplError := 0, cplWait := [] }) else new
  if inCap cap (hifOff f 0x50) then
    h1.modFn f (fun x => { x with
      evrTail := 0, evrHead := 0, evrPhase := true, evrError := 0, evrSeq := 0, evrLost := false })
  else h1

/-- FTC_ (R322): the time at which the role of master was set; a change of parents starts on the parent. -/
def ftcApply (old new : Hw) : Hw :=
  let m := bit (new.reg 0xD0018) 0
  { new with ftc := { new.ftc with
      roleAt := if m then (if bit (old.reg 0xD0018) 0 then new.ftc.roleAt else some new.now) else none
      onAlt := if old.reg 0xD0018 &&& 0x7FE = new.reg 0xD0018 &&& 0x7FE then new.ftc.onAlt else false } }

/-- LPM_ (R194): event 0x085 where the two instances differ, at a commit or at training. -/
def lpmApply (new : Hw) : Hw :=
  let d := fun o => b2n (new.breg (.lpm 0) o != new.breg (.lpm 1) o)
  let n := d 0x20 + 2 * d 0x28
  if n = 0 then new else raiseEv new 0x085 n []

/-- The commit restarts a group's sequence: it changes its members, n, member range or ctx_id, or sets valid
(R360). -/
def groupRestarts (old new : Hw) (cap : SMap Word) (g : Nat) : Bool :=
  let key := fun h => groupReg h g &&& 0xFFFFFFFF
  key old != key new || groupMembers old g != groupMembers new g ||
    (inCap cap (colOff (0x100 + 8 * g)) && bit (groupReg new g) 32)

/-- COL_ (R360): the sequences that start again. -/
def colApply (old new : Hw) (cap : SMap Word) : Hw :=
  { new with col := { new.col with seqs := new.col.seqs.filter (fun p => !groupRestarts old new cap p.1) } }

/-- ERR_ (R310, R328): enabling, disabling, a new channel, or a retrain. -/
def errApply (old new : Hw) (i : PortId) (cap : SMap Word) : Hw :=
  let en := fun (h : Hw) => bit (h.reg (errOff i 0x18)) 8
  let st := (new.port i).state
  if !en new then portOff new i
  else if st = 0 then beginTraining new i
  else if st = 2 ∧ wfld (old.reg (errOff i 0x20)) 0 2 ≠ wfld (new.reg (errOff i 0x20)) 0 2 then beginTraining new i
  else if st = 2 && (inCap cap (errOff i 0x18) || inCap cap (errOff i 0x20)) then setPortState new i 3 (laneMask new i)
  else new

/-- Sets to 0, in counter mode, the module-scope objects newly allotted (R269). -/
def clearNewObjs (old new : Hw) : Hw :=
  allCtx.foldl (fun g c =>
    let a := modRange old c
    let b := modRange new c
    if a = b then g
    else clearObjs g (fun i => decide (b.1 ≤ i.val ∧ i.val < b.1 + b.2) &&
      !decide (a.1 ≤ i.val ∧ i.val < a.1 + a.2))) new

/-- SYN_ (R295): event 0x1C0 where the two instances differ. -/
def synApply (old new : Hw) : Hw :=
  let d := b2n (new.breg (.syn 0) 0x10 != new.breg (.syn 1) 0x10)
  let a := b2n ((List.range 64).any (fun c =>
    new.breg (.syn 0) (0x100 + 8 * c) != new.breg (.syn 1) (0x100 + 8 * c)))
  let h1 := clearNewObjs old new
  if d + a = 0 then h1 else raiseEv h1 0x1C0 (d + 2 * a) []

/-- RTE_ (R330, R346): a new rack trains the side ports again, an up circuit without shares is torn down. -/
def rteApply (old new : Hw) (cap : SMap Word) : Hw :=
  let h1 := cap.foldl (fun g p =>
    if rteOff 0x8008 ≤ p.1 ∧ p.1 < rteOff 0x10000 ∧ cState p.2 = 1 ∧ wfld p.2 8 7 + wfld p.2 16 7 = 0 then
      g.setReg p.1 (setFld (g.reg p.1) 24 2 0) else g) new
  if wfld (old.reg 0x400010) 6 4 = wfld (new.reg 0x400010) 6 4 then h1
  else ([6, 7, 8, 9] : List PortId).foldl (fun g i =>
    if (g.port i).state = 4 ∨ (g.port i).state = 5 then beginTraining g i else g) h1

/-- The runtime's settings schema version: the compat field of the type 5 entry of a body (R519); 0 where it has
none. -/
def schemaOf (body : Bytes) : BitVec 16 :=
  match (List.range 8).find? (fun i => (sub body (32 * i) 1) == [5]) with
  | some i => BitVec.ofNat 16 (leNat (sub body (32 * i + 2) 2))
  | none => 0

/-- The firmware slot that the runtime runs. -/
def runSlot (h : Hw) : FwSlot := if h.fwu.runRuntime = 0 then h.fwu.slot0 else h.fwu.slot1

/-- Writes a settings record over the older copy (R530). -/
def saveSettings (h : Hw) (numbering policy lp144 : Bool) (version : BitVec 16) : Hw :=
  let a := h.bru.rec0
  let b := h.bru.rec1
  let seq := Nat.max (if a.valid then a.seq else 0) (if b.valid then b.seq else 0) + 1
  let r : Settings := { numbering := numbering, policy := policy, lp144 := lp144, version := version,
                        seq := seq, valid := true }
  let second := a.valid && (!b.valid || decide (b.seq < a.seq))
  { h with bru := if second then { h.bru with rec1 := r } else { h.bru with rec0 := r } }

/-- BRU_ (R529, R530): settings go to the record, a new repair entry waits for the next cold boot. -/
def bruApply (new : Hw) (cap : SMap Word) : Hw :=
  let w := new.reg 0xA0028
  let h1 := if inCap cap 0xA0028 then
      saveSettings new (bit w 0) (bit w 1) (bit w 2) (schemaOf (runSlot new).body) else new
  cap.foldl (fun g p =>
    if 0xA0400 ≤ p.1 ∧ p.1 < 0xA0500 then
      { g with bru := { g.bru with repair := SMap.del g.bru.repair ((p.1 - 0xA0400) / 8) } } else g) h1

/-- What a block does when a captured copy becomes active. -/
def blkApply (old new : Hw) (b : BlockId) (cap : SMap Word) : Hw :=
  match b with
  | .hif f => hifApply new f cap
  | .pwr => if bit (new.reg 0x70028) 0 then new else boostDrop new
  | .ftc => ftcApply old new
  | .lpm _ => lpmApply new
  | .col => colApply old new cap
  | .err i => errApply old new i cap
  | .syn _ => synApply old new
  | .rte => rteApply old new cap
  | .bru => bruApply new cap
  | _ => new

/-! ### The staging copy and commits (R36, R37, R41), those of firmware among them (R264, R420, R424) -/

def Hw.blk (h : Hw) (b : BlockId) : BlkCommit := SMap.get BlkCommit.init h.regs.commit (blkBase b)

def Hw.modBlk (h : Hw) (b : BlockId) (f : BlkCommit → BlkCommit) : Hw :=
  { h with regs := { h.regs with commit := SMap.update BlkCommit.init h.regs.commit (blkBase b) f } }

/-- The staging copy of a word: what has been written, and the active value of the rest, by 32-bit halves. -/
def stagedWord (h : Hw) (k : Nat) : Word :=
  let half := fun (o : Nat) => ((SMap.find h.regs.staged (k + o)).map (fun w => wfld w 0 32)).getD (wfld (h.reg k) (8 * o) 32)
  put (half 0) 0 32 ||| put (half 4) 32 32

/-- The words of a block that have been written since the last capture or discard. -/
def stagedWords (h : Hw) (b : BlockId) : SMap Word :=
  (h.regs.staged.filter (fun p => (blockOf p.1).map (·.1) == some b)).foldl
    (fun m p => SMap.put m (p.1 / 8 * 8) (stagedWord h (p.1 / 8 * 8))) []

/-- Empties the staging copy of a block: it carries the active values. -/
def dropStaged (h : Hw) (b : BlockId) : Hw :=
  { h with regs := { h.regs with staged := h.regs.staged.filter (fun p => (blockOf p.1).map (·.1) != some b) } }

/-- The captured copy of a block becomes active (R36, R37). -/
def applyCaptured (h : Hw) (b : BlockId) : Hw :=
  let cap := (h.blk b).captured
  (blkApply h (applyRegs h cap) b cap).modBlk b (fun c => { c with
    busy := false, locked := c.locked || c.lockReq, lockReq := false, error := 0, seq := c.seq + 1, captured := [] })

/-- The words with which firmware's commit goes: what it has just staged over what others have (R41). -/
def sharedCap (h : Hw) (b : BlockId) (cap : SMap Word) : SMap Word :=
  cap.foldl (fun m p => SMap.put m p.1 p.2) (stagedWords h b)

/-- Firmware stages and commits a set of registers of one block, and confirms it; none where the commit fails.  It
waits for a commit in progress, and its own takes with it what others have staged (R39, R41, R42). -/
def fwCommit (h : Hw) (b : BlockId) (cap : SMap Word) : Option Hw :=
  let h0 := if (h.blk b).busy then applyCaptured h b else h
  let all := sharedCap h0 b cap
  let new := applyRegs h0 all
  if blkOk h0 new b all then
    some ((blkApply h0 (dropStaged new b) b all).modBlk b (fun c => { c with
      pend := false, seq := c.seq + 1, error := 0 }))
  else none

/-- The same commit in every block of a list. -/
def fwCommits (h : Hw) : List (BlockId × SMap Word) → Option Hw
  | [] => some h
  | (b, cap) :: l =>
    match fwCommit h b cap with
    | some h1 => fwCommits h1 l
    | none => none

end Sys2Proof.Machine
end

