-- ==== Sys2Proof/Machine/Contexts.lean ====
section
/-! DEFINITION. Contexts: creation, allocation, starting and stopping, scheduling and queries (R412–R424, R444). -/

namespace Sys2Proof.Machine

/-! ### Who may issue a context command (R421, R422, R441) -/

/-- Partitions of a mask. -/
def maskParts (m : BitVec 4) : List PartId := ((List.range 4).map (Fin.ofNat 4)).filter (fun p => m.getLsbD p.val)

/-- Easels of a context's partitions that are enabled at this start. -/
def ctxEasels (h : Hw) (m : BitVec 4) : List EaselId :=
  h.bru.enabled.filter (fun e => m.getLsbD (partOf e).val)

/-- The context exists and is not in gesso. -/
def Ctx.live (x : Ctx) : Bool := x.state != 0 && x.state != 7

/-- A PF command: status 0x06 from a VF, 0x09 for a confidential context where it is not one of the five of
R441. -/
def pfStatus (h : Hw) (f : FnId) (c : CtxId) (conf : Bool) : BitVec 8 :=
  if f ≠ 0 then 6
  else if !conf && (h.ctx c).conf && (h.ctx c).state != 0 then 9
  else if !(h.ctx c).live then 7
  else 0

/-- A command of the assigned function: status 0x09 from the PF for a confidential context (R441), 0x01 from any
other function, 0x07 for an ID that is free or in gesso. -/
def fnStatus (h : Hw) (f : FnId) (c : CtxId) : BitVec 8 :=
  let x := h.ctx c
  if x.state = 0 then 7
  else if f = 0 ∧ x.conf = true then 9
  else if x.fn ≠ f then 1
  else if x.state = 7 then 7 else 0

/-- CTX_START and the key commands for a confidential context need its VF's TDI in RUN (R441). -/
def tdiStatus (h : Hw) (c : CtxId) : BitVec 8 :=
  if (h.ctx c).conf && SMap.get 0 h.sec.tdi (h.ctx c).fn.val != 2#2 then 0xC else 0

/-- Starts a command that completes at once: `status` where it is not zero, else the effect and its result. -/
def simple (h : Hw) (f : FnId) (op : Nat) (masks : List Word) (status : Hw → HostCmd → BitVec 8)
    (eff : Hw → HostCmd → Hw × Nat) : Hw :=
  command h f op true masks (fun h c =>
    let st := status h c
    if st ≠ 0 then complete h f c st 0
    else
      let r := eff h c
      complete r.1 f c 0 r.2)

/-- The first status that is not zero. -/
def firstStatus : List (BitVec 8) → BitVec 8
  | [] => 0
  | s :: l => if s = 0 then firstStatus l else s

/-- 0x0D where an operand is outside its range. -/
def rangeStatus (ok : Bool) : BitVec 8 := if ok then 0 else 0x0D

def quantumOk (us : Nat) : Bool := us == 0 || within 100 1000000 us

/-! ### Creation (R420) -/

/-- Rotates a list by a free value: where the manual leaves firmware's choice open. -/
def anyOrder {α : Type} (h : Hw) (l : List α) : List α :=
  if l.isEmpty then l else let n := h.freeWord.toNat % l.length; l.drop n ++ l.take n

/-- A page may be allotted: free, and not in an enabled sketch pool (R221, R416). -/
def pageFree (h : Hw) (p : Nat) : Bool := h.owner p == .free && !poolReserved h (pageBase p)

/-- Canvas pages of a partition that are free. -/
def freeCanvas (h : Hw) (p : PartId) : List Nat :=
  ((List.range 8192).map (fun i => 393216 + p.val * 8192 + i)).filter (pageFree h)

def setOwner (h : Hw) (p : Nat) (o : Owner) : Hw :=
  { h with ctxs := { h.ctxs with owner := SMap.put h.ctxs.owner p o } }

/-- Save areas: 76 Canvas pages in each partition of the mask; none where a partition lacks them or has no
easel (R420, R525). -/
def saveAreas (h : Hw) (m : BitVec 4) : Option (List Nat) :=
  let per := (maskParts m).map (fun p => (anyOrder h (freeCanvas h p)).take 76)
  if per.all (fun l => l.length == 76) && (maskParts m).all (fun p => h.bru.enabled.any (fun e => partOf e == p))
  then some per.flatten else none

/-- Free glaze slots of a die. -/
def freeGlaze (h : Hw) (d : Nat) : List SlotId :=
  ((List.range 32).map (fun i => (Fin.ofNat 64 (32 * d + i) : SlotId))).filter (fun n => (slotOf h n).isNone)

/-- Writes GLZ_SLOT_ALLOC of a list of slots for a context. -/
def allotSlots (h : Hw) (c : CtxId) (l : List SlotId) : Hw :=
  l.foldl (fun g n => g.setReg (glzBlk n + 0x100 + 8 * glzIdx n) (put c.val 0 6 ||| bitw true 6)) h

/-- The first base at or after `b` at which `n` module-scope objects are free of every range. -/
def findRange (l : List Buf) (n : Nat) : Nat → Nat → Option Nat
  | 0, _ => none
  | k + 1, b =>
    if 32768 < b + n then none
    else match l.find? (fun r => decide (r.1 < b + n ∧ b < r.1 + r.2)) with
      | some r => findRange l n k (r.1 + r.2)
      | none => some b

/-- A free range of `n` objects: from a free place if one is found there, else from the lowest. -/
def objRange (h : Hw) (n : Nat) : Option Nat :=
  match findRange (synRanges h 0) n 65 (h.freeWord.toNat % 32768) with
  | some b => some b
  | none => findRange (synRanges h 0) n 65 0

/-- The commits that give a context its module-scope range and sketch allotments. -/
def rangeCommits (c : CtxId) (base n : Nat) : List (BlockId × SMap Word) :=
  let w := put base 0 15 ||| put n 16 16
  [(.syn 0, [(blkBase (.syn 0) + 0x100 + 8 * c.val, w)]), (.syn 1, [(blkBase (.syn 1) + 0x100 + 8 * c.val, w)])]

def allotCommits (c : CtxId) (m : BitVec 4) (n : Nat) : List (BlockId × SMap Word) :=
  (maskParts m).map (fun p => (.skt p, [(blkBase (.skt p) + 0x100 + 8 * c.val, put n 0 23)]))

/-- Clears what a context ID kept: counters, sketch sequences, easel sync objects. -/
def clearCtxData (h : Hw) (c : CtxId) : Hw :=
  { h with
    ctxs := { h.ctxs with perf := SMap.eraseRange h.ctxs.perf (c.val * 16) (c.val * 16 + 16) }
    sk := { h.sk with seqs := SMap.eraseRange h.sk.seqs (c.val * 208) (c.val * 208 + 208) }
    sync := { h.sync with easelObj := SMap.eraseRange h.sync.easelObj (c.val * 208 * 512) ((c.val + 1) * 208 * 512) } }

/-- Random bytes from Ihlel's generator (R430). -/
def drawKey (h : Hw) : Bytes × Hw := (Config.drbg h.sec.drbgNext, { h with sec := { h.sec with drbgNext := h.sec.drbgNext + 1 } })

/-- What creation takes, where every resource is there. -/
def takeResources (h : Hw) (c : CtxId) (m : BitVec 4) (slots objs sketch : Nat) : Option (Hw × List Nat) :=
  let north := (anyOrder h (freeGlaze h 0)).take ((slots + 1) / 2)
  let south := (anyOrder h (freeGlaze h 1)).take (slots / 2)
  match saveAreas h m, objRange h objs with
  | some pages, some base =>
    if north.length + south.length ≠ slots then none
    else
      (fwCommits h ((if objs = 0 then [] else rangeCommits c base objs) ++ allotCommits c m sketch)).map (fun g =>
        ((pages.foldl (fun g p => setOwner { g with mem := g.mem.zero (pageBase p) 0x200000 } p .firmware)
          (allotSlots g c (north ++ south))).useFree, pages))
  | _, _ => none

/-- CTX_CREATE (R420, Table 14-2). -/
def execCtxCreate (fn : FnId) (s : State) : Host.Outcome State Fault Refusal :=
  run s (fun h => command h fn 0x10 true [0x3FFFFFFF, 0xFFFFFFFF, 0xFFFF007F, 0x7FFFFF] (fun h k =>
    let c := k.ctx
    let w1 := nthW k.words 1
    let m := BitVec.ofNat 4 (wfld w1 16 4)
    let owner : FnId := Fin.ofNat 64 (wfld w1 20 6)
    let conf := bit w1 26
    let q := (nthW k.words 2).toNat
    let slots := wfld (nthW k.words 3) 0 7
    let sketch := wfld (nthW k.words 4) 0 23
    let st := firstStatus [if fn ≠ 0 then 6 else 0, if (h.ctx c).state ≠ 0 then 7 else 0,
      rangeStatus (m != 0 && decide (slots ≤ 64 ∧ sketch ≤ 4194304) && quantumOk q),
      if conf && owner == 0 then 9 else 0]
    if st ≠ 0 then complete h fn k st 0
    else match takeResources h c m slots (wfld (nthW k.words 3) 16 16) sketch with
      | none => complete h fn k 8 0
      | some (g, pages) =>
        let (key, g1) := drawKey (clearCtxData g c)
        let x := { Ctx.init with
          job := BitVec.ofNat 16 (wfld w1 0 16), mask := m, fn := owner, conf := conf
          prio := BitVec.ofNat 3 (wfld w1 27 3), quantum := q, savePages := pages }
        let g2 := { g1 with sec := { g1.sec with xtsKeys := SMap.put g1.sec.xtsKeys c.val key } }
        complete (setCtxState (g2.setCtx c x) c 1) fn k 0 0))

/-! ### Allocation (R419) -/

/-- Pages of a command's range: kind, first page and count; none outside the kind's pages. -/
def cmdPages (k : HostCmd) : Option (List Nat) :=
  let canvas := bit (nthW k.words 1) 0
  let first := (nthW k.words 2).toNat
  let n := (nthW k.words 3).toNat
  let limit := if canvas then 32768 else 393216
  if first + n ≤ limit then some ((List.range n).map (fun i => (if canvas then 393216 else 0) + first + i)) else none

/-- Zero-fills pages and gives them an owner (R419). -/
def givePages (h : Hw) (l : List Nat) (o : Owner) : Hw :=
  l.foldl (fun g p => setOwner { g with mem := g.mem.zero (pageBase p) 0x200000 } p o) h

/-- CTX_ALLOC (R419). -/
def execCtxAlloc (fn : FnId) (s : State) : Host.Outcome State Fault Refusal :=
  run s (fun h =>
    let all : Word := 0xFFFFFFFFFFFFFFFF
    simple h fn 0x11 [3, all, all]
      (fun h k => firstStatus [pfStatus h fn k.ctx true, rangeStatus (cmdPages k).isSome,
        if ((cmdPages k).getD []).all (pageFree h) then 0 else 8])
      (fun h k => (givePages h ((cmdPages k).getD []) (.ctx k.ctx (bit (nthW k.words 1) 1)), 0)))

/-- The context holds a page. -/
def holdsPage (h : Hw) (c : CtxId) (p : Nat) : Bool :=
  match h.owner p with
  | .ctx d _ => d == c
  | _ => false

/-- CTX_RELEASE (R419, Table 14-2). -/
def execCtxRelease (fn : FnId) (s : State) : Host.Outcome State Fault Refusal :=
  run s (fun h =>
    let all : Word := 0xFFFFFFFFFFFFFFFF
    simple h fn 0x12 [1, all, all]
      (fun h k =>
        let none_ := nthW k.words 3 == 0
        firstStatus [pfStatus h fn k.ctx true,
          rangeStatus (none_ || ((cmdPages k).isSome && ((cmdPages k).getD []).all (holdsPage h k.ctx)))])
      (fun h k => (givePages h ((cmdPages k).getD []) .free, 0)))

/-! ### Starting (R421, R423, R570) -/

/-- Clears the weight key slots bound to a context and its KEM pair. -/
def clearKeys (h : Hw) (c : CtxId) : Hw :=
  ({ h with sec := { h.sec with wkeys := h.sec.wkeys.filter (fun p => p.2.1 != c) } }).modCtx c
    (fun x => { x with kem := none, evidence := [] })

/-- The context measurement (R423). -/
def ctxMeasure (x : Ctx) (image : Bytes) : Bytes :=
  sha3 (leBytes 2 x.job.toNat ++ leBytes 1 x.mask.toNat ++ leBytes 1 (b2n x.conf) ++ sha3 image)

/-- Cells of a Palette image, by offset within the window. -/
def putCells (l : List Host.Cell) (at_ : Nat) : Bytes → List Host.Cell
  | [] => l
  | b :: bs => putCells (SMap.set 0 l at_ b) (at_ + 1) bs

/-- A context's saved state of an easel; at creation nothing is in its Palette and accumulators. -/
def savedOf (x : Ctx) (e : EaselId) : Saved :=
  SMap.get { core := CoreRegs.init, csr := FaultCsr.init, blocked := none, exited := false, me := [], vu := [], ce := [],
             acc := AccSets.init, palette := [], palBad := [] } x.saved e.val

/-- What a Palette window holds, by offset within it. -/
def palCells (h : Hw) (e : EaselId) : List Host.Cell :=
  (SMap.range h.mem.cells (palBase e.val) (palBase e.val + 0x200000)).map (fun p => (p.1 - palBase e.val, p.2))

/-- Watchdog time counts only while the context is resident (R489): while an entry is saved, `since` holds the
time counted so far. -/
def turnWatch (h : Hw) (i : QEntry) : QEntry := { i with since := h.now - i.since }

/-- Words of a Palette window that are uncorrectable, as word numbers in it. -/
def palBadWords (h : Hw) (e : EaselId) : List Nat :=
  ((SMap.range h.mem.ecc (palBase e.val / 8) (palBase e.val / 8 + 0x40000)).filter (fun p => decide (3 ≤ p.2))).map
    (fun p => p.1 - palBase e.val / 8)

/-- Accumulator storage as the save area takes it: corrected entries are counted and fresh (R160, R168), uncorrectable
ones stay so (assumption 112). -/
def saveAcc (h : Hw) (e : EaselId) : Hw :=
  let a := (h.easel e).acc
  let n := (a.errs.map (fun p => p.2.corrected)).foldl (· + ·) 0
  (countAcc h e n false).modEasel e (fun x => { x with acc := { x.acc with errs := x.acc.errs.filter (fun p => p.2.bad) } })

/-- An easel's memories are made ready for the save area: engines at a boundary (R125), varnished slots folded into the
Palette (R237), the Palette and the accumulators read (R160). -/
def readyToSave (h : Hw) (e : EaselId) : Hw :=
  saveAcc (touchRead (foldPalette (stopEngines h e) e) (palBase e.val) 0x200000) e

/-- Takes a context off an easel: its state goes to the save area, prefetch lines are discarded, the core is in
service mode and idle. -/
def unloadEasel (h0 : Hw) (c : CtxId) (e : EaselId) : Hw :=
  if (h0.easel e).loaded ≠ some c then h0
  else
    let h := readyToSave h0 e
    let x := h.easel e
    let v : Saved :=
      { core := x.core, csr := x.csr, blocked := x.blocked, exited := x.exited, me := x.me.map (turnWatch h)
        vu := x.vu.map (turnWatch h), ce := x.ce.map (turnWatch h), acc := x.acc, palette := palCells h e
        palBad := palBadWords h e }
    let h1 := idleMe (h.modCtx c (fun y => { y with saved := SMap.put y.saved e.val v })) e
    { h1.modEasel e (fun y => { y with
        loaded := none, core := CoreRegs.init, service := true, idled := true, csCtx := 0, blocked := none
        exited := false, stopped := false, stopNs := 0, me := [], vu := [], ce := [], acc := AccSets.init, prefetch := [] }) with
      mem := h1.mem.zero (palBase e.val) 0x200000 }

/-- Takes a context off all its easels and partitions. -/
def unloadCtx (h : Hw) (c : CtxId) : Hw :=
  let h1 := (ctxEasels h (h.ctx c).mask).foldl (fun g e => unloadEasel g c e) h
  { h1 with ctxs := { h1.ctxs with loaded := h1.ctxs.loaded.filter (fun p => p.2 != c) } }

/-- The Palettes of a context after an image read that failed: undefined (R570), a free value each. -/
def undefPalettes (h0 : Hw) (c : CtxId) : Hw :=
  let h := unloadCtx h0 c
  let x := h.ctx c
  let saved := (ctxEasels h x.mask).map (fun e =>
    (e.val, { savedOf x e with palette := putCells [] 0 (sub (Config.freeBytes (h.free + e.val) 0x200000) 0 0x200000)
                               palBad := [] }))
  { h.setCtx c { x with saved := saved } with free := h.free + 208 }

/-- The image is in: keys are cleared, the measurement is recorded and every easel starts at its entry with the
state of Table 3-1. -/
def startCtx (h : Hw) (c : CtxId) (load entry : Nat) (image : Bytes) : Hw :=
  let h1 := clearKeys (unloadCtx h c) c
  let x := h1.ctx c
  let saved := (ctxEasels h1 x.mask).map (fun e =>
    let v := savedOf x e
    (e.val, { v with
      core := { CoreRegs.init with pc := BitVec.ofNat 64 (palBase e.val + entry) }
      csr := { FaultCsr.init with epc := BitVec.ofNat 64 (palBase e.val + entry) }
      blocked := none, exited := false, me := [], vu := [], ce := [], palette := putCells v.palette load image
      palBad := v.palBad.filter (fun w => decide (8 * w + 8 ≤ load ∨ load + image.length ≤ 8 * w)) }))
  setCtxState (h1.setCtx c { x with
    measurement := ctxMeasure x image, saved := saved, runnableAt := h.now, due := false }) c 2

/-- Operands of CTX_START: length, load offset, entry offset. -/
def startArgs (k : HostCmd) : Nat × Nat × Nat :=
  ((nthW k.words 2).toNat, (nthW k.words 3).toNat, (nthW k.words 4).toNat)

/-- Status of CTX_START before anything is copied. -/
def startStatus (h : Hw) (fn : FnId) (k : HostCmd) : BitVec 8 :=
  let (len, load, entry) := startArgs k
  let st := (h.ctx k.ctx).state
  firstStatus [fnStatus h fn k.ctx, tdiStatus h k.ctx, if st = 1 ∨ st = 5 then 0 else 7,
    rangeStatus (entry % 8 == 0 && len % 8 == 0 && decide (load + len ≤ 0x200000))]

/-- An uncorrectable word in the image at an offset: reported to its holder, but not as a fault of the starting
context (R570). -/
def imageUe (h : Hw) (c : CtxId) (off : Nat) : Hw :=
  if h.holder off = some c then
    raiseEv (logMemError (countMemError h off 1 true) off 4) 0x082 4 [BitVec.ofNat 64 off]
  else ueFound h off

/-- CTX_START: reads the image from local LPDDR6, once no channel of it is in retraining (R180), or from the host, in
which case the command waits for the data (R421, R570). -/
def execCtxStart (fn : FnId) (s : State) : Host.Outcome State Fault Refusal :=
  run s (fun h0 => command h0 fn 0x13 true [0xFFFFFFFFFFFFFFFF, 0xFFFFFFFF, 0x1FFFFF, 0x1FFFFF] (fun h k =>
    let (len, load, entry) := startArgs k
    let uma := nthW k.words 1
    let a := uma.toNat
    let st := startStatus h fn k
    if st ≠ 0 then complete h fn k st 0
    else if wfld uma 60 4 = 0 && isLp a && decide (a + len ≤ 0xC000000000) then
      if chanWaits h a len then h0
      else if chanDown h a len && len != 0 then complete (undefPalettes h k.ctx) fn k 3 0
      else (match h.mem.badRead a len with
        | some off => complete (imageUe (undefPalettes h k.ctx) k.ctx off) fn k 3 0
        | none =>
          if (h.mem.pathBad a len).isSome then
            let h1 := undefPalettes h k.ctx
            complete (logPath { h1 with mem := h1.mem.pathMet a len } (if lpChannel a < 48 then 0 else 1) a) fn k 3 0
          else complete (startCtx (touchRead h a len) k.ctx load entry (h.mem.read a len)) fn k 0 0)
    else if wfld uma 57 7 = 0x20 && h.hostUp then
      hold (hostRead h (.hostCmd fn k.seq) none uma (wfld uma 0 57) len) fn k
    else complete h fn k 3 0))

/-! ### Stopping, scheduling, queries (R421, R444) -/

/-- A CTX_STOP of the context is in progress. -/
def stopPending (h : Hw) (c : CtxId) : Option (FnId × Nat) :=
  (h.hif.fns.findSome? (fun p =>
    (p.2.inProgress.find? (fun r => r.cmd.op == 0x14 && r.cmd.ctx == c)).map
      (fun r => ((Fin.ofNat 64 p.1 : FnId), r.cmd.seq))))

/-- CTX_STOP: a context switched out is held at once, a loaded one once it has switched out (Table 14-2). -/
def execCtxStop (fn : FnId) (s : State) : Host.Outcome State Fault Refusal :=
  run s (fun h => command h fn 0x14 true [] (fun h k =>
    let x := h.ctx k.ctx
    let st := firstStatus [fnStatus h fn k.ctx, if x.state = 2 ∨ x.state = 3 then 0 else 7]
    if st ≠ 0 then complete h fn k st 0
    else if x.state = 2 then complete (setCtxState h k.ctx 4) fn k 0 0
    else hold (h.modLoaded k.ctx (fun y => { y with stopped := true })) fn k))

/-- CTX_RESUME (Table 14-2); a context stopped under R442 stays so. -/
def execCtxResume (fn : FnId) (s : State) : Host.Outcome State Fault Refusal :=
  run s (fun h => simple h fn 0x15 []
    (fun h k => firstStatus [fnStatus h fn k.ctx, if (h.ctx k.ctx).state = 4 && !(h.ctx k.ctx).held then 0 else 7])
    (fun h k => (setCtxState (h.modCtx k.ctx (fun x => { x with runnableAt := h.now })) k.ctx 2, 0)))

/-- CTX_SCHED (Table 14-2). -/
def execCtxSched (fn : FnId) (s : State) : Host.Outcome State Fault Refusal :=
  run s (fun h => simple h fn 0x17 [7, 0xFFFFFFFFFFFFFFFF]
    (fun h k => firstStatus [pfStatus h fn k.ctx true, rangeStatus (quantumOk (nthW k.words 2).toNat)])
    (fun h k => (h.modCtx k.ctx (fun x => { x with
      prio := BitVec.ofNat 3 (wfld (nthW k.words 1) 0 3), quantum := (nthW k.words 2).toNat }), 0)))

/-- CTX_ASSIGN (R390). -/
def execCtxAssign (fn : FnId) (s : State) : Host.Outcome State Fault Refusal :=
  run s (fun h => simple h fn 0x18 [0x3F]
    (fun h k => pfStatus h fn k.ctx false)
    (fun h k => (h.modCtx k.ctx (fun x => { x with fn := Fin.ofNat 64 (wfld (nthW k.words 1) 0 6) }), 0)))

/-- The 16 counters of a context (Table 14-12). -/
def perfWords (h : Hw) (c : CtxId) : List Word :=
  (List.range 16).map (fun k => BitVec.ofNat 64 (SMap.get 0 h.ctxs.perf (c.val * 16 + k)))

/-- Writes data of a command to host memory, with Relaxed Ordering as the function enables (R262). -/
def hostWriteFn (h : Hw) (f : FnId) (addr : Word) (b : Bytes) : Hw :=
  if h.hostUp then h.emit (.hostWrite addr b (h.fn f).relaxed) else h

/-- CTX_PERF_READ: the counters go to the host as 128 bytes (R444). -/
def execCtxPerfRead (fn : FnId) (s : State) : Host.Outcome State Fault Refusal :=
  run s (fun h => simple h fn 0x19 [0xFFFFFFFFFFFFFFFF]
    (fun h k => firstStatus [fnStatus h fn k.ctx, if wfld (nthW k.words 1) 0 6 = 0 then 0 else 3])
    (fun h k => (hostWriteFn h fn (nthW k.words 1) (wordsBytes (perfWords h k.ctx)), 0)))

/-- Pages that a context holds. -/
def heldPages (h : Hw) (c : CtxId) : Nat := (h.ctxs.owner.filter (fun p => match p.2 with
  | .ctx d _ => d == c
  | _ => false)).length

/-- CTX_QUERY (Table 14-2). -/
def execCtxQuery (fn : FnId) (s : State) : Host.Outcome State Fault Refusal :=
  run s (fun h => simple h fn 0x1A []
    (fun h k => if fn = 0 then 0 else if (h.ctx k.ctx).state = 0 ∨ (h.ctx k.ctx).fn ≠ fn then 1 else 0)
    (fun h k =>
      let x := h.ctx k.ctx
      (h, if x.state = 0 then 0 else
        x.state.toNat + x.mask.toNat * 8 + b2n x.conf * 128 + heldPages h k.ctx % 2 ^ 32 * 256)))

end Sys2Proof.Machine
end

