-- ==== Sys2Proof/Machine/Switch.lean ====
section
/-! DEFINITION. Scheduling and the context switch, the services of SVC, and gesso (R413–R415, R424–R429). -/

namespace Sys2Proof.Machine

/-! ### Saving and restoring a context on an easel (R425) -/

/-- Puts a saved image into a window; what it does not list is zero. -/
def loadPalette (m : Mem) (e : EaselId) (v : Saved) : Mem :=
  let m1 := m.zero (palBase e.val) 0x200000
  { m1 with
    cells := v.palette.foldl (fun c p => SMap.set 0 c (palBase e.val + p.1) p.2) m1.cells
    ecc := v.palBad.foldl (fun c w => SMap.put c (palBase e.val / 8 + w) 3) m1.ecc }

/-- Loads a context on an easel (Table 14-5). -/
def loadEasel (h : Hw) (c : CtxId) (e : EaselId) : Hw :=
  let x := h.ctx c
  let v := savedOf x e
  let h1 := { h with mem := loadPalette h.mem e v }
  h1.modEasel e (fun y => { y with
    loaded := some c, core := v.core, service := false, idled := false
    csCtx := BitVec.ofNat 32 (c.val + x.job.toNat * 65536), csr := v.csr
    blocked := v.blocked, exited := v.exited, stopped := false, stopNs := 0, me := v.me.map (turnWatch h)
    vu := v.vu.map (turnWatch h), ce := v.ce.map (turnWatch h), acc := v.acc })

/-- An easel of a context that has been loaded goes on: its MMA ends the ME's idleness (R153), its core waits again for
its condition (R259), its copy instructions send what they lack (R425). -/
def resumeEasel (h : Hw) (e : EaselId) : Hw := pumpCe (settle (resumeMma h e) e) e

/-- Pauses the running streams of a context; requests for blocks not yet verified are dropped (R216). -/
def pauseGlaze (h : Hw) (c : CtxId) : Hw :=
  let slots := h.glz.slots.map (fun p =>
    if p.2.ctx = c ∧ p.2.state = 1 then (p.1, { p.2 with state := 5, got := [] }) else p)
  let h1 := endReads h (fun n => (h.gslot n).ctx == c)
  { h1 with glz := { h1.glz with slots := slots } }

/-- Resumes the paused streams of a context (R216). -/
def resumeGlaze (h : Hw) (c : CtxId) : Hw :=
  (h.glz.slots.filter (fun p => p.2.ctx == c && p.2.state == 5)).foldl (fun g p =>
    let n : SlotId := Fin.ofNat 64 p.1
    fetchNext (g.modGslot n (fun y => { y with state := 1 })) n) h

/-- Partitions on which a context is loaded. -/
def partCtx (h : Hw) (p : PartId) : Option CtxId := SMap.find h.ctxs.loaded p.val

/-- Contexts loaded on a set of partitions. -/
def loadedOn (h : Hw) (ps : BitVec 4) : List CtxId :=
  allCtx.filter (fun c => (maskParts ps).any (fun p => partCtx h p == some c))

/-- The microcode that waits is taken by partitions at a switch (R543). -/
def takeUcode (h : Hw) (ps : BitVec 4) : Hw :=
  let due := h.fwu.ucodePending &&& ps
  if due = 0 then h
  else
    let left := h.fwu.ucodePending &&& ~~~ps
    let slot := h.fwu.actSlot
    let h1 := { h with fwu := { h.fwu with
      ucodePending := left
      runUcode := if slot = 1 then h.fwu.runUcode ||| due else h.fwu.runUcode &&& ~~~due
      step := if left = 0 && h.fwu.step == 4 then 5 else h.fwu.step } }
    if left = 0 then raiseEv h1 0x248 slot.toNat [] else h1

/-- Ends every command in progress of an opcode for a context with a status. -/
def endCmds (h : Hw) (op : Nat) (c : CtxId) (status : BitVec 8) : Hw :=
  h.hif.fns.foldl (fun g p =>
    (p.2.inProgress.filter (fun r => r.cmd.op == op && r.cmd.ctx == c)).foldl
      (fun g2 r => finishCmd g2 (Fin.ofNat 64 p.1) r.cmd.seq status 0) g) h

/-- Switches a context out of all its partitions: a loaded one becomes RUNNABLE, or STOPPED where a CTX_STOP
waits; a faulted one's capture ends (R425, R442, R488, R492). -/
def switchOut (h : Hw) (c : CtxId) : Hw :=
  let x := h.ctx c
  let h2 := dropStaging (unloadCtx (pauseGlaze h c) c) c
  let h3 := h2.modCtx c (fun y => { y with
    due := false, ranFor := 0
    waitSince := (maskParts y.mask).foldl (fun m p => SMap.put m p.val h.now) y.waitSince })
  match (h3.ctx c).state.toNat with
  | 3 =>
    if (stopPending h3 c).isSome then endCmds (setCtxState h3 c 4) 0x14 c 0
    else setCtxState h3 c (if x.held then 4 else 2)
  | 6 =>
    let h4 := closeWhere h3 (fun k => k.level == 0 && bit k.contexts c.val) false
    endCmds (if x.held then setCtxState h4 c 4 else h4) 0x14 c 7
  | _ => endCmds h3 0x14 c 7

/-- Switches a context in on all its partitions (R413, R426). -/
def switchIn (h : Hw) (c : CtxId) : Hw :=
  let m := (h.ctx c).mask
  let es := (ctxEasels h m).filter (fun e => h.up e)
  let h1 := es.foldl (fun g e => loadEasel g c e)
    { h with ctxs := { h.ctxs with loaded := (maskParts m).foldl (fun l p => SMap.put l p.val c) h.ctxs.loaded } }
  let h2 := setCtxState (perfAdd (h1.modCtx c (fun x => { x with lastLoaded := m, ranFor := 0, due := false })) c 15 1) c 3
  resumeGlaze (es.foldl resumeEasel h2) c

/-! ### Scheduling (R415) -/

/-- The time since which a context waits: that of its partition for which it has waited longest. -/
def waitsSince (x : Ctx) : Nat :=
  match (maskParts x.mask).map (fun p => SMap.get x.runnableAt x.waitSince p.val) with
  | [] => x.runnableAt
  | n :: l => l.foldl Nat.min n

/-- A runnable context may replace a loaded one: its partitions overlap and its priority is higher, or equal
once the loaded one's quantum is over. -/
def mayReplace (old new : Ctx) : Bool :=
  new.state == 2 && (new.mask &&& old.mask) != 0 &&
    (decide (old.prio < new.prio) || (old.due && decide (old.prio ≤ new.prio)))

/-- A loaded context leaves its partitions whoever waits: it is no longer LOADED, or is being stopped. -/
def mayLeave (h : Hw) (c : CtxId) : Bool := (h.ctx c).state != 3 || (stopPending h c).isSome || (h.ctx c).held

/-- A runnable context could be loaded: every partition of its mask is open to it. -/
def candidate (h : Hw) (d : CtxId) : Bool :=
  let x := h.ctx d
  x.state == 2 && (maskParts x.mask).all (fun p =>
    match partCtx h p with
    | some c => mayLeave h c || mayReplace (h.ctx c) x
    | none => true)

/-- `d` comes before `c` in the choice: higher priority, then longer waiting, then the lower ID. -/
def before (h : Hw) (d c : CtxId) : Bool :=
  let x := h.ctx d
  let y := h.ctx c
  decide (y.prio < x.prio) ||
    (x.prio == y.prio && (decide (waitsSince x < waitsSince y) || (waitsSince x == waitsSince y && decide (d < c))))

/-- The scheduler may load `t` now: no candidate that shares a partition with it comes before it. -/
def chosen (h : Hw) (t : CtxId) : Bool :=
  candidate h t &&
    allCtx.all (fun d => d == t || !candidate h d || ((h.ctx d).mask &&& (h.ctx t).mask) == 0 || !before h d t)

/-- QUANTUM_EXPIRE: the quantum of the context loaded on a partition is over and a runnable context of equal or
higher priority shares the partition; deferred during a handover (R415, R540). -/
def execQuantumExpire (p : PartId) (s : State) : Host.Outcome State Fault Refusal :=
  run s (fun h =>
    match partCtx h p with
    | some c =>
      let x := h.ctx c
      if h.fwu.paused || x.quantum == 0 || decide (x.ranFor < x.quantum * 1000) || x.state != 3 ||
          !allCtx.any (fun d => mayReplace { x with due := true } (h.ctx d)) then h
      else h.modCtx c (fun y => { y with due := true })
    | none => h)

/-- The known-answer test has not run on some easel of the partitions for 24 h (R490). -/
def katDue (h : Hw) (c : CtxId) : Bool :=
  (ctxEasels h (h.ctx c).mask).any (fun e => decide ((h.easel e).katTime + 86400000000000 ≤ h.ftcNow))

/-- CONTEXT_SWITCH on a set of partitions: the contexts loaded there leave and the chosen one, if any, is
loaded (R413, R415, R425).  It happens where the scheduler decides so; a handover defers it (R540), and in idle state I3 none is loaded. -/
def execContextSwitch (ps : BitVec 4) (target : Option CtxId) (s : State) : Host.Outcome State Fault Refusal :=
  run s (fun h =>
    let outs := loadedOn h ps
    let fits := outs.all (fun c => ((h.ctx c).mask &&& ~~~ps) == 0)
    if h.fwu.paused || !h.bru.ready || !fits || h.chipRec || h.pwr.idle == 3 then h
    else match target with
      | none =>
        if outs.isEmpty || !outs.all (fun c => mayLeave h c || katDue h c) then h
        else takeUcode (outs.foldl switchOut h) ps
      | some t =>
        if !chosen h t || ((h.ctx t).mask &&& ~~~ps) != 0 ||
            !outs.all (fun c => ((h.ctx c).mask &&& (h.ctx t).mask) != 0) then h
        else switchIn (takeUcode (outs.foldl switchOut h) ps) t)

/-- COPY_TRANSACTION_ABANDON: a transaction of a stopped context still outstanding 4 µs after the stop is
abandoned: its data is discarded on arrival, and it is issued again on resumption (R425). -/
def execCopyTransactionAbandon (tag : BitVec 16) (s : State) : Host.Outcome State Fault Refusal :=
  run s (fun h =>
    match h.reqs.find? (fun r => r.tag == tag) with
    | some r =>
      (match r.by_ with
        | .copy e serial idx =>
          let toPal := match ctxEntry h r.who e .ce serial with
            | some i => (match i.txns[idx]? with
              | some t => (match decodeUma h r.who t.dst with
                | .local off => isPal off
                | _ => isPal t.dst.toNat)
              | none => false)
            | none => false
          let due := if h.resident r.who e then (h.easel e).stopped && decide (4000 ≤ (h.easel e).stopNs)
            else decide (SMap.get 0 (h.ctx r.who).waitSince (partOf e).val + 4000 ≤ h.now)
          if toPal && due then dropReq h tag else h
        | _ => h)
    | none => h)

/-- CONTEXT_EXIT_COMPLETE: every easel has executed EXIT and all engine, glaze and collective work of the context
has completed (Table 14-1). -/
def execContextExitComplete (c : CtxId) (s : State) : Host.Outcome State Fault Refusal :=
  run s (fun h =>
    let es := (ctxEasels h (h.ctx c).mask).filter (fun e => h.up e)
    let done := es.all (fun e =>
      let x := h.easel e
      x.loaded == some c && x.exited && x.me.isEmpty && x.vu.isEmpty && x.ce.isEmpty &&
        x.sb.all (fun b => b.ctx != c))
    if (h.ctx c).state == 3 && done && !colBusy h c &&
        h.glz.slots.all (fun p => p.2.ctx != c || (p.2.state != 1 && p.2.state != 5)) then setCtxState h c 5
    else h)

/-! ### Context services (R424) -/

/-- The context that waits on easel `e` in SVC with a service number: the loaded one, or the lowest switched
out. -/
def svcCaller (h : Hw) (e : EaselId) (n : BitVec 16) : Option CtxId :=
  let waits := fun c => match h.ctxBlocked c e with
    | some b => b.what == .svc n
    | none => false
  match (h.easel e).loaded with
  | some c => if waits c then some c else allCtx.find? waits
  | none => allCtx.find? waits

/-- Registers of the caller. -/
def callerRegs (h : Hw) (c : CtxId) (e : EaselId) : CoreRegs :=
  if h.resident c e then (h.easel e).core else (savedOf (h.ctx c) e).core

/-- A service: `body` gives what it does, s1 and the status. -/
def service (h : Hw) (e : EaselId) (n : BitVec 16) (body : Hw → CtxId → CoreRegs → Hw × Word × Nat) : Hw :=
  match svcCaller h e n with
  | none => h
  | some c =>
    if h.fwu.paused then h
    else
      let r := body h c (callerRegs h c e)
      finishCtx r.1 c e (fun k => (k.put 1 r.2.1).put 2 (BitVec.ofNat 64 r.2.2))

/-- A service that fails leaves s1 to a free value (R424 states no result for it). -/
def svcFail (h : Hw) (status : Nat) : Hw × Word × Nat := (h.useFree, h.freeWord, status)

/-- The partition whose Palette window or Canvas range holds an offset. -/
def sketchPart (off : Nat) : Option PartId := partOfOff off

/-- Free entry of a partition's region table. -/
def freeRegion (h : Hw) (p : PartId) : Option Nat := (List.range 64).find? (fun m => !(regionOf h p m).2.2.2)

def regionCap (p : PartId) (m : Nat) (base cfg : Word) : SMap Word :=
  let b := blkBase (.skt p)
  [(b + 0x600 + 16 * m, base), (b + 0x608 + 16 * m, cfg)]

/-- SKETCH_REGION (Table 14-4). -/
def sketchRegion (h : Hw) (c : CtxId) (r : CoreRegs) : Hw × Word × Nat :=
  let off := (r.get 1).toNat
  let s3 := r.get 3
  match sketchPart off with
  | none => svcFail h 2
  | some p =>
    if bit s3 0 then
      match freeRegion h p with
      | none => svcFail h 3
      | some m =>
        if 2 ^ 23 ≤ (r.get 2).toNat then svcFail h 2
        else match fwCommit h (.skt p) (regionCap p m (r.get 1)
            (put (r.get 2).toNat 0 23 ||| put c.val 24 6 ||| bitw true 31)) with
          | some g => (g, BitVec.ofNat 64 m, 0)
          | none => svcFail h 2
    else
      let m := wfld s3 1 6
      let q := regionOf h p m
      if !q.2.2.2 || q.2.2.1 != c.val then svcFail h 2
      else match fwCommit h (.skt p) (regionCap p m 0 0) with
        | some g => (g, BitVec.ofNat 64 m, 0)
        | none => svcFail h 2

/-- SKETCH_REGION (R222, R424). -/
def execSketchRegion (e : EaselId) (s : State) : Host.Outcome State Fault Refusal :=
  run s (fun h => service h e 1 sketchRegion)

/-- SYNC_RANGE: a range for a context that holds none (Table 14-4). -/
def syncRange (h : Hw) (c : CtxId) (r : CoreRegs) : Hw × Word × Nat :=
  let n := (r.get 1).toNat
  if (modRange h c).2 ≠ 0 then svcFail h 2
  else if 32768 < n then svcFail h 3
  else match objRange h n with
    | none => svcFail h 3
    | some b =>
      match fwCommits h.useFree (rangeCommits c b n) with
      | some g => (g, BitVec.ofNat 64 b, 0)
      | none => svcFail h 3

/-- SYNC_RANGE (R424). -/
def execSyncRange (e : EaselId) (s : State) : Host.Outcome State Fault Refusal :=
  run s (fun h => service h e 2 syncRange)

/-- The member list of `n` FAs of two bytes at a UMA, where the context may read it. -/
def memberList (h : Hw) (c : CtxId) (uma : Word) (n : Nat) : Option (List Nat) :=
  match decodeUma h c uma with
  | .local off =>
    if rangeHeld h c off (2 * n) && (h.mem.badRead off (2 * n)).isNone && !chanDown h off (2 * n) then
      some ((List.range n).map (fun i => leNat (h.mem.read (off + 2 * i) 2)))
    else none
  | _ => none

/-- Member words of the groups in force, as ranges of entries. -/
def memberRanges (h : Hw) (but : Option Nat) : List Buf :=
  ((List.range 64).filter (fun g => bit (h.reg (colOff (0x100 + 8 * g))) 32 && some g != but)).map (fun g =>
    let w := h.reg (colOff (0x100 + 8 * g))
    (wfld w 0 13, 2 ^ wfld w 16 4))

/-- The first multiple of 4 at or after `b` at which `n` member entries are free. -/
def findMembers (l : List Buf) (n : Nat) : Nat → Nat → Option Nat
  | 0, _ => none
  | k + 1, b =>
    if 8192 < b + n then none
    else match l.find? (fun r => decide (r.1 < b + n ∧ b < r.1 + r.2)) with
      | some r => findMembers l n k ((r.1 + r.2 + 3) / 4 * 4)
      | none => some b

/-- Words of four member entries each. -/
def memberWords (base : Nat) : Nat → List Nat → SMap Word
  | 0, _ => []
  | k + 1, l =>
    let w := (List.range 4).foldl (fun w j => w ||| put ((l[j]?).getD 0) (16 * j) 16) (0 : Word)
    (colOff (0x10000 + 8 * base), w) :: memberWords (base + 1) k (l.drop 4)

/-- GROUP: commits a group of 2^n members, new or in place of one of the context's (R359, R360). -/
def makeGroup (h0 : Hw) (c : CtxId) (r : CoreRegs) : Hw × Word × Nat :=
  let n := (r.get 2).toNat
  let h := match decodeUma h0 c (r.get 1) with
    | .local off => if n ≤ 10 then touchRead h0 off (2 * 2 ^ n) else h0
    | _ => h0
  let s3 := r.get 3
  let old := wfld s3 0 6
  let g := if bit s3 6 then some old
    else (List.range 64).find? (fun g => !bit (h.reg (colOff (0x100 + 8 * g))) 32)
  let mine := !bit s3 6 || (bit (h.reg (colOff (0x100 + 8 * old))) 32 && wfld (h.reg (colOff (0x100 + 8 * old))) 20 6 == c.val)
  if 10 < n || !mine then svcFail h 2
  else match memberList h c (r.get 1) (2 ^ n), g with
    | none, _ => svcFail h 2
    | _, none => svcFail h 3
    | some l, some g =>
      if !(l.all (fun f => decide (f < 1024)) && distinct l && l.contains h.fa) then svcFail h 2
      else match findMembers (memberRanges h (if bit s3 6 then some old else none)) (2 ^ n) 65 0 with
        | none => svcFail h 3
        | some b =>
          match fwCommit h .col (memberWords (b / 4) (cdiv (2 ^ n) 4) l ++
              [(colOff (0x100 + 8 * g), put b 0 13 ||| put n 16 4 ||| put c.val 20 6 ||| bitw true 32)]) with
          | some k => (k, BitVec.ofNat 64 g, 0)
          | none => svcFail h 2

/-- GROUP (R424). -/
def execGroup (e : EaselId) (s : State) : Host.Outcome State Fault Refusal :=
  run s (fun h => service h e 3 makeGroup)

/-- NOTIFY: raises source 0x200 + ctx_id with s1 (R424). -/
def execNotify (e : EaselId) (s : State) : Host.Outcome State Fault Refusal :=
  run s (fun h => service h e 4 (fun h c r =>
    ((raiseEv h (0x200 + c.val) (wfld (r.get 1) 0 32) []).useFree, h.freeWord, 0)))

/-- YIELD: ends the quantum at once (R424). -/
def execYield (e : EaselId) (s : State) : Host.Outcome State Fault Refusal :=
  run s (fun h => service h e 5 (fun h c _ =>
    ((h.modCtx c (fun x => { x with due := x.state == 3 })).useFree, h.freeWord, 0)))

/-! ### Ending a context's work, and gesso (R427–R429, R500) -/

/-- Drops the requests, packets to send, waits and posted operations of a context. -/
def dropWork (h : Hw) (c : CtxId) : Hw :=
  let mine := fun (q : QPkt) => match q.req with
    | some t => h.reqs.any (fun r => r.tag == t && r.ctx == some c)
    | none => false
  let cols := (h.col.slots.filter (fun p => p.2.ctx == c)).map (·.1)
  let sent := fun (q : QPkt) => match q.col with
    | some n => cols.contains n.val
    | none => false
  let keep := fun (q : QPkt) => !(mine q || sent q)
  { h with
    reqs := h.reqs.filter (fun r => r.ctx != some c)
    rte := { h.rte with inq := h.rte.inq.filter keep }
    ports := h.ports.map (fun p => (p.1, { p.2 with txq := p.2.txq.filter keep }))
    sync := { h.sync with waiters := h.sync.waiters.filter (fun w => w.ctx != c) }
    glz := { h.glz with binds := h.glz.binds.filter (fun b => b.ctx != c)
                        staging := h.glz.staging.filter (fun d => d.ctx != c) }
    easels := h.easels.map (fun p => (p.1, { p.2 with sb := p.2.sb.filter (fun b => b.ctx != c) })) }

/-- Abandons a context's collectives (R384, R500). -/
def dropColls (h : Hw) (c : CtxId) : Hw :=
  h.col.slots.foldl (fun g p => if p.2.ctx = c then freeColl g (Fin.ofNat 64 p.1) true else g) h

/-- Frees the slots of a context's streams (R218). -/
def clearGlaze (h : Hw) (c : CtxId) : Hw :=
  let h1 := endReads h (fun n => (h.gslot n).ctx == c)
  { h1 with glz := { h1.glz with
      slots := h1.glz.slots.map (fun p => if p.2.ctx = c then (p.1, GlazeSlot.init) else p) } }

/-- Takes a context off its partitions without saving it. -/
def dropLoaded (h : Hw) (c : CtxId) : Hw :=
  let es := h.easels.filter (fun p => p.2.loaded == some c)
  let h1 := es.foldl (fun g p =>
    let e : EaselId := Fin.ofNat 208 p.1
    g.modEasel e (fun y => { y with
      loaded := none, core := CoreRegs.init, service := true, idled := true, csCtx := 0, blocked := none
      exited := false, stopped := false, stopNs := 0, me := [], vu := [], ce := [], acc := AccSets.init, prefetch := [] })) h
  { h1 with ctxs := { h1.ctxs with loaded := h1.ctxs.loaded.filter (fun p => p.2 != c) } }

/-- Time of steps 1 and 2 of gesso in nanoseconds (R428): C from the stack where the context holds most, save
area included, A from its allotments. -/
def gessoNs (h : Hw) (c : CtxId) : Nat :=
  let pages := ((h.ctxs.owner.filter (fun p => decide (393216 ≤ p.1) && holdsPage h c p.1)).map (·.1)) ++
    (h.ctx c).savePages
  let inDie := fun d => (pages.filter (fun p => (p - 393216) / 16384 == d)).length * 0x200000
  let a := (((List.range 4).map (fun p => allotment h c (Fin.ofNat 4 p))).foldl (· + ·) 0)
  30000 + cdiv (Nat.max (inDie 0) (inDie 1)) 4000 + cdiv (a * 64) 128

/-- Step 1 of gesso: the context's keys are destroyed, and job keys whose job has no other context (R427). -/
def destroyKeys (h : Hw) (c : CtxId) : Hw :=
  let h1 := clearKeys h c
  let job := (h.ctx c).job
  let alone := allCtx.all (fun d => d == c || !(h.ctx d).live || (h.ctx d).job != job)
  { h1 with sec := { h1.sec with
      xtsKeys := SMap.del h1.sec.xtsKeys c.val
      jobKeys := if alone then h1.sec.jobKeys.filter (fun p => p.2.job != job) else h1.sec.jobKeys } }

/-- Zeroes the Palettes that the context held when last loaded, where no other context is loaded now. -/
def zeroPalettes (h : Hw) (c : CtxId) : Hw :=
  (ctxEasels h (h.ctx c).lastLoaded).foldl (fun g e =>
    if (g.easel e).loaded.isNone then { g with mem := g.mem.zero (palBase e.val) 0x200000 } else g) h

/-- What gesso clears beside pages: Palettes, glaze slots, sketch slots, module-scope objects and ranges, groups, regions,
allotments and counters (R218, R241, R427); a register that holds nothing of the context takes no commit. -/
def scrubRegs (h : Hw) (c : CtxId) : Hw :=
  let x := h.ctx c
  let r := modRange h c
  let h1 := clearObjs (clearGlaze (zeroPalettes h c) c) (fun i => decide (r.1 ≤ i.val ∧ i.val < r.1 + r.2))
  let h2 := { h1 with
    sk := { h1.sk with slots := h1.sk.slots.filter (fun s => s.ctx != c), toZero := h1.sk.toZero.filter (fun s => s.ctx != c) }
    mem := { h1.mem with unfolded := h1.mem.unfolded.filter (fun s => s.ctx != c) } }
  let h3 := ((List.range 64).map (fun n => (Fin.ofNat 64 n : SlotId))).foldl (fun g n =>
    if slotOf g n = some c then g.setReg (glzBlk n + 0x100 + 8 * glzIdx n) 0 else g) h2
  let zero := fun (g : Hw) (b : BlockId) (cap : SMap Word) =>
    if cap.all (fun p => g.reg p.1 == 0) then g else (fwCommit g b cap).getD (blkApply g (applyRegs g cap) b cap)
  let h4 := ([0, 1] : List (Fin 2)).foldl (fun g i => zero g (.syn i) [(blkBase (.syn i) + 0x100 + 8 * c.val, 0)]) h3
  let h5 := maskParts x.mask |>.foldl (fun g p =>
    let own := (List.range 64).filter (fun m => (regionOf g p m).2.2.2 && (regionOf g p m).2.2.1 == c.val)
    zero g (.skt p) ((blkBase (.skt p) + 0x100 + 8 * c.val, 0) :: own.flatMap (fun m => regionCap p m 0 0))) h4
  let groups := (List.range 64).filter (fun g =>
    bit (h5.reg (colOff (0x100 + 8 * g))) 32 && wfld (h5.reg (colOff (0x100 + 8 * g))) 20 6 == c.val)
  clearCtxData (zero h5 .col (groups.map (fun g => (colOff (0x100 + 8 * g), (0 : Word))))) c

/-- Pages whose owner is the context. -/
def pagesOf (h : Hw) (c : CtxId) : List Nat := (h.ctxs.owner.filter (fun p => holdsPage h c p.1)).map (·.1)

/-- Fills pages with zeros; their owners stay. -/
def zeroPages (h : Hw) (l : List Nat) : Hw := l.foldl (fun g p => { g with mem := g.mem.zero (pageBase p) 0x200000 }) h

/-- Its LPDDR6 pages, crypto-erased, become zeroing: they read zero and take no write (R427). -/
def eraseLpPages (h : Hw) (c : CtxId) : Hw :=
  givePages h ((pagesOf h c).filter (fun p => decide (p < 393216))) .zeroing

/-- Gesso begins: the context stops, its work is abandoned, its keys are destroyed; a CTX_STOP in progress finds
it in gesso.  From now on nothing of it shows (R429): what steps 1 and 2 scrub is empty at once, and is given back at
their end. -/
def beginGesso (h : Hw) (c : CtxId) : Hw :=
  let t := h.now + gessoNs h c
  let h1 := dropLoaded (dropColls (dropWork h c) c) c
  let h2 := destroyKeys (stopGlaze h1 c) c
  let h3 := eraseLpPages (scrubRegs h2 c) c
  let h4 := zeroPages h3 (pagesOf h3 c ++ (h3.ctx c).savePages)
  (setCtxState (endCmds h4 0x14 c 7) c 7).modCtx c (fun x => { x with gessoAt := t, saved := [] })

/-- What gesso leaves once steps 1 and 2 end: nothing of the context, its Canvas pages and save area free (R427). -/
def scrubCtx (h : Hw) (c : CtxId) : Hw :=
  let h1 := eraseLpPages (scrubRegs h c) c
  givePages (givePages h1 (pagesOf h1 c) .free) (h1.ctx c).savePages .free

/-- The context ID is free again; its record keeps the function to which the last events go. -/
def freeCtx (h : Hw) (c : CtxId) : Hw :=
  let f := (h.ctx c).fn
  h.setCtx c { Ctx.init with fn := f }

/-- CTX_DESTROY: gesso begins and the command completes when it ends (R427). -/
def execCtxDestroy (fn : FnId) (s : State) : Host.Outcome State Fault Refusal :=
  run s (fun h => command h fn 0x16 true [] (fun h k =>
    let st := if fn = 0 then (if (h.ctx k.ctx).live then 0 else 7) else fnStatus h fn k.ctx
    if st ≠ 0 then complete h fn k st 0 else hold (beginGesso h k.ctx) fn k))

/-- GESSO_STEPS_END: steps 1 and 2 end at T_g; the ID is reusable (R428, Table 14-13). -/
def execGessoStepsEnd (c : CtxId) (s : State) : Host.Outcome State Fault Refusal :=
  run s (fun h =>
    if (h.ctx c).state ≠ 7 || decide (h.now < (h.ctx c).gessoAt) then h
    else
      let h1 := freeCtx (scrubCtx h c) c
      endCmds (raiseCtx (raiseCtx h1 0x140 c c.val []) 0x141 c c.val []) 0x16 c 0)

/-- ZEROING_PAGE_FREE: a page has been zeroed in the background and is free (R427); event 0x142 counts it. -/
def execZeroingPageFree (page : Nat) (s : State) : Host.Outcome State Fault Refusal :=
  run s (fun h =>
    if h.owner page = .zeroing ∧ !h.memctl.selfRefresh then raiseEv (givePages h [page] .free) 0x142 1 [] else h)

/-- CTX_RECOVER: a FAULTED context becomes CREATED; one not yet switched out is, to its save area (R500). -/
def recoverCtx (h : Hw) (c : CtxId) : Hw :=
  let h1 := closeWhere h (fun k => k.level == 0 && bit k.contexts c.val) false
  let h2 := unloadCtx (clearGlaze (dropColls (dropWork h1 c) c) c) c
  let h3 := discardSlots h2 (fun s => s.ctx == c)
  let r := modRange h3 c
  let h4 := clearObjs { h3 with sync := { h3.sync with
    easelObj := SMap.eraseRange h3.sync.easelObj (c.val * 208 * 512) ((c.val + 1) * 208 * 512) } }
    (fun i => decide (r.1 ≤ i.val ∧ i.val < r.1 + r.2))
  let h5 := h4.modCtx c (fun x => { x with
    faults := [], dropped := 0
    saved := x.saved.map (fun p => (p.1, { p.2 with me := [], vu := [], ce := [], blocked := none, exited := false })) })
  endCmds (setCtxState h5 c 1) 0x14 c 7

/-- CTX_RECOVER (R500, Table 16-10). -/
def execCtxRecover (fn : FnId) (s : State) : Host.Outcome State Fault Refusal :=
  run s (fun h => simple h fn 0x33 []
    (fun h k => firstStatus [fnStatus h fn k.ctx, if (h.ctx k.ctx).state = 6 then 0 else 7])
    (fun h k => (recoverCtx h k.ctx, 0)))

end Sys2Proof.Machine
end

