-- ==== Sys2Proof/Machine/Keys.lean ====
section
/-! DEFINITION. Keys: weight and job key commands, key blobs and context evidence (R437–R439), and TDIs (R442). -/

namespace Sys2Proof.Machine

/-- The bytes of an ASCII text. -/
def ascii (t : String) : Bytes := t.toList.map (fun c => BitVec.ofNat 8 c.toNat)

/-! ### Evidence and blobs -/

/-- The evidence body (Table 14-10) for a nonce and an encapsulation key. -/
def evidenceBody (h : Hw) (c : CtxId) (nonce ek : Bytes) : Bytes :=
  let x := h.ctx c
  leBytes 1 1 ++ leBytes 1 c.val ++ leBytes 2 x.job.toNat ++ leBytes 1 (b2n x.conf + 2 * x.mask.toNat) ++
    leBytes 1 x.fn.val ++ leBytes 1 (b2n h.pins.variant1800) ++ leBytes 1 0 ++ sub x.measurement 0 32 ++
    sub nonce 0 32 ++ sub ek 0 1184

/-- The evidence digests that a context's pair and measurement give for the nonces answered (R438). -/
def evidenceDigests (h : Hw) (c : CtxId) (ek : Bytes) : List Bytes :=
  (h.ctx c).evidence.map (fun n => sha3 (evidenceBody h c n ek))

/-- The key that a blob of a type wraps for a context; none where R438 refuses it (Table 14-11). -/
def unwrapBlob (h : Hw) (c : CtxId) (typ : Nat) (b : Bytes) : Option Bytes :=
  match (h.ctx c).kem with
  | none => none
  | some (ek, dk) =>
    let head := sub b 0 40
    if leNat (sub b 0 1) ≠ 1 ∨ leNat (sub b 1 1) ≠ typ ∨ leNat (sub b 2 1) ≠ c.val then none
    else if !(evidenceDigests h c ek).contains (sub b 8 32) then none
    else match Config.kemDecaps dk (sub b 40 1088) with
      | none => none
      | some shared =>
        gcmOpen (kdf shared (ascii "HX7-KEYWRAP-1" ++ head)) (sub b 1128 12) head
          (sub b 1140 32) (sub b 1172 16)

/-- Ihlel refuses a key: the command completes with the status, 0x0A is counted, event 0x143 (R438, R451). -/
def refuseKey (h : Hw) (f : FnId) (k : HostCmd) (status : BitVec 8) : Hw :=
  let h1 := if status = 0x0A then h.count 0x60040 1 else h
  finishCmd (raiseCtx h1 0x143 k.ctx (k.ctx.val + status.toNat * 256) []) f k.seq status 0

/-- A running or paused stream uses the weight key slot (R264). -/
def wkeyInUse (h : Hw) (j : Nat) : Bool :=
  h.glz.slots.any (fun p => (p.2.state == 1 || p.2.state == 5) && gCipher p.2 && gKey p.2 == j)

/-- The blob of WKEY_INSTALL has been read (R437, R438). -/
def wkeyBlob (h : Hw) (f : FnId) (k : HostCmd) (b : Bytes) : Hw :=
  match unwrapBlob h k.ctx 1 b with
  | none => refuseKey h f k 0x0A
  | some key =>
    let j := leNat (sub b 4 4)
    let other := (SMap.find h.sec.wkeys j).any (fun q => q.1 != k.ctx)
    if 128 ≤ j then refuseKey h f k 3
    else if other || wkeyInUse h j then refuseKey h f k 8
    else finishCmd { h with sec := { h.sec with wkeys := SMap.put h.sec.wkeys j (k.ctx, key) } } f k.seq 0 0

/-- Moves send to entry `e` of its job (R439). -/
def giveSend (m : SMap JobKey) (e : Nat) (job : BitVec 16) : SMap JobKey :=
  m.map (fun p => if p.2.job = job then (p.1, { p.2 with send := p.1 == e }) else p)

/-- The blob of JOBKEY_INSTALL has been read (R315, R318, R439). -/
def jobkeyBlob (h : Hw) (f : FnId) (k : HostCmd) (b : Bytes) : Hw :=
  let id := BitVec.ofNat 16 (leNat (sub b 4 2))
  let job := BitVec.ofNat 16 (leNat (sub b 6 2))
  match unwrapBlob h k.ctx 2 b with
  | none => refuseKey h f k 0x0A
  | some key =>
    if job ≠ (h.ctx k.ctx).job then refuseKey h f k 0x0A
    else if h.sec.everHeld.contains id then refuseKey h f k 0x0B
    else match (List.range 64).find? (fun e => (SMap.find h.sec.jobKeys e).isNone) with
      | none => refuseKey h f k 8
      | some e =>
        let send := bit (nthW k.words 2) 0
        let m := SMap.put h.sec.jobKeys e { id := id, key := key, job := job, nonce := 0, send := send }
        finishCmd { h with sec := { h.sec with
          jobKeys := if send then giveSend m e job else m
          everHeld := h.sec.everHeld ++ [id] } } f k.seq 0 0

/-- Status of a key command of the assigned function (R421, R441). -/
def keyStatus (h : Hw) (f : FnId) (k : HostCmd) : BitVec 8 := firstStatus [fnStatus h f k.ctx, tdiStatus h k.ctx]

/-- A blob arrives: the context must still be there. -/
def blobArrived (h : Hw) (f : FnId) (k : HostCmd) (b : Bytes) : Hw :=
  let st := keyStatus h f k
  if st ≠ 0 then finishCmd h f k.seq st 0
  else if k.op = 0x21 then wkeyBlob h f k b else jobkeyBlob h f k b

/-- Reads the blob whose bus address is word 1, while the host can be read. -/
def readBlob (h : Hw) (f : FnId) (k : HostCmd) : Hw :=
  let st := keyStatus h f k
  if st ≠ 0 then complete h f k st 0
  else if !h.hostUp then complete h f k 3 0
  else hold (hostRead h (.hostCmd f k.seq) none (nthW k.words 1) (nthW k.words 1).toNat 1188) f k

/-! ### Commands (Table 14-2) -/

/-- WKEY_GENKEM: a new pair, in place of any earlier one (R437). -/
def execWkeyGenkem (fn : FnId) (s : State) : Host.Outcome State Fault Refusal :=
  run s (fun h => simple h fn 0x20 [] (fun h k => keyStatus h fn k) (fun h k =>
    let (d, h1) := drawKey h
    (h1.modCtx k.ctx (fun x => { x with kem := some (Config.kemKeygen d), evidence := [] }), 0)))

/-- WKEY_INSTALL: reads the blob (R438). -/
def execWkeyInstall (fn : FnId) (s : State) : Host.Outcome State Fault Refusal :=
  run s (fun h => command h fn 0x21 true [0xFFFFFFFFFFFFFFFF] (fun h k => readBlob h fn k))

/-- WKEY_CLEAR: clears a slot bound to the context (R264, R421). -/
def execWkeyClear (fn : FnId) (s : State) : Host.Outcome State Fault Refusal :=
  run s (fun h => simple h fn 0x22 [0x7F]
    (fun h k =>
      let j := wfld (nthW k.words 1) 0 7
      firstStatus [keyStatus h fn k, if (SMap.find h.sec.wkeys j).any (fun q => q.1 == k.ctx) then 0 else 3,
        if wkeyInUse h j then 8 else 0])
    (fun h k => ({ h with sec := { h.sec with wkeys := SMap.del h.sec.wkeys (wfld (nthW k.words 1) 0 7) } }, 0)))

/-- JOBKEY_INSTALL: reads the blob (R439). -/
def execJobkeyInstall (fn : FnId) (s : State) : Host.Outcome State Fault Refusal :=
  run s (fun h => command h fn 0x23 true [0xFFFFFFFFFFFFFFFF, 1] (fun h k => readBlob h fn k))

/-- The entry of the context's job that word 1 names. -/
def namedKey (h : Hw) (k : HostCmd) : Option (Nat × JobKey) :=
  h.sec.jobKeys.find? (fun p => p.2.id.toNat == wfld (nthW k.words 1) 0 16 && p.2.job == (h.ctx k.ctx).job)

/-- JOBKEY_SEND: moves send to the named entry (R439). -/
def execJobkeySend (fn : FnId) (s : State) : Host.Outcome State Fault Refusal :=
  run s (fun h => simple h fn 0x24 [0xFFFF]
    (fun h k => firstStatus [keyStatus h fn k, if (namedKey h k).isSome then 0 else 3])
    (fun h k => match namedKey h k with
      | some (e, _) => ({ h with sec := { h.sec with jobKeys := giveSend h.sec.jobKeys e (h.ctx k.ctx).job } }, 0)
      | none => (h, 0)))

/-- JOBKEY_RETIRE: removes an entry that does not have send (R439). -/
def execJobkeyRetire (fn : FnId) (s : State) : Host.Outcome State Fault Refusal :=
  run s (fun h => simple h fn 0x25 [0xFFFF]
    (fun h k => firstStatus [keyStatus h fn k, if (namedKey h k).any (fun p => !p.2.send) then 0 else 3])
    (fun h k => match namedKey h k with
      | some (e, _) => ({ h with sec := { h.sec with jobKeys := SMap.del h.sec.jobKeys e } }, 0)
      | none => (h, 0)))

/-! ### TDIs (R442) -/

def Hw.tdi (h : Hw) (f : FnId) : BitVec 2 := SMap.get 0 h.sec.tdi f.val

def Hw.setTdi (h : Hw) (f : FnId) (v : BitVec 2) : Hw :=
  { h with sec := { h.sec with tdi := SMap.set 0 h.sec.tdi f.val v } }

/-- A confidential context moves to STOPPED and stays there; a loaded one stops and is switched out first. -/
def holdCtx (h : Hw) (c : CtxId) : Hw :=
  let st := (h.ctx c).state
  let h1 := h.modCtx c (fun x => { x with held := true })
  if st = 3 ∨ (st = 6 ∧ h1.ctxs.loaded.any (fun p => p.2 == c)) then h1.modLoaded c (fun y => { y with stopped := true })
  else if st = 4 then h1
  else setCtxState h1 c 4

/-- A VF's TDI enters ERROR: event 0x145, and its confidential contexts move to STOPPED (R442). -/
def tdiError (h : Hw) (f : FnId) : Hw :=
  if f = 0 ∨ h.tdi f = 3 then h
  else
    (allCtx.filter (fun c => (h.ctx c).conf && (h.ctx c).fn == f && (h.ctx c).live)).foldl holdCtx
      (raiseEv (h.setTdi f 3) 0x145 f.val [])

/-- Ends IDE streams: their keys are destroyed and the TDIs of their VFs enter ERROR (R433, R442). -/
def dropIde (h : Hw) (p : Nat × IdeStream → Bool) : Hw :=
  let gone := h.sec.ide.filter p
  (gone.filterMap (fun q => q.2.vf)).foldl tdiError
    { h with sec := { h.sec with ide := h.sec.ide.filter (fun q => !p q) } }

end Sys2Proof.Machine
end

