-- ==== Sys2Proof/Machine/Spdm.lean ====
section
/-! DEFINITION. Identity and measurements of Ihlel, the SPDM responder, context evidence, IDE_KM and TDISP
(R431–R437, R442).  Message codes and the order of requests are those of the outside standards that the
manual names (assumption 13). -/

namespace Sys2Proof.Machine

/-! ### Firmware components and measurements (R431, R436, R519, R544) -/

/-- The directory entry of a component type in an image body: its offset in the body and length (R519). -/
def component (body : Bytes) (typ : Nat) : Option (Nat × Nat) :=
  ((List.range 8).find? (fun i => leNat (sub body (32 * i) 1) == typ)).map (fun i =>
    (leNat (sub body (32 * i + 4) 4), leNat (sub body (32 * i + 8) 4)))

/-- The bytes of a component; none where the body lacks it. -/
def componentBytes (body : Bytes) (typ : Nat) : Bytes :=
  match component body typ with
  | some (o, n) => sub body o n
  | none => []

/-- The compat field of a component; none where the body lacks it. -/
def compat (body : Bytes) (typ : Nat) : Option Nat :=
  ((List.range 8).find? (fun i => leNat (sub body (32 * i) 1) == typ)).map (fun i => leNat (sub body (32 * i + 2) 2))

def Hw.slot (h : Hw) (i : BitVec 1) : FwSlot := if i = 0 then h.fwu.slot0 else h.fwu.slot1

def Hw.modSlot (h : Hw) (i : BitVec 1) (f : FwSlot → FwSlot) : Hw :=
  { h with fwu := if i = 0 then { h.fwu with slot0 := f h.fwu.slot0 } else { h.fwu with slot1 := f h.fwu.slot1 } }

/-- Security versions in a header (R518). -/
def FwSlot.rsvn (s : FwSlot) : Nat := leNat (sub s.header 12 2)
def FwSlot.isvn (s : FwSlot) : Nat := leNat (sub s.header 14 2)

/-- The image that the lease holder runs; the first supervisor's where none holds the lease (R544). -/
def supSlot (h : Hw) : BitVec 1 := if h.sup.holder = some 1 then h.fwu.runSup1 else h.fwu.runSup0

/-- The slot of the easel microcode; while partitions differ, a free choice. -/
def ucodeSlot (h : Hw) : BitVec 1 :=
  if h.fwu.runUcode = 0 then 0 else if h.fwu.runUcode = 0xF then 1 else h.freeWord.setWidth 1

/-- The settings record in force: the valid copy with the higher sequence (R530). -/
def settingsNow (b : Bru) : Option Settings :=
  if b.rec0.valid && b.rec1.valid then some (if b.rec0.seq < b.rec1.seq then b.rec1 else b.rec0)
  else if b.rec0.valid then some b.rec0
  else if b.rec1.valid then some b.rec1
  else none

/-- Physical indices as numbers. -/
def easelNums (l : List EaselId) : List Nat := l.map (·.val)

/-- Measurement block `i` (Table 14-9). -/
def measureBlock (h : Hw) (i : Nat) : Bytes :=
  match i with
  | 1 => Config.romDigest
  | 2 => sha3 (componentBytes (h.slot h.fwu.runIhlel).body 1)
  | 3 => sha3 (componentBytes (h.slot h.fwu.runRuntime).body 2)
  | 4 => sha3 (componentBytes (h.slot (supSlot h)).body 3)
  | 5 => sha3 (componentBytes (h.slot (ucodeSlot h)).body 4)
  | 6 =>
    let r := (settingsNow h.bru).getD (Settings.default 0 false)
    sha3 (Config.settingsBytes r.version.toNat r.numbering r.policy r.lp144 r.seq)
  | 7 => sha3 (Config.defectBytes (easelNums h.bru.fused) (easelNums h.bru.field))
  | _ => leBytes 1 (b2n h.pins.variant1800) ++ leBytes 2 (h.slot h.fwu.runIhlel).isvn ++
      leBytes 2 (h.slot h.fwu.runRuntime).rsvn

/-- Seed of DeviceID (Table 14-6). -/
def deviceSeed : Bytes := kdf Config.uds (ascii "HX7-DEVID")

/-- Derives CDI1 and Alias 1 at boot from the Ihlel firmware that runs (Table 14-6). -/
def deriveAlias1 (h : Hw) : Hw :=
  let x := h.slot h.fwu.runIhlel
  let cdi := kdf Config.uds (sha3 (componentBytes x.body 1 ++ leBytes 2 x.isvn))
  { h with sec := { h.sec with cdi1 := cdi, alias1 := kdf cdi (ascii "HX7-ALIAS"), udsLocked := true } }

/-- Derives Alias 2 from CDI1 and the measurement digest of indices 3 to 6 (Table 14-6). -/
def deriveAlias2 (h : Hw) : Hw :=
  let m := sha3 ([3, 4, 5, 6].flatMap (measureBlock h))
  let cdi := kdf h.sec.cdi1 m
  { h with sec := { h.sec with alias2 := kdf cdi (ascii "HX7-ALIAS") } }

/-- A runtime handover ends every session, raises event 0x144 and derives Alias 2 again (R436). -/
def endSessions (h : Hw) : Hw :=
  let n := h.sec.sessions.length
  raiseEv (deriveAlias2 { h with sec := { h.sec with sessions := [] } }) 0x144 n []

/-- The certificate chain (R432). -/
def certChain (h : Hw) : Bytes :=
  Config.deviceCert ++ Config.aliasCert deviceSeed h.sec.alias1 ++ Config.aliasCert h.sec.alias1 h.sec.alias2

/-! ### The responder (R434, R435) -/

/-- Number of a transport, and of a session among all. -/
def tnum : Transport → Nat
  | .doe => 0
  | .service => 1

def sessNum (t : Transport) (i : Fin 4) : Nat := tnum t * 4 + i.val

/-- Ihlel answers on the transport. -/
def spdmUp (h : Hw) (t : Transport) : Bool := h.sec.ready && (t == .service || h.hostUp)

def reply (h : Hw) (t : Transport) (code : BitVec 8) (body : Bytes) : Hw := h.emit (.spdm t code body)

/-- ERROR with an error code. -/
def spdmError (h : Hw) (t : Transport) (code : Nat) : Hw := reply h t 0x7F (leBytes 1 code ++ leBytes 1 0)

/-- The session is open and finished. -/
def sessOpen (h : Hw) (t : Transport) (i : Fin 4) : Bool := (SMap.find h.sec.sessions (sessNum t i)).any (·.finished)

/-- A request that may arrive outside a session, and inside one where `inside`; it comes after negotiation. -/
def spdmRequest (h : Hw) (t : Transport) (s : Option (Fin 4)) (inside : Bool) (body : Hw → Hw) : Hw :=
  if !spdmUp h t then h
  else match s with
    | none => if (SMap.find h.sec.negotiated (tnum t)).isSome then body h else spdmError h t 4
    | some i => if !sessOpen h t i then spdmError h t 2 else if inside then body h else spdmError h t 4

/-- A request that must arrive in a finished session. -/
def inSession (h : Hw) (t : Transport) (s : Option (Fin 4)) (body : Hw → Fin 4 → Hw) : Hw :=
  if !spdmUp h t then h
  else match s with
    | none => spdmError h t 0x0B
    | some i => if sessOpen h t i then body h i else spdmError h t 2

/-- A signature under Alias 2, hedged with random bytes (R435). -/
def signAlias2 (h : Hw) (msg : Bytes) : Bytes × Hw :=
  let (r, h1) := drawKey h
  (Config.mldsaSign h.sec.alias2 msg r, h1)

/-- Answers with a body and a signature over a transcript digest, which the messages before it give: a free value
here. -/
def replySigned (h : Hw) (t : Transport) (code : BitVec 8) (body : Bytes) : Hw :=
  let (g, h1) := signAlias2 h (Config.freeBytes h.free 32)
  reply h1.useFree t code (body ++ g)

/-- GET_VERSION: version 1.3 (R434). -/
def execGetVersion (t : Transport) (session : Option (Fin 4)) (s : State) : Host.Outcome State Fault Refusal :=
  run s (fun h =>
    if !spdmUp h t then h
    else if session.isSome then spdmError h t 4
    else reply { h with sec := { h.sec with
      versioned := SMap.put h.sec.versioned (tnum t) false
      negotiated := SMap.del h.sec.negotiated (tnum t) } } t 0x04 (leBytes 1 0 ++ leBytes 1 1 ++ leBytes 2 0x1300))

/-- GET_CAPABILITIES: the flags are those of the standard, which the manual does not state: free. -/
def execGetCapabilities (t : Transport) (session : Option (Fin 4)) (s : State) : Host.Outcome State Fault Refusal :=
  run s (fun h =>
    if !spdmUp h t then h
    else if session.isSome || (SMap.find h.sec.versioned (tnum t)).isNone then spdmError h t 4
    else reply { h.useFree with sec := { h.sec with versioned := SMap.put h.sec.versioned (tnum t) true } } t 0x61
      (sub (Config.freeBytes h.free 16) 0 16))

/-- An extended algorithm structure (R435). -/
def extAlg (id : Nat) : Bytes := leBytes 1 4 ++ leBytes 1 0 ++ leBytes 2 id

/-- What the responder selects of an offer: hash, signature, key exchange, AEAD (Table 14-8). -/
def selects (o : AlgOffer) : List Bool :=
  [o.extHash.contains (4, 0xF002), o.extAsym.contains (4, 0xF001), o.kex.contains (4, 0xF003), o.aesGcm]

/-- NEGOTIATE_ALGORITHMS: selects the algorithms of Table 14-8 among those offered; none selected is an error and
opens no session (R435). -/
def execNegotiateAlgorithms (t : Transport) (session : Option (Fin 4)) (offer : AlgOffer) (s : State) :
    Host.Outcome State Fault Refusal :=
  run s (fun h =>
    if !spdmUp h t then h
    else if session.isSome || !(SMap.find h.sec.versioned (tnum t)).any id then spdmError h t 4
    else
      let l := selects offer
      if !l.any id then
        spdmError { h with sec := { h.sec with negotiated := SMap.del h.sec.negotiated (tnum t) } } t 1
      else
        let pick := fun i b => if (l[i]?).getD false then b else ([] : Bytes)
        reply { h with sec := { h.sec with negotiated := SMap.put h.sec.negotiated (tnum t) (l.all id) } } t 0x63
          (pick 0 (extAlg 0xF002) ++ pick 1 (extAlg 0xF001) ++ pick 2 (extAlg 0xF003) ++ pick 3 (leBytes 2 2)))

/-- GET_DIGESTS: the digest of the certificate chain (R434). -/
def execGetDigests (t : Transport) (session : Option (Fin 4)) (s : State) : Host.Outcome State Fault Refusal :=
  run s (fun h => spdmRequest h t session true (fun h => reply h t 0x01 (sha3 (certChain h))))

/-- GET_CERTIFICATE: the chain (R432). -/
def execGetCertificate (t : Transport) (session : Option (Fin 4)) (s : State) : Host.Outcome State Fault Refusal :=
  run s (fun h => spdmRequest h t session true (fun h => reply h t 0x02 (certChain h)))

/-- CHALLENGE: chain digest and a nonce, signed by Alias 2 (R432). -/
def execChallenge (t : Transport) (session : Option (Fin 4)) (nonce : Bytes) (s : State) :
    Host.Outcome State Fault Refusal :=
  run s (fun h => spdmRequest h t session false (fun h =>
    if nonce.length ≠ 32 then spdmError h t 1
    else
      let (r, h1) := drawKey h
      replySigned h1 t 0x03 (sha3 (certChain h) ++ sub r 0 32)))

/-- GET_MEASUREMENTS: the number of blocks for index 0, every block for 0xFF, else one block, with a signature
(R436). -/
def execGetMeasurements (t : Transport) (session : Option (Fin 4)) (index : BitVec 8) (nonce : Bytes) (s : State) :
    Host.Outcome State Fault Refusal :=
  run s (fun h => spdmRequest h t session true (fun h =>
    let i := index.toNat
    let l := if i = 0 then [] else if i = 0xFF then [1, 2, 3, 4, 5, 6, 7, 8] else [i]
    if nonce.length ≠ 32 ∨ (8 < i ∧ i ≠ 0xFF) then spdmError h t 1
    else replySigned h.useFree t 0x60
      (if i = 0 then leBytes 1 8 else l.flatMap (fun j => leBytes 1 j ++ measureBlock h j))))

/-- KEY_EXCHANGE: encapsulates to the requester's key and opens a session, 4 per transport (R434, R435). -/
def execKeyExchange (t : Transport) (session : Option (Fin 4)) (ek : Bytes) (s : State) :
    Host.Outcome State Fault Refusal :=
  run s (fun h => spdmRequest h t session false (fun h =>
    if SMap.find h.sec.negotiated (tnum t) ≠ some true then spdmError h t 4
    else if ek.length ≠ 1184 then spdmError h t 1
    else match (List.range 4).find? (fun i => (SMap.find h.sec.sessions (tnum t * 4 + i)).isNone) with
      | none => spdmError h t 0x0A
      | some i =>
        let (r, h1) := drawKey h
        let (ct, shared) := Config.kemEncaps ek r
        let h2 := { h1 with sec := { h1.sec with
          sessions := SMap.put h1.sec.sessions (tnum t * 4 + i) { finished := false, secret := shared, updates := 0 } } }
        replySigned h2 t 0x64 (leBytes 1 i ++ ct)))

/-- FINISH: the verify data confirms the session (R434). -/
def execFinish (t : Transport) (session : Option (Fin 4)) (verify : Bytes) (s : State) :
    Host.Outcome State Fault Refusal :=
  run s (fun h =>
    if !spdmUp h t then h
    else match session with
      | none => spdmError h t 0x0B
      | some i =>
        match SMap.find h.sec.sessions (sessNum t i) with
        | none => spdmError h t 2
        | some x =>
          if x.finished then spdmError h t 4
          else if verify ≠ Config.spdmVerify x.secret then
            spdmError { h with sec := { h.sec with sessions := SMap.del h.sec.sessions (sessNum t i) } } t 6
          else reply { h with sec := { h.sec with
            sessions := SMap.put h.sec.sessions (sessNum t i) { x with finished := true } } } t 0x65 [])

/-- HEARTBEAT (R434). -/
def execHeartbeat (t : Transport) (session : Option (Fin 4)) (s : State) : Host.Outcome State Fault Refusal :=
  run s (fun h => inSession h t session (fun h _ => reply h t 0x68 []))

/-- KEY_UPDATE: the session goes on under new keys (R434). -/
def execKeyUpdate (t : Transport) (session : Option (Fin 4)) (s : State) : Host.Outcome State Fault Refusal :=
  run s (fun h => inSession h t session (fun h i =>
    reply { h with sec := { h.sec with
      sessions := h.sec.sessions.map (fun p =>
        if p.1 = sessNum t i then (p.1, { p.2 with updates := p.2.updates + 1 }) else p) } } t 0x69 []))

/-- END_SESSION: the session's keys are destroyed (R433). -/
def execEndSession (t : Transport) (session : Option (Fin 4)) (s : State) : Host.Outcome State Fault Refusal :=
  run s (fun h => inSession h t session (fun h i =>
    reply { h with sec := { h.sec with sessions := SMap.del h.sec.sessions (sessNum t i) } } t 0x6C []))

/-- GET_CTX_EVIDENCE: the evidence of a context that has a KEM pair, signed by Alias 2; the nonce counts as
answered (R437). -/
def execGetCtxEvidence (t : Transport) (session : Option (Fin 4)) (c : CtxId) (nonce : Bytes) (s : State) :
    Host.Outcome State Fault Refusal :=
  run s (fun h => inSession h t session (fun h _ =>
    match (h.ctx c).kem with
    | none => spdmError h t 1
    | some (ek, _) =>
      if nonce.length ≠ 32 ∨ !(h.ctx c).live then spdmError h t 1
      else
        let b := evidenceBody h c nonce ek
        let (g, h1) := signAlias2 h (ascii "HX7-CTX-EVIDENCE-1" ++ sha3 b)
        reply (h1.modCtx c (fun x => { x with evidence := x.evidence ++ [nonce] })) t 0x7E (b ++ g)))

/-! ### IDE_KM and TDISP, inside sessions on DOE (R442) -/

/-- IDE_KM: queries, programs, starts and stops a stream; a stream that stops loses its keys (R433, R442). -/
def execIdeKm (session : Option (Fin 4)) (req : IdeReq) (s : State) : Host.Outcome State Fault Refusal :=
  run s (fun h => inSession h .doe session (fun h _ =>
    let ack := fun (g : Hw) (code : Nat) => reply g .doe 0x7E (leBytes 1 code)
    match req with
    | .query => reply h.useFree .doe 0x7E (leBytes 1 1 ++ Config.freeBytes h.free 16)
    | .keyProg n vf key =>
      ack { h with sec := { h.sec with ide := SMap.put h.sec.ide n.val { vf := vf, key := key, on := false } } } 3
    | .setGo n =>
      (match SMap.find h.sec.ide n.val with
        | some x => ack { h with sec := { h.sec with ide := SMap.put h.sec.ide n.val { x with on := true } } } 6
        | none => spdmError h .doe 1)
    | .setStop n => ack (dropIde h (fun p => p.1 == n.val)) 6))

/-- TDISP for a VF's interface: 0 unlocked, 1 locked, 2 run, 3 error (R442). -/
def execTdisp (session : Option (Fin 4)) (vf : FnId) (req : TdispReq) (s : State) : Host.Outcome State Fault Refusal :=
  run s (fun h => inSession h .doe session (fun h _ =>
    let st := h.tdi vf
    let ack := fun (g : Hw) (code : Nat) (b : Bytes) => reply g .doe 0x7E (leBytes 1 code ++ b)
    if vf = 0 ∨ !h.fnOn vf then spdmError h .doe 1
    else match req with
      | .getState => ack h 5 (leBytes 1 st.toNat)
      | .lockInterface => if st = 0 then ack (h.setTdi vf 1) 3 [] else ack h 0x7F []
      | .getReport => if st = 1 ∨ st = 2 then ack h.useFree 4 (Config.freeBytes h.free 64) else ack h 0x7F []
      | .startInterface => if st = 1 then ack (h.setTdi vf 2) 6 [] else ack h 0x7F []
      | .stopInterface => ack (h.setTdi vf 0) 7 []))

end Sys2Proof.Machine
end

