-- ==== Sys2Proof/Machine/HostEvents.lean ====
section
/-! DEFINITION. The PCIe port: completions, the BAR2 window, resets of functions and of the port, the link and
configuration requests (R387–R401, R515, R556). -/

namespace Sys2Proof.Machine

/-! ### Completions of the module's host reads (R388, R397, R401) -/

/-- The command in progress that awaits the data of its host read. -/
def readingCmd (h : Hw) (f : FnId) (seq : Nat) : Option HostCmd :=
  ((h.fn f).inProgress.find? (fun r => r.cmd.seq == seq)).map (·.cmd)

/-- The data of a command's host read: the image of CTX_START or a key blob. -/
def cmdData (h : Hw) (f : FnId) (seq : Nat) (b : Bytes) : Hw :=
  match readingCmd h f seq with
  | none => h
  | some k =>
    if k.op = 0x13 then
      let (len, load, entry) := startArgs k
      let st := startStatus h f k
      if st ≠ 0 then finishCmd h f seq st 0
      else finishCmd (startCtx h k.ctx load entry (sub b 0 len)) f seq 0 0
    else blobArrived h f k (sub b 0 1188)

/-- A command's host read fails: status 0x03, and an image leaves its Palettes undefined (R570). -/
def cmdFailed (h : Hw) (f : FnId) (seq : Nat) : Hw :=
  match readingCmd h f seq with
  | none => h
  | some k => finishCmd (if k.op = 0x13 then undefPalettes h k.ctx else h) f seq 3 0

/-- A host read is answered with data. -/
def hostAnswer (h : Hw) (r : Request) (b : Bytes) : Hw :=
  match r.by_ with
  | .cmdFetch f => takeFetched (dropReq h r.tag) f r.tag b
  | .hostCmd f t => cmdData (dropReq h r.tag) f t b
  | _ => answerData h r b

/-- A host read ends with an error, with poisoned data or with the link down: its issuer faults with 0x16, or the
queue or the command that made it fails. -/
def hostFailed (h : Hw) (r : Request) : Hw :=
  match r.by_ with
  | .cmdFetch f => fetchFailed (dropReq h r.tag) f r.tag
  | .hostCmd f t => cmdFailed (dropReq h r.tag) f t
  | _ => requestFailed h r 0x16

/-- PCIE_COMPLETION: the completion of a host read that the module issued (R388, R401). -/
def execPcieCompletion (tag : BitVec 16) (result : PcieResult) (s : State) : Host.Outcome State Fault Refusal :=
  run s (fun h =>
    match h.reqs.find? (fun r => r.tag == tag && r.host) with
    | none => h
    | some r =>
      match result with
      | .data d => hostAnswer h r d
      | .poisoned => hostFailed h r
      | .error => hostFailed h r)

/-! ### BAR2 (R394, R395, R515) -/

/-- Local offset that `n` bytes at a BAR2 offset map to; none through a closed window or beyond its limit. -/
def bar2Map (h : Hw) (f : FnId) (off n : Nat) : Option Nat :=
  let base := wfld (h.reg (hifOff f 0x60)) 0 28
  let limit := wfld (h.reg (hifOff f 0x68)) 0 28
  let a := base * 4096 + off
  if base ≤ limit ∧ 0 < n ∧ (a + n - 1) / 4096 ≤ limit ∧ a + n ≤ 0xC000000000 then some a else none

/-- A page held by a confidential context, or being zeroed. -/
def pageConf (h : Hw) (a : Nat) : Bool :=
  match h.owner (a / 0x200000) with
  | .ctx c _ => (h.ctx c).conf
  | _ => false

def pageZeroing (h : Hw) (a : Nat) : Bool := h.owner (a / 0x200000) == .zeroing

/-- Data of a BAR2 read: zeros from the pages of confidential contexts and from zeroing pages (R395). -/
def bar2Bytes (h : Hw) : Nat → Nat → Bytes
  | _, 0 => []
  | a, n + 1 => (if pageConf h a || pageZeroing h a then 0 else h.mem.byte a) :: bar2Bytes h (a + 1) n

/-- The bytes lie in a channel marked down (R180). -/
def rangeDown (h : Hw) (a n : Nat) : Bool :=
  (List.range ((a + n - 1) / 256 + 1 - a / 256)).any (fun i => !h.memctl.chUp.getLsbD (lpChannel ((a / 256 + i) * 256)))

/-- A BAR2 access of `n` bytes of a function that exists, within its BAR, reaches the module (Table 13-1). -/
def bar2Here (h : Hw) (f : FnId) (off n : Nat) : Bool :=
  h.hostUp && h.fnOn f && decide (off + n ≤ 2 ^ (if f = 0 then h.hif.bar2Pf else h.hif.bar2Vf))

/-- The access waits for a channel in retraining (R180). -/
def bar2Waits (h : Hw) (f : FnId) (off n : Nat) : Bool :=
  h.hostOpen && (match bar2Map h f off n with
    | some a => chanWaits h a n
    | none => false)

/-- An uncorrectable codeword that an access for no context meets on an on-die path (R164, R185). -/
def pathFound (h : Hw) (off n : Nat) : Hw :=
  recordNoCtx (raiseEv (logPath { h with mem := h.mem.pathMet off n } (if lpChannel off < 48 then 0 else 1) off)
    0x082 5 [BitVec.ofNat 64 off]) { FaultRec.blank h.ftcNow 5 7 with addr := BitVec.ofNat 64 off }

/-- Performs a BAR2 read (R162, R394, R395). -/
def bar2Get (h : Hw) (fn : FnId) (off len : Nat) : Hw :=
  if !h.hostOpen then h.emit .unsupported
  else match bar2Map h fn off len with
    | none => h.emit .unsupported
    | some a =>
      let shown := !pageConf h a && !pageZeroing h a
      if rangeDown h a len then h.emit (.completerAbort fn)
      else match (if shown then h.mem.badRead a len else none) with
        | some w => ueFound (h.emit (.completerAbort fn)) w
        | none =>
          match (if shown then h.mem.pathBad a len else none) with
          | some _ => pathFound (h.emit (.completerAbort fn)) a len
          | none => (if shown then touchRead h a len else h).emit (.bar2Data fn (bar2Bytes h a len))

/-- BAR2_READ in its function's order; it waits while a channel that it needs retrains (R180, R261, R394, R395). -/
def execBar2Read (fn : FnId) (off : Nat) (len : Nat) (s : State) : Host.Outcome State Fault Refusal :=
  run s (fun h =>
    if !bar2Here h fn off len then h
    else if bar2Waits h fn off len then h.modFn fn (fun x => { x with waiting := x.waiting ++ [.bar2Read off len] })
    else inTurn h fn (.bar2Read off len) (fun g => bar2Get g fn off len))

/-- Cuts bytes at the 2 MiB page boundary that they cross, if any. -/
def splitPage (a : Nat) (b : Bytes) : List (Nat × Bytes) :=
  let n := 0x200000 - a % 0x200000
  if b.length ≤ n then [(a, b)] else [(a, b.take n), (a + n, b.drop n)]

/-- A write from the host to one page (R163, R165, R395). -/
def bar2Put (f : FnId) (h : Hw) (p : Nat × Bytes) : Hw :=
  let (a, b) := p
  if pageConf h a then raiseEv (h.count (hifOff f 0x80) 1) 0x183 f.val []
  else if pageZeroing h a then h.count (hifOff f 0x80) 1
  else if rangeDown h a b.length then h
  else if (h.mem.pathBad a b.length).isSome then pathFound h a b.length
  else
    let h1 := writeLocal h a b
    match h.mem.badWrite a b.length with
    | some w => ueFound h1 w
    | none => h1

/-- Performs a BAR2 write (R394, R395, R401). -/
def bar2Set (h : Hw) (fn : FnId) (off : Nat) (data : Bytes) (poisoned : Bool) : Hw :=
  if !h.hostOpen then h.emit .unsupported
  else if poisoned then raiseEv h 0x185 fn.val []
  else match bar2Map h fn off data.length with
    | none => h
    | some a => (splitPage a data).foldl (bar2Put fn) h

/-- BAR2_WRITE in its function's order; it waits while a channel that it needs retrains (R180, R261, R394). -/
def execBar2Write (fn : FnId) (off : Nat) (data : Bytes) (poisoned : Bool) (s : State) :
    Host.Outcome State Fault Refusal :=
  run s (fun h =>
    if !bar2Here h fn off data.length then h
    else if !poisoned && bar2Waits h fn off data.length then
      h.modFn fn (fun x => { x with waiting := x.waiting ++ [.bar2Write off data poisoned] })
    else inTurn h fn (.bar2Write off data poisoned) (fun g => bar2Set g fn off data poisoned))

/-! ### Function Level Reset and PERST# (R401, R556) -/

/-- A function's HIF_ instance, rings, MSI-X table and configuration space return to their reset values, but for
its sticky counters, which only a power cycle or their write action resets (R10); its commands in progress will
finish without a completion, and what R43's latches hold of it or for it is gone. -/
def resetFn (h : Hw) (f : FnId) : Hw :=
  let h0 := if f = 0 then { h with hif := { h.hif with bar2Pf := 30, bar2Vf := 30 } } else h
  let h1 := h0.modFn f (fun x => { HifFn.init with
    fetchSeq := x.fetchSeq, inProgress := x.inProgress.map (fun r => { r with silent := true }) })
  let own := fun (k : Nat) => decide (hifOff f 0 ≤ k ∧ k < hifOff f 0x1000)
  let lat := fun (k : Nat) => k / 0x4000000 == f.val || k % 0x4000000 == blkBase (.hif f)
  { h1 with regs := { h1.regs with
      act := h1.regs.act.filter (fun p => !own p.1 || (regAt h1.pins.variant1800 p.1).rs)
      staged := h1.regs.staged.filter (fun p => !own p.1)
      commit := SMap.del h1.regs.commit (blkBase (.hif f))
      whold := h1.regs.whold.filter (fun p => !lat p.1), rhold := h1.regs.rhold.filter (fun p => !lat p.1) } }

def allVfs : List FnId := (List.range 63).map (fun i => Fin.ofNat 64 (i + 1))

/-- VF Enable is cleared: every VF is reset, and the TDIs in use enter ERROR (R401, R442). -/
def clearVfEnable (h : Hw) : Hw :=
  if h.hif.vfEnable then
    allVfs.foldl (fun g f => tdiError (resetFn g f) f) { h with hif := { h.hif with vfEnable := false } }
  else h

/-- FUNCTION_LEVEL_RESET (R401, R442). -/
def execFunctionLevelReset (fn : FnId) (s : State) : Host.Outcome State Fault Refusal :=
  run s (fun h =>
    if !h.hostUp || !h.fnOn fn then h
    else if fn = 0 then clearVfEnable (resetFn h 0)
    else tdiError (resetFn h fn) fn)

/-- The link leaves L0 and L0p: host reads fail and IDE streams are lost (R388, R433, R442). -/
def linkLost (h : Hw) : Hw :=
  dropIde ((h.reqs.filter (·.host)).foldl hostFailed h) (fun _ => true)

/-- A state that the link can be in (Table 13-1): a rate and width it trains to, FLIT mode at 64 GT/s and above, L0p
in FLIT mode only; a link that is down has no rate and no width. -/
def linkLegal (l : LinkState) : Bool :=
  if l.pm = .down then l.gen == 0 && l.width == 0 && !l.flit
  else decide (1 ≤ l.gen.toNat) && [1, 2, 4, 8, 16].contains l.width.toNat && l.flit == decide (6 ≤ l.gen.toNat) &&
    (l.pm != .l0p || l.flit)

/-- The link changes state; event 0x184 at every change (R388), with a payload that the manual does not give
(assumption 123). -/
def setLink (h : Hw) (l : LinkState) : Hw :=
  if h.hif.link = l then h
  else
    let h1 := { h with hif := { h.hif with link := l } }
    let h2 := raiseEv h1.useFree 0x184 h.freeWord.toNat []
    if linkUp h.hif.link && !linkUp l then linkLost h2 else h2

/-- PCIE_LINK_STATE_CHANGE: the link trains only while PERST# is deasserted (R388, R515, R556). -/
def execPcieLinkStateChange (link : LinkState) (s : State) : Host.Outcome State Fault Refusal :=
  run s (fun h =>
    if !h.pins.powered || !linkLegal link || (h.hif.perst && link.pm != .down) then h
    else
      let h1 := setLink h link
      if linkUp link && decide (2 ≤ h.bru.phase.toNat) then { h1 with hif := { h1.hif with configured := true } } else h1)

/-- PERST_ASSERT: the link goes down, and configuration space, IDE streams and every HIF_ instance return to their
reset values (R556). -/
def execPerstAssert (s : State) : Host.Outcome State Fault Refusal :=
  run s (fun h =>
    if h.hif.perst || !h.pins.powered then h
    else
      let h1 := setLink h { pm := .down, gen := 0, width := 0, flit := false }
      let h2 := clearVfEnable (dropIde h1 (fun _ => true))
      let h3 := (0 :: allVfs).foldl resetFn h2
      { h3 with hif := { h3.hif with perst := true, configured := false } })

/-- PERST_DEASSERT: the port may train again (R556). -/
def execPerstDeassert (s : State) : Host.Outcome State Fault Refusal :=
  run s (fun h => { h with hif := { h.hif with perst := false } })

/-! ### Configuration requests (R515) -/

/-- Sends a vector that its unmasking finds pending (R408). -/
def unmask (h : Hw) (f : FnId) (v : Fin 3) : Hw :=
  let x := h.fn f
  let h1 := h.modFn f (fun y => { y with msixMask := y.msixMask &&& ~~~(1#3 <<< v.val) })
  if x.msixPend.getLsbD v.val then
    (h1.modFn f (fun y => { y with msixPend := y.msixPend &&& ~~~(1#3 <<< v.val) })).emit (.msix f v)
  else h1

/-- What the dwords of a function's header hold that Tables 13-1 and 13-2 fix, and the bits that a write changes: the
BARs of the PF (64-bit, BAR2 alone prefetchable, 64 MiB and 4 KiB; a VF's are in the PF's SR-IOV capability), no
expansion ROM and no interrupt pin.  Their places are those of the PCI header (assumption 121). -/
def cfgFixed (h : Hw) (f : FnId) (reg : Nat) : Option (BitVec 32 × BitVec 32) :=
  let size (n : Nat) : BitVec 64 := ~~~(BitVec.ofNat 64 (2 ^ n - 1))
  let bar (n : Nat) (typ : BitVec 32) (high : Bool) : BitVec 32 × BitVec 32 :=
    if f ≠ 0 then (0, 0)
    else if high then (0, (size n >>> 32).setWidth 32) else (typ, (size n).setWidth 32)
  match reg with
  | 4 => some (bar 26 4 false)
  | 5 => some (bar 26 4 true)
  | 6 => some (bar h.hif.bar2Pf 12 false)
  | 7 => some (bar h.hif.bar2Pf 12 true)
  | 8 => some (bar 12 4 false)
  | 9 => some (bar 12 4 true)
  | 12 => some (0, 0)
  | 15 => some (0, 0xFF)
  | _ => none

/-- A dword of configuration space, by its number. -/
def cfgDword (h : Hw) (f : FnId) (reg : Nat) : BitVec 32 :=
  match cfgFixed h f reg with
  | some (v, m) => v ||| (SMap.get 0 (h.fn f).cfg reg &&& m)
  | none => SMap.get (Config.cfgReset f.val reg) (h.fn f).cfg reg

/-- The capabilities of Table 13-1 that a function has; every other is absent (R387). -/
def hasCap (f : FnId) : PcieCap → Bool
  | .pcie | .msix | .aer | .ari | .doe | .ide => true
  | .sriov | .resizableBar | .vfResizableBar => f == 0
  | .msi | .l1Substates | .ats | .pri | .pasid | .expansionRom | .other _ => false

/-- Sets the size of BAR2 of the PF or of the VFs, where Table 13-1 has that size. -/
def setBar2 (h : Hw) (vf : Bool) (log2 : Nat) : Hw :=
  if log2 < 30 ∨ 40 < log2 then h
  else if vf then { h with hif := { h.hif with bar2Vf := log2 } } else { h with hif := { h.hif with bar2Pf := log2 } }

/-- What a configuration request does to a configured port.  A size that Table 13-1 does not give the module is not
taken (assumption 121). -/
def configure (h : Hw) (f : FnId) : ConfigReq → Hw
  | .read reg => h.emit (.cfgData f (cfgDword h f reg))
  | .write reg d => h.modFn f (fun x => { x with cfg := SMap.put x.cfg reg d })
  | .findCap c => h.emit (.cfgFound f (hasCap f c))
  | .maxPayload n => if [128, 256, 512].contains n then h.modFn f (fun x => { x with maxPayload := n }) else h
  | .maxRead n =>
    if [128, 256, 512, 1024, 2048, 4096].contains n then h.modFn f (fun x => { x with maxRead := n }) else h
  | .bar2Size vf log2 => if f ≠ 0 then h else setBar2 h vf log2
  | .relaxedOrdering on => h.modFn f (fun x => { x with relaxed := on })
  | .vfEnable on =>
    if f ≠ 0 then h
    else if on then { h with hif := { h.hif with vfEnable := true } }
    else clearVfEnable h
  | .msixMask v m =>
    if m then h.modFn f (fun x => { x with msixMask := x.msixMask ||| (1#3 <<< v.val) }) else unmask h f v

/-- CONFIGURATION_REQUEST: Request Retry Status until the port is configured (R515). -/
def execConfigurationRequest (fn : FnId) (req : ConfigReq) (s : State) : Host.Outcome State Fault Refusal :=
  run s (fun h =>
    if !h.hostUp then h
    else if !h.hif.configured then h.emit (.cfgRetry fn)
    else if !h.fnOn fn then h.emit .unsupported
    else configure h fn req)

end Sys2Proof.Machine
end

