-- ==== Sys2Proof/Machine/RecRows.lean ====
section
/-! DEFINITION. Commands of captures and recovery, the engine watchdog, the known-answer test and the recovery of an
easel and of a partition (R489, R490, R492, R501, R502, R507). -/

namespace Sys2Proof.Machine

/-! ### Capture commands (Table 16-10) -/

/-- A capture in the directory. -/
def capOf (h : Hw) (id : Nat) : Option Capture := h.flt.captures.find? (fun c => c.id.toNat == id && !c.isOpen)

/-- Starts a PF-only command that names no context and completes at once. -/
def pfSimple (h : Hw) (f : FnId) (op : Nat) (masks : List Word) (status : Hw → HostCmd → BitVec 8)
    (eff : Hw → HostCmd → Hw × Nat) : Hw :=
  command h f op false masks (fun h k =>
    let st := if f ≠ 0 then 6 else status h k
    if st ≠ 0 then complete h f k st 0
    else
      let r := eff h k
      complete r.1 f k 0 r.2)

/-- CAP_LIST: writes the headers, oldest first. -/
def execCapList (fn : FnId) (s : State) : Host.Outcome State Fault Refusal :=
  run s (fun h => pfSimple h fn 0x30 [0xFFFFFFFFFFFFFFFF, 0xFFFF]
    (fun _ k => if wfld (nthW k.words 1) 0 6 = 0 then 0 else 3)
    (fun h k =>
      let l := (h.flt.captures.filter (fun c => !c.isOpen)).take (nthW k.words 2).toNat
      (if l.isEmpty then h else hostWriteFn h fn (nthW k.words 1) (wordsBytes (l.flatMap (·.words))), l.length)))

/-- The function may read the capture: the PF, or for a context-level capture the function of its contexts. -/
def capReader (h : Hw) (f : FnId) (c : Capture) : Bool :=
  f == 0 || (c.level == 0 && (maskCtxs c.contexts).all (fun x => (h.ctx x).fn == f))

/-- CAP_READ: copies a part of a capture to the host, once no channel of it is in retraining (R160, R180). -/
def execCapRead (fn : FnId) (s : State) : Host.Outcome State Fault Refusal :=
  run s (fun h0 =>
    let all : Word := 0xFFFFFFFFFFFFFFFF
    command h0 fn 0x31 false [0xFFFF, all, all, all] (fun h k =>
      let off := (nthW k.words 2).toNat
      let n := (nthW k.words 3).toNat
      match capOf h (wfld (nthW k.words 1) 0 16) with
      | none => complete h fn k 0x0E 0
      | some c =>
        let st := firstStatus [if capReader h fn c then 0 else 1,
          if n % 64 = 0 ∧ n ≤ 0x4000000 ∧ off + n ≤ up64 c.bytes then 0 else 3]
        let a := c.offset + off
        let image := wordsBytes c.words ++ h.mem.read (c.offset + 64) (up64 c.bytes - 64)
        if st ≠ 0 then complete h fn k st 0
        else if c.dropped then complete (hostWriteFn h fn (nthW k.words 4) (sub (wordsBytes c.words) off n)) fn k 0 0
        else if chanWaits h a n then h0
        else if chanDown h a n then complete h fn k 3 0
        else match h.mem.badRead a n with
          | some w => complete (ueFound h w) fn k 3 0
          | none =>
            if (h.mem.pathBad a n).isSome then complete (pathFound h a n) fn k 3 0
            else complete (hostWriteFn (touchRead h a n) fn (nthW k.words 4) (sub image off n)) fn k 0 0))

/-- CAP_RELEASE: frees a capture's space. -/
def execCapRelease (fn : FnId) (s : State) : Host.Outcome State Fault Refusal :=
  run s (fun h => pfSimple h fn 0x32 [0xFFFF]
    (fun h k => if (capOf h (wfld (nthW k.words 1) 0 16)).isSome then 0 else 0x0E)
    (fun h k => ({ h with flt := { h.flt with
      captures := h.flt.captures.filter (fun c => c.isOpen || c.id.toNat != wfld (nthW k.words 1) 0 16) } }, 0)))

/-- CAP_CONFIG: the capture options of a context (R492, R494). -/
def execCapConfig (fn : FnId) (s : State) : Host.Outcome State Fault Refusal :=
  run s (fun h =>
    let all : Word := 0xFFFFFFFFFFFFFFFF
    simple h fn 0x37 [1, all, all]
      (fun h k =>
        let first := (nthW k.words 2).toNat
        let n := (nthW k.words 3).toNat
        let need := (maskParts (h.ctx k.ctx).mask).length * 143
        firstStatus [fnStatus h fn k.ctx,
          if n = 0 then 0
          else if first + n ≤ 393216 ∧ need ≤ n * 2 ∧ (List.range n).all (fun i => holdsPage h k.ctx (first + i)) then 0
          else 0x10])
      (fun h k => (h.modCtx k.ctx (fun x => { x with
        capPalettes := bit (nthW k.words 1) 0
        capFirst := (nthW k.words 2).toNat, capCount := (nthW k.words 3).toNat }), 0)))

/-! ### Reset commands -/

/-- Starts a PF command that completes when a recovery ends. -/
def resetCommand (h : Hw) (f : FnId) (op : Nat) (mask : Word) (unit : Hw → HostCmd → BitVec 8 × RecUnit) : Hw :=
  command h f op false [mask] (fun h k =>
    let r := unit h k
    let st := if f ≠ 0 then 6 else r.1
    if st ≠ 0 then complete h f k st 0
    else startRecovery (hold h f k) r.2 0 [(f, k.seq)])

/-- ENGINE_RESET (R501). -/
def execEngineReset (fn : FnId) (s : State) : Host.Outcome State Fault Refusal :=
  run s (fun h => resetCommand h fn 0x34 0xFF (fun h k =>
    let i := wfld (nthW k.words 1) 0 8
    let e : EaselId := Fin.ofNat 208 i
    (if 208 ≤ i then 3 else if h.up e then 0 else 0x0F, .engine e)))

/-- PARTITION_RESET (R502). -/
def execPartitionReset (fn : FnId) (s : State) : Host.Outcome State Fault Refusal :=
  run s (fun h => resetCommand h fn 0x35 3 (fun _ k => (0, .partition (Fin.ofNat 4 (wfld (nthW k.words 1) 0 2)))))

/-- CHIP_RESET: completes with 0x05 before the reset (R503); a recovery of the chip in progress covers it (R506). -/
def execChipReset (fn : FnId) (s : State) : Host.Outcome State Fault Refusal :=
  run s (fun h => command h fn 0x36 false [] (fun h k =>
    if fn ≠ 0 then complete h fn k 6 0
    else if h.chipRec then complete h fn k 5 0
    else chipFault (complete h fn k 5 0) 0 []))

/-! ### The reset of an easel (R501) -/

/-- The request belongs to an agent of the easel. -/
def reqOfEasel (e : EaselId) (r : Request) : Bool :=
  match r.by_ with
  | .core x => x == e
  | .storeBuf x => x == e
  | .copy x _ _ => x == e
  | .release x _ _ => x == e
  | _ => false

/-- Drops what the agents of an easel have outstanding. -/
def dropEaselWork (h : Hw) (e : EaselId) : Hw :=
  let tags := (h.reqs.filter (reqOfEasel e)).map (·.tag)
  let keep := fun (q : QPkt) => match q.req with
    | some t => !tags.contains t
    | none => true
  { h with
    reqs := h.reqs.filter (fun r => !reqOfEasel e r)
    rte := { h.rte with inq := h.rte.inq.filter keep }
    ports := h.ports.map (fun p => (p.1, { p.2 with txq := p.2.txq.filter keep }))
    sync := { h.sync with waiters := h.sync.waiters.filter (fun w => w.easel != e) }
    glz := { h.glz with binds := h.glz.binds.filter (fun b => b.easel != e) } }

/-- Resets an easel: core, engines, sync unit and atomic unit, its sketch writes scraped, Palette and accumulators
zero (R501). -/
def resetEasel (h : Hw) (e : EaselId) : Hw :=
  let x := h.easel e
  let h1 := discardSlots (dropEaselWork h e) (fun s => s.easel == e)
  let h2 := match x.loaded with
    | some c =>
      let k := (c.val * 208 + e.val) * 512
      { h1.modCtx c (fun y => { y with saved := SMap.del y.saved e.val }) with
        sync := { h1.sync with easelObj := SMap.eraseRange h1.sync.easelObj k (k + 512) } }
    | none => h1
  ({ h2 with mem := h2.mem.zero (palBase e.val) 0x200000 }).setEasel e { Easel.init with
    flim := x.flim, clockMhz := x.clockMhz, katPass := x.katPass, katValid := x.katValid, katFails := x.katFails
    katTime := x.katTime, fenceClass := x.fenceClass, fenceValid := x.fenceValid }

/-! ### Known-answer test and fences (R24, R490, R527) -/

/-- A run of the known-answer test ends. -/
def katRun (h : Hw) (e : EaselId) (pass : Bool) : Hw :=
  h.modEasel e (fun x => { x with
    katPass := pass, katValid := true, katTime := h.ftcNow
    katFails := if pass then x.katFails else Nat.min 255 (x.katFails + 1) })

/-- Adds physical indices to the field defect list, with event 0x242 where any is new (R523, R527). -/
def addField (h : Hw) (l : List EaselId) : Hw :=
  let fresh := l.filter (fun e => !h.bru.field.contains e)
  if fresh.isEmpty then h
  else raiseEv { h with bru := { h.bru with field := h.bru.field ++ fresh } } 0x242 fresh.length []

/-- Fences an easel: critical event 0x046, the field list under policy 1, and a fault of every context whose mask
holds its partition (R24, R490, R527). -/
def fence (h : Hw) (e : EaselId) : Hw :=
  let h1 := { h.modEasel e (fun x => { x with fenceClass := 0x71, fenceValid := true }) with
    bru := { h.bru with fenced := h.bru.fenced ++ [e] } }
  let h2 := raiseEv h1 0x046 e.val []
  let h3 := if h.bru.policy then addField h2 [e] else h2
  (allCtx.filter (fun c => (h.ctx c).live && (h.ctx c).mask.getLsbD (partOf e).val)).foldl (fun g c =>
    recordFault g { FaultRec.blank g.ftcNow 0x71 8 with ctx := some c, easel := BitVec.ofNat 8 e.val }) h3

/-- The test after a reset: a failure resets the easel and runs it once more; a second fences it (R490). -/
def katTwice (h : Hw) (e : EaselId) (first second : Bool) : Hw :=
  let h1 := katRun h e first
  if first then h1
  else
    let h2 := katRun (resetEasel h1 e) e second
    if second then h2 else fence h2 e

/-- The commands that awaited a recovery complete with 0x00 (R506, R507). -/
def finishResets (h : Hw) (l : List (FnId × Nat)) : Hw :=
  l.foldl (fun g p => finishCmd g p.1 p.2 0 0) h

/-- Ends the recovery of a unit. -/
def endRecovery (h : Hw) (u : RecUnit) : Hw :=
  let cmds := (h.flt.recoveries.filter (fun r => r.unit == u)).flatMap (·.cmds)
  finishResets { h with flt := { h.flt with recoveries := h.flt.recoveries.filter (fun r => r.unit != u) } } cmds

/-- A recovery of the unit is in progress. -/
def recovering (h : Hw) (u : RecUnit) : Bool := h.flt.recoveries.any (fun r => r.unit == u)

/-- Steps 4 to 8 of R501 on one easel. -/
def recoverEasel (h : Hw) (e : EaselId) (first second : Bool) : Hw :=
  let h1 := katTwice (resetEasel h e) e first second
  raiseEv h1 0x043 (e.val + b2n (h1.bru.fenced.contains e) * 256) []

/-- The capture of an easel's recovery ends and the recovery runs to its end (R501). -/
def runEngine (h : Hw) (e : EaselId) (first second : Bool) : Hw :=
  if recovering h (.engine e) then
    let h1 := closeWhere h (fun c => c.level == 1 && c.easel == BitVec.ofNat 8 e.val) false
    endRecovery (recoverEasel h1 e first second) (.engine e)
  else h

/-- ENGINE_RECOVERY: an easel's recovery, started here unless one is in progress, runs; `kat` and `kat2` are the
results of its known-answer runs (R501).  A reserved trigger class is none that the module reports (R6). -/
def execEngineRecovery (e : EaselId) (trigger : BitVec 8) (kat : Bool) (kat2 : Bool) (s : State) :
    Host.Outcome State Fault Refusal :=
  run s (fun h =>
    if !h.up e || !triggerOk trigger then h
    else runEngine (if recovering h (.engine e) then h else engineFaultRec h e trigger []) e kat kat2)

/-- Contexts with unvarnished sketch data in a partition's pool. -/
def sketchCtxs (h : Hw) (p : PartId) : List CtxId := allCtx.filter (fun c => holdsSketch h p c.val)

/-- PARTITION_RECOVERY: R501 on every enabled easel of the partition, its pool scraped, the contexts that held data
there faulted; `failing` names the easels that fail both known-answer runs (R502).  A reserved trigger class is none
that the module reports (R6). -/
def execPartitionRecovery (p : PartId) (trigger : BitVec 8) (failing : List EaselId) (s : State) :
    Host.Outcome State Fault Refusal :=
  run s (fun h0 =>
    let h := if recovering h0 (.partition p) then h0 else partitionFault h0 p trigger []
    if !triggerOk trigger then h0
    else if !recovering h (.partition p) then h
    else
      let h1 := closeWhere h (fun c => c.level == 2 && c.parts.getLsbD p.val) false
      let h2 := (sketchCtxs h1 p).foldl lostFault h1
      let h3 := discardSlots h2 (fun s => s.part == p)
      let h4 := ((partEasels p).filter h3.up).foldl (fun g e =>
        let ok := !failing.contains e
        recoverEasel g e ok ok) h3
      endRecovery (raiseEv h4 0x044 p.val []) (.partition p))

/-- KNOWN_ANSWER_RUN: the test on an easel between contexts; a first failure takes the easel through engine-level
recovery, in which the test runs again (R490). -/
def execKnownAnswerRun (e : EaselId) (first second : Bool) (s : State) : Host.Outcome State Fault Refusal :=
  run s (fun h =>
    let x := h.easel e
    if !h.up e || x.loaded.isSome || recovering h (.engine e) then h
    else
      let h1 := katRun h e first
      if first then h1
      else
        let h2 := engineFaultRec h1 e 0x71 []
        if recovering h2 (.engine e) then
          let h3 := closeWhere h2 (fun c => c.level == 1 && c.easel == BitVec.ofNat 8 e.val) false
          let h4 := katRun (resetEasel h3 e) e second
          let h5 := if second then h4 else fence h4 e
          endRecovery (raiseEv h5 0x043 (e.val + b2n (!second) * 256) []) (.engine e)
        else h2)

/-! ### The engine watchdog (R489) -/

/-- The instruction of the queue that the watchdog measures: the engine's executing instruction; among the copy
instructions, the one named. -/
def watched (h : Hw) (e : EaselId) (q : Engine) (serial : Word) : Option QEntry :=
  match findEntry h e q serial with
  | some i =>
    if i.started && !i.op.isRelease && decide (i.since + 50000000 ≤ h.now) && (h.easel e).loaded == some i.ctx &&
        decide (0 < easelF h e) && !colBusy h i.ctx then some i else none
  | none => none

/-- ENGINE_WATCHDOG_EXPIRE: 50 ms without progress fault the instruction with 0x70, and the easel goes through
engine-level recovery (R489, R497). -/
def execEngineWatchdogExpire (e : EaselId) (q : Engine) (serial : Word) (s : State) :
    Host.Outcome State Fault Refusal :=
  run s (fun h =>
    match watched h e q serial with
    | some i => engineFaultRec (endWithFault (h.count (blkBase (.easel e) + 0x38) 1) e q i 0x70 0) e 0x70 []
    | none => h)

end Sys2Proof.Machine
end

