-- ==== Sys2Proof/Machine/Boot.lean ====
section
/-! DEFINITION. Supplies and clocks, the choice and check of firmware slots, cold boot to ready, and chip-level
recovery (R17, R503, R513–R532, R545, R552–R554). -/

namespace Sys2Proof.Machine

/-! ### Images (R518–R520) -/

def zeroBytes (b : Bytes) : Bool := b.all (fun x => x == 0)

/-- The first check of R520 that a header fails, as the error of Table 17-6; 0 where it passes. -/
def headerError (h : Hw) (x : Bytes) : BitVec 8 :=
  let key := leNat (sub x 5 1)
  let len := leNat (sub x 16 4)
  let pub := sub x 128 1312
  if x.length ≠ 4096 ∨ leNat (sub x 0 4) ≠ 0x57465848 ∨ leNat (sub x 4 1) ≠ 1 ∨
      !(zeroBytes (sub x 6 2) && zeroBytes (sub x 24 8) && zeroBytes (sub x 64 64) && zeroBytes (sub x 3860 236)) then 3
  else if len < 256 ∨ 67104768 < len then 8
  else if 4 ≤ key ∨ sha3 pub ≠ Config.otpKeyHash key ∨ Config.otpKeyRevoked key then 4
  else if !Config.mldsaVerify pub (sub x 0 1440) (sub x 1440 2420) then 5
  else if leNat (sub x 12 2) < h.fwu.floorR.toNat ∨ leNat (sub x 14 2) < h.fwu.floorI.toNat then 6
  else if !(leNat (sub x 20 4)).testBit Config.siRev.toNat then 7
  else 0

/-- A directory entry is well formed: unused, or of types 1 to 5 with a component between the directory and the end
of the body (R519). -/
def dirEntryOk (b : Bytes) (i : Nat) : Bool :=
  let x := sub b (32 * i) 32
  let t := leNat (sub x 0 1)
  t == 0 || (decide (t ≤ 5) && zeroBytes (sub x 1 1) && zeroBytes (sub x 12 20) &&
    decide (256 ≤ leNat (sub x 4 4) ∧ leNat (sub x 4 4) + leNat (sub x 8 4) ≤ b.length))

/-- The body has the header's length and digest, and its directory passes R519. -/
def bodyOk (header b : Bytes) : Bool :=
  b.length == leNat (sub header 16 4) && (List.range 8).all (dirEntryOk b) &&
    [1, 2, 3, 4].all (fun t => ((List.range 8).filter (fun i => leNat (sub b (32 * i) 1) == t)).length == 1) &&
    sha3 b == sub header 32 32

/-- A stored image passes R520. -/
def imageOk (h : Hw) (i : BitVec 1) : Bool :=
  headerError h (h.slot i).header == 0 && bodyOk (h.slot i).header (h.slot i).body

/-! ### Slot selection (R521) -/

/-- The slot in a state. -/
def slotIn (h : Hw) (st : BitVec 3) : Option (BitVec 1) :=
  if h.fwu.slot0.state = st then some 0 else if h.fwu.slot1.state = st then some 1 else none

/-- What a boot selects: the slot, whether it is a trial, and the payload bits of event 0x241 that apply: the
other slot booted, a trial failed. -/
structure Choice where
  hw : Hw
  slot : Option (BitVec 1)
  trial : Bool
  other : Bool
  failed : Bool

/-- Without a trial: the ACTIVE slot, else another VALID one, else none. -/
def selectSteady (h : Hw) (failed : Bool) : Choice :=
  let a := slotIn h 3
  match a.filter (fun i => decide ((h.slot i).failCount < 2) && imageOk h i) with
  | some i => { hw := h, slot := some i, trial := false, other := false, failed := failed }
  | none =>
    match ([0, 1] : List (BitVec 1)).find? (fun i => (h.slot i).state == 2 && imageOk h i) with
    | some o =>
      let h1 := match a with
        | some i => h.modSlot i (fun s => { s with state := 5 })
        | none => h
      { hw := h1.modSlot o (fun s => { s with state := 3 }), slot := some o, trial := false, other := true,
        failed := failed }
    | none => { hw := h, slot := none, trial := false, other := false, failed := failed }

/-- The ROM selects a slot (R521). -/
def selectSlot (h : Hw) : Choice :=
  match slotIn h 4 with
  | none => selectSteady h false
  | some t =>
    let bad := h.modSlot t (fun s => { s with state := 5 })
    if (h.slot t).trialUsed then selectSteady bad true
    else
      let used := h.modSlot t (fun s => { s with trialUsed := true })
      if imageOk used t then { hw := used, slot := some t, trial := true, other := false, failed := false }
      else selectSteady (used.modSlot t (fun s => { s with state := 5 })) true

/-- Event 0x241 after a selection, with the slot booted. -/
def choiceEvent (c : Choice) (h : Hw) : Hw :=
  if c.other || c.failed then
    raiseEv h 0x241 (((c.slot.map (·.toNat)).getD 0) + 2 * b2n c.failed) []
  else h

/-! ### Settings (R530, R531) -/

/-- The schema of the running image where the record is older: the record is migrated, with event 0x249 (R531). -/
def migrate (h : Hw) : Hw :=
  let v := schemaOf (runSlot h).body
  match settingsNow h.bru with
  | some r =>
    if r.version < v then raiseEv (saveSettings h r.numbering r.policy r.lp144 v) 0x249 v.toNat [] else h
  | none => h

/-- BRU_SETTINGS shows what the record holds for the next cold boot. -/
def loadSettingsReg (h : Hw) : Hw :=
  let r := (settingsNow h.bru).getD (Settings.default 0 false)
  h.setReg 0xA0028 (bitw r.numbering 0 ||| bitw r.policy 1 ||| bitw r.lp144 2)

/-- The settings in force at a cold boot, or the defaults with event 0x249 (R530). -/
def readSettings (h : Hw) : Hw :=
  match settingsNow h.bru with
  | some r => { h with bru := { h.bru with numbering := r.numbering, policy := r.policy, defaulted := false } }
  | none =>
    raiseEv { h with bru := { h.bru with numbering := false, policy := true, defaulted := true } }
      0x249 ((schemaOf (runSlot h).body).toNat + 65536) []

/-! ### Starting firmware -/

/-- Firmware unmasks the sources it serves (R411). -/
def unmaskEvents (h : Hw) : Hw := (List.range 16).foldl (fun g k => g.setReg (0x40100 + 8 * k) 0) h

/-- The Ihlel firmware of a slot starts: CDI1 and Alias 1 (R431). -/
def startIhlel (h : Hw) (i : BitVec 1) : Hw :=
  let h1 := deriveAlias1 { h with
    fwu := { h.fwu with runIhlel := i }, bru := { h.bru with bootSlot := i } }
  { h1 with sec := { h1.sec with ready := true } }

/-- The runtime, the supervisors and the microcode of a slot start (R513). -/
def startRuntime (h : Hw) (i : BitVec 1) : Hw :=
  unmaskEvents (migrate { h with fwu := { h.fwu with
    runRuntime := i, runSup0 := i, runSup1 := i, runUcode := if i = 1 then 0xF else 0, cpSet := false
    ucodePending := 0, supStage := 0, paused := false } })

/-- The supervisors start: instance 0 takes the lease where both start, else the one that starts; the other loads
its state from it (R475, R479). -/
def startSups (h : Hw) (s0 s1 : Bool) : Hw :=
  let a : Fin 2 := if s0 then 0 else 1
  let x := fun (i : Fin 2) (on : Bool) => { Sup.init with
    started := on, synced := on && i == a, writing := on && i == a,
    restartAt := if on && i ≠ a then some h.now else none }
  { h with sup := { s0 := x 0 s0, s1 := x 1 s1, holder := if s0 || s1 then some a else none, renewed := h.now
                    diverge := 0, swapPending := false, sets := 0 } }

/-- A start that fails before ready counts against the slot booted (R521). -/
def countFail (h : Hw) : Hw :=
  h.modSlot h.bru.bootSlot (fun s => { s with failCount := if s.failCount = 3 then 3 else s.failCount + 1 })

/-- Bring-up stops: phase 8 with an error and a unit; errors 0x04 and 0x05 count against the slot (R516, R521). -/
def failBoot (h : Hw) (err unit : BitVec 8) : Hw :=
  let h1 := { h with bru := { h.bru with phase := 8, error := err, failUnit := unit } }
  if err = 4 ∨ err = 5 then countFail h1 else h1

/-! ### Memories and ports -/

/-- Results of the repairs listed in BRU_REPAIR_n, with event 0x243 where any is listed (R529). -/
def runRepairs (h : Hw) (results : List (BitVec 2)) : Hw :=
  let listed := (List.range 32).filter (fun n => bit (h.reg (0xA0400 + 8 * n)) 63)
  let res := fun n =>
    let off := wfld (h.reg (0xA0400 + 8 * n)) 0 48
    if !(isLp off || isCv off) then (3 : BitVec 2)
    else if (results[n]?).getD 1 = 2 then 2 else 1
  if listed.isEmpty then h
  else
    let good := (listed.filter (fun n => res n == 1)).length
    raiseEv { h with bru := { h.bru with repair := listed.foldl (fun m n => SMap.put m n (res n)) h.bru.repair } }
      0x243 (good + (listed.length - good) * 256) []

/-- LPM_RATE_CFG of both instances takes lpddr_14g4 of the settings in force (R530). -/
def setRateCfg (h : Hw) : Hw :=
  let r := (settingsNow h.bru).getD (Settings.default 0 false)
  let w := bitw r.lp144 0
  (h.setReg (blkBase (.lpm 0) + 0x20) w).setReg (blkBase (.lpm 1) + 0x20) w

/-- allow_14g4 in force. -/
def allow144 (h : Hw) : Bool := bit (h.reg (blkBase (.lpm 0) + 0x20)) 0

/-- LPDDR6 trains: the rate, with the fallback event 0x080 (R177–R179), and event 0x085 where the settings of the two
instances differ (R194). -/
def trainLp (h : Hw) (bad14 : List (Fin 96)) : Hw :=
  let h1 := lpmApply { h with memctl := { h.memctl with
    trained := 3, chUp := BitVec.allOnes 96, chLost := [], selfRefresh := false } }
  match allow144 h, (sortBy (fun (a b : Fin 96) => decide (a ≤ b)) bad14).head? with
  | true, some c => raiseEv { h1 with memctl := { h1.memctl with rate128 := true } } 0x080 c.val []
  | true, none => { h1 with memctl := { h1.memctl with rate128 := false } }
  | false, _ => { h1 with memctl := { h1.memctl with rate128 := true } }

/-- Every enabled port starts full training (R310). -/
def trainPorts (h : Hw) : Hw :=
  allPorts.foldl (fun g i => if bit (g.reg (errOff i 0x18)) 8 then beginTraining g i else g) h

/-- Canvas and LPDDR6 are zero with valid check bits, and so are Palettes (R189). -/
def zeroAll (h : Hw) : Hw :=
  { h with mem := { cells := [], ecc := [], path := [], unfolded := [] }
           memctl := { h.memctl with canvasReady := 3, zeroed := 3 } }

/-! ### Self-test, enabled set and numbering (R523–R526) -/

/-- The easels that take the known-answer run: not fused off, and under policy 1 neither listed nor failing the
start-of-day test. -/
def testedEasels (h : Hw) (sodFail : List EaselId) : List EaselId :=
  allEasels.filter (fun e => !h.bru.fused.contains e &&
    !(h.bru.policy && (h.bru.field.contains e || sodFail.contains e)))

/-- The start-of-day test and the known-answer run fix the enabled set and the numbering. -/
def selfTest (h : Hw) (sodFail katFail : List EaselId) : Hw :=
  let tested := testedEasels h sodFail
  let on := tested.filter (fun e => !katFail.contains e)
  let failing := allEasels.filter (fun e => !h.bru.fused.contains e && !h.bru.field.contains e &&
    (sodFail.contains e || katFail.contains e))
  let h1 := tested.foldl (fun g e => katRun g e (on.contains e)) h
  let h2 := { h1 with bru := { h1.bru with
    enabled := on, fenced := [], logmap := if h.bru.numbering then on else [] } }
  setClocks (if h.bru.policy then addField h2 failing else h2) 2100

/-! ### Ready (R513, R514, R521) -/

/-- The module is ready: FAULT# off, the trial slot that booted becomes ACTIVE, event 0x240. -/
def makeReady (h : Hw) : Hw :=
  let s := h.bru.bootSlot
  let h1 := if h.bru.trialBoot then
      (h.modSlot (1 - s) (fun x => if x.state = 3 then { x with state := 2 } else x)).modSlot s
        (fun x => { x with state := 3 })
    else h
  let h2 := h1.modSlot s (fun x => { x with failCount := 0 })
  raiseEv { h2 with
    bru := { h2.bru with phase := 7, ready := true, trialBoot := false }
    pins := { h2.pins with fault := false } }
    0x240 (s.toNat + h2.bru.enabled.length * 256) []

/-! ### Cold boot (R513, R516) -/

/-- ROM recovery mode: no slot is bootable (R545). -/
def romRecovery (h : Hw) : Hw :=
  { h with bru := { h.bru with phase := 9, error := 6, failUnit := 0xFF }
           pins := { h.pins with fault := true, computeOn := false } }

/-- Phases 3 to 6: training, memory and self-test. -/
def bootMemory (h : Hw) (env : BootEnv) : Hw :=
  let h1 := trainPorts (setRateCfg { h with
    bru := { h.bru with phase := 3 }, pins := { h.pins with computeOn := true } })
  let h2 := runRepairs (trainLp h1 env.bad14) env.repair
  match (if h2.memctl.rate128 then (sortBy (fun (a b : Fin 96) => decide (a ≤ b)) env.bad12).head? else none),
      env.canvasBad with
  | some c, _ => failBoot { h2 with memctl := { h2.memctl with trained := 0 } } 1 (BitVec.ofNat 8 c.val)
  | none, some d => failBoot h2 2 (BitVec.ofNat 8 d.val)
  | none, none =>
    let h3 := selfTest (zeroAll h2) env.sodFail env.katFail
    { h3 with bru := { h3.bru with phase := 6 } }

/-- The boot of a slot from phase 1. -/
def bootSlotFrom (h : Hw) (i : BitVec 1) (env : BootEnv) : Hw :=
  let unit : BitVec 8 := i.setWidth 8
  let h1 := { h with bru := { h.bru with phase := 1, bootSlot := i } }
  if !env.ihlelOk then failBoot h1 5 unit
  else
    let h2 := startIhlel h1 i
    let h3 := { h2 with bru := { h2.bru with phase := 2 }, hif := { h2.hif with configured := !h2.hif.perst } }
    if !env.sup0 && !env.sup1 then failBoot h3 3 0xFF
    else if !env.runtimeOk then failBoot h3 4 unit
    else
      let h4 := loadSettingsReg (readSettings (startRuntime h3 i))
      bootMemory (startSups (deriveAlias2 h4) env.sup0 env.sup1) env

/-- COLD_BOOT: from the release of power-on reset to the end of phase 6, or to the failure or ROM recovery mode that
ends it (R513, R516, R545). -/
def execColdBoot (env : BootEnv) (s : State) : Host.Outcome State Fault Refusal :=
  run s (fun h =>
    if !h.pins.powered || !h.bru.released || decide (1 < h.bru.phase.toNat) then h
    else
      let h0 := if h.bru.phase = 0 then { h with tray := { h.tray with boots := h.tray.boots + 1 } } else h
      let c := selectSlot h0
      match c.slot with
      | none => choiceEvent c (romRecovery { c.hw with hif := { c.hw.hif with configured := !c.hw.hif.perst } })
      | some i =>
        choiceEvent c (bootSlotFrom { c.hw with bru := { c.hw.bru with error := 0, trialBoot := c.trial } } i env))

/-- BOOT_READY: phase 7 (R513, R514). -/
def execBootReady (s : State) : Host.Outcome State Fault Refusal :=
  run s (fun h =>
    if h.bru.phase = 6 then
      let h1 := makeReady h
      { h1 with bru := { h1.bru with bootNs := h.now - h.bru.porAt } }
    else h)

/-! ### Supplies and the reference clock (R17, R552–R554) -/

/-- What the protected data area, the fuses, the straps and the outside keep without power (R13, R498, R529). -/
def keptDark (h : Hw) : Hw :=
  let z := Hw.reset
  let lost := fun (s : FwSlot) => if s.state = 1 then { s with state := (5 : BitVec 3) } else s
  { z with
    now := h.now
    free := h.free
    regs := { z.regs with act := SMap.range h.regs.act 0xA0400 0xA0500 }
    hif := { z.hif with perst := h.hif.perst }
    sec := { z.sec with drbgNext := h.sec.drbgNext }
    rte := { z.rte with pos := h.rte.pos }
    bru := { z.bru with rec0 := h.bru.rec0, rec1 := h.bru.rec1, fused := h.bru.fused, field := h.bru.field
                        repair := h.bru.repair, porAt := h.now, released := false }
    fwu := { z.fwu with slot0 := lost h.fwu.slot0, slot1 := lost h.fwu.slot1
                        floorR := h.fwu.floorR, floorI := h.fwu.floorI }
    tray := { z.tray with hours := h.tray.hours, boots := h.tray.boots }
    pins := { z.pins with powered := false, refclk := h.pins.refclk, fault := false
                          variant1800 := h.pins.variant1800 }
    out := h.out }

/-- SUPPLY_SHUTDOWN: every regulator off, no capture, all memory contents lost (R552). -/
def execSupplyShutdown (_high : Bool) (s : State) : Host.Outcome State Fault Refusal :=
  run s (fun h => if h.pins.powered then keptDark h else h)

/-- POWER_ON: the input has met the start threshold; the straps are sampled, FAULT# is asserted, and power-on reset
is released where the reference is present (R330, R554, R558). -/
def execPowerOn (pos : BitVec 6) (refclk : Bool) (s : State) : Host.Outcome State Fault Refusal :=
  run s (fun h =>
    if h.pins.powered then h
    else
      let h1 := keptDark h
      { h1 with
        rte := { h1.rte with pos := pos }
        bru := { h1.bru with released := refclk, porAt := h.now }
        tray := { h1.tray with refclkMissing := !refclk }
        pins := { h1.pins with powered := true, refclk := refclk, fault := true } })

/-- REFCLK_LOSS: event 0x004 with payload 1; work continues (R17). -/
def execRefclkLoss (s : State) : Host.Outcome State Fault Refusal :=
  run s (fun h =>
    if h.pins.refclk && h.pins.powered then raiseEv { h with pins := { h.pins with refclk := false } } 0x004 1 []
    else { h with pins := { h.pins with refclk := false } })

/-- REFCLK_RESTORE: event 0x004 with payload 0, or the release of power-on reset that waited for it (R17, R554). -/
def execRefclkRestore (s : State) : Host.Outcome State Fault Refusal :=
  run s (fun h =>
    let h1 := { h with pins := { h.pins with refclk := true } }
    if h.pins.refclk || !h.pins.powered then h1
    else if h.bru.released then raiseEv h1 0x004 0 []
    else { h1 with bru := { h1.bru with released := true, porAt := h.now }
                   tray := { h1.tray with refclkMissing := false } })

/-- BRU_FIELD_CLEAR: takes an index off the field defect list (R528). -/
def fieldClear (h : Hw) (i : Nat) : Hw :=
  if !h.bru.ready then h
  else { h with bru := { h.bru with field := h.bru.field.filter (fun e => e.val != i) } }

/-! ### Chip-level recovery (R33, R498, R499, R503) -/

/-- Every context ends by gesso: contents zero or zeroing, IDs free, and the events of Table 14-13. -/
def endContexts (h : Hw) : Hw :=
  (allCtx.filter (fun c => (h.ctx c).state != 0)).foldl (fun g c => freeCtx (scrubCtx (dropLoaded g c) c) c) h

/-- Events of the contexts that ended, by function. -/
def endedEvents (l : List CtxId) (h : Hw) : Hw :=
  l.foldl (fun g c => raiseCtx (raiseCtx g 0x140 c c.val []) 0x141 c c.val []) h

/-- Registers after the reset: those marked RS keep their values (R33). -/
def resetRegs (h : Hw) : Hw :=
  { h with regs := { act := h.regs.act.filter (fun p => (regAt h.pins.variant1800 p.1).rs)
                     staged := [], commit := [], whold := [], rhold := [] } }

/-- A port's reset: saved equalisation is kept, and an enabled port retrains shortly, or fully where nothing is
saved (R311). -/
def resetPort (h : Hw) (i : PortId) : Hw :=
  let old := (h.port i).state
  let eq := (h.port i).eqSaved
  let h1 := h.setPort i { Port.init with state := old, eqSaved := eq, eqNow := eq.getD 0, chipTrain := eq.isSome }
  let go (h : Hw) (st : BitVec 3) (l : BitVec 8) : Hw :=
    if old = st then h.setPort i { h.port i with lanes := l, since := h.now } else setPortState h i st l
  if !bit (h1.reg (errOff i 0x18)) 8 then go (h.setPort i { Port.init with state := old, eqSaved := eq }) 0 0
  else if eq.isSome then go h1 3 (laneMask h1 i)
  else if old = 1 then go h1 1 0 else beginTraining h1 i

/-- What the reset leaves of the state outside the retention domain. -/
def resetBlocks (h : Hw) : Hw :=
  let z := Hw.reset
  { h with
    mem := { cells := SMap.eraseRange h.mem.cells 0x20000000000 0x2001A000000
             ecc := SMap.eraseRange h.mem.ecc (0x20000000000 / 8) (0x2001A000000 / 8), path := [], unfolded := [] }
    sk := z.sk
    memctl := { h.memctl with regionCe := [], selfRefresh := true, sensorFail := 0, pkgHigh := 0
                              coolSince := [] }
    sync := z.sync
    reqs := []
    glz := z.glz
    easels := h.easels.map (fun p => (p.1, { Easel.init with
      clockMhz := p.2.clockMhz, fenceClass := p.2.fenceClass, fenceValid := p.2.fenceValid }))
    rte := { z.rte with pos := h.rte.pos, nextTag := h.rte.nextTag }
    ftc := { z.ftc with count := h.ftc.count, frac := h.ftc.frac }
    col := z.col
    bru := { h.bru with repair := [] }
    hif := { h.hif with fns := h.hif.fns.map (fun p => (p.1, { HifFn.init with
      cfg := p.2.cfg, relaxed := p.2.relaxed, maxPayload := p.2.maxPayload, maxRead := p.2.maxRead
      msixMask := p.2.msixMask, msixPend := p.2.msixPend })) }
    evc := z.evc
    ctxs := { h.ctxs with perf := [], loaded := [] }
    sec := { z.sec with ide := h.sec.ide, tdi := h.sec.tdi, drbgNext := h.sec.drbgNext }
    flt := { h.flt with noCtx := [], noCtxSeq := 0, recoveries := [], engHistory := [] }
    pwr := { z.pwr with
      vinMv := h.pwr.vinMv, iin10ma := h.pwr.iin10ma, pinWarn := h.pwr.pinWarn, uvWarn := h.pwr.uvWarn
      leakWet := h.pwr.leakWet, droop := h.pwr.droop }
    thm := { z.thm with tripped := h.thm.tripped }
    tray := { h.tray with telem := [], newest := 0, valid := false, unacked := 0, fMin := 64, throttled := false } }

/-- An update session or activation that the reset meets: the slot written becomes INVALID, an activation that still
waits fails with 0x11, and one past its record stands (R535, R541). -/
def resetUpdate (h : Hw) : Hw :=
  let h1 := match h.fwu.session with
    | some u => h.modSlot u.slot (fun s => { s with state := 5 })
    | none => h
  let act := h.fwu.paused || h.fwu.step == 3 || h.fwu.step == 4
  let h2 := if h.fwu.paused then
      (h1.modSlot (1 - h.fwu.actSlot) (fun s => if s.state = 3 then { s with state := 2 } else s)).modSlot h.fwu.actSlot
        (fun s => { s with state := 3 })
    else h1
  { h2 with fwu := { h2.fwu with
      session := none, lastSlot := 0, received := 0, error := if h.fwu.session.isSome then 0x11 else 0
      step := 0, actError := if h.fwu.step == 1 && !act then 0x11 else 0, paused := false, ucodePending := 0
      supStage := 0 } }

/-- Event 0x245 for what the reset aborted. -/
def abortedEvent (old h : Hw) : Hw :=
  if old.fwu.session.isSome || old.fwu.step == 1 then raiseEv h 0x245 0x11 [] else h

/-- Canvas and LPDDR6 come out of self-refresh and LPDDR6 is trained again; which rate it reaches is free (R179). -/
def retrainLp (h : Hw) : Hw :=
  let bad : List (Fin 96) := if bit h.freeWord 0 then [Fin.ofNat 96 (wfld h.freeWord 8 32)] else []
  trainLp h.useFree bad

/-- The known-answer run on every enabled easel that is not fenced; a failure fences it (R503). -/
def chipKat (h : Hw) (failing : List EaselId) : Hw :=
  (h.bru.enabled.filter (fun e => !h.bru.fenced.contains e)).foldl (fun g e =>
    let ok := !failing.contains e
    katTwice g e ok ok) h

/-- The reset and what follows it, to ready (Table 16-8). -/
def chipRecover (h : Hw) (failing : List EaselId) : Hw :=
  let live := allCtx.filter (fun c => (h.ctx c).state != 0)
  let down := allPorts.foldl (fun g i => if (g.port i).state = 2 ∨ (g.port i).state = 3 then goDown g i else g) h
  let h1 := resetUpdate (resetBlocks (resetRegs (endContexts down)))
  let c := selectSlot h1
  match c.slot with
  | none => choiceEvent c (romRecovery { c.hw with bru := { c.hw.bru with ready := false } })
  | some i =>
    let h2 := { c.hw with bru := { c.hw.bru with ready := false, error := 0, trialBoot := c.trial } }
    let h3 := deriveAlias2 (startRuntime (startIhlel h2 i) i)
    let h4 := startSups h3 h.sup.s0.started h.sup.s1.started
    let h5 := allPorts.foldl resetPort (retrainLp h4)
    let h6 := chipKat (setClocks h5 2100) failing
    choiceEvent c (makeReady (abortedEvent h (endedEvents live h6)))

/-- CHIP_RECOVERY: chip-level recovery, started here unless it is in progress, runs; `failing` names the easels that
fail their known-answer runs (R503).  One that firmware starts before ready counts against the slot (R521). -/
def execChipRecovery (trigger : BitVec 8) (failing : List EaselId) (s : State) : Host.Outcome State Fault Refusal :=
  run s (fun h0 =>
    let early := h0.bru.phase == 6 && !h0.chipRec
    if (h0.bru.phase ≠ 6 && h0.bru.phase ≠ 7) || !triggerOk trigger then h0
    else
      let h := if h0.chipRec then h0 else chipFault (if early then countFail h0 else h0) trigger []
      if !h.chipRec then h
      else chipRecover (closeWhere h (fun c => c.level == 3) false) failing)

end Sys2Proof.Machine
end

