-- ==== Sys2Proof/Machine/Idle.lean ====
section
/-! DEFINITION. Idle states: quietness, entry and exit (R464–R466). -/

namespace Sys2Proof.Machine

/-- A core that does not run: stopped in WAIT, SVC or an engine instruction, exited, or stopped with its context
(R465). -/
def coreQuiet (x : Easel) : Bool :=
  x.loaded.isNone || x.exited || x.stopped ||
    (match x.blocked with
      | some b => (match b.what with
        | .sync _ _ => true
        | .waitRoom _ _ _ _ => true
        | .svc _ => true
        | .queueRoom _ _ => true
        | _ => false)
      | none => false)

/-- The easels are quiet: every core stopped, every engine queue empty. -/
def easelsQuiet (h : Hw) : Bool :=
  h.easels.all (fun p => coreQuiet p.2 && p.2.me.isEmpty && p.2.vu.isEmpty && p.2.ce.isEmpty)

/-- No command is fetched, in progress or waiting in a host queue. -/
def hostQuiet (h : Hw) : Bool :=
  h.hif.fns.all (fun p => p.2.fetched.isEmpty && p.2.inProgress.isEmpty && p.2.fetching.isNone &&
    (!p.2.running || p.2.head == p.2.tail))

/-- No stream, collective, gesso, zeroing, folding or handover runs. -/
def workQuiet (h : Hw) : Bool :=
  h.glz.slots.all (fun p => p.2.state != 1) && h.col.slots.isEmpty &&
    h.ctxs.tab.all (fun p => p.2.state != 7) && h.ctxs.owner.all (fun p => p.2 != .zeroing) &&
    h.mem.unfolded.isEmpty && h.sk.toZero.isEmpty && !h.fwu.paused

/-- The module is quiet (R465). -/
def isQuiet (h : Hw) : Bool := h.bru.ready && easelsQuiet h && hostQuiet h && workQuiet h

/-- Exit bound of an idle state in microseconds (Table 15-3). -/
def exitBound (i : BitVec 2) : Nat :=
  match i.toNat with
  | 0 => 0
  | 1 => 3
  | 2 => 120
  | _ => 15000

/-- The deepest idle state that a tolerance permits (R464). -/
def deepestIdle (tol : Nat) : BitVec 2 :=
  if 15000 ≤ tol then 3 else if 120 ≤ tol then 2 else if 3 ≤ tol then 1 else 0

/-- The module is in no idle state; a new quiet time begins (R466). -/
def idleExit (h : Hw) : Hw :=
  { h with
    pwr := { h.pwr with idle := 0, quietSince := none }
    memctl := { h.memctl with selfRefresh := false } }

/-- What I2 does to the accumulators of an easel: those of a loaded context go to its save area and come back from it
at the exit, others are lost (R190, Table 15-3). -/
def accThroughI2 (h : Hw) (e : EaselId) : Hw :=
  if (h.easel e).loaded.isSome then saveAcc h e else h.modEasel e (fun x => { x with acc := AccSets.init })

/-- Enters an idle state: in I2 accumulators go to save areas, in I3 every loaded context is switched out and the
memories refresh themselves (Table 15-3). -/
def idleEnter (h : Hw) (i : BitVec 2) : Hw :=
  let h1 := { h with pwr := { h.pwr with idle := i } }
  if i = 3 then
    let h2 := (loadedOn h1 15).foldl switchOut h1
    { h2 with memctl := { h2.memctl with selfRefresh := true } }
  else if i = 2 then allEasels.foldl accThroughI2 h1
  else h1

/-- IDLE_ENTRY: quiet for hyst_us without a break, the module enters the deepest state that the tolerance
permits (R464). -/
def execIdleEntry (s : State) : Host.Outcome State Fault Refusal :=
  run s (fun h =>
    let i := deepestIdle (wfld (h.reg 0x70048) 0 32)
    match h.pwr.quietSince with
    | some t =>
      if !isQuiet h || decide (h.now < t + wfld (h.reg 0x70050) 0 24 * 1000) || decide (i ≤ h.pwr.idle) then h
      else idleEnter h i
    | none => h)

/-- IDLE_EXIT: an activity ends quietness and the idle state (R466). -/
def execIdleExit (cause : WakeCause) (s : State) : Host.Outcome State Fault Refusal :=
  match cause with
  | .doorbell | .bar2 | .command | .event | .signal | .timeout | .quantum | .remote | .snapshot | .ready =>
    run s idleExit

/-- Stores a tolerance; a state that it forbids is left at once (R464). -/
def writeLatTol (h : Hw) (tol : Word) : Hw :=
  let h1 := h.setReg 0x70048 (tol &&& 0xFFFFFFFF)
  if wfld tol 0 32 < exitBound h1.pwr.idle then idleExit h1 else h1

/-- Nothing has come that ends quietness: no packet for this module and no host request waits (R466). -/
def nothingCame (h : Hw) : Bool := h.rte.localq.isEmpty && h.hif.fns.all (fun p => p.2.waiting.isEmpty)

/-- Keeps the time since which the module has been quiet without a break; what ends quietness ends an idle state
(R464, R466). -/
def keepQuiet (h : Hw) : Hw :=
  if isQuiet h && nothingCame h then
    { h with pwr := { h.pwr with quietSince := some (h.pwr.quietSince.getD h.now) } }
  else if h.pwr.idle = 0 then { h with pwr := { h.pwr with quietSince := none } }
  else idleExit h

end Sys2Proof.Machine
end

