-- ==== Sys2Proof/Machine/Update.lean ====
section
/-! DEFINITION. Firmware update over the service port and activation (R522, R533–R544). -/

namespace Sys2Proof.Machine

/-! ### Service messages (R533, R534) -/

/-- FWU_ACT_STATUS (Table 17-9). -/
def actStatus (h : Hw) : Word :=
  put h.fwu.step.toNat 0 3 ||| put h.fwu.actError.toNat 8 8 ||| put h.fwu.ucodePending.toNat 16 4

/-- Answers STATUS with an error code (Table 17-4). -/
def answerStatus (h : Hw) (m : SvcHdr) (err : BitVec 8) : Hw :=
  h.emit (.service m.src 0x14 m.session
    (leBytes 1 (b2n h.fwu.session.isSome) ++ leBytes 1 err.toNat ++ leBytes 1 h.fwu.lastSlot.toNat ++ leBytes 1 0 ++
      leBytes 4 h.fwu.received ++ wBytes (actStatus h)))

/-- A message of the service protocol reaches firmware: its header is good and its length is that of the payload;
others are discarded silently. -/
def serve_ (h : Hw) (m : SvcHdr) (len : Nat) (eff : Hw → Hw) : Hw :=
  if h.pins.powered && h.bru.phase != 0 && m.magic == 0x5848 && m.version == 1 && m.len.toNat == len then eff h else h

/-- Update or activation refused or failed: event 0x245. -/
def refuseEvent (h : Hw) (err : BitVec 8) : Hw := raiseEv h 0x245 err.toNat []

/-- An activation is in progress (R536). -/
def activating (h : Hw) : Bool := decide (1 ≤ h.fwu.step.toNat ∧ h.fwu.step.toNat ≤ 4)

/-! ### Update sessions (R535, R536) -/

/-- Some component runs the slot. -/
def slotRuns (h : Hw) (i : BitVec 1) : Bool :=
  h.fwu.runIhlel == i || h.fwu.runRuntime == i || h.fwu.runSup0 == i || h.fwu.runSup1 == i ||
    h.fwu.runUcode != (if i = 1 then 0 else 0xF)

/-- ROM recovery mode (R545). -/
def romMode (h : Hw) : Bool := h.bru.phase == 9

/-- The target of an update. -/
def updTarget (h : Hw) : Option (BitVec 1) :=
  if romMode h then some 0
  else ([0, 1] : List (BitVec 1)).find? (fun i =>
    (h.slot i).state != 3 && (h.slot i).state != 4 && !slotRuns h i)

/-- The session ends and its slot becomes INVALID. -/
def endUpdate (h : Hw) (err : BitVec 8) : Hw :=
  match h.fwu.session with
  | some u =>
    let h1 := h.modSlot u.slot (fun s => { s with state := 5 })
    { h1 with fwu := { h1.fwu with session := none, error := err } }
  | none => h

/-- A UPD_BEGIN is refused: nothing is written to a slot that no session was writing. -/
def refuseBegin (h : Hw) (m : SvcHdr) (err : BitVec 8) : Hw :=
  let h1 := if h.fwu.session.isSome then endUpdate h err else { h with fwu := { h.fwu with error := err } }
  answerStatus (refuseEvent h1 err) m err

/-- UPD_BEGIN (R535, R536). -/
def beginUpdate (h : Hw) (m : SvcHdr) (header : Bytes) : Hw :=
  if h.fwu.session.any (fun u => u.id != m.session) || activating h then answerStatus (refuseEvent h 1) m 1
  else if !bit (h.reg 0xB0038) 0 && !romMode h then refuseBegin h m 2
  else
    let target := match h.fwu.session with
      | some u => some u.slot
      | none => updTarget h
    match target with
    | none => refuseBegin h m 0x10
    | some i =>
      let err := headerError h header
      if err ≠ 0 then refuseBegin h m err
      else
        let h1 := h.modSlot i (fun _ => { FwSlot.init with state := 1, header := header })
        answerStatus { h1 with fwu := { h1.fwu with
          session := some { id := m.session, slot := i, bodyLen := leNat (sub header 16 4), last := h.now }
          lastSlot := i, received := 0, error := 0 } } m 0

/-- UPD_BEGIN (R535). -/
def execUpdBegin (m : SvcHdr) (header : Bytes) (s : State) : Host.Outcome State Fault Refusal :=
  run s (fun h => serve_ h m header.length (fun h => beginUpdate h m header))

/-- The session that a message belongs to. -/
def sessionOf (h : Hw) (m : SvcHdr) : Option UpdSession := h.fwu.session.filter (fun u => u.id == m.session)

/-- UPD_DATA: the next body bytes are written; any other offset or length is dropped and answered (R535). -/
def execUpdData (m : SvcHdr) (off : BitVec 32) (data : Bytes) (flashOk : Bool) (s : State) :
    Host.Outcome State Fault Refusal :=
  run s (fun h => serve_ h m (4 + data.length) (fun h =>
    match sessionOf h m with
    | none => answerStatus h m h.fwu.error
    | some u =>
      let h0 := { h with fwu := { h.fwu with session := some { u with last := h.now } } }
      if off.toNat ≠ h.fwu.received ∨ data.length ≠ Nat.min 1024 (u.bodyLen - h.fwu.received) ∨ data.length = 0 then
        answerStatus h0 m h.fwu.error
      else if !flashOk then answerStatus (refuseEvent (endUpdate h0 0x0A) 0x0A) m 0x0A
      else
        let n := h.fwu.received + data.length
        let h1 := h0.modSlot u.slot (fun x => { x with body := x.body ++ data })
        let h2 := { h1 with fwu := { h1.fwu with received := n } }
        if n / 65536 ≠ h.fwu.received / 65536 then answerStatus h2 m h.fwu.error else h2))

/-- Slot 0 is VALID in ROM recovery mode: the ROM marks it TRIAL and boots it from phase 1 (R545). -/
def romBoot (h : Hw) : Hw :=
  if romMode h then
    let h1 := h.modSlot 0 (fun s => { s with state := 4, trialUsed := false })
    { h1 with bru := { h1.bru with phase := 1, error := 0, failUnit := 0 } }
  else h

/-- UPD_END: the slot is read back and hashed; on a match it becomes VALID, with event 0x244 (R535). -/
def execUpdEnd (m : SvcHdr) (readBack : Bool) (s : State) : Host.Outcome State Fault Refusal :=
  run s (fun h => serve_ h m 0 (fun h =>
    match sessionOf h m with
    | none => answerStatus h m h.fwu.error
    | some u =>
      if h.fwu.received < u.bodyLen then
        answerStatus { h with fwu := { h.fwu with session := some { u with last := h.now } } } m 3
      else if readBack && bodyOk (h.slot u.slot).header (h.slot u.slot).body then
        let h1 := h.modSlot u.slot (fun x => { x with state := 2 })
        let h2 := { h1 with fwu := { h1.fwu with session := none, error := 0 } }
        answerStatus (romBoot (raiseEv h2 0x244 u.slot.toNat [])) m 0
      else answerStatus (refuseEvent (endUpdate h 9) 9) m 9))

/-- UPD_ABORT: ends the session, or withdraws a trial where none is open (R535, R536). -/
def execUpdAbort (m : SvcHdr) (s : State) : Host.Outcome State Fault Refusal :=
  run s (fun h => serve_ h m 0 (fun h =>
    match h.fwu.session with
    | some u => if u.id = m.session then answerStatus (endUpdate h 0) m 0 else answerStatus h m h.fwu.error
    | none =>
      match slotIn h 4 with
      | some t => answerStatus (refuseEvent (h.modSlot t (fun x => { x with state := 2, trialUsed := false })) 0) m 0
      | none => answerStatus h m h.fwu.error))

/-- QUERY (R534). -/
def execQuery (m : SvcHdr) (s : State) : Host.Outcome State Fault Refusal :=
  run s (fun h => serve_ h m 0 (fun h => answerStatus h m h.fwu.error))

/-- UPD_SESSION_TIMEOUT: 10 s without a message (R535). -/
def execUpdSessionTimeout (s : State) : Host.Outcome State Fault Refusal :=
  run s (fun h =>
    match h.fwu.session with
    | some u => if u.last + 10000000000 ≤ h.now then refuseEvent (endUpdate h 0x0B) 0x0B else h
    | none => h)

/-! ### Security floors (R522) -/

/-- Raises both floors to the versions of the ACTIVE slot, which must be running in a ready module; the flag tells
whether it did. -/
def raiseFloors (h : Hw) : Hw × Bool :=
  match slotIn h 3 with
  | none => (refuseEvent h 0x10, false)
  | some i =>
    if !h.bru.ready || h.fwu.runRuntime != i then (refuseEvent h 0x10, false)
    else
      let r := Nat.max h.fwu.floorR.toNat (h.slot i).rsvn
      let v := Nat.max h.fwu.floorI.toNat (h.slot i).isvn
      let low := fun (s : FwSlot) => if s.state = 2 ∧ (s.rsvn < r ∨ s.isvn < v) then { s with state := (5 : BitVec 3) } else s
      ({ h with fwu := { h.fwu with
        floorR := BitVec.ofNat 16 r, floorI := BitVec.ofNat 16 v
        slot0 := low h.fwu.slot0, slot1 := low h.fwu.slot1 } }, true)

/-- RAISE_FLOOR by a service message (R522). -/
def execRaiseFloor (m : SvcHdr) (s : State) : Host.Outcome State Fault Refusal :=
  run s (fun h => serve_ h m 0 (fun h =>
    let r := raiseFloors h
    answerStatus r.1 m (if r.2 then 0 else 0x10)))

/-! ### Activation (R537–R539) -/

/-- The activation fails with an error and event 0x245. -/
def failActivation (h : Hw) (err : BitVec 8) : Hw :=
  refuseEvent { h with fwu := { h.fwu with step := 0, actError := err, supStage := 0 } } err

/-- The major release of a slot. -/
def FwSlot.major (s : FwSlot) : Nat := leNat (sub s.header 8 1)

/-- The running runtime can produce a handover record of a version: of its own, and of another as a free value
says. -/
def canHandOver (h : Hw) (i : BitVec 1) : Bool :=
  compat (h.slot i).body 2 == compat (runSlot h).body 2 || bit h.freeWord 0

/-- Why an activation is refused (R536–R538); 0 where it is accepted. -/
def activateError (h : Hw) (slot mode : Nat) : BitVec 8 :=
  if activating h || (mode == 1 && !h.bru.ready) then 1
  else if 1 < slot ∨ 1 < mode then 3
  else if (h.slot (BitVec.ofNat 1 slot)).state ≠ 2 then 0x10
  else if mode = 0 then (if (slotIn h 4).isSome then 0x10 else 0)
  else if !bit (h.reg 0xB0038) 1 then 2
  else if (h.slot (BitVec.ofNat 1 slot)).major ≠ (runSlot h).major then 0x0C
  else if !canHandOver h (BitVec.ofNat 1 slot) then 0x0D
  else 0

/-- A request of activation: a slot becomes TRIAL, or a live activation waits for a quiescent point. -/
def requestActivation (h0 : Hw) (slot mode : Nat) : Hw × BitVec 8 :=
  let err := activateError h0 slot mode
  let h := h0.useFree
  let i := BitVec.ofNat 1 slot
  if err = 1 then (refuseEvent h 1, 1)
  else if err ≠ 0 then (failActivation h err, err)
  else if mode = 0 then
    let h1 := h.modSlot i (fun s => { s with state := 4, trialUsed := false })
    ({ h1 with fwu := { h1.fwu with actSlot := i, step := 5, actError := 0 } }, 0)
  else
    ({ h with fwu := { h.fwu with actSlot := i, step := 1, actError := 0, deadline := h.now + 100000000 } }, 0)

/-- ACTIVATE by a service message (R537). -/
def execActivate (m : SvcHdr) (slot : BitVec 8) (mode : BitVec 8) (s : State) : Host.Outcome State Fault Refusal :=
  run s (fun h => serve_ h m 2 (fun h =>
    let r := requestActivation h slot.toNat mode.toNat
    answerStatus r.1 m r.2))

/-! ### The runtime handover (R539–R541) -/

/-- A quiescent point: no capture, recovery, image copy or key installation in progress (R539). -/
def quiescent (h : Hw) : Bool :=
  h.flt.recoveries.isEmpty && h.flt.captures.all (fun c => !c.isOpen) &&
    h.hif.fns.all (fun p => p.2.inProgress.all (fun r => !([0x13, 0x21, 0x23].contains r.cmd.op)))

/-- HANDOVER_QUIESCENT: command intake pauses, and the old image writes the handover record and its flag (R264,
R539, R540). -/
def execHandoverQuiescent (s : State) : Host.Outcome State Fault Refusal :=
  run s (fun h =>
    if h.fwu.step = 1 && quiescent h then { h with fwu := { h.fwu with step := 2, paused := true } } else h)

/-- The microcode of the new image is staged: every partition that has easels takes it at its next switch (R543). -/
def stageUcode (h : Hw) : Hw :=
  let parts := (List.range 4).filter (fun p => h.bru.enabled.any (fun e => (partOf e).val == p))
  let due : BitVec 4 := parts.foldl (fun m p => m ||| (1#4 <<< p)) 0
  let h1 := { h with fwu := { h.fwu with
    runUcode := if h.fwu.actSlot = 1 then h.fwu.runUcode ||| ~~~due else h.fwu.runUcode &&& due
    ucodePending := due, step := if due = 0 then 5 else 4, supStage := 0 } }
  if due = 0 then raiseEv h1 0x248 h.fwu.actSlot.toNat [] else h1

/-- The new runtime runs: the slot becomes ACTIVE and the former ACTIVE slot VALID, the sets of cores change, SPDM
sessions end, event 0x246; then the supervisors follow, or the microcode (R537, R539, R542). -/
def handOver (h : Hw) : Hw :=
  let i := h.fwu.actSlot
  let old := runSlot h
  let h1 := (h.modSlot (1 - i) (fun s => if s.state = 3 then { s with state := 2 } else s)).modSlot i
    (fun s => { s with state := 3 })
  let h2 := migrate { h1 with fwu := { h1.fwu with runRuntime := i, cpSet := !h1.fwu.cpSet, paused := false } }
  let h3 := raiseEv (endSessions h2) 0x246 i.toNat []
  if compat (h3.slot i).body 3 == compat old.body 3 then
    { h3 with fwu := { h3.fwu with step := 3, supStage := 1 } }
  else stageUcode h3

/-- HANDOVER_RECORD_READ: the new image takes the record or refuses it (R541). -/
def execHandoverRecordRead (accept : Bool) (s : State) : Host.Outcome State Fault Refusal :=
  run s (fun h =>
    if !h.fwu.paused then h
    else if accept then handOver h
    else failActivation { h with fwu := { h.fwu with paused := false } } 0x0D)

/-- ACTIVATION_QUIESCE_TIMEOUT: no quiescent point within 100 ms (R539). -/
def execActivationQuiesceTimeout (s : State) : Host.Outcome State Fault Refusal :=
  run s (fun h => if h.fwu.step = 1 && decide (h.fwu.deadline ≤ h.now) then failActivation h 0x0E else h)

/-! ### Supervisors (R542) -/

/-- The standby supervisor. -/
def standby (h : Hw) : Option (Fin 2) := h.sup.holder.map otherSup

def setSupImage (h : Hw) (i : Fin 2) (slot : BitVec 1) : Hw :=
  { h with fwu := if i = 0 then { h.fwu with runSup0 := slot } else { h.fwu with runSup1 := slot } }

/-- Restarts the standby on the new image. -/
def restartOnNew (h : Hw) (i : Fin 2) (stage : Nat) : Hw :=
  let h1 := restartSup (setSupImage h i h.fwu.actSlot) i
  { h1 with fwu := { h1.fwu with supStage := stage } }

/-- SUPERVISOR_UPDATE: the next step of R542 that can be taken: the standby restarts on the new image, SUP_SWAP
runs once it is synchronised, the new standby restarts, and once it too is synchronised event 0x247. -/
def execSupervisorUpdate (s : State) : Host.Outcome State Fault Refusal :=
  run s (fun h =>
    match standby h with
    | none => h
    | some b =>
      let x := h.supOf b
      match h.fwu.supStage with
      | 1 => restartOnNew h b 2
      | 2 =>
        if !x.synced then h
        else
          let h1 := requestSwap h b
          { h1 with fwu := { h1.fwu with supStage := if (h1.supOf b).swapError = 0 then 3 else 2 } }
      | 3 => if h.sup.swapPending then h else restartOnNew h b 4
      | 4 => if x.synced then stageUcode (raiseEv h 0x247 h.fwu.actSlot.toNat []) else h
      | _ => h)

/-- SUPERVISOR_SYNC_TIMEOUT: a supervisor restarted on the new image does not synchronise within 10 ms: it restarts
on the old image and the activation ends with 0x0F (R542). -/
def execSupervisorSyncTimeout (i : Fin 2) (s : State) : Host.Outcome State Fault Refusal :=
  run s (fun h =>
    let x := h.supOf i
    let late := x.restartAt.any (fun t => decide (t + 10000000 ≤ h.now))
    if (h.fwu.supStage = 2 || h.fwu.supStage = 4) && standby h == some i && !x.synced && late then
      failActivation (restartSup (setSupImage h i (1 - h.fwu.actSlot)) i) 0x0F
    else h)

end Sys2Proof.Machine
end

