-- ==== Sys2Proof/Machine/Views.lean ====
section
/-! DEFINITION. What a read of each register returns: the register tables of the manual, field by field.  A
register that no table gives reads zero (R9). -/

namespace Sys2Proof.Machine

/-! ### Parts -/

/-- The 64 bits of word `k` of a set of easels (R547). -/
def easelBits (l : List EaselId) (k : Nat) : Word :=
  l.foldl (fun w e => if e.val / 64 = k then w ||| bitw true (e.val % 64) else w) 0

/-- Number of an array element at an offset. -/
def elemAt (o base stride : Nat) : Nat := (o - base) / stride

/-- A temperature as an unsigned byte. -/
def tempByte (t : Int) : Nat := Nat.min t.toNat 255

/-- Highest reading of the sensors that have not failed; 0 where there is none. -/
def hottest (l : List Sensor) : Int := ((l.filter (fun x => !x.failed)).map (·.reading)).foldl max 0

/-- COMMIT (Table 1-9). -/
def commitWord (c : BlkCommit) : Word :=
  bitw c.pend 3 ||| bitw c.busy 4 ||| bitw c.locked 5 ||| put c.error.toNat 8 8 ||| put c.seq.toNat 16 16

/-- The state codes that RTE_EPOCH_STATUS counts: flits of an epoch's packets in the router. -/
def epochFlits (h : Hw) (ep : Bool) : Nat :=
  let held := h.rte.inq ++ h.ports.flatMap (fun p => p.2.txCur.toList ++ p.2.txq)
  Nat.min (((held.filter (fun q => q.pkt.hdr.epoch == ep)).map (fun q => cdiv (wireLen q.pkt.hdr) 240)).foldl (· + ·) 0)
    0xFFFF

/-! ### Blocks -/

/-- EASEL_ (Table 3-13); `pf` is set where the PF reads. -/
def viewEasel (h : Hw) (pf : Bool) (e : EaselId) (o : Nat) : Word :=
  let x := h.easel e
  if inArr o 0x38 8 3 then h.breg (.easel e) o
  else if !h.bru.enabled.contains e then 0
  else
    let hidden := pf && x.loaded.any (fun c => (h.ctx c).conf)
    if o = 0x10 then
      bitw true 0 ||| bitw (h.bru.fenced.contains e) 1 ||| bitw x.loaded.isSome 2 ||| bitw x.service 3 |||
        put ((x.loaded.map (·.val)).getD 0) 4 6 ||| put x.clockMhz 16 12 ||| put (easelF h e) 28 7
    else if o = 0x18 then (match x.loaded with
      | some c => if hidden then 0 else csQstat x c
      | none => 0)
    else if o = 0x20 then if hidden || x.loaded.isNone then 0 else x.core.serial
    else if o = 0x28 then bitw x.katPass 0 ||| bitw x.katValid 1 ||| put (Nat.min x.katFails 255) 8 8
    else if o = 0x30 then BitVec.ofNat 64 x.katTime
    else if o = 0x50 then put x.fenceClass.toNat 0 8 ||| bitw x.fenceValid 63
    else 0

/-- Canvas sensors of a die, and of one of its layers. -/
def layerSensors (h : Hw) (d l : Nat) : List Sensor :=
  (List.range 4).map (fun k => h.canvasSensor (16 * d + 4 * l + k))

/-- CNV_ (Table 5-3). -/
def viewCnv (h : Hw) (d : Fin 2) (o : Nat) : Word :=
  if o = 0x10 then
    bitw (h.memctl.canvasReady.getLsbD d.val) 0 ||| bitw (h.memctl.refresh2x.getLsbD d.val) 1 |||
      bitw (h.memctl.sensorFail.getLsbD d.val) 2 ||| put (tempByte (hottest (dieSensors h d))) 8 8
  else if o = 0x58 then
    (List.range 4).foldl (fun w l => w ||| put (tempByte (hottest (layerSensors h d.val l))) (8 * l) 8) 0
  else h.breg (.cnv d) o

/-- Highest temperature read of the packages of an I/O die. -/
def lpTempMax (h : Hw) (ps : List Nat) : Nat := (ps.map (fun p => SMap.get 0 h.memctl.pkgTemp p)).foldl Nat.max 0

/-- LPM_ (Table 5-4). -/
def viewLpm (h : Hw) (i : Fin 2) (o : Nat) : Word :=
  if o = 0x10 then
    bitw (h.memctl.trained.getLsbD i.val) 0 ||| bitw h.memctl.rate128 1 ||| bitw (h.memctl.zeroed.getLsbD i.val) 2 |||
      put (lpTempMax h ((List.range 12).map (· + 12 * i.val))) 8 8
  else if o = 0x18 then put (h.memctl.chUp.toNat / 2 ^ (48 * i.val)) 0 48
  else h.breg (.lpm i) o

/-- GLZ_ (Table 6-7). -/
def viewGlz (h : Hw) (i : Fin 2) (o : Nat) : Word :=
  if inArr o 0x200 8 32 then glzStatus (h.gslot (Fin.ofNat 64 (32 * i.val + elemAt o 0x200 8)))
  else h.breg (.glz i) o

/-- SKT_ (Table 7-3). -/
def viewSkt (h : Hw) (p : PartId) (o : Nat) : Word :=
  let n := fun (l : List SketchSlot) => (l.filter (fun s => s.part == p)).length
  if o = 0x18 then put (n h.sk.slots) 0 23 ||| put (n h.mem.unfolded + n h.sk.toZero) 32 23
  else if inArr o 0x300 8 64 then
    put ((h.sk.slots.filter (fun s => s.part == p && s.ctx.val == elemAt o 0x300 8)).length) 0 23
  else h.breg (.skt p) o

/-- SYN_ (Table 9-7). -/
def viewSyn (h : Hw) (i : Fin 2) (o : Nat) : Word :=
  if o = 0x38 then put (Nat.min (pendingWaits h i) 4096) 0 13
  else if inArr o 0x10000 8 16384 then h.obj (.mod (Fin.ofNat 32768 (16384 * i.val + elemAt o 0x10000 8)))
  else h.breg (.syn i) o

/-- ERR_ (Table 10-8). -/
def viewErr (h : Hw) (i : PortId) (o : Nat) : Word :=
  if o = 0x10 then
    let p := h.port i
    put p.state.toNat 0 3 ||| put p.lanes.toNat 4 8 ||| put p.partnerFa.toNat 16 10 |||
      put p.partnerPort.toNat 26 4 ||| bitw p.partnerValid 30
  else h.breg (.err i) o

/-- FTC_ (Table 10-9); the error bound in whole nanoseconds, rounded up. -/
def viewFtc (h : Hw) (o : Nat) : Word :=
  if o = 0x10 then BitVec.ofNat 64 h.ftcNow
  else if o = 0x28 then
    bitw h.ftc.synced 0 ||| bitw h.ftc.holdover 1 ||| bitw h.ftc.onAlt 2 |||
      put (Nat.min (cdiv (errBoundQ h) 4) 0xFFFF) 16 16 ||| put (wrapInt 32 h.ftc.offsetQ) 32 32
  else if o = 0x48 then bitw h.ftc.snapArmed 0 ||| (h.breg .ftc o &&& 6)
  else h.breg .ftc o

/-- Four counts of the congestion map (R355). -/
def cmapWord (h : Hw) (o : Nat) : Word :=
  (List.range 4).foldl (fun w j =>
    let i := (o - 0x100000) / 2 + j
    w ||| put (SMap.get 0 (SMap.get [] h.rte.cmap (i / 1536)) (i % 1536)) (16 * j) 16) 0

/-- RTE_ (Table 11-5). -/
def viewRte (h : Hw) (o : Nat) : Word :=
  if o = 0x10 then put h.rte.pos.toNat 0 6 ||| (h.breg .rte o &&& 0x3C0) ||| put h.fa 10 10
  else if o = 0x20 then put (epochFlits h false) 0 16 ||| put (epochFlits h true) 16 16
  else if o = 0x60 then put h.rte.cmapNewest.toNat 0 6 ||| bitw h.rte.cmapValid 6
  else if o = 0x68 then BitVec.ofNat 64 h.rte.cmapTime
  else if inArr o 0x100000 8 24576 then cmapWord h o
  else h.breg .rte o

/-- COL_ (Table 12-9). -/
def viewCol (h : Hw) (o : Nat) : Word :=
  if o = 0x10 then put h.col.slots.length 0 7 ||| put h.col.held.length 8 12
  else if inArr o 0x300 8 64 then
    let g := elemAt o 0x300 8
    if bit (groupReg h g) 32 then put (ownRank h g) 0 10 ||| put (groupDigest h g).toNat 32 32 else 0
  else if inArr o 0x500 8 64 then put (SMap.get 0 h.col.seqs (elemAt o 0x500 8)) 0 32
  else h.breg .col o

/-- HIF_ (Table 13-10). -/
def viewHif (h : Hw) (f : FnId) (o : Nat) : Word :=
  let x := h.fn f
  if o = 0x10 then
    let l := h.hif.link
    let own := put f.val 0 6 ||| bitw (h.tdi f == 1 || h.tdi f == 2) 6
    if f = 0 then own ||| put l.gen.toNat 7 3 ||| put l.width.toNat 10 5 ||| bitw l.flit 15 else own
  else if o = 0x28 then put x.head.toNat 0 17 ||| bitw x.running 17 ||| put x.error.toNat 24 8
  else if o = 0x40 then put x.cplTail.toNat 0 17 ||| bitw x.cplPhase 17 ||| put x.cplError.toNat 24 8
  else if o = 0x58 then put x.evrTail.toNat 0 17 ||| bitw x.evrPhase 17 ||| put x.evrError.toNat 24 8
  else h.breg (.hif f) o

/-- EVC_ (Table 13-11). -/
def viewEvc (h : Hw) (o : Nat) : Word :=
  if o = 0x18 then put h.evc.queue.length 0 9
  else if inArr o 0x300 8 4 then h.breg .evc o ||| bitw (h.evc.level.getLsbD (elemAt o 0x300 8)) 16
  else if inArr o 0x1000 8 1024 then
    let s := elemAt o 0x1000 8
    put (SMap.get 0 h.evc.count s) 0 22 ||| put (SMap.get 0 h.evc.payload s).toNat 32 32
  else h.breg .evc o

/-- CTX_ (Table 14-14); of a context in gesso only its state shows (R429). -/
def viewCtx (h : Hw) (pf : Bool) (o : Nat) : Word :=
  if o = 0x10 then
    put (allCtx.filter (fun c => (h.ctx c).state != 0)).length 0 7 |||
      put (allCtx.filter (fun c => (h.ctx c).state == 7)).length 8 7 |||
      put (h.ctxs.owner.filter (fun p => p.2 == .zeroing)).length 16 19
  else if inArr o 0x100 8 64 then
    let x := h.ctx (Fin.ofNat 64 (elemAt o 0x100 8))
    if x.state = 0 then 0
    else if x.state = 7 then put 7 0 3
    else put x.state.toNat 0 3 ||| bitw x.conf 3 ||| put x.mask.toNat 4 4 ||| put x.fn.val 8 6 |||
      put x.job.toNat 16 16 ||| put x.prio.toNat 32 3
  else if inArr o 0x1000 8 1024 then
    let k := elemAt o 0x1000 8
    if pf && (h.ctx (Fin.ofNat 64 (k / 16))).conf then 0 else BitVec.ofNat 64 (SMap.get 0 h.ctxs.perf k)
  else 0

/-- SEC_ (Table 14-15). -/
def viewSec (h : Hw) (o : Nat) : Word :=
  if o = 0x10 then
    bitw h.sec.ready 0 ||| bitw h.sec.udsLocked 1 ||| put (b2n h.pins.variant1800) 8 8 |||
      (if h.sec.ready then put (h.slot h.fwu.runIhlel).isvn 16 16 ||| put (h.slot h.fwu.runRuntime).rsvn 32 16 else 0)
  else if inArr o 0x18 8 4 then bWord (sub (sha3 (Config.mldsaPublic deviceSeed)) (o - 0x18) 8)
  else if o = 0x38 then put h.sec.wkeys.length 0 8 ||| put h.sec.jobKeys.length 8 7
  else if inArr o 0x100 8 128 then
    (match SMap.find h.sec.wkeys (elemAt o 0x100 8) with
      | some k => put k.1.val 0 6 ||| bitw true 6
      | none => 0)
  else if inArr o 0x500 8 64 then
    (match SMap.find h.sec.jobKeys (elemAt o 0x500 8) with
      | some k => put k.id.toNat 0 16 ||| put k.job.toNat 16 16 ||| bitw true 32 ||| bitw k.send 33
      | none => 0)
  else h.breg .sec o

/-- Entry `i` of the throttle log (R461). -/
def tlogAt (h : Hw) (i : Nat) : TLog :=
  (h.pwr.tlog[(h.pwr.tlogNewest.toNat + 64 - i) % 64]?).getD { start := 0, duration := 0, fMin := 0, cause := 0 }

/-- Supply readings as TRY_POWER and PWR_MEAS hold them. -/
def tenthsWord (p vin : Nat) : Word := put (Nat.min p 0xFFFF) 0 16 ||| put vin 16 16

/-- PWR_ (Table 15-6). -/
def viewPwr (h : Hw) (o : Nat) : Word :=
  if o = 0x10 then
    put (variantW h) 0 12 ||| put (variantW h * 12 / 10) 12 12 ||| put (fPwr h) 24 7 ||| bitw h.pwr.thrOpen 31 |||
      put h.pwr.target 32 12 ||| bitw (decide (2100 < h.pwr.target)) 44 ||| bitw (clamped h) 45
  else if o = 0x58 then put h.pwr.idle.toNat 0 2
  else if o = 0x60 then tenthsWord ((h.pwr.measWin.head?.map (·.p)).getD 0) h.pwr.vinMv ||| put h.pwr.iin10ma 32 16
  else if o = 0x68 then
    put (Nat.min h.pwr.est 0xFFFF) 0 16 ||| put h.pwr.gain 16 16 ||| put (Nat.min h.pwr.me 0xFFFF) 32 16
  else if o = 0x70 then BitVec.ofNat 64 (h.pwr.energy / 1000000)
  else if o = 0x90 then put h.pwr.tlogNewest.toNat 0 6 ||| bitw (!h.pwr.tlog.isEmpty) 6
  else if inArr o 0x100 16 64 then BitVec.ofNat 64 (tlogAt h (elemAt o 0x100 16)).start
  else if inArr o 0x108 16 64 then
    let t := tlogAt h (elemAt o 0x108 16)
    put t.duration 0 40 ||| put t.fMin 40 7 ||| put t.cause.toNat 48 8
  else h.breg .pwr o

/-- Junction sensors. -/
def junctions (h : Hw) : List Sensor := (List.range 48).map h.zone

/-- THM_ (Table 15-7). -/
def viewThm (h : Hw) (o : Nat) : Word :=
  if o = 0x10 then
    put (tempByte (hottest (junctions h))) 0 8 ||| put (failedSensors h) 8 6 ||| bitw h.thm.fallback 14
  else if o = 0x20 then put (wrapInt 12 h.thm.inlet) 0 12 ||| put (wrapInt 12 h.thm.outlet) 16 12
  else if o = 0x28 then put (leakWord h) 0 4 ||| bitw h.pins.leakOut 4
  else if inArr o 0x100 8 48 then
    let x := h.zone (elemAt o 0x100 8)
    put (wrapInt 8 x.reading) 0 8 ||| put (wrapInt 8 (x.model / 1000000)) 8 8 ||| bitw x.failed 16 ||| put x.fthm 17 7
  else if inArr o 0x300 8 32 then
    let x := h.canvasSensor (elemAt o 0x300 8)
    put (wrapInt 8 x.reading) 0 8 ||| bitw x.failed 8
  else h.breg .thm o

/-- SUP_ (Table 15-8). -/
def viewSup (h : Hw) (i : Fin 2) (o : Nat) : Word :=
  let x := h.supOf i
  if o = 0x10 then
    bitw (h.sup.holder == some i) 0 ||| bitw x.synced 1 ||| bitw x.suspect 2 ||| bitw x.scFail 3 |||
      put (Nat.min h.sup.diverge 3) 4 2 ||| put x.swapError.toNat 8 8
  else if o = 0x38 then BitVec.ofNat 64 x.lastSwitch
  else h.breg (.sup i) o

/-- Version of the settings record in force (Table 17-7). -/
def settingsVersion (h : Hw) : BitVec 16 :=
  if h.bru.defaulted then schemaOf (runSlot h).body else ((settingsNow h.bru).map (·.version)).getD 0

/-- Byte `j` of BRU_LOGMAP_n (R526). -/
def logmapByte (h : Hw) (i : Nat) : Nat :=
  if h.bru.numbering then ((h.bru.logmap[i]?).map (·.val)).getD 0xFF else 0xFF

/-- BRU_ (Table 17-7). -/
def viewBru (h : Hw) (o : Nat) : Word :=
  let b := h.bru
  if o = 0x10 then
    let en := fun (p : Nat) => (b.enabled.filter (fun e => e.val / 52 == p)).length
    put b.phase.toNat 0 4 ||| bitw b.ready 4 ||| bitw b.defaulted 5 ||| put b.error.toNat 8 8 |||
      put b.bootSlot.toNat 16 1 ||| put (en 0) 24 6 ||| put (en 1) 30 6 ||| put (en 2) 36 6 ||| put (en 3) 42 6 |||
      put b.enabled.length 48 8
  else if o = 0x18 then put b.failUnit.toNat 0 8
  else if o = 0x20 then BitVec.ofNat 64 b.bootNs
  else if o = 0x28 then
    (h.breg .bru o &&& 7) ||| bitw b.numbering 8 ||| bitw b.policy 9 ||| put (settingsVersion h).toNat 16 16
  else if inArr o 0x100 8 4 then easelBits b.enabled (elemAt o 0x100 8)
  else if inArr o 0x120 8 4 then easelBits b.fused (elemAt o 0x120 8)
  else if inArr o 0x140 8 4 then easelBits b.field (elemAt o 0x140 8)
  else if inArr o 0x160 8 4 then easelBits b.fenced (elemAt o 0x160 8)
  else if inArr o 0x200 8 26 then
    (List.range 8).foldl (fun w j => w ||| put (logmapByte h (8 * elemAt o 0x200 8 + j)) (8 * j) 8) 0
  else if inArr o 0x400 8 32 then
    h.breg .bru o ||| put (SMap.get 0 b.repair (elemAt o 0x400 8)).toNat 48 2
  else h.breg .bru o

/-- FWU_SLOT_n (Table 17-9). -/
def slotWord (s : FwSlot) : Word :=
  put s.state.toNat 0 3 ||| bitw s.trialUsed 3 ||| put s.failCount.toNat 4 2 ||| put (leNat (sub s.header 8 2)) 8 16 |||
    put s.rsvn 32 16 ||| put s.isvn 48 16

/-- FWU_ (Table 17-9). -/
def viewFwu (h : Hw) (o : Nat) : Word :=
  let u := h.fwu
  if o = 0x10 then
    put (b2n u.session.isSome) 0 2 ||| put u.lastSlot.toNat 2 1 ||| put u.error.toNat 8 8 ||| put u.received 16 27
  else if inArr o 0x18 8 2 then slotWord (h.slot (BitVec.ofNat 1 (elemAt o 0x18 8)))
  else if inArr o 0x28 8 2 then put (leNat (sub (h.slot (BitVec.ofNat 1 (elemAt o 0x28 8))).header 10 2)) 0 16
  else if o = 0x48 then actStatus h
  else if o = 0x50 then put u.floorR.toNat 0 16 ||| put u.floorI.toNat 16 16
  else if o = 0x60 then
    put u.runIhlel.toNat 0 1 ||| put u.runRuntime.toNat 1 1 ||| put u.runSup0.toNat 2 1 ||| put u.runSup1.toNat 3 1 |||
      put u.runUcode.toNat 4 4 ||| bitw u.cpSet 8
  else h.breg .fwu o

/-- TRY_STATUS (Table 18-7). -/
def tryStatus (h : Hw) : Word :=
  bitw h.bru.ready 0 ||| bitw h.pins.fault 1 ||| bitw h.pins.thermtrip 2 ||| bitw h.pins.leakOut 3 |||
    bitw h.tray.pcRequest 4 ||| bitw h.tray.refclkMissing 5 ||| put h.bru.phase.toNat 8 4

/-- TRY_POWER: the mean of the last 100 samples, input voltage, inlet and outlet. -/
def tryPower (h : Hw) : Word :=
  tenthsWord (meanSample h.pwr.measWin 100).p h.pwr.vinMv ||| put (wrapInt 16 h.thm.inlet) 32 16 |||
    put (wrapInt 16 h.thm.outlet) 48 16

/-- TRY_TEMP. -/
def tryTemp (h : Hw) : Word :=
  put (tempByte (hottest (junctions h))) 0 8 |||
    put (tempByte (hottest ((List.range 32).map h.canvasSensor))) 8 8 ||| put (lpTempMax h (List.range 24)) 16 8

/-- An empty telemetry record. -/
def Telem.init : Telem := { ftc := 0, power := 0, temps := 0, fMin := 0, throttled := false, flags := 0 }

/-- Word `k` of a telemetry record. -/
def telemWord (t : Telem) (k : Nat) : Word :=
  match k with
  | 0 => BitVec.ofNat 64 t.ftc
  | 1 => t.power
  | 2 => t.temps
  | _ => put t.fMin 0 7 ||| bitw t.throttled 7 ||| put t.flags.toNat 8 8

/-- TRY_ (Table 18-7). -/
def viewTray (h : Hw) (o : Nat) : Word :=
  if o = 0x10 then tryStatus h
  else if o = 0x20 then tryPower h
  else if o = 0x28 then tryTemp h
  else if o = 0x30 then
    put h.tray.newest.toNat 0 6 ||| bitw h.tray.valid 6 ||| (h.breg .tray o &&& 0xFFFFFFFF00000000)
  else if inArr o 0x48 8 2 then Config.serialWord (elemAt o 0x48 8)
  else if o = 0x58 then put (b2n h.pins.variant1800) 0 8 ||| put Config.siRev.toNat 8 8 ||| put Config.mac.toNat 16 48
  else if o = 0x60 then put h.tray.hours 0 32 ||| put h.tray.boots 32 32
  else if o = 0x68 then put Config.mfgDate.toNat 0 32
  else if inArr o 0x70 8 4 then easelBits h.bru.field (elemAt o 0x70 8)
  else if inArr o 0x100 8 256 then
    telemWord (SMap.get Telem.init h.tray.telem (elemAt o 0x100 32)) ((o - 0x100) % 32 / 8)
  else h.breg .tray o

/-- The block is that of a disabled easel, which shows its BLOCK_ID and its counters alone (R117). -/
def offEasel (h : Hw) : BlockId → Bool
  | .easel e => !h.bru.enabled.contains e
  | _ => false

/-- The register at an inner offset of a block, as the PF (`pf`) or another agent reads it. -/
def viewReg (h : Hw) (pf : Bool) (b : BlockId) (o : Nat) : Word :=
  if o = 0 then blockIdWord b
  else if o = 8 then (if offEasel h b then 0 else commitWord (h.blk b))
  else match b with
    | .hif f => viewHif h f o
    | .evc => viewEvc h o
    | .ctx => viewCtx h pf o
    | .sec => viewSec h o
    | .pwr => viewPwr h o
    | .thm => viewThm h o
    | .sup i => viewSup h i o
    | .bru => viewBru h o
    | .fwu => viewFwu h o
    | .tray => viewTray h o
    | .ftc => viewFtc h o
    | .cnv i => viewCnv h i o
    | .lpm i => viewLpm h i o
    | .glz i => viewGlz h i o
    | .skt i => viewSkt h i o
    | .col => viewCol h o
    | .err i => viewErr h i o
    | .syn i => viewSyn h i o
    | .rte => viewRte h o
    | .easel e => viewEasel h pf e o

end Sys2Proof.Machine
end

