-- ==== Sys2Proof/Machine/Regs.lean ====
section
/-! DEFINITION. Register access: who reaches a register, what a write does, the staged commit (R34–R42) and the
latches of split accesses (R43). -/

namespace Sys2Proof.Machine

/-! ### Who reaches a register -/

/-- The host is the requester. -/
def isHost : Requester → Bool
  | .fn _ => true
  | _ => false

/-- Number of a requester among those that hold latches (R43). -/
def requesterKey : Requester → Nat
  | .fn f => f.val
  | .cp k => 64 + k.val
  | .sup i => 72 + i.val
  | .ihlel => 74
  | .tray => 75

/-- What the PF's BAR0 serves before ready (R515), and in ROM recovery mode (R545). -/
def earlyReg (h : Hw) (b : BlockId) (o : Nat) : Bool :=
  if h.bru.phase = 9 then b == .bru || b == .fwu || (b == .sec && o == 0x10)
  else b == .bru || b == .fwu || b == .sec || b == .tray || (b == .hif 0 && (o == 0 || o == 0x10))

/-- A requester's access arrives at the module: a function's while its port is configured, the tray controller's
while the module is powered (R515, R559). -/
def arrives (h : Hw) (r : Requester) : Bool :=
  match r with
  | .fn f => h.hostUp && h.hif.configured && h.fnOn f
  | .tray => h.pins.powered
  | _ => h.pins.powered

/-- The register is open to the requester: the PF sees the whole map and a VF its own instance, and the tray
controller TRY_ (R389, R515, R560). -/
def serves (h : Hw) (r : Requester) (b : BlockId) (o : Nat) : Bool :=
  arrives h r && (match r with
    | .fn f => if h.bru.ready then f == 0 || b == .hif f else f == 0 && earlyReg h b o
    | .tray => b == .tray
    | _ => true)

/-- A write of the register by the requester is not ignored (R393, R410, R450, R451, R483, R568). -/
def mayWrite (h : Hw) (r : Requester) (b : BlockId) (o : Nat) : Bool :=
  match b with
  | .hif g =>
    (match r with
      | .fn f => if f = 0 then g == 0 || !(h.tdi g == 1 || h.tdi g == 2) else !(regAt false (blkBase b + o)).pfOnly
      | _ => !(regAt false (blkBase b + o)).pfOnly)
  | .ctx => !isHost r
  | .sec => r == .ihlel
  | .thm => isHost r || r == .ihlel || (match r with
    | .sup i => h.sup.holder == some i
    | _ => false)
  | .bru => !isHost r || o == 8 || o == 0x28 || o == 0x30 || inArr o 0x400 8 32
  | .tray => if isHost r then o == 0x90 else r == .tray || !(o == 0x18 || o == 0x30 || o == 0x38)
  | _ => true

/-- A write that the requester sends is performed; while a power cycle is pending the host's writes are not
(R504). -/
def performs (h : Hw) (r : Requester) (b : BlockId) (o : Nat) : Bool :=
  serves h r b o && !(isHost r && h.flt.powerCycle)

/-! ### Staged fields and commit (R35–R42) -/

/-- Writes the staged fields of a word, in the halves that the mask covers (R35, R43). -/
def stageWrite (h : Hw) (b : BlockId) (k : Nat) (mask v fields : Word) : Hw :=
  let half := fun (h : Hw) (o : Nat) =>
    if wfld (mask &&& fields) (8 * o) 32 = 0 then h
    else { h with regs := { h.regs with staged := SMap.put h.regs.staged (k + o) (put (wfld v (8 * o) 32) 0 32) } }
  if mask &&& fields = 0 then h else (half (half h 0) 4).modBlk b (fun c => { c with pend := true })

/-- The copy would change a field that lock protects (R40). -/
def changesLocked (h : Hw) (cap : SMap Word) : Bool :=
  cap.any (fun p => (regAt h.pins.variant1800 p.1).rwl && mergeStaged h p.1 p.2 != h.reg p.1)

/-- A write of COMMIT (Table 1-9, R36, R39, R40). -/
def commitWrite (h : Hw) (b : BlockId) (v : Word) : Hw :=
  let c := h.blk b
  let fail := fun (e : BitVec 8) => h.modBlk b (fun c => { c with error := e })
  if bit v 0 && bit v 1 then fail 4
  else if bit v 1 then (dropStaged h b).modBlk b (fun c => { c with pend := false, error := 0 })
  else if !bit v 0 then h
  else if c.busy then fail 2
  else
    let cap := stagedWords h b
    if c.locked && changesLocked h cap then fail 3
    else if blkOk h (applyRegs h cap) b cap then
      (dropStaged h b).modBlk b (fun c => { c with pend := false, busy := true, lockReq := bit v 2, captured := cap })
    else h.modBlk b (fun c => { c with pend := false, error := 1 })

/-- The apply point of ERR_LANE_CFG and ERR_EQ_CFG is the start of a retrain, which one in progress, or one that a
degrade decision is about to start, delays (R313, R328). -/
def applyWaits (h : Hw) (b : BlockId) (cap : SMap Word) : Bool :=
  match b with
  | .err i => ((h.port i).state == 3 || ((h.port i).state == 2 && (h.port i).decided)) && (inCap cap (errOff i 0x18) || inCap cap (errOff i 0x20))
  | _ => false

/-- COMMIT_APPLY (R37). -/
def execCommitApply (blk : BlockId) (s : State) : Host.Outcome State Fault Refusal :=
  run s (fun h => if (h.blk blk).busy && !applyWaits h blk (h.blk blk).captured then applyCaptured h blk else h)

/-! ### Writes -/

/-- Clears bits of a log; clearing valid clears multi with it (R193). -/
def clearLog (h : Hw) (b : BlockId) (o : Nat) (bits : Word) : Hw :=
  let k := blkBase b + o
  let h1 := h.setReg k (h.reg k &&& ~~~bits)
  if !bit bits 63 then h1
  else match b with
    | .cnv _ => h1.setReg (k + 8) 0
    | .lpm _ => h1.setReg k (h1.reg k &&& ~~~(bitw true 47))
    | _ => h1

/-- A write with no effect beyond its register, in the bits that the mask covers. -/
def plainWrite (h : Hw) (b : BlockId) (o : Nat) (mask v : Word) : Hw :=
  let k := blkBase b + o
  let i := regAt h.pins.variant1800 k
  if i.counter then h.setReg k 0
  else
    let m := i.rw &&& mask
    let h1 := if m = 0 then h else h.setReg k ((h.reg k &&& ~~~m) ||| (v &&& m))
    let bits := i.w1c &&& mask &&& v
    let h2 := if bits = 0 then h1 else clearLog h1 b o bits
    if i.rwl && (h.blk b).locked then h2 else stageWrite h2 b k mask v i.staged

/-- A write of GLZ_SLOT_ALLOC: clearing valid stops the stream and frees the slot with its staging zeroed (R218,
Table 6-7). -/
def writeSlotAlloc (h : Hw) (n : SlotId) (v : Word) : Hw :=
  let k := glzBlk n + 0x100 + 8 * glzIdx n
  let h1 := h.setReg k (v &&& 0x7F)
  if bit (h.reg k) 6 && !bit v 6 then freeSlot h1 n else h1

/-- A write of ERR_CTL (Table 10-8). -/
def writeErrCtl (h : Hw) (i : PortId) (v : Word) : Hw :=
  let h1 := h.setReg (errOff i 0x38) (v &&& 0xC)
  let h2 := if bit v 0 then retrainFull h1 i else h1
  let h3 := if bit v 1 then saveEq h2 i else h2
  if bit v 3 then acceptMiswire h3 i else h3

/-- The agent of a requester's signal (Table 16-2). -/
def requesterRec (h : Hw) : Requester → FaultRec
  | .cp k => { FaultRec.blank h.ftcNow 0 8 with unit := BitVec.ofNat 6 k.val }
  | .sup i => { FaultRec.blank h.ftcNow 0 9 with unit := BitVec.ofNat 6 i.val }
  | .ihlel => FaultRec.blank h.ftcNow 0 0xA
  | _ => FaultRec.blank h.ftcNow 0 8

/-- A write of the tray controller's cap, stored with the clamping of R456. -/
def writeTrayCap (h : Hw) (v : Word) : Hw :=
  h.setReg 0xC0018 (put (clampCap h (wfld v 0 12)) 0 12 ||| bitw (bit v 12) 12)

/-- Acknowledges telemetry records up to an index (R562). -/
def ackTelemetry (h : Hw) (i : Nat) : Hw :=
  let left := (h.tray.newest.toNat + 64 - i) % 64
  { h.setReg 0xC0038 (put i 0 6) with tray := { h.tray with unacked := Nat.min h.tray.unacked left } }

/-- The registers whose write does more than hold a value; none for the rest.  `w` is the word with the written
halves replaced, `v` the written halves alone, `low` whether the lower half was written. -/
def specialWrite (h : Hw) (r : Requester) (b : BlockId) (o : Nat) (w v : Word) (low : Bool) : Option Hw :=
  match b with
  | .hif f => if o = 0x20 then some (writeCmdqCtl h f w) else none
  | .evc => if o = 0x10 then some (if low then raiseEv h (wfld v 0 10) (wfld v 32 32) [] else h) else none
  | .pwr =>
    if o = 0x18 ∨ o = 0x20 then some (if low then writeCap h (o == 0x20) (wfld v 0 12) else h)
    else if o = 0x48 then some (writeLatTol h w) else none
  | .sup i =>
    if o = 0x18 then some (if bit v 0 then requestSwap h i else h)
    else if o = 0x20 then some (if bit v 0 then restartSup h i else h) else none
  | .bru => if o = 0x30 then some (if low then fieldClear h (wfld v 0 8) else h) else none
  | .fwu =>
    if o = 0x40 then some (if bit v 0 then (requestActivation h (wfld v 1 1) (wfld v 2 2)).1 else h)
    else if o = 0x58 then some (if bit v 0 then (raiseFloors h).1 else h) else none
  | .tray =>
    if o = 0x18 then some (if low then writeTrayCap h w else h)
    else if o = 0x38 then some (if low then ackTelemetry h (wfld w 0 6) else h) else none
  | .ftc =>
    if o = 0x20 then some (ftcSetValue h v)
    else if o = 0x30 then some (snapArm h w) else none
  | .glz i => if inArr o 0x100 8 32 then some (writeSlotAlloc h (Fin.ofNat 64 (32 * i.val + elemAt o 0x100 8)) w) else none
  | .err i => if o = 0x38 then some (if low then writeErrCtl h i w else h) else none
  | .syn i =>
    if inArr o 0x10000 8 16384 then
      let x : ObjId := .mod (Fin.ofNat 32768 (16384 * i.val + elemAt o 0x10000 8))
      some (if setOk x w then syncSet h x w else h)
    else if inArr o 0x30000 8 16384 then
      some (if low then signalObj h (.mod (Fin.ofNat 32768 (16384 * i.val + elemAt o 0x30000 8))) (wfld v 0 32)
        (requesterRec h r) else h)
    else none
  | _ => none

/-- A write of the halves that the mask covers reaches a register. -/
def writeReg (h : Hw) (r : Requester) (b : BlockId) (o : Nat) (mask v : Word) : Hw :=
  if !mayWrite h r b o then h
  else
    let low := wfld mask 0 32 != 0
    let w := (viewReg h false b o &&& ~~~mask) ||| (v &&& mask)
    if o = 8 then if low then commitWrite h b (v &&& mask) else h
    else match specialWrite h r b o w (v &&& mask) low with
      | some g => g
      | none => plainWrite h b o mask v

/-! ### Split accesses (R43) -/

/-- Key of a requester's latch in a block instance. -/
def latchKey (r : Requester) (b : BlockId) : Nat := requesterKey r * 0x4000000 + blkBase b

/-- A held lower half is applied on its own. -/
def flushHeld (h : Hw) (r : Requester) (b : BlockId) : Hw :=
  match SMap.find h.regs.whold (latchKey r b) with
  | some p =>
    writeReg { h with regs := { h.regs with whold := SMap.del h.regs.whold (latchKey r b) } } r b p.1 0xFFFFFFFF
      (put p.2.toNat 0 32)
  | none => h

/-- A 64-bit write of a register. -/
def writeWhole (h : Hw) (r : Requester) (b : BlockId) (o : Nat) (v : Word) : Hw :=
  writeReg (flushHeld h r b) r b o 0xFFFFFFFFFFFFFFFF v

/-- A 32-bit write of a lower half is held. -/
def writeLow (h : Hw) (r : Requester) (b : BlockId) (o : Nat) (v : Word) : Hw :=
  let h1 := flushHeld h r b
  { h1 with regs := { h1.regs with whold := SMap.put h1.regs.whold (latchKey r b) (o, BitVec.ofNat 32 (wfld v 0 32)) } }

/-- A 32-bit write of an upper half is applied with the held lower half of the same register, or on its own. -/
def writeHigh (h : Hw) (r : Requester) (b : BlockId) (o : Nat) (v : Word) : Hw :=
  match SMap.find h.regs.whold (latchKey r b) with
  | some p =>
    if p.1 = o then
      writeReg { h with regs := { h.regs with whold := SMap.del h.regs.whold (latchKey r b) } } r b o
        0xFFFFFFFFFFFFFFFF (put p.2.toNat 0 32 ||| put (wfld v 0 32) 32 32)
    else writeReg (flushHeld h r b) r b o 0xFFFFFFFF00000000 (put (wfld v 0 32) 32 32)
  | none => writeReg h r b o 0xFFFFFFFF00000000 (put (wfld v 0 32) 32 32)

/-- BAR0 offset that a requester's offset names: a VF's BAR0 is its own HIF_ instance (Table 13-2). -/
def bar0Off (r : Requester) (off : Nat) : Option Nat :=
  match r with
  | .fn f => if f = 0 then (if off < 0x4000000 then some off else none)
    else if off < 0x1000 then some (hifOff f off) else none
  | .tray => none
  | _ => if off < 0x4000000 then some off else none

/-- A bad write is dropped; the host's is counted and raises event 0x180 (R392). -/
def badWrite (h : Hw) : Requester → Hw
  | .fn f => badAccess h f
  | _ => h

/-- A write with a poisoned payload is dropped with event 0x185 (R401). -/
def poisonedWrite (h : Hw) : Requester → Hw
  | .fn f => raiseEv h 0x185 f.val []
  | _ => h

/-- Performs a register write (R43, R392): of 4 or 8 bytes, naturally aligned. -/
def regSet (h : Hw) (r : Requester) (off size : Nat) (data : Word) (poisoned : Bool) : Hw :=
  if !arrives h r then h
  else if poisoned then poisonedWrite h r
  else if !formOk off size then badWrite h r
  else match (bar0Off r off).bind blockOf with
    | none => h
    | some (b, o) =>
      if !performs h r b (o / 8 * 8) then h
      else if size = 8 then writeWhole h r b o data
      else if o % 8 = 0 then writeLow h r b o data
      else writeHigh h r b (o / 8 * 8) data

/-- A function's register access is performed after its earlier requests (R261). -/
def regTurn (h : Hw) (r : Requester) (q : HostReq) (eff : Hw → Hw) : Hw :=
  match r with
  | .fn f => inTurn h f q eff
  | _ => eff h

/-- REGISTER_WRITE (R43, R392). -/
def execRegisterWrite (r : Requester) (off : Nat) (size : Nat) (data : Word) (poisoned : Bool) (s : State) :
    Host.Outcome State Fault Refusal :=
  run s (fun h => regTurn h r (.regWrite off size data poisoned) (fun g => regSet g r off size data poisoned))

/-- A 32-bit read of a lower half: the held write is applied, the upper half is latched (R43). -/
def readLow (h : Hw) (r : Requester) (b : BlockId) (o : Nat) : Hw :=
  let h1 := flushHeld h r b
  let w := viewReg h1 (r == .fn 0) b o
  { h1 with regs := { h1.regs with
      rhold := SMap.put h1.regs.rhold (latchKey r b) (o, BitVec.ofNat 32 (wfld w 32 32)) } }.emit
    (.readDone r (put (wfld w 0 32) 0 32))

/-- A 32-bit read of an upper half returns the copy that the latch holds of that register and empties the latch,
or the live value (R43). -/
def readHigh (h : Hw) (r : Requester) (b : BlockId) (o : Nat) : Hw :=
  let h1 := flushHeld h r b
  let live := h1.emit (.readDone r (put (wfld (viewReg h1 (r == .fn 0) b o) 32 32) 0 32))
  match SMap.find h1.regs.rhold (latchKey r b) with
  | some p =>
    if p.1 = o then
      { h1 with regs := { h1.regs with rhold := SMap.del h1.regs.rhold (latchKey r b) } }.emit
        (.readDone r (put p.2.toNat 0 32))
    else live
  | none => live

/-- A 64-bit read leaves the read-hold latch as it is (R43). -/
def readWhole (h : Hw) (r : Requester) (b : BlockId) (o : Nat) : Hw :=
  let h1 := flushHeld h r b
  h1.emit (.readDone r (viewReg h1 (r == .fn 0) b o))

/-- Performs a register read (R43): of 4 or 8 bytes, naturally aligned.  What no block serves reads zero, a VF's BAR
before ready and a bad request end with Unsupported Request (R9, R392, R515). -/
def regGet (h : Hw) (r : Requester) (off size : Nat) : Hw :=
  if !arrives h r then h
  else if !formOk off size then (if isHost r then h.emit .unsupported else h)
  else match bar0Off r off with
    | none => if isHost r then h.emit .unsupported else h
    | some k =>
      if isHost r && r != .fn 0 && !h.bru.ready then h.emit .unsupported
      else match blockOf k with
        | none => h.emit (.readDone r 0)
        | some (b, o) =>
          if !serves h r b (o / 8 * 8) then h.emit (.readDone r 0)
          else if size = 8 then readWhole h r b o
          else if o % 8 = 0 then readLow h r b o
          else readHigh h r b (o / 8 * 8)

/-- REGISTER_READ_LOW_HALF (R43) and the other reads that R43 tells apart. -/
def execRegisterReadLowHalf (r : Requester) (off : Nat) (size : Nat) (s : State) :
    Host.Outcome State Fault Refusal :=
  run s (fun h => regTurn h r (.regRead off size) (fun g => regGet g r off size))

/-! ### Writes with a row of their own -/

/-- A 64-bit write that a requester sends to a register. -/
def regWrite (h : Hw) (r : Requester) (b : BlockId) (o : Nat) (v : Word) : Hw :=
  if performs h r b o then writeWhole h r b o v else h

/-- COMMIT_GO (R36). -/
def execCommitGo (r : Requester) (blk : BlockId) (s : State) : Host.Outcome State Fault Refusal :=
  run s (fun h => regWrite h r blk 8 1)

/-- COMMIT_GO_LOCK (R40). -/
def execCommitGoLock (r : Requester) (blk : BlockId) (s : State) : Host.Outcome State Fault Refusal :=
  run s (fun h => regWrite h r blk 8 5)

/-- COMMIT_DISCARD (R34). -/
def execCommitDiscard (r : Requester) (blk : BlockId) (s : State) : Host.Outcome State Fault Refusal :=
  run s (fun h => regWrite h r blk 8 2)

/-- COUNTER_WRITE_CLEAR: any value sets a counter to 0 (R193). -/
def execCounterWriteClear (r : Requester) (off : Nat) (s : State) : Host.Outcome State Fault Refusal :=
  run s (fun h =>
    match (bar0Off r off).bind blockOf with
    | some (b, o) => if (regAt h.pins.variant1800 (blkBase b + o)).counter then regWrite h r b o 0 else h
    | none => h)

/-- HIF_CMDQ_ENABLE: the host writes HIF_CMDQ_CTL of its function (R399). -/
def execHifCmdqEnable (fn : FnId) (ctl : Word) (s : State) : Host.Outcome State Fault Refusal :=
  run s (fun h => regWrite h (.fn fn) (.hif fn) 0x20 ctl)

/-- PWR_CAP_WRITE (R456). -/
def execPwrCapWrite (r : Requester) (short : Bool) (watts : BitVec 12) (s : State) :
    Host.Outcome State Fault Refusal :=
  run s (fun h => regWrite h r .pwr (if short then 0x20 else 0x18) (put watts.toNat 0 12))

/-- PWR_LAT_TOL_WRITE (R464). -/
def execPwrLatTolWrite (r : Requester) (tol : BitVec 32) (s : State) : Host.Outcome State Fault Refusal :=
  run s (fun h => regWrite h r .pwr 0x48 (put tol.toNat 0 32))

/-- SUP_SWAP (R478). -/
def execSupSwap (r : Requester) (i : Fin 2) (s : State) : Host.Outcome State Fault Refusal :=
  run s (fun h => regWrite h r (.sup i) 0x18 1)

/-- SUP_RESTART (R479). -/
def execSupRestart (r : Requester) (i : Fin 2) (s : State) : Host.Outcome State Fault Refusal :=
  run s (fun h => regWrite h r (.sup i) 0x20 1)

/-- BRU_FIELD_CLEAR (R528). -/
def execBruFieldClear (r : Requester) (index : BitVec 8) (s : State) : Host.Outcome State Fault Refusal :=
  run s (fun h => regWrite h r .bru 0x30 (put index.toNat 0 8))

/-- FWU_RAISE_FLOOR (R522). -/
def execFwuRaiseFloor (r : Requester) (s : State) : Host.Outcome State Fault Refusal :=
  run s (fun h => regWrite h r .fwu 0x58 1)

/-- FWU_ACTIVATE (R537). -/
def execFwuActivate (r : Requester) (slot : Fin 2) (mode : BitVec 2) (s : State) : Host.Outcome State Fault Refusal :=
  run s (fun h => regWrite h r .fwu 0x40 (bitw true 0 ||| put slot.val 1 1 ||| put mode.toNat 2 2))

/-- GLZ_SLOT_RELEASE: valid is cleared (R220). -/
def execGlzSlotRelease (r : Requester) (slot : SlotId) (s : State) : Host.Outcome State Fault Refusal :=
  run s (fun h =>
    let o := 0x100 + 8 * glzIdx slot
    let b : BlockId := .glz (Fin.ofNat 2 (slot.val / 32))
    regWrite h r b o (h.breg b o &&& 0x3F))

/-- FTC_SET (R322). -/
def execFtcSet (r : Requester) (value : Word) (s : State) : Host.Outcome State Fault Refusal :=
  run s (fun h => regWrite h r .ftc 0x20 value)

/-- FTC_SNAP_ARM (R326). -/
def execFtcSnapArm (r : Requester) (value : Word) (s : State) : Host.Outcome State Fault Refusal :=
  run s (fun h => regWrite h r .ftc 0x30 value)

/-- ERR_RETRAIN_FULL (R313): the other fields of ERR_CTL stay. -/
def execErrRetrainFull (r : Requester) (port : PortId) (s : State) : Host.Outcome State Fault Refusal :=
  run s (fun h => regWrite h r (.err port) 0x38 (h.breg (.err port) 0x38 ||| bitw true 0))

/-- ERR_SAVE_EQ (R311). -/
def execErrSaveEq (r : Requester) (port : PortId) (s : State) : Host.Outcome State Fault Refusal :=
  run s (fun h => regWrite h r (.err port) 0x38 (h.breg (.err port) 0x38 ||| bitw true 1))

/-- ERR_ACCEPT_MISWIRE (R310). -/
def execErrAcceptMiswire (r : Requester) (port : PortId) (s : State) : Host.Outcome State Fault Refusal :=
  run s (fun h => regWrite h r (.err port) 0x38 (h.breg (.err port) 0x38 ||| bitw true 3))

end Sys2Proof.Machine
end

