-- ==== Sys2Proof/Machine/Scalar.lean ====
section
/-! DEFINITION. Scalar, multiply, divide, move, compare and predicate instructions (majors 0x01–0x07,
R88–R91). -/

namespace Sys2Proof.Machine

/-! ### Results (Table 3-8, R89, R90) -/

/-- ADD: a + b modulo 2^64 (Table 3-8). -/
def aluAdd (a b : Word) : Word := a + b

/-- SUB: a - b modulo 2^64 (Table 3-8). -/
def aluSub (a b : Word) : Word := a - b

/-- AND: the AND of a and b (Table 3-8). -/
def aluAnd (a b : Word) : Word := a &&& b

/-- OR: the OR of a and b (Table 3-8). -/
def aluOr (a b : Word) : Word := a ||| b

/-- XOR: the XOR of a and b (Table 3-8). -/
def aluXor (a b : Word) : Word := a ^^^ b

/-- ANDN: a AND NOT b (Table 3-8). -/
def aluAndn (a b : Word) : Word := a &&& ~~~b

/-- SHL: a shifted left by b & 63 (Table 3-8). -/
def aluShl (a b : Word) : Word := a <<< (b.toNat % 64)

/-- SHR: a shifted right by b & 63, zero fill (Table 3-8). -/
def aluShr (a b : Word) : Word := a >>> (b.toNat % 64)

/-- SAR: a shifted right by b & 63, sign fill (Table 3-8). -/
def aluSar (a b : Word) : Word := a.sshiftRight (b.toNat % 64)

/-- ROR: a rotated right by b & 63 (Table 3-8). -/
def aluRor (a b : Word) : Word := a.rotateRight (b.toNat % 64)

/-- MIN: the signed minimum (Table 3-8). -/
def aluMin (a b : Word) : Word := if a.slt b then a else b

/-- MAX: the signed maximum (Table 3-8). -/
def aluMax (a b : Word) : Word := if a.slt b then b else a

/-- MINU: the unsigned minimum (Table 3-8). -/
def aluMinu (a b : Word) : Word := if a < b then a else b

/-- MAXU: the unsigned maximum (Table 3-8). -/
def aluMaxu (a b : Word) : Word := if a < b then b else a

/-- CLZ: leading zeros, 0–64. -/
def aluClz (a : Word) : Word := BitVec.ofNat 64 (leadZ 64 a.toNat)

/-- CTZ: trailing zeros, 0–64. -/
def aluCtz (a : Word) : Word := BitVec.ofNat 64 (trailZ 64 a.toNat)

/-- POPC: number of one bits. -/
def aluPopc (a : Word) : Word := BitVec.ofNat 64 (popc 64 a.toNat)

/-- MUL: low 64 bits of the product. -/
def aluMul (a b : Word) : Word := a * b

/-- MULH: high 64 bits of the signed product. -/
def aluMulh (a b : Word) : Word := BitVec.ofInt 64 (a.toInt * b.toInt / 2 ^ 64)

/-- MULHU: high 64 bits of the unsigned product. -/
def aluMulhu (a b : Word) : Word := BitVec.ofNat 64 (a.toNat * b.toNat / 2 ^ 64)

/-- MADD: low 64 bits of a × b + c. -/
def aluMadd (a b c : Word) : Word := a * b + c

/-- DIV (R89): toward zero; all ones for a zero divisor; -2^63 for -2^63 / -1. -/
def aluDiv (a b : Word) : Word := if b = 0 then -1 else BitVec.ofInt 64 (Int.tdiv a.toInt b.toInt)

/-- REM (R89): sign of the dividend; a for a zero divisor. -/
def aluRem (a b : Word) : Word := if b = 0 then a else BitVec.ofInt 64 (Int.tmod a.toInt b.toInt)

/-- DIVU (R89). -/
def aluDivu (a b : Word) : Word := if b = 0 then -1 else BitVec.ofNat 64 (a.toNat / b.toNat)

/-- REMU (R89). -/
def aluRemu (a b : Word) : Word := if b = 0 then a else BitVec.ofNat 64 (a.toNat % b.toNat)

/-- MOVHI: imm38[31:0] in the high half over the low half of a. -/
def aluMovhi (a : Word) (imm : BitVec 38) : Word :=
  (a &&& 0xFFFFFFFF) ||| BitVec.ofNat 64 (imm.toNat % 2 ^ 32 * 2 ^ 32)

/-- The conditions of R90. -/
def cmpEq (a b : Word) : Bool := a == b
def cmpNe (a b : Word) : Bool := a != b
def cmpLt (a b : Word) : Bool := a.slt b
def cmpGe (a b : Word) : Bool := !a.slt b
def cmpLtu (a b : Word) : Bool := a.ult b
def cmpGeu (a b : Word) : Bool := !a.ult b
def cmpTest (a b : Word) : Bool := (a &&& b) != 0

/-! ### Shapes -/

/-- Format A with rs3 and the low bits zero (R88). -/
def plainA (f : FmtA) : Bool := f.rs3 == 0 && f.low == 0

/-- imm38 sign-extended. -/
def sxI (f : FmtI) : Word := f.imm.signExtend 64

/-- A scalar instruction with a register form (major 0x01) and an immediate form (major 0x02). -/
def scalarAI (minor : BitVec 6) (op : Word → Word → Word) (e : EaselId) (f : FmtAI) (h : Hw) : Hw :=
  match f with
  | .reg f => issue h e (wordA 0x01 minor f) f.pneg f.pred (resv (plainA f)) (fun h =>
      .done (h.setS e f.rd (op ((h.easel e).cur.get f.rs1) ((h.easel e).cur.get f.rs2))))
  | .imm f => issue h e (wordI 0x02 minor f) f.pneg f.pred none (fun h =>
      .done (h.setS e f.rd (op ((h.easel e).cur.get f.rs1) (sxI f))))

/-- A scalar instruction of one operand, A only, with rs2 zero. -/
def scalarA1 (minor : BitVec 6) (op : Word → Word) (e : EaselId) (f : FmtA) (h : Hw) : Hw :=
  issue h e (wordA 0x01 minor f) f.pneg f.pred (resv (plainA f && f.rs2 == 0)) (fun h =>
    .done (h.setS e f.rd (op ((h.easel e).cur.get f.rs1))))

/-- A multiply or divide of two operands (major 0x03). -/
def scalarM (minor : BitVec 6) (op : Word → Word → Word) (e : EaselId) (f : FmtA) (h : Hw) : Hw :=
  issue h e (wordA 0x03 minor f) f.pneg f.pred (resv (plainA f)) (fun h =>
    .done (h.setS e f.rd (op ((h.easel e).cur.get f.rs1) ((h.easel e).cur.get f.rs2))))

/-- Writes predicate p[rd & 7]. -/
def Hw.setP (h : Hw) (e : EaselId) (rd : BitVec 5) (v : Bool) : Hw :=
  h.modCur e (fun r => r.pput (rd.setWidth 3) v)

/-- rd bits [4:3] are zero (R90). -/
def predReg (r : BitVec 5) : Bool := decide (r.toNat < 8)

/-- A compare (majors 0x05 and 0x06, R90). -/
def compareAI (minor : BitVec 6) (op : Word → Word → Bool) (e : EaselId) (f : FmtAI) (h : Hw) : Hw :=
  match f with
  | .reg f => issue h e (wordA 0x05 minor f) f.pneg f.pred (resv (plainA f && predReg f.rd)) (fun h =>
      .done (h.setP e f.rd (op ((h.easel e).cur.get f.rs1) ((h.easel e).cur.get f.rs2))))
  | .imm f => issue h e (wordI 0x06 minor f) f.pneg f.pred (resv (predReg f.rd)) (fun h =>
      .done (h.setP e f.rd (op ((h.easel e).cur.get f.rs1) (sxI f))))

/-- Predicate named by the low 3 bits of a register field (R91). -/
def CoreRegs.pr (r : CoreRegs) (i : BitVec 5) : Bool := r.pget (i.setWidth 3)

/-- Predicate logic of two operands (R91).  The manual names predicates by the low 3 bits of rs1 and rs2
and writes p[rd & 7]; it marks no upper bit of these fields zero (assumption 15). -/
def predLogic (minor : BitVec 6) (op : Bool → Bool → Bool) (e : EaselId) (f : FmtA) (h : Hw) : Hw :=
  issue h e (wordA 0x07 minor f) f.pneg f.pred (resv (plainA f)) (fun h =>
    .done (h.setP e f.rd (op ((h.easel e).cur.pr f.rs1) ((h.easel e).cur.pr f.rs2))))

/-! ### Meanings -/

/-- ADD: a + b modulo 2^64 (R88). -/
def execAdd (e : EaselId) (f : FmtAI) (s : State) : Host.Outcome State Fault Refusal :=
  run s (scalarAI 0x00 aluAdd e f)

/-- SUB: a - b modulo 2^64 (R88). -/
def execSub (e : EaselId) (f : FmtAI) (s : State) : Host.Outcome State Fault Refusal :=
  run s (scalarAI 0x01 aluSub e f)

/-- AND: the AND of a and b (R88). -/
def execAnd (e : EaselId) (f : FmtAI) (s : State) : Host.Outcome State Fault Refusal :=
  run s (scalarAI 0x02 aluAnd e f)

/-- OR: the OR of a and b (R88). -/
def execOr (e : EaselId) (f : FmtAI) (s : State) : Host.Outcome State Fault Refusal :=
  run s (scalarAI 0x03 aluOr e f)

/-- XOR: the XOR of a and b (R88). -/
def execXor (e : EaselId) (f : FmtAI) (s : State) : Host.Outcome State Fault Refusal :=
  run s (scalarAI 0x04 aluXor e f)

/-- ANDN: a AND NOT b (R88). -/
def execAndn (e : EaselId) (f : FmtAI) (s : State) : Host.Outcome State Fault Refusal :=
  run s (scalarAI 0x05 aluAndn e f)

/-- SHL: a shifted left by b & 63 (R88). -/
def execShl (e : EaselId) (f : FmtAI) (s : State) : Host.Outcome State Fault Refusal :=
  run s (scalarAI 0x06 aluShl e f)

/-- SHR: a shifted right by b & 63, zero fill (R88). -/
def execShr (e : EaselId) (f : FmtAI) (s : State) : Host.Outcome State Fault Refusal :=
  run s (scalarAI 0x07 aluShr e f)

/-- SAR: a shifted right by b & 63, sign fill (R88). -/
def execSar (e : EaselId) (f : FmtAI) (s : State) : Host.Outcome State Fault Refusal :=
  run s (scalarAI 0x08 aluSar e f)

/-- ROR: a rotated right by b & 63 (R88). -/
def execRor (e : EaselId) (f : FmtAI) (s : State) : Host.Outcome State Fault Refusal :=
  run s (scalarAI 0x09 aluRor e f)

/-- MIN: the signed minimum (R88). -/
def execMin (e : EaselId) (f : FmtAI) (s : State) : Host.Outcome State Fault Refusal :=
  run s (scalarAI 0x0A aluMin e f)

/-- MAX: the signed maximum (R88). -/
def execMax (e : EaselId) (f : FmtAI) (s : State) : Host.Outcome State Fault Refusal :=
  run s (scalarAI 0x0B aluMax e f)

/-- MINU: the unsigned minimum (R88). -/
def execMinu (e : EaselId) (f : FmtAI) (s : State) : Host.Outcome State Fault Refusal :=
  run s (scalarAI 0x0C aluMinu e f)

/-- MAXU: the unsigned maximum (R88). -/
def execMaxu (e : EaselId) (f : FmtAI) (s : State) : Host.Outcome State Fault Refusal :=
  run s (scalarAI 0x0D aluMaxu e f)

/-- CLZ (R88). -/
def execClz (e : EaselId) (f : FmtA) (s : State) : Host.Outcome State Fault Refusal :=
  run s (scalarA1 0x0E aluClz e f)

/-- CTZ (R88). -/
def execCtz (e : EaselId) (f : FmtA) (s : State) : Host.Outcome State Fault Refusal :=
  run s (scalarA1 0x0F aluCtz e f)

/-- POPC (R88). -/
def execPopc (e : EaselId) (f : FmtA) (s : State) : Host.Outcome State Fault Refusal :=
  run s (scalarA1 0x10 aluPopc e f)

/-- SEL: p[rs3 & 7] ? a : b; rs3 bits [4:3] zero (R88). -/
def execSel (e : EaselId) (f : FmtA) (s : State) : Host.Outcome State Fault Refusal :=
  run s (fun h => issue h e (wordA 0x01 0x11 f) f.pneg f.pred (resv (predReg f.rs3 && f.low == 0)) (fun h =>
    .done (h.setS e f.rd (if (h.easel e).cur.pr f.rs3 then (h.easel e).cur.get f.rs1
      else (h.easel e).cur.get f.rs2))))

/-- MUL (R88). -/
def execMul (e : EaselId) (f : FmtA) (s : State) : Host.Outcome State Fault Refusal :=
  run s (scalarM 0x00 aluMul e f)

/-- MULH (R88). -/
def execMulh (e : EaselId) (f : FmtA) (s : State) : Host.Outcome State Fault Refusal :=
  run s (scalarM 0x01 aluMulh e f)

/-- MULHU (R88). -/
def execMulhu (e : EaselId) (f : FmtA) (s : State) : Host.Outcome State Fault Refusal :=
  run s (scalarM 0x02 aluMulhu e f)

/-- MADD: a × b + c with c = s[rs3] (R88). -/
def execMadd (e : EaselId) (f : FmtA) (s : State) : Host.Outcome State Fault Refusal :=
  run s (fun h => issue h e (wordA 0x03 0x03 f) f.pneg f.pred (resv (f.low == 0)) (fun h =>
    .done (h.setS e f.rd (aluMadd ((h.easel e).cur.get f.rs1) ((h.easel e).cur.get f.rs2)
      ((h.easel e).cur.get f.rs3)))))

/-- DIV (R89). -/
def execDiv (e : EaselId) (f : FmtA) (s : State) : Host.Outcome State Fault Refusal :=
  run s (scalarM 0x04 aluDiv e f)

/-- DIVU (R89). -/
def execDivu (e : EaselId) (f : FmtA) (s : State) : Host.Outcome State Fault Refusal :=
  run s (scalarM 0x05 aluDivu e f)

/-- REM (R89). -/
def execRem (e : EaselId) (f : FmtA) (s : State) : Host.Outcome State Fault Refusal :=
  run s (scalarM 0x06 aluRem e f)

/-- REMU (R89). -/
def execRemu (e : EaselId) (f : FmtA) (s : State) : Host.Outcome State Fault Refusal :=
  run s (scalarM 0x07 aluRemu e f)

/-- MOVI: imm38 sign-extended; rs1 zero (R88). -/
def execMovi (e : EaselId) (f : FmtI) (s : State) : Host.Outcome State Fault Refusal :=
  run s (fun h => issue h e (wordI 0x04 0x00 f) f.pneg f.pred (resv (f.rs1 == 0)) (fun h =>
    .done (h.setS e f.rd (sxI f))))

/-- MOVHI: imm38[37:32] zero (R88). -/
def execMovhi (e : EaselId) (f : FmtI) (s : State) : Host.Outcome State Fault Refusal :=
  run s (fun h => issue h e (wordI 0x04 0x01 f) f.pneg f.pred (resv (decide (f.imm.toNat < 2 ^ 32)))
    (fun h => .done (h.setS e f.rd (aluMovhi ((h.easel e).cur.get f.rs1) f.imm))))

/-- EQ (R90). -/
def execEq (e : EaselId) (f : FmtAI) (s : State) : Host.Outcome State Fault Refusal :=
  run s (compareAI 0x00 cmpEq e f)

/-- NE (R90). -/
def execNe (e : EaselId) (f : FmtAI) (s : State) : Host.Outcome State Fault Refusal :=
  run s (compareAI 0x01 cmpNe e f)

/-- LT (R90). -/
def execLt (e : EaselId) (f : FmtAI) (s : State) : Host.Outcome State Fault Refusal :=
  run s (compareAI 0x02 cmpLt e f)

/-- GE (R90). -/
def execGe (e : EaselId) (f : FmtAI) (s : State) : Host.Outcome State Fault Refusal :=
  run s (compareAI 0x03 cmpGe e f)

/-- LTU (R90). -/
def execLtu (e : EaselId) (f : FmtAI) (s : State) : Host.Outcome State Fault Refusal :=
  run s (compareAI 0x04 cmpLtu e f)

/-- GEU (R90). -/
def execGeu (e : EaselId) (f : FmtAI) (s : State) : Host.Outcome State Fault Refusal :=
  run s (compareAI 0x05 cmpGeu e f)

/-- TEST (R90). -/
def execTest (e : EaselId) (f : FmtAI) (s : State) : Host.Outcome State Fault Refusal :=
  run s (compareAI 0x06 cmpTest e f)

/-- PAND (R91). -/
def execPand (e : EaselId) (f : FmtA) (s : State) : Host.Outcome State Fault Refusal :=
  run s (predLogic 0x00 (· && ·) e f)

/-- POR (R91). -/
def execPor (e : EaselId) (f : FmtA) (s : State) : Host.Outcome State Fault Refusal :=
  run s (predLogic 0x01 (· || ·) e f)

/-- PXOR (R91). -/
def execPxor (e : EaselId) (f : FmtA) (s : State) : Host.Outcome State Fault Refusal :=
  run s (predLogic 0x02 (· != ·) e f)

/-- PANDN (R91). -/
def execPandn (e : EaselId) (f : FmtA) (s : State) : Host.Outcome State Fault Refusal :=
  run s (predLogic 0x03 (fun a b => a && !b) e f)

/-- PNOT: rs2 zero (R91). -/
def execPnot (e : EaselId) (f : FmtA) (s : State) : Host.Outcome State Fault Refusal :=
  run s (fun h => issue h e (wordA 0x07 0x04 f) f.pneg f.pred (resv (plainA f && f.rs2 == 0)) (fun h =>
    .done (h.setP e f.rd (!(h.easel e).cur.pr f.rs1))))

/-- PGET: p7…p0 in bits [7:0], bit 0 always 1; rs1 and rs2 zero (R91). -/
def execPget (e : EaselId) (f : FmtA) (s : State) : Host.Outcome State Fault Refusal :=
  run s (fun h => issue h e (wordA 0x07 0x05 f) f.pneg f.pred
    (resv (plainA f && f.rs1 == 0 && f.rs2 == 0)) (fun h =>
      .done (h.setS e f.rd (((h.easel e).cur.p ||| 1).setWidth 64))))

/-- PSET: p1–p7 from s[rs1] bits [7:1]; rd and rs2 zero (R91). -/
def execPset (e : EaselId) (f : FmtA) (s : State) : Host.Outcome State Fault Refusal :=
  run s (fun h => issue h e (wordA 0x07 0x06 f) f.pneg f.pred
    (resv (plainA f && f.rd == 0 && f.rs2 == 0)) (fun h =>
      .done (h.modCur e (fun r => { r with p := (r.get f.rs1).setWidth 8 ||| 1 }))))

end Sys2Proof.Machine
end

