-- ==== Sys2Proof/Machine/Tray.lean ====
section
/-! DEFINITION. The tray-facing interface: I3C, telemetry, the power-on hours, and the service port's IPv6
(R559–R568). -/

namespace Sys2Proof.Machine

/-- I3C_WRITE: a private write of a TRY_ register whose eighth byte has been received (R560). -/
def execI3cWrite (off : BitVec 16) (data : Word) (s : State) : Host.Outcome State Fault Refusal :=
  run s (fun h => if off.toNat % 8 = 0 then regWrite h .tray .tray off.toNat data else h)

/-- I3C_READ: eight bytes of a TRY_ register (R560); an offset at which none begins reads zero (R9). -/
def execI3cRead (off : BitVec 16) (s : State) : Host.Outcome State Fault Refusal :=
  run s (fun h =>
    if !h.pins.powered then h
    else h.emit (.i3c (if off.toNat % 8 = 0 then viewReg h false .tray off.toNat else 0)))

/-- I3C_LOST_TRANSACTION: nothing changes but the count (R560). -/
def execI3cLostTransaction (s : State) : Host.Outcome State Fault Refusal :=
  run s (fun h => if h.pins.powered then h.count 0xC0040 1 else h)

/-- SETDASA: a dynamic address for the static address 0x30 + POS[1:0], where none is held (R559). -/
def execSetdasa (static : BitVec 7) (dynamic : BitVec 7) (s : State) : Host.Outcome State Fault Refusal :=
  run s (fun h =>
    if h.pins.powered && h.tray.dynAddr.isNone && static.toNat == 0x30 + h.rte.pos.toNat % 4 then
      { h with tray := { h.tray with dynAddr := some dynamic } }
    else h)

/-- ENTDAA: the target takes the address assigned to it, where it holds none (R559). -/
def execEntdaa (dynamic : BitVec 7) (s : State) : Host.Outcome State Fault Refusal :=
  run s (fun h =>
    if h.pins.powered && h.tray.dynAddr.isNone then { h with tray := { h.tray with dynAddr := some dynamic } } else h)

/-- A telemetry record of the present instant (Table 18-7). -/
def telemNow (h : Hw) : Telem :=
  { ftc := h.ftcNow, power := tryPower h, temps := tryTemp h, fMin := h.tray.fMin, throttled := h.tray.throttled
    flags := (tryStatus h).setWidth 8 }

/-- A record goes into the ring, or is dropped and counted where it would overwrite one that has not been
acknowledged (R562). -/
def putTelemetry (h : Hw) : Hw :=
  if 64 ≤ h.tray.unacked then
    h.setReg 0xC0030 (put (Nat.min (wfld (h.reg 0xC0030) 32 32 + 1) 0xFFFFFFFF) 32 32)
  else
    let n : BitVec 6 := if h.tray.valid then h.tray.newest + 1 else 0
    { h with tray := { h.tray with
        telem := SMap.put h.tray.telem n.toNat (telemNow h), newest := n, valid := true, unacked := h.tray.unacked + 1 } }

/-- TELEMETRY_RECORD: at an FTC multiple of 100 ms, or of the module's own count before synchronisation (R562). -/
def execTelemetryRecord (s : State) : Host.Outcome State Fault Refusal :=
  run s (fun h =>
    let k := h.ftcNow / 100000000
    if !h.pins.powered || k == h.tray.window then h
    else
      let h1 := putTelemetry h
      { h1 with tray := { h1.tray with window := k, fMin := fPwr h, throttled := h.pwr.thrOpen } })

/-- POWER_ON_HOUR: a whole hour with the input at or above the start threshold has ended (R567). -/
def execPowerOnHour (s : State) : Host.Outcome State Fault Refusal :=
  run s (fun h => if h.pins.powered then { h with tray := { h.tray with hours := h.tray.hours + 1 } } else h)

/-- The service port answers: it is up once power-on reset is released (R563). -/
def svcPortUp (h : Hw) : Bool := h.pins.powered && h.bru.released

/-- ICMPv6 type of a message. -/
def icmpType (msg : Bytes) : Nat := leNat (sub msg 0 1)

/-- NEIGHBOUR_DISCOVERY: a solicitation (type 135) is answered with an advertisement (type 136) of the service
port's MAC address (R563); the checksum is free. -/
def execNeighbourDiscovery (msg : Bytes) (s : State) : Host.Outcome State Fault Refusal :=
  run s (fun h =>
    if !svcPortUp h || icmpType msg != 135 then h
    else
      let mac := (leBytes 6 Config.mac.toNat).reverse
      h.useFree.emit (.ipv6 (leBytes 2 136 ++ leBytes 2 h.freeWord.toNat ++ leBytes 4 0x60 ++ sub msg 8 16 ++
        leBytes 1 2 ++ leBytes 1 1 ++ mac)))

/-- ICMPV6_ECHO: a request (type 128) is answered with a reply (type 129) that returns its data (R563); the
checksum is free. -/
def execIcmpv6Echo (msg : Bytes) (s : State) : Host.Outcome State Fault Refusal :=
  run s (fun h =>
    if !svcPortUp h || icmpType msg != 128 then h
    else h.useFree.emit (.ipv6 (leBytes 2 129 ++ leBytes 2 h.freeWord.toNat ++ msg.drop 4)))

end Sys2Proof.Machine
end

