-- ==== Sys2Proof/Machine/VectorCopy.lean ====
section
/-! DEFINITION. The vector unit's instructions, major 0x15 (Table 4-6), and the copy engine's, major 0x18
(Table 4-9): each enters its queue. -/

namespace Sys2Proof.Machine

/-- VADD: d ← b + c (R136). -/
def execVadd (e : EaselId) (f : FmtE) (s : State) : Host.Outcome State Fault Refusal :=
  run s (vuIssue .add e f)

/-- VSUB: d ← b − c (R136). -/
def execVsub (e : EaselId) (f : FmtE) (s : State) : Host.Outcome State Fault Refusal :=
  run s (vuIssue .sub e f)

/-- VMUL: d ← b × c (R136). -/
def execVmul (e : EaselId) (f : FmtE) (s : State) : Host.Outcome State Fault Refusal :=
  run s (vuIssue .mul e f)

/-- VFMA: d ← b × c + d, one rounding (R136). -/
def execVfma (e : EaselId) (f : FmtE) (s : State) : Host.Outcome State Fault Refusal :=
  run s (vuIssue .fma e f)

/-- VDIV: d ← b / c (R136). -/
def execVdiv (e : EaselId) (f : FmtE) (s : State) : Host.Outcome State Fault Refusal :=
  run s (vuIssue .div e f)

/-- VMIN: d ← minimum(b, c) (R136). -/
def execVmin (e : EaselId) (f : FmtE) (s : State) : Host.Outcome State Fault Refusal :=
  run s (vuIssue .min e f)

/-- VMAX: d ← maximum(b, c) (R136). -/
def execVmax (e : EaselId) (f : FmtE) (s : State) : Host.Outcome State Fault Refusal :=
  run s (vuIssue .max e f)

/-- VSQRT: d ← sqrt(b) (R136). -/
def execVsqrt (e : EaselId) (f : FmtE) (s : State) : Host.Outcome State Fault Refusal :=
  run s (vuIssue .sqrt e f)

/-- VCVT: d ← b in d's format (R138) (R136). -/
def execVcvt (e : EaselId) (f : FmtE) (s : State) : Host.Outcome State Fault Refusal :=
  run s (vuIssue .cvt e f)

/-- VRSUM: row sums (R139) (R136). -/
def execVrsum (e : EaselId) (f : FmtE) (s : State) : Host.Outcome State Fault Refusal :=
  run s (vuIssue .rsum e f)

/-- VRMAX: row maxima (R139) (R136). -/
def execVrmax (e : EaselId) (f : FmtE) (s : State) : Host.Outcome State Fault Refusal :=
  run s (vuIssue .rmax e f)

/-- VRMIN: row minima (R139) (R136). -/
def execVrmin (e : EaselId) (f : FmtE) (s : State) : Host.Outcome State Fault Refusal :=
  run s (vuIssue .rmin e f)

/-- VCMPLT: 1.0 where b < c (R136). -/
def execVcmplt (e : EaselId) (f : FmtE) (s : State) : Host.Outcome State Fault Refusal :=
  run s (vuIssue .cmplt e f)

/-- VCMPEQ: 1.0 where b = c (R136). -/
def execVcmpeq (e : EaselId) (f : FmtE) (s : State) : Host.Outcome State Fault Refusal :=
  run s (vuIssue .cmpeq e f)

/-- VEXP: e^b (R140) (R136). -/
def execVexp (e : EaselId) (f : FmtE) (s : State) : Host.Outcome State Fault Refusal :=
  run s (vuIssue .exp e f)

/-- VEXP2: 2^b (R140) (R136). -/
def execVexp2 (e : EaselId) (f : FmtE) (s : State) : Host.Outcome State Fault Refusal :=
  run s (vuIssue .exp2 e f)

/-- VLOG2: log2 b (R140) (R136). -/
def execVlog2 (e : EaselId) (f : FmtE) (s : State) : Host.Outcome State Fault Refusal :=
  run s (vuIssue .log2 e f)

/-- VLN: ln b (R140) (R136). -/
def execVln (e : EaselId) (f : FmtE) (s : State) : Host.Outcome State Fault Refusal :=
  run s (vuIssue .ln e f)

/-- VRCP: 1 / b (R140) (R136). -/
def execVrcp (e : EaselId) (f : FmtE) (s : State) : Host.Outcome State Fault Refusal :=
  run s (vuIssue .rcp e f)

/-- VRSQRT: 1 / sqrt(b) (R140) (R136). -/
def execVrsqrt (e : EaselId) (f : FmtE) (s : State) : Host.Outcome State Fault Refusal :=
  run s (vuIssue .rsqrt e f)

/-- VTANH: tanh b (R140) (R136). -/
def execVtanh (e : EaselId) (f : FmtE) (s : State) : Host.Outcome State Fault Refusal :=
  run s (vuIssue .tanh e f)

/-- VSIGM: 1 / (1 + e^−b) (R140) (R136). -/
def execVsigm (e : EaselId) (f : FmtE) (s : State) : Host.Outcome State Fault Refusal :=
  run s (vuIssue .sigm e f)

/-- VSILU: b / (1 + e^−b) (R140) (R136). -/
def execVsilu (e : EaselId) (f : FmtE) (s : State) : Host.Outcome State Fault Refusal :=
  run s (vuIssue .silu e f)

/-- VGELU: b × Φ(b) (R140) (R136). -/
def execVgelu (e : EaselId) (f : FmtE) (s : State) : Host.Outcome State Fault Refusal :=
  run s (vuIssue .gelu e f)

/-- VSIN: sin b (R140) (R136). -/
def execVsin (e : EaselId) (f : FmtE) (s : State) : Host.Outcome State Fault Refusal :=
  run s (vuIssue .sin e f)

/-- VCOS: cos b (R140) (R136). -/
def execVcos (e : EaselId) (f : FmtE) (s : State) : Host.Outcome State Fault Refusal :=
  run s (vuIssue .cos e f)

/-- COPY (R142, R143). -/
def execCopy (e : EaselId) (f : FmtE) (s : State) : Host.Outcome State Fault Refusal :=
  run s (engIssue 0x18 0x00 .ce .copy (f.tdc == 0 && funcBelow f 2) (copyRegs f) copyChecks e f)

/-- GATHER (R145). -/
def execGather (e : EaselId) (f : FmtE) (s : State) : Host.Outcome State Fault Refusal :=
  run s (engIssue 0x18 0x01 .ce .gather (f.rs == 0 && funcBelow f 2) (fun _ => [])
    (indexChecks (·.ta) (·.tb)) e f)

/-- SCATTER (R145). -/
def execScatter (e : EaselId) (f : FmtE) (s : State) : Host.Outcome State Fault Refusal :=
  run s (engIssue 0x18 0x02 .ce .scatter (f.rs == 0 && funcBelow f 2) (fun _ => [])
    (indexChecks (·.tb) (·.ta)) e f)

end Sys2Proof.Machine
end

