-- ==== Sys2Proof/Machine/Dispatch.lean ====
section
/-! DEFINITION. The dispatch: each command to its meaning, one arm per constructor of `Instr`. -/

namespace Sys2Proof.Machine

-- The effect of a command on everything but the queue of waiting commands.
def exec (i : Instr) (s : State) : Host.Outcome State Fault Refusal :=
  match i with
  | .add e f => Sys2Proof.Machine.execAdd e f s
  | .sub e f => Sys2Proof.Machine.execSub e f s
  | .and e f => Sys2Proof.Machine.execAnd e f s
  | .or e f => Sys2Proof.Machine.execOr e f s
  | .xor e f => Sys2Proof.Machine.execXor e f s
  | .andn e f => Sys2Proof.Machine.execAndn e f s
  | .shl e f => Sys2Proof.Machine.execShl e f s
  | .shr e f => Sys2Proof.Machine.execShr e f s
  | .sar e f => Sys2Proof.Machine.execSar e f s
  | .ror e f => Sys2Proof.Machine.execRor e f s
  | .min e f => Sys2Proof.Machine.execMin e f s
  | .max e f => Sys2Proof.Machine.execMax e f s
  | .minu e f => Sys2Proof.Machine.execMinu e f s
  | .maxu e f => Sys2Proof.Machine.execMaxu e f s
  | .clz e f => Sys2Proof.Machine.execClz e f s
  | .ctz e f => Sys2Proof.Machine.execCtz e f s
  | .popc e f => Sys2Proof.Machine.execPopc e f s
  | .sel e f => Sys2Proof.Machine.execSel e f s
  | .mul e f => Sys2Proof.Machine.execMul e f s
  | .mulh e f => Sys2Proof.Machine.execMulh e f s
  | .mulhu e f => Sys2Proof.Machine.execMulhu e f s
  | .madd e f => Sys2Proof.Machine.execMadd e f s
  | .div e f => Sys2Proof.Machine.execDiv e f s
  | .divu e f => Sys2Proof.Machine.execDivu e f s
  | .rem e f => Sys2Proof.Machine.execRem e f s
  | .remu e f => Sys2Proof.Machine.execRemu e f s
  | .movi e f => Sys2Proof.Machine.execMovi e f s
  | .movhi e f => Sys2Proof.Machine.execMovhi e f s
  | .eq e f => Sys2Proof.Machine.execEq e f s
  | .ne e f => Sys2Proof.Machine.execNe e f s
  | .lt e f => Sys2Proof.Machine.execLt e f s
  | .ge e f => Sys2Proof.Machine.execGe e f s
  | .ltu e f => Sys2Proof.Machine.execLtu e f s
  | .geu e f => Sys2Proof.Machine.execGeu e f s
  | .test e f => Sys2Proof.Machine.execTest e f s
  | .pand e f => Sys2Proof.Machine.execPand e f s
  | .por e f => Sys2Proof.Machine.execPor e f s
  | .pxor e f => Sys2Proof.Machine.execPxor e f s
  | .pandn e f => Sys2Proof.Machine.execPandn e f s
  | .pnot e f => Sys2Proof.Machine.execPnot e f s
  | .pget e f => Sys2Proof.Machine.execPget e f s
  | .pset e f => Sys2Proof.Machine.execPset e f s
  | .b e f => Sys2Proof.Machine.execB e f s
  | .bz e f => Sys2Proof.Machine.execBz e f s
  | .bnz e f => Sys2Proof.Machine.execBnz e f s
  | .beq e f => Sys2Proof.Machine.execBeq e f s
  | .bne e f => Sys2Proof.Machine.execBne e f s
  | .blt e f => Sys2Proof.Machine.execBlt e f s
  | .bge e f => Sys2Proof.Machine.execBge e f s
  | .bltu e f => Sys2Proof.Machine.execBltu e f s
  | .bgeu e f => Sys2Proof.Machine.execBgeu e f s
  | .call e f => Sys2Proof.Machine.execCall e f s
  | .jalr e f => Sys2Proof.Machine.execJalr e f s
  | .ldb e f => Sys2Proof.Machine.execLdb e f s
  | .ldbu e f => Sys2Proof.Machine.execLdbu e f s
  | .ldh e f => Sys2Proof.Machine.execLdh e f s
  | .ldhu e f => Sys2Proof.Machine.execLdhu e f s
  | .ldw e f => Sys2Proof.Machine.execLdw e f s
  | .ldwu e f => Sys2Proof.Machine.execLdwu e f s
  | .ldd e f => Sys2Proof.Machine.execLdd e f s
  | .stb e f => Sys2Proof.Machine.execStb e f s
  | .sth e f => Sys2Proof.Machine.execSth e f s
  | .stw e f => Sys2Proof.Machine.execStw e f s
  | .std e f => Sys2Proof.Machine.execStd e f s
  | .storeDeferredFault e entry cls => Sys2Proof.Machine.execStoreDeferredFault e entry cls s
  | .csrr e f => Sys2Proof.Machine.execCsrr e f s
  | .csrw e f => Sys2Proof.Machine.execCsrw e f s
  | .csrs e f => Sys2Proof.Machine.execCsrs e f s
  | .csrc e f => Sys2Proof.Machine.execCsrc e f s
  | .tdw e f => Sys2Proof.Machine.execTdw e f s
  | .tdr e f => Sys2Proof.Machine.execTdr e f s
  | .tdmov e f => Sys2Proof.Machine.execTdmov e f s
  | .tdadd e f => Sys2Proof.Machine.execTdadd e f s
  | .tdclr e f => Sys2Proof.Machine.execTdclr e f s
  | .nop e f => Sys2Proof.Machine.execNop e f s
  | .exit e f => Sys2Proof.Machine.execExit e f s
  | .svc e f => Sys2Proof.Machine.execSvc e f s
  | .trap e f => Sys2Proof.Machine.execTrap e f s
  | .ifence e f => Sys2Proof.Machine.execIfence e f s
  | .srvsave e f => Sys2Proof.Machine.execSrvsave e f s
  | .srvload e f => Sys2Proof.Machine.execSrvload e f s
  | .srvsetctx e f => Sys2Proof.Machine.execSrvsetctx e f s
  | .srvret e f => Sys2Proof.Machine.execSrvret e f s
  | .srvstop e f => Sys2Proof.Machine.execSrvstop e f s
  | .serviceModeCommand e entry => Sys2Proof.Machine.execServiceModeCommand e entry s
  | .mma e f => Sys2Proof.Machine.execMma e f s
  | .accload e f => Sys2Proof.Machine.execAccload e f s
  | .accstore e f => Sys2Proof.Machine.execAccstore e f s
  | .convert e f => Sys2Proof.Machine.execConvert e f s
  | .anchor e f => Sys2Proof.Machine.execAnchor e f s
  | .vadd e f => Sys2Proof.Machine.execVadd e f s
  | .vsub e f => Sys2Proof.Machine.execVsub e f s
  | .vmul e f => Sys2Proof.Machine.execVmul e f s
  | .vfma e f => Sys2Proof.Machine.execVfma e f s
  | .vdiv e f => Sys2Proof.Machine.execVdiv e f s
  | .vmin e f => Sys2Proof.Machine.execVmin e f s
  | .vmax e f => Sys2Proof.Machine.execVmax e f s
  | .vsqrt e f => Sys2Proof.Machine.execVsqrt e f s
  | .vcvt e f => Sys2Proof.Machine.execVcvt e f s
  | .vrsum e f => Sys2Proof.Machine.execVrsum e f s
  | .vrmax e f => Sys2Proof.Machine.execVrmax e f s
  | .vrmin e f => Sys2Proof.Machine.execVrmin e f s
  | .vcmplt e f => Sys2Proof.Machine.execVcmplt e f s
  | .vcmpeq e f => Sys2Proof.Machine.execVcmpeq e f s
  | .vexp e f => Sys2Proof.Machine.execVexp e f s
  | .vexp2 e f => Sys2Proof.Machine.execVexp2 e f s
  | .vlog2 e f => Sys2Proof.Machine.execVlog2 e f s
  | .vln e f => Sys2Proof.Machine.execVln e f s
  | .vrcp e f => Sys2Proof.Machine.execVrcp e f s
  | .vrsqrt e f => Sys2Proof.Machine.execVrsqrt e f s
  | .vtanh e f => Sys2Proof.Machine.execVtanh e f s
  | .vsigm e f => Sys2Proof.Machine.execVsigm e f s
  | .vsilu e f => Sys2Proof.Machine.execVsilu e f s
  | .vgelu e f => Sys2Proof.Machine.execVgelu e f s
  | .vsin e f => Sys2Proof.Machine.execVsin e f s
  | .vcos e f => Sys2Proof.Machine.execVcos e f s
  | .copy e f => Sys2Proof.Machine.execCopy e f s
  | .gather e f => Sys2Proof.Machine.execGather e f s
  | .scatter e f => Sys2Proof.Machine.execScatter e f s
  | .engineStart e q => Sys2Proof.Machine.execEngineStart e q s
  | .meIdleTimeout e => Sys2Proof.Machine.execMeIdleTimeout e s
  | .engineInstructionComplete e q serial errors => Sys2Proof.Machine.execEngineInstructionComplete e q serial errors s
  | .engineFault e q serial cls addr done => Sys2Proof.Machine.execEngineFault e q serial cls addr done s
  | .signal e f => Sys2Proof.Machine.execSignal e f s
  | .wait e f => Sys2Proof.Machine.execWait e f s
  | .syncrd e f => Sys2Proof.Machine.execSyncrd e f s
  | .syncset e f => Sys2Proof.Machine.execSyncset e f s
  | .syncWaitTimeout e => Sys2Proof.Machine.execSyncWaitTimeout e s
  | .barrierReleaseTime obj => Sys2Proof.Machine.execBarrierReleaseTime obj s
  | .remoteTransactionTimeout tag => Sys2Proof.Machine.execRemoteTransactionTimeout tag s
  | .swap e scope f => Sys2Proof.Machine.execSwap e scope f s
  | .cas e scope f => Sys2Proof.Machine.execCas e scope f s
  | .aadd e scope f => Sys2Proof.Machine.execAadd e scope f s
  | .aand e scope f => Sys2Proof.Machine.execAand e scope f s
  | .aor e scope f => Sys2Proof.Machine.execAor e scope f s
  | .axor e scope f => Sys2Proof.Machine.execAxor e scope f s
  | .amin e scope f => Sys2Proof.Machine.execAmin e scope f s
  | .amax e scope f => Sys2Proof.Machine.execAmax e scope f s
  | .aminu e scope f => Sys2Proof.Machine.execAminu e scope f s
  | .amaxu e scope f => Sys2Proof.Machine.execAmaxu e scope f s
  | .anadd64 e scope f => Sys2Proof.Machine.execAnadd64 e scope f s
  | .anadd128 e scope f => Sys2Proof.Machine.execAnadd128 e scope f s
  | .release e f => Sys2Proof.Machine.execRelease e f s
  | .releaseAction e q serial => Sys2Proof.Machine.execReleaseAction e q serial s
  | .acquire e f => Sys2Proof.Machine.execAcquire e f s
  | .fence e f => Sys2Proof.Machine.execFence e f s
  | .sketch e f => Sys2Proof.Machine.execSketch e f s
  | .sketchr e f => Sys2Proof.Machine.execSketchr e f s
  | .varnish e f => Sys2Proof.Machine.execVarnish e f s
  | .varnishPoint e => Sys2Proof.Machine.execVarnishPoint e s
  | .scrape e f => Sys2Proof.Machine.execScrape e f s
  | .scrapePoint e => Sys2Proof.Machine.execScrapePoint e s
  | .skocc e f => Sys2Proof.Machine.execSkocc e f s
  | .sketchFold p slotBad => Sys2Proof.Machine.execSketchFold p slotBad s
  | .sketchSlotZero p => Sys2Proof.Machine.execSketchSlotZero p s
  | .coll e f => Sys2Proof.Machine.execColl e f s
  | .collAccept e slot => Sys2Proof.Machine.execCollAccept e slot s
  | .collReadyReceive ix => Sys2Proof.Machine.execCollReadyReceive ix s
  | .collGrantReceive ix => Sys2Proof.Machine.execCollGrantReceive ix s
  | .collReadyResend slot => Sys2Proof.Machine.execCollReadyResend slot s
  | .collCountsReceive ix => Sys2Proof.Machine.execCollCountsReceive ix s
  | .collDataReceive ix => Sys2Proof.Machine.execCollDataReceive ix s
  | .collComplete slot => Sys2Proof.Machine.execCollComplete slot s
  | .collTimeout slot => Sys2Proof.Machine.execCollTimeout slot s
  | .glzbind e f => Sys2Proof.Machine.execGlzbind e f s
  | .glzstat e f => Sys2Proof.Machine.execGlzstat e f s
  | .glzstop e f => Sys2Proof.Machine.execGlzstop e f s
  | .glazeBind slot => Sys2Proof.Machine.execGlazeBind slot s
  | .glazeBlockVerify slot pathError => Sys2Proof.Machine.execGlazeBlockVerify slot pathError s
  | .glazeGateTake slot => Sys2Proof.Machine.execGlazeGateTake slot s
  | .glazeEntryComplete slot => Sys2Proof.Machine.execGlazeEntryComplete slot s
  | .glzSlotRelease r slot => Sys2Proof.Machine.execGlzSlotRelease r slot s
  | .packetRoute ix => Sys2Proof.Machine.execPacketRoute ix s
  | .mcastForward ix => Sys2Proof.Machine.execMcastForward ix s
  | .circuitForward ix => Sys2Proof.Machine.execCircuitForward ix s
  | .remoteWriteReceive ix => Sys2Proof.Machine.execRemoteWriteReceive ix s
  | .remoteWriteFinalReceive ix => Sys2Proof.Machine.execRemoteWriteFinalReceive ix s
  | .finalStreamAbandon ix => Sys2Proof.Machine.execFinalStreamAbandon ix s
  | .remoteReadRequestReceive ix => Sys2Proof.Machine.execRemoteReadRequestReceive ix s
  | .readResponseReceive ix => Sys2Proof.Machine.execReadResponseReceive ix s
  | .atomicRequestReceive ix => Sys2Proof.Machine.execAtomicRequestReceive ix s
  | .writeResponseReceive ix => Sys2Proof.Machine.execWriteResponseReceive ix s
  | .syncOperationReceive ix => Sys2Proof.Machine.execSyncOperationReceive ix s
  | .syncResponseReceive ix => Sys2Proof.Machine.execSyncResponseReceive ix s
  | .circuitDownNotice ix => Sys2Proof.Machine.execCircuitDownNotice ix s
  | .flitReceive port flit fecTouched fec => Sys2Proof.Machine.execFlitReceive port flit fecTouched fec s
  | .flitTransmit port => Sys2Proof.Machine.execFlitTransmit port s
  | .timingFlitReceive port stamp => Sys2Proof.Machine.execTimingFlitReceive port stamp s
  | .ftcExchangePeriod => Sys2Proof.Machine.execFtcExchangePeriod s
  | .ftcHoldoverSwitch => Sys2Proof.Machine.execFtcHoldoverSwitch s
  | .ftcMasterSyncTimeout => Sys2Proof.Machine.execFtcMasterSyncTimeout s
  | .ftcSet r value => Sys2Proof.Machine.execFtcSet r value s
  | .ftcSnapArm r value => Sys2Proof.Machine.execFtcSnapArm r value s
  | .ftcSnapshot => Sys2Proof.Machine.execFtcSnapshot s
  | .portTrainingComplete port result => Sys2Proof.Machine.execPortTrainingComplete port result s
  | .portTrainingTimeout port => Sys2Proof.Machine.execPortTrainingTimeout port s
  | .portAutoUpRetry port => Sys2Proof.Machine.execPortAutoUpRetry port s
  | .degradeWindowEnd port => Sys2Proof.Machine.execDegradeWindowEnd port s
  | .laneDegrade port => Sys2Proof.Machine.execLaneDegrade port s
  | .laneLossOfLock port lane => Sys2Proof.Machine.execLaneLossOfLock port lane s
  | .retrainComplete port good => Sys2Proof.Machine.execRetrainComplete port good s
  | .retrainTimeout port => Sys2Proof.Machine.execRetrainTimeout port s
  | .linkDown port => Sys2Proof.Machine.execLinkDown port s
  | .errRetrainFull r port => Sys2Proof.Machine.execErrRetrainFull r port s
  | .errSaveEq r port => Sys2Proof.Machine.execErrSaveEq r port s
  | .errAcceptMiswire r port => Sys2Proof.Machine.execErrAcceptMiswire r port s
  | .stallWatchdogExpire port vc => Sys2Proof.Machine.execStallWatchdogExpire port vc s
  | .cmapSample => Sys2Proof.Machine.execCmapSample s
  | .cmapWindowEnd => Sys2Proof.Machine.execCmapWindowEnd s
  | .commitGo r blk => Sys2Proof.Machine.execCommitGo r blk s
  | .commitGoLock r blk => Sys2Proof.Machine.execCommitGoLock r blk s
  | .commitDiscard r blk => Sys2Proof.Machine.execCommitDiscard r blk s
  | .commitApply blk => Sys2Proof.Machine.execCommitApply blk s
  | .registerWrite r off size data poisoned => Sys2Proof.Machine.execRegisterWrite r off size data poisoned s
  | .registerReadLowHalf r off size => Sys2Proof.Machine.execRegisterReadLowHalf r off size s
  | .counterWriteClear r off => Sys2Proof.Machine.execCounterWriteClear r off s
  | .patrolScrubRead m errors => Sys2Proof.Machine.execPatrolScrubRead m errors s
  | .canvasTempSample sensor reading => Sys2Proof.Machine.execCanvasTempSample sensor reading s
  | .canvasRefreshRestore die => Sys2Proof.Machine.execCanvasRefreshRestore die s
  | .lpddr6Recentre ch => Sys2Proof.Machine.execLpddr6Recentre ch s
  | .lpddr6ChannelRetrain ch phase => Sys2Proof.Machine.execLpddr6ChannelRetrain ch phase s
  | .lpddr6RetrainTimeout ch => Sys2Proof.Machine.execLpddr6RetrainTimeout ch s
  | .lpddr6TempRead pkg reading => Sys2Proof.Machine.execLpddr6TempRead pkg reading s
  | .cmdNop fn => Sys2Proof.Machine.execCmdNop fn s
  | .cmdSyncSignal fn => Sys2Proof.Machine.execCmdSyncSignal fn s
  | .cmdFence fn => Sys2Proof.Machine.execCmdFence fn s
  | .commandFetch fn => Sys2Proof.Machine.execCommandFetch fn s
  | .hifDbCmdqTail fn a => Sys2Proof.Machine.execHifDbCmdqTail fn a s
  | .hifDbCplqHead fn a => Sys2Proof.Machine.execHifDbCplqHead fn a s
  | .hifDbEvrHead fn a => Sys2Proof.Machine.execHifDbEvrHead fn a s
  | .hifCmdqEnable fn ctl => Sys2Proof.Machine.execHifCmdqEnable fn ctl s
  | .bar2Read fn off len => Sys2Proof.Machine.execBar2Read fn off len s
  | .bar2Write fn off data poisoned => Sys2Proof.Machine.execBar2Write fn off data poisoned s
  | .functionLevelReset fn => Sys2Proof.Machine.execFunctionLevelReset fn s
  | .perstAssert => Sys2Proof.Machine.execPerstAssert s
  | .perstDeassert => Sys2Proof.Machine.execPerstDeassert s
  | .pcieLinkStateChange link => Sys2Proof.Machine.execPcieLinkStateChange link s
  | .eventRaise src payload => Sys2Proof.Machine.execEventRaise src payload s
  | .pinFilterAccept pin asserted => Sys2Proof.Machine.execPinFilterAccept pin asserted s
  | .eventArbitrate => Sys2Proof.Machine.execEventArbitrate s
  | .eventRecordDeliver => Sys2Proof.Machine.execEventRecordDeliver s
  | .ctxCreate fn => Sys2Proof.Machine.execCtxCreate fn s
  | .ctxAlloc fn => Sys2Proof.Machine.execCtxAlloc fn s
  | .ctxRelease fn => Sys2Proof.Machine.execCtxRelease fn s
  | .ctxStart fn => Sys2Proof.Machine.execCtxStart fn s
  | .ctxStop fn => Sys2Proof.Machine.execCtxStop fn s
  | .ctxResume fn => Sys2Proof.Machine.execCtxResume fn s
  | .ctxDestroy fn => Sys2Proof.Machine.execCtxDestroy fn s
  | .ctxSched fn => Sys2Proof.Machine.execCtxSched fn s
  | .ctxAssign fn => Sys2Proof.Machine.execCtxAssign fn s
  | .ctxPerfRead fn => Sys2Proof.Machine.execCtxPerfRead fn s
  | .ctxQuery fn => Sys2Proof.Machine.execCtxQuery fn s
  | .wkeyGenkem fn => Sys2Proof.Machine.execWkeyGenkem fn s
  | .wkeyInstall fn => Sys2Proof.Machine.execWkeyInstall fn s
  | .wkeyClear fn => Sys2Proof.Machine.execWkeyClear fn s
  | .jobkeyInstall fn => Sys2Proof.Machine.execJobkeyInstall fn s
  | .jobkeySend fn => Sys2Proof.Machine.execJobkeySend fn s
  | .jobkeyRetire fn => Sys2Proof.Machine.execJobkeyRetire fn s
  | .capList fn => Sys2Proof.Machine.execCapList fn s
  | .capRead fn => Sys2Proof.Machine.execCapRead fn s
  | .capRelease fn => Sys2Proof.Machine.execCapRelease fn s
  | .ctxRecover fn => Sys2Proof.Machine.execCtxRecover fn s
  | .engineReset fn => Sys2Proof.Machine.execEngineReset fn s
  | .partitionReset fn => Sys2Proof.Machine.execPartitionReset fn s
  | .chipReset fn => Sys2Proof.Machine.execChipReset fn s
  | .capConfig fn => Sys2Proof.Machine.execCapConfig fn s
  | .sketchRegion e => Sys2Proof.Machine.execSketchRegion e s
  | .syncRange e => Sys2Proof.Machine.execSyncRange e s
  | .group e => Sys2Proof.Machine.execGroup e s
  | .notify e => Sys2Proof.Machine.execNotify e s
  | .yield e => Sys2Proof.Machine.execYield e s
  | .quantumExpire p => Sys2Proof.Machine.execQuantumExpire p s
  | .contextSwitch ps target => Sys2Proof.Machine.execContextSwitch ps target s
  | .copyTransactionAbandon tag => Sys2Proof.Machine.execCopyTransactionAbandon tag s
  | .contextExitComplete c => Sys2Proof.Machine.execContextExitComplete c s
  | .gessoStepsEnd c => Sys2Proof.Machine.execGessoStepsEnd c s
  | .zeroingPageFree page => Sys2Proof.Machine.execZeroingPageFree page s
  | .getVersion t session => Sys2Proof.Machine.execGetVersion t session s
  | .getCapabilities t session => Sys2Proof.Machine.execGetCapabilities t session s
  | .negotiateAlgorithms t session offer => Sys2Proof.Machine.execNegotiateAlgorithms t session offer s
  | .getDigests t session => Sys2Proof.Machine.execGetDigests t session s
  | .getCertificate t session => Sys2Proof.Machine.execGetCertificate t session s
  | .challenge t session nonce => Sys2Proof.Machine.execChallenge t session nonce s
  | .getMeasurements t session index nonce => Sys2Proof.Machine.execGetMeasurements t session index nonce s
  | .keyExchange t session ek => Sys2Proof.Machine.execKeyExchange t session ek s
  | .finish t session verify => Sys2Proof.Machine.execFinish t session verify s
  | .heartbeat t session => Sys2Proof.Machine.execHeartbeat t session s
  | .keyUpdate t session => Sys2Proof.Machine.execKeyUpdate t session s
  | .endSession t session => Sys2Proof.Machine.execEndSession t session s
  | .getCtxEvidence t session c nonce => Sys2Proof.Machine.execGetCtxEvidence t session c nonce s
  | .ideKm session req => Sys2Proof.Machine.execIdeKm session req s
  | .tdisp session vf req => Sys2Proof.Machine.execTdisp session vf req s
  | .powerEstimate est me => Sys2Proof.Machine.execPowerEstimate est me s
  | .powerMeasure mv ma => Sys2Proof.Machine.execPowerMeasure mv ma s
  | .gainRecalibrate => Sys2Proof.Machine.execGainRecalibrate s
  | .shortLoopUpdate => Sys2Proof.Machine.execShortLoopUpdate s
  | .sustainedLoopUpdate => Sys2Proof.Machine.execSustainedLoopUpdate s
  | .boostTargetUpdate => Sys2Proof.Machine.execBoostTargetUpdate s
  | .throttleIntervalEnd => Sys2Proof.Machine.execThrottleIntervalEnd s
  | .pwrCapWrite r short watts => Sys2Proof.Machine.execPwrCapWrite r short watts s
  | .pwrLatTolWrite r tol => Sys2Proof.Machine.execPwrLatTolWrite r tol s
  | .idleEntry => Sys2Proof.Machine.execIdleEntry s
  | .idleExit cause => Sys2Proof.Machine.execIdleExit cause s
  | .pwrwarnAssert => Sys2Proof.Machine.execPwrwarnAssert s
  | .pwrwarnRelease => Sys2Proof.Machine.execPwrwarnRelease s
  | .undervoltageWarning mv => Sys2Proof.Machine.execUndervoltageWarning mv s
  | .undervoltageRelease => Sys2Proof.Machine.execUndervoltageRelease s
  | .droopCut die => Sys2Proof.Machine.execDroopCut die s
  | .droopRelease die => Sys2Proof.Machine.execDroopRelease die s
  | .leakTraceMeasure a b => Sys2Proof.Machine.execLeakTraceMeasure a b s
  | .leakTraceChange trace => Sys2Proof.Machine.execLeakTraceChange trace s
  | .thermalLoopUpdate => Sys2Proof.Machine.execThermalLoopUpdate s
  | .sensorCheck faulty => Sys2Proof.Machine.execSensorCheck faulty s
  | .thermalTrip cause => Sys2Proof.Machine.execThermalTrip cause s
  | .sampleSetPublish set => Sys2Proof.Machine.execSampleSetPublish set s
  | .digestCompare d0 d1 pass0 pass1 => Sys2Proof.Machine.execDigestCompare d0 d1 pass0 pass1 s
  | .leaseRenew ix => Sys2Proof.Machine.execLeaseRenew ix s
  | .leaseExpire => Sys2Proof.Machine.execLeaseExpire s
  | .supSwap r ix => Sys2Proof.Machine.execSupSwap r ix s
  | .supRestart r ix => Sys2Proof.Machine.execSupRestart r ix s
  | .supSyncComplete ix => Sys2Proof.Machine.execSupSyncComplete ix s
  | .engineWatchdogExpire e q serial => Sys2Proof.Machine.execEngineWatchdogExpire e q serial s
  | .knownAnswerRun e first second => Sys2Proof.Machine.execKnownAnswerRun e first second s
  | .engineRecovery e trigger kat kat2 => Sys2Proof.Machine.execEngineRecovery e trigger kat kat2 s
  | .partitionRecovery p trigger failing => Sys2Proof.Machine.execPartitionRecovery p trigger failing s
  | .chipRecovery trigger failing => Sys2Proof.Machine.execChipRecovery trigger failing s
  | .captureBoundExpire id => Sys2Proof.Machine.execCaptureBoundExpire id s
  | .recoveryEscalationTimeout u => Sys2Proof.Machine.execRecoveryEscalationTimeout u s
  | .cpSilenceTimeout core => Sys2Proof.Machine.execCpSilenceTimeout core s
  | .powerCycleRequest trigger => Sys2Proof.Machine.execPowerCycleRequest trigger s
  | .powerOn pos refclk => Sys2Proof.Machine.execPowerOn pos refclk s
  | .coldBoot env => Sys2Proof.Machine.execColdBoot env s
  | .bootReady => Sys2Proof.Machine.execBootReady s
  | .supplyShutdown high => Sys2Proof.Machine.execSupplyShutdown high s
  | .refclkLoss => Sys2Proof.Machine.execRefclkLoss s
  | .refclkRestore => Sys2Proof.Machine.execRefclkRestore s
  | .bruFieldClear r index => Sys2Proof.Machine.execBruFieldClear r index s
  | .fwuRaiseFloor r => Sys2Proof.Machine.execFwuRaiseFloor r s
  | .raiseFloor m => Sys2Proof.Machine.execRaiseFloor m s
  | .fwuActivate r slot mode => Sys2Proof.Machine.execFwuActivate r slot mode s
  | .activate m slot mode => Sys2Proof.Machine.execActivate m slot mode s
  | .updBegin m header => Sys2Proof.Machine.execUpdBegin m header s
  | .updData m off data flashOk => Sys2Proof.Machine.execUpdData m off data flashOk s
  | .updEnd m readBack => Sys2Proof.Machine.execUpdEnd m readBack s
  | .updAbort m => Sys2Proof.Machine.execUpdAbort m s
  | .query m => Sys2Proof.Machine.execQuery m s
  | .updSessionTimeout => Sys2Proof.Machine.execUpdSessionTimeout s
  | .handoverQuiescent => Sys2Proof.Machine.execHandoverQuiescent s
  | .handoverRecordRead accept => Sys2Proof.Machine.execHandoverRecordRead accept s
  | .activationQuiesceTimeout => Sys2Proof.Machine.execActivationQuiesceTimeout s
  | .supervisorUpdate => Sys2Proof.Machine.execSupervisorUpdate s
  | .i3cWrite off data => Sys2Proof.Machine.execI3cWrite off data s
  | .i3cRead off => Sys2Proof.Machine.execI3cRead off s
  | .i3cLostTransaction => Sys2Proof.Machine.execI3cLostTransaction s
  | .setdasa static dynamic => Sys2Proof.Machine.execSetdasa static dynamic s
  | .entdaa dynamic => Sys2Proof.Machine.execEntdaa dynamic s
  | .telemetryRecord => Sys2Proof.Machine.execTelemetryRecord s
  | .powerOnHour => Sys2Proof.Machine.execPowerOnHour s
  | .pcieCompletion tag result => Sys2Proof.Machine.execPcieCompletion tag result s
  | .configurationRequest fn req => Sys2Proof.Machine.execConfigurationRequest fn req s
  | .engineBoundaryTimeout e => Sys2Proof.Machine.execEngineBoundaryTimeout e s
  | .supervisorSyncTimeout ix => Sys2Proof.Machine.execSupervisorSyncTimeout ix s
  | .holdoverSyncedClear => Sys2Proof.Machine.execHoldoverSyncedClear s
  | .neighbourDiscovery msg => Sys2Proof.Machine.execNeighbourDiscovery msg s
  | .icmpv6Echo msg => Sys2Proof.Machine.execIcmpv6Echo msg s

end Sys2Proof.Machine
end

