-- ==== Sys2Proof/Machine/Tick.lean ====
section
/-! DEFINITION. The passage of one nanosecond, which a step takes when no command waits (assumption 2). -/

namespace Sys2Proof.Machine

/-- The FTC advances by one nanosecond, slewing by at most 200 parts per million (R321, R324). -/
def Ftc.tick (f : Ftc) : Ftc :=
  let d : Int := max (-200) (min 200 f.owed)
  let x : Nat := ((f.frac : Int) + 1000000 + d).toNat
  { f with count := f.count + x / 1000000, frac := x % 1000000, owed := f.owed - d }

/-- The stall watchdogs of an UP port count while flits of a VC wait (R353). -/
def Port.tick (vcs : List Nat) (p : Port) : Port :=
  if p.state ≠ 2 then p
  else
    { p with stall := (List.range 8).foldl (fun m v =>
        SMap.set 0 m v (if vcs.contains v then SMap.get 0 m v + 1 else 0)) p.stall }

/-- One nanosecond of residence less is left of a WAIT's timeout (R280, R284). -/
def WaitFor.tick : WaitFor → WaitFor
  | .sync o (some n) => .sync o (some (n - 1))
  | .waitRoom o t c (some n) => .waitRoom o t c (some (n - 1))
  | w => w

def Blocked.tick (b : Blocked) : Blocked := { b with what := b.what.tick }

/-- An executing instruction's nanosecond: with `off` it is none of the watchdog's time (R489), and an MMA that F
below 64 holds back counts it (R154). -/
def QEntry.tick (off slow : Bool) (i : QEntry) : QEntry :=
  if !i.started then i
  else { i with since := if off then i.since + 1 else i.since
                slow := if slow && i.op == .mma && mmaWork i then i.slow + 1 else i.slow }

/-- The next matrix instruction of an easel waits to start. -/
def meWaits (x : Easel) : Bool := x.me.head?.any (fun i => !i.started)

/-- A resident context's cycle count, the residence time of its WAIT and the time of its engine instructions (Table 3-2,
R284, R489), the time since its stop and the part of a cycle for which its matrix engine has been held; `f` is F in
force, `held` that its engines are held under R364. -/
def Easel.tick (f : Nat) (held : Bool) (x : Easel) : Easel :=
  let x1 := { x with svcBlocked := x.svcBlocked.map Blocked.tick }
  if x.loaded.isNone then x1
  else
    let work := QEntry.tick (f == 0 || held) (decide (f < 64))
    { x1 with
      core := { x.core with mcycles := x.core.mcycles + x.clockMhz }
      stopNs := if x.stopped then x.stopNs + 1 else 0
      colHeld := if held && meWaits x then (x.colHeld + x.clockMhz) % 1000 else x.colHeld
      blocked := x.blocked.map Blocked.tick, me := x.me.map work, vu := x.vu.map work, ce := x.ce.map work }

/-- Performs a request of a function (R389, R409). -/
def hostReq (h : Hw) (f : FnId) : HostReq → Hw
  | .bar2Read off len => bar2Get h f off len
  | .bar2Write off data poisoned => bar2Set h f off data poisoned
  | .regRead off size => regGet h (.fn f) off size
  | .regWrite off size data poisoned => regSet h (.fn f) off size data poisoned
  | .cmdqTail a => ringCmdqTail h f a
  | .cplqHead a => ringCplqHead h f a
  | .evrHead a => ringEvrHead h f a

/-- The first request of a function still waits (R180). -/
def hostReqWaits (h : Hw) (f : FnId) : HostReq → Bool
  | .bar2Read off len => bar2Waits h f off len
  | .bar2Write off data poisoned => !poisoned && bar2Waits h f off data.length
  | _ => false

/-- The requests of a function that waited are performed in order, as far as no channel in retraining stops them. -/
def drainHost (f : FnId) : List HostReq → Hw → Hw
  | [], h => h.modFn f (fun x => { x with waiting := [] })
  | q :: l, h =>
    if hostReqWaits h f q then h.modFn f (fun x => { x with waiting := q :: l }) else drainHost f l (hostReq h f q)

/-- The host's waiting requests go on. -/
def drainHosts (h : Hw) : Hw :=
  h.hif.fns.foldl (fun g p =>
    if p.2.waiting.isEmpty then g else drainHost (Fin.ofNat 64 p.1) p.2.waiting g) h

/-- What waited for room, for a channel or for the end of another instruction goes on: cores, copy engines, glaze
streams, collectives and the host's requests. -/
def goOn (h : Hw) : Hw :=
  let h1 := h.easels.foldl (fun g p => let e : EaselId := Fin.ofNat 208 p.1; pumpCe (settle g e) e) h
  drainHosts (startColls (readStreams h1))

/-- A loaded context has run one nanosecond more. -/
def Ctx.tick (c : Ctx) : Ctx := if c.state = 3 then { c with ranFor := c.ranFor + 1 } else c

/-- Cycles for which collectives held an easel's matrix instruction, counter 2 (R364, Table 14-12). -/
def heldPerf (h : Hw) (x : Easel) : Hw :=
  match x.loaded with
  | some c => if colBusy h c && meWaits x then perfAdd h c 2 ((x.colHeld + x.clockMhz) / 1000) else h
  | none => h

/-- Nanoseconds loaded on a partition, counter 14 (Table 14-12), and the cycles that collectives held matrix engines. -/
def tickPerf (h : Hw) : Hw :=
  let h1 := allCtx.foldl (fun g c => if h.ctxs.loaded.any (fun p => p.2 == c) then perfAdd g c 14 1 else g) h
  h.easels.foldl (fun g p => heldPerf g p.2) h1

/-- One nanosecond of the hardware; leak clamps whose hold time has passed end, and quiet time is kept. -/
def Hw.tick (h : Hw) : Hw :=
  let h1 := tickPerf h
  goOn (keepQuiet (leakPinsDue { h1 with
    now := h1.now + 1
    ftc := h1.ftc.tick
    ports := h1.ports.map (fun p => (p.1, p.2.tick (stallVcs h1 (Fin.ofNat 12 p.1))))
    easels := h1.easels.map (fun p =>
      let e : EaselId := Fin.ofNat 208 p.1
      (p.1, p.2.tick (easelF h1 e) (p.2.loaded.any (colBusy h1))))
    ctxs := { h1.ctxs with tab := h1.ctxs.tab.map (fun p => (p.1, p.2.tick)) } }))

/-- One nanosecond passes. -/
def tick (s : State) : State := { s with hw := s.hw.tick }

end Sys2Proof.Machine
end

