-- ==== Sys2Proof/Safety.lean ====
section
/-! DEFINITION. What counts as a safe step, the invariants that statements use, and the vocabulary of the
statements: what an instruction needs to issue, and how the state after a command differs from the state
before it. -/

namespace Sys2Proof

open Sys2Proof.Machine

/-- A step is safe where it answers a next state: no command of the block stops the machine. -/
def Safe (s : State) : Prop := ∃ t, Machine.step s = .next t

/-- The three memories are in canonical form. -/
def MemInv (s : State) : Prop := s.hw.mem.wf = true

/-- The command answers a next state, and that state has the property. -/
def Yields (i : Instr) (s : State) (P : State → Prop) : Prop := ∃ t, Machine.exec i s = .next t ∧ P t

/-! ### Instructions of an easel core -/

/-- The guard field of an instruction word names a predicate that is true (R86). -/
abbrev GuardHolds (x : Easel) (pneg : Bool) (pred : BitVec 3) : Prop := x.cur.pget pred ≠ pneg

/-- The core of easel `e` stands at an instruction that it may issue: the easel is in force and its core is
neither stopped nor waiting, the fetch meets no fault and has no bit error to correct (PrivilegedInstructionsRunInServiceMode says what one
that corrects does beside). -/
abbrev AtInstruction (s : State) (e : EaselId) : Prop :=
  coreReady s.hw e = true ∧ fetchFault s.hw e = none ∧
    ((s.hw.easel e).service = true ∨ s.hw.mem.corrected (s.hw.easel e).core.pc.toNat 8 = 0)

/-- The instruction with this guard issues. -/
abbrev Issues (s : State) (e : EaselId) (pneg : Bool) (pred : BitVec 3) : Prop :=
  AtInstruction s e ∧ GuardHolds (s.hw.easel e) pneg pred

/-- The registers of the mode in force on easel `e`. -/
def regsOf (s : State) (e : EaselId) : CoreRegs := (s.hw.easel e).cur

/-- Nothing but easel `e` has changed. -/
def OnlyEasel (s t : State) (e : EaselId) : Prop :=
  t.pending = s.pending ∧ { t.hw with easels := s.hw.easels } = s.hw ∧
    ∀ e', e' ≠ e → t.hw.easel e' = s.hw.easel e'

/-- Nothing but the registers of the mode in force on easel `e` has changed. -/
def OnlyRegs (s t : State) (e : EaselId) : Prop :=
  OnlyEasel s t e ∧ t.hw.easel e = (s.hw.easel e).setCur (regsOf t e)

/-- The serial counter after an instruction: it counts the instructions of context mode (R83). -/
def serialAfter (s : State) (e : EaselId) : Word :=
  if (s.hw.easel e).service then (regsOf s e).serial else (regsOf s e).serial + 1

/-- The instruction has completed at `pc` with no register changed. -/
def MovesTo (s t : State) (e : EaselId) (pc : Word) : Prop :=
  OnlyRegs s t e ∧
    regsOf t e = { regsOf s e with pc := pc, serial := serialAfter s e }

/-- The registers in force after an instruction that wrote `v` to scalar register `rd`, s0 discarding the write,
and went on at `pc`: no other register has changed. -/
def RegWritten (s t : State) (e : EaselId) (rd : BitVec 5) (v pc : Word) : Prop :=
  (regsOf t e).get rd = (if rd = 0 then 0 else v) ∧
    (∀ i, i ≠ rd → (regsOf t e).get i = (regsOf s e).get i) ∧
    { regsOf t e with s := (regsOf s e).s } =
      { regsOf s e with pc := pc, serial := serialAfter s e }

/-- The registers in force after an instruction that only went on. -/
def WentOn (s t : State) (e : EaselId) : Prop :=
  regsOf t e = { regsOf s e with pc := (regsOf s e).pc + 8, serial := serialAfter s e }

/-- The instruction has written a scalar register and gone on, and nothing else has changed. -/
def WritesAndGoes (s t : State) (e : EaselId) (rd : BitVec 5) (v pc : Word) : Prop :=
  OnlyRegs s t e ∧ RegWritten s t e rd v pc

/-- The same, going on at the next instruction. -/
def WritesS (s t : State) (e : EaselId) (rd : BitVec 5) (v : Word) : Prop :=
  WritesAndGoes s t e rd v ((regsOf s e).pc + 8)

/-- The instruction has written predicate register `i`, p0 discarding the write. -/
def WritesP (s t : State) (e : EaselId) (i : BitVec 3) (b : Bool) : Prop :=
  OnlyRegs s t e ∧ (regsOf t e).pget i = (if i = 0 then true else b) ∧
    (∀ j, j ≠ i → (regsOf t e).pget j = (regsOf s e).pget j) ∧
    { regsOf t e with p := (regsOf s e).p } =
      { regsOf s e with pc := (regsOf s e).pc + 8, serial := serialAfter s e }

/-- The core of easel `e` has taken a precise fault of the instruction it stood at (R112, R113): cs_fclass names
the class, with bits 8 and 9, cs_fpc, cs_fserial and cs_finst the instruction and cs_faddr the address, no
register has changed, and the core issues nothing more for its context. -/
def FaultsPrecisely (s t : State) (e : EaselId) (cls : BitVec 8) (addr inst : Word) : Prop :=
  regsOf t e = regsOf s e ∧ coreReady t.hw e = false ∧ t.pending = s.pending ∧
    (t.hw.easel e).csr.fclass = (cls.setWidth 64 ||| 0x300) ∧
    (t.hw.easel e).csr.fpc = (regsOf s e).pc ∧ (t.hw.easel e).csr.fserial = (regsOf s e).serial ∧
    (t.hw.easel e).csr.faddr = addr ∧ (t.hw.easel e).csr.finst = inst

/-- Context `c` is running and has no fault. -/
abbrev RunsClean (s : State) (c : CtxId) : Prop := (s.hw.ctx c).state = 3 ∧ (s.hw.ctx c).faults = []

/-- Context `c` has become FAULTED with this primary fault (R487, R488). -/
def TakesPrimary (t : State) (c : CtxId) (cls : BitVec 8) (addr : Word) : Prop :=
  (t.hw.ctx c).state = 6 ∧
    ∃ r, (t.hw.ctx c).faults = [r] ∧ r.cls = cls ∧ r.addr = addr ∧ r.primary = true

/-- rs1, rs2, rs3 as the instruction finds them. -/
def FmtA.a (f : FmtA) (s : State) (e : EaselId) : Word := (regsOf s e).get f.rs1
def FmtA.b (f : FmtA) (s : State) (e : EaselId) : Word := (regsOf s e).get f.rs2
def FmtA.c (f : FmtA) (s : State) (e : EaselId) : Word := (regsOf s e).get f.rs3

/-- The operands of a scalar or compare instruction in either form (R88). -/
def FmtAI.a (f : FmtAI) (s : State) (e : EaselId) : Word :=
  match f with
  | .reg f => (regsOf s e).get f.rs1
  | .imm f => (regsOf s e).get f.rs1
def FmtAI.b (f : FmtAI) (s : State) (e : EaselId) : Word :=
  match f with
  | .reg f => (regsOf s e).get f.rs2
  | .imm f => f.imm.signExtend 64
def FmtAI.rd : FmtAI → BitVec 5
  | .reg f => f.rd
  | .imm f => f.rd
def FmtAI.pneg : FmtAI → Bool
  | .reg f => f.pneg
  | .imm f => f.pneg
def FmtAI.pred : FmtAI → BitVec 3
  | .reg f => f.pred
  | .imm f => f.pred

/-- The fields that a form must hold at zero are zero (R87). -/
abbrev FmtAI.legal : FmtAI → Prop
  | .reg f => f.rs3 = 0 ∧ f.low = 0
  | .imm _ => True

/-- The address of a load or store: s[rs1] + imm38 (R97). -/
def FmtI.addr (f : FmtI) (s : State) (e : EaselId) : Word :=
  (regsOf s e).get f.rs1 + f.imm.signExtend 64

/-! ### Memory -/

/-- An access to bytes [a, a+n) meets no bit error, at home, in a varnished slot not yet folded or on an on-die path,
and no LPDDR6 channel that retrains. -/
abbrev CleanWords (s : State) (a n : Nat) : Prop :=
  s.hw.mem.corrected a n = 0 ∧ s.hw.mem.badRead a n = none ∧ s.hw.mem.pathBad a n = none ∧
    chanWaits s.hw a n = false

/-- No store of easel `x` waits for an LPDDR6 channel that retrains (R180). -/
abbrev NoneDrains (x : Easel) : Prop := ∀ b ∈ x.sb, b.kind = .store → b.tag = none → b.cls ≠ 0

/-- The same for an access that this module makes for another, with no channel of it marked down. -/
abbrev CleanHere (s : State) (a n : Nat) : Prop := CleanWords s a n ∧ chanDown s.hw a n = false

/-- Nothing of easel `x` but its core's present wait can go on when a transaction ends: service mode does not wait, no
store waits for a channel, and the copy engine executes nothing. -/
abbrev OnlyCoreWaits (x : Easel) : Prop :=
  x.svcBlocked = none ∧ NoneDrains x ∧ ∀ i ∈ x.ce, i.started = true → i.op.isRelease = true

/-- Outstanding requests are as before, but that the data of some may no longer stay as prefetch lines (R255). -/
def SameReqs (s t : State) : Prop :=
  t.hw.reqs.map (fun r => { r with fresh := true }) = s.hw.reqs.map (fun r => { r with fresh := true })

/-- Nothing but the easels, memory and the freshness of reads for prefetch lines has changed. -/
def OnlyMemory (s t : State) (e : EaselId) : Prop :=
  (∀ e', e' ≠ e → t.hw.easel e' = s.hw.easel e') ∧
    { t.hw with easels := s.hw.easels, mem := s.hw.mem, reqs := s.hw.reqs } = s.hw ∧ SameReqs s t ∧
    t.pending = s.pending

/-- The two's complement value of the low `n` bits. -/
def signedValue (n v : Nat) : Int := (BitVec.ofNat n v).toInt


/-! ### Events and packets -/

/-- Event source `src` is pending with this payload (R402). -/
def Pends (t : State) (src payload : Nat) : Prop :=
  bit (t.hw.reg (0x40200 + 8 * (src / 64))) (src % 64) = true ∧
    SMap.get 0 t.hw.evc.payload src = BitVec.ofNat 32 payload

/-- Counter at BAR0 offset `off` has counted `n` more, stopping at 2^32 - 1 (R193). -/
def Counts (s t : State) (off n : Nat) : Prop :=
  t.hw.reg off = BitVec.ofNat 64 (min ((s.hw.reg off).toNat + n) (2 ^ 32 - 1))

/-- The packets of a state's router that wait for a port. -/
def queueAt (s : State) (p : PortId) : List QPkt := (s.hw.port p).txq

/-- Packet `i` before the router has left it, and memory and easels are as before. -/
def LeavesInput (s t : State) (i : Nat) : Prop :=
  t.hw.rte.inq = s.hw.rte.inq.eraseIdx i ∧ t.hw.mem = s.hw.mem ∧ t.hw.easels = s.hw.easels

/-- One response to the request with header `x` stands last before the router (R317): for its source, with
its tag, sealed under the request's key unless it comes back to this module (R29, R316). -/
def Responds (s t : State) (x : Hdr) (k : Plain) (vc typ : Nat) (body : Bytes) (status : BitVec 8) : Prop :=
  ∃ q, t.hw.rte.inq = s.hw.rte.inq ++ [q] ∧ q.inPort = none ∧
    q.pkt.hdr.dst = x.src ∧ q.pkt.hdr.src = s.hw.fa ∧ q.pkt.hdr.vc = vc ∧ q.pkt.hdr.typ = typ ∧
    q.pkt.hdr.len = body.length ∧ q.pkt.hdr.tag = x.tag ∧ q.pkt.hdr.status = status ∧
    (x.src = s.hw.fa → q.pkt.body = body) ∧
    ∀ key, SMap.find s.hw.sec.jobKeys k.idx = some key → q.pkt.hdr.key = key.id ∧
      (x.src ≠ s.hw.fa → q.pkt.hdr.nonce = key.nonce ∧
        (q.pkt.body, q.pkt.tag) = gcmSeal key.key q.pkt.hdr.nonceBytes q.pkt.hdr.aad body ∧
        (SMap.find t.hw.sec.jobKeys k.idx).map (·.nonce) = some (key.nonce + 1))

/-- The key of an opened packet still holds nonces. -/
def MayAnswer (s : State) (k : Plain) : Prop :=
  ∃ key, SMap.find s.hw.sec.jobKeys k.idx = some key ∧ key.nonce < 2 ^ 56

/-- Packet `q` with type `typ` is the `i`-th received here, waits neither for one before it nor for a channel in
retraining, and opens as `k` (R180, R277, R319). -/
abbrev Opens (s : State) (i : Nat) (q : QPkt) (typ : Nat) (k : Plain) : Prop :=
  s.hw.rte.localq[i]? = some q ∧ q.pkt.hdr.typ = typ ∧ nextHere s.hw i q = true ∧ peerWaits s.hw q.pkt.hdr = false ∧
    (openPkt s.hw q q.pkt.hdr).2 = some k

/-! ### Register writes and ports -/

/-- A 64-bit write by the requester reaches the register: the register is open to it, its writes of it are not
ignored, and it holds no half of an earlier access (R43, R389, R393). -/
abbrev MayWriteReg (s : State) (r : Requester) (b : BlockId) (o : Nat) : Prop :=
  performs s.hw r b o = true ∧ mayWrite s.hw r b o = true ∧
    SMap.find s.hw.regs.whold (latchKey r b) = none

/-- The port has moved to a state with these lanes and raised the link event (R310). -/
def PortMoves (s t : State) (i : PortId) (st : BitVec 3) (lanes : BitVec 8) : Prop :=
  (t.hw.port i).state = st ∧ (t.hw.port i).lanes = lanes ∧ (t.hw.port i).since = s.hw.now ∧
    Pends t 0x0C0 (i.val + (s.hw.port i).state.toNat * 16 + st.toNat * 256 + popc 8 lanes.toNat * 4096)

/-- The port, which held no packet, has entered DOWN: its link starts afresh, it is counted, and every up
circuit with a side on it is broken (R314, R351). -/
def PortDown (s t : State) (i : PortId) : Prop :=
  PortMoves s t i 4 0 ∧ queueAt t i = [] ∧ (t.hw.port i).replay = [] ∧ (t.hw.port i).txNext = 0 ∧
    (t.hw.port i).rxExpect = 0 ∧ Counts s t (blkBase (.err i) + 0x68) 1 ∧
    (∀ id, id < 4096 → cState (s.hw.circ id) = 1 → (cOther (s.hw.circ id) i.val).isSome = true →
      t.hw.circ id = setFld (s.hw.circ id) 24 2 2) ∧
    t.hw.mem = s.hw.mem

/-! ### Recovery, host queues -/

/-- The module has asked for a power cycle for this trigger (R504): FAULT# is asserted, the compute dies are off,
every port is OFF, no recovery goes on, event 0x047 is pending. -/
def AsksPowerCycle (t : State) (trigger : BitVec 8) : Prop :=
  t.hw.flt.powerCycle = true ∧ t.hw.flt.recoveries = [] ∧ t.hw.pins.fault = true ∧ t.hw.pins.computeOn = false ∧
    t.hw.tray.pcRequest = true ∧ (∀ p, (t.hw.port p).state = 0) ∧ Pends t 0x047 trigger.toNat

/-- The recovery of a unit has begun now (R495, R501 to R503): its easels issue nothing, a capture of its level is
open for its trigger; for the chip FAULT# is asserted and the module is not ready. -/
def BeginsRecovery (s t : State) (u : RecUnit) (trigger : BitVec 8) : Prop :=
  (∃ r, t.hw.flt.recoveries.getLast? = some r ∧ r.unit = u ∧ r.trigger = trigger ∧ r.start = s.hw.now) ∧
    (∃ c ∈ t.hw.flt.captures, c.isOpen = true ∧ c.level = recLevel u ∧ c.trigger = trigger ∧
      c.ftcStart = s.hw.ftcNow) ∧
    (∀ e ∈ unitEasels s.hw u, (t.hw.easel e).stopped = true) ∧
    (u = .chip → t.hw.pins.fault = true ∧ t.hw.bru.ready = false)

/-- The command at the front of function `f`'s queue, and the only one there, is `c` with opcode `op`; it may start,
its reserved bits are zero, and its completion can be written at once (R396 to R398). -/
abbrev Fronts (s : State) (f : FnId) (op : Nat) (named : Bool) (masks : List Word) (c : HostCmd) : Prop :=
  (s.hw.fn f).fetched = [c] ∧ c.op = op ∧ (c.barrier = false ∨ (s.hw.fn f).inProgress = []) ∧
    (s.hw.fn f).inProgress.length < 256 ∧ wordsOk c named masks = true ∧ (s.hw.fn f).cplWait = [] ∧ cplOn s.hw f = true ∧ cplFull s.hw f = false ∧
    s.hw.hostUp = true

/-- The command has left the queue and completed with a status and a result: one entry with its tag, opcode's
status and context has been written at the tail, its phase in the last word (R397, R398). -/
def Completes (s t : State) (f : FnId) (c : HostCmd) (status : BitVec 8) (result : Nat) : Prop :=
  let x := s.hw.fn f
  let at_ := (s.hw.reg (hifOff f 0x30)).toNat + 16 * x.cplTail.toNat
  let w0 := put c.tag.toNat 0 16 ||| put status.toNat 16 8 ||| put (wfld (nthW c.words 0) 8 6) 24 6 |||
    put c.head.toNat 32 32
  (t.hw.fn f).fetched = [] ∧ (t.hw.fn f).inProgress = x.inProgress ∧
    (t.hw.fn f).cplTail = ringNext x.cplTail (cplSize s.hw f) ∧
    (∀ o ∈ s.hw.out, o ∈ t.hw.out) ∧
    .hostWrite (BitVec.ofNat 64 at_) (wBytes w0) false ∈ t.hw.out ∧
    .hostWrite (BitVec.ofNat 64 (at_ + 8)) (wBytes (put result 0 63 ||| bitw x.cplPhase 63)) false ∈ t.hw.out

/-- The hardware as a command that names a context finds it: the command has left the queue, and the dispatch
acquire of its context is done (R263). -/
def Started (s : State) (f : FnId) (c : HostCmd) : Hw :=
  dispatchAcquire (s.hw.modFn f (fun x => { x with fetched := x.fetched.drop 1 })) c.ctx

/-- The command has left the queue and stays in progress, with no completion yet. -/
def Holds (s t : State) (f : FnId) (c : HostCmd) : Prop :=
  (t.hw.fn f).fetched = [] ∧
    (t.hw.fn f).inProgress = (s.hw.fn f).inProgress ++ [{ cmd := c, silent := false }] ∧
    (t.hw.fn f).cplTail = (s.hw.fn f).cplTail

/-- A context has moved to a state, with event 0x140 (R414). -/
def CtxMoves (t : State) (c : CtxId) (st : BitVec 3) : Prop :=
  (t.hw.ctx c).state = st ∧ Pends t 0x140 (c.val + st.toNat * 256)

end Sys2Proof
end

