-- ==== Sys2Proof/Certificates/Slice0/Obligations.lean ====
section
/-! DEFINITION. What this model promises, stated from the numbered rules of the manual.  Each docstring names the
rules; what rests on a choice of the model says so and names its log entry. -/

open Sys2Proof Sys2Proof.Machine

/-- R88, R89, Table 3-8: results of the scalar instructions, and their frame.  CLZ, CTZ and POPC are said by
what their result counts. -/
def Obligations.ScalarInstructionsWriteTableResult : Prop :=
  ∀ (s : State) (e : EaselId),
    (∀ f : FmtAI, Issues s e f.pneg f.pred → f.legal →
      let a := f.a s e
      let b := f.b s e
      let n := b.toNat % 64
      Yields (.add e f) s (fun t => WritesS s t e f.rd (BitVec.ofNat 64 (a.toNat + b.toNat))) ∧
      Yields (.sub e f) s (fun t => WritesS s t e f.rd (BitVec.ofInt 64 (a.toInt - b.toInt))) ∧
      Yields (.and e f) s (fun t => WritesS s t e f.rd (a &&& b)) ∧
      Yields (.or e f) s (fun t => WritesS s t e f.rd (a ||| b)) ∧
      Yields (.xor e f) s (fun t => WritesS s t e f.rd (a ^^^ b)) ∧
      Yields (.andn e f) s (fun t => WritesS s t e f.rd (a &&& ~~~b)) ∧
      Yields (.shl e f) s (fun t => WritesS s t e f.rd (BitVec.ofNat 64 (a.toNat * 2 ^ n))) ∧
      Yields (.shr e f) s (fun t => WritesS s t e f.rd (BitVec.ofNat 64 (a.toNat / 2 ^ n))) ∧
      Yields (.sar e f) s (fun t => WritesS s t e f.rd (BitVec.ofInt 64 (a.toInt / 2 ^ n))) ∧
      Yields (.ror e f) s (fun t => WritesS s t e f.rd (a >>> n ||| a <<< (64 - n))) ∧
      Yields (.min e f) s (fun t => WritesS s t e f.rd (if a.toInt ≤ b.toInt then a else b)) ∧
      Yields (.max e f) s (fun t => WritesS s t e f.rd (if a.toInt ≤ b.toInt then b else a)) ∧
      Yields (.minu e f) s (fun t => WritesS s t e f.rd (if a.toNat ≤ b.toNat then a else b)) ∧
      Yields (.maxu e f) s (fun t => WritesS s t e f.rd (if a.toNat ≤ b.toNat then b else a))) ∧
    (∀ f : FmtA, Issues s e f.pneg f.pred → f.rs3 = 0 → f.low = 0 →
      let a := f.a s e
      let b := f.b s e
      (f.rs2 = 0 →
        Yields (.clz e f) s (fun t => ∃ n ≤ 64, WritesS s t e f.rd (BitVec.ofNat 64 n) ∧
          (∀ k < n, a.getLsbD (63 - k) = false) ∧ (n < 64 → a.getLsbD (63 - n) = true)) ∧
        Yields (.ctz e f) s (fun t => ∃ n ≤ 64, WritesS s t e f.rd (BitVec.ofNat 64 n) ∧
          (∀ k < n, a.getLsbD k = false) ∧ (n < 64 → a.getLsbD n = true)) ∧
        Yields (.popc e f) s (fun t =>
          WritesS s t e f.rd (BitVec.ofNat 64 ((List.range 64).countP (fun k => a.getLsbD k))))) ∧
      Yields (.mul e f) s (fun t => WritesS s t e f.rd (BitVec.ofNat 64 (a.toNat * b.toNat))) ∧
      Yields (.mulh e f) s (fun t => WritesS s t e f.rd (BitVec.ofInt 64 (a.toInt * b.toInt / 2 ^ 64))) ∧
      Yields (.mulhu e f) s (fun t => WritesS s t e f.rd (BitVec.ofNat 64 (a.toNat * b.toNat / 2 ^ 64))) ∧
      Yields (.div e f) s (fun t => WritesS s t e f.rd (if b = 0 then BitVec.ofInt 64 (-1)
        else if a.toInt = -2 ^ 63 ∧ b.toInt = -1 then a else BitVec.ofInt 64 (a.toInt.tdiv b.toInt))) ∧
      Yields (.rem e f) s (fun t => WritesS s t e f.rd (if b = 0 then a
        else if a.toInt = -2 ^ 63 ∧ b.toInt = -1 then 0
        else BitVec.ofInt 64 (a.toInt - b.toInt * a.toInt.tdiv b.toInt))) ∧
      Yields (.divu e f) s (fun t => WritesS s t e f.rd (if b = 0 then BitVec.ofNat 64 (2 ^ 64 - 1)
        else BitVec.ofNat 64 (a.toNat / b.toNat))) ∧
      Yields (.remu e f) s (fun t => WritesS s t e f.rd (if b = 0 then a
        else BitVec.ofNat 64 (a.toNat % b.toNat)))) ∧
    (∀ f : FmtA, Issues s e f.pneg f.pred → f.low = 0 →
      Yields (.madd e f) s (fun t => WritesS s t e f.rd
        (BitVec.ofNat 64 ((f.a s e).toNat * (f.b s e).toNat + (f.c s e).toNat))) ∧
      (f.rs3.toNat < 8 → Yields (.sel e f) s (fun t => WritesS s t e f.rd
        (if (regsOf s e).pget (f.rs3.setWidth 3) then f.a s e else f.b s e)))) ∧
    (∀ f : FmtI, Issues s e f.pneg f.pred →
      (f.rs1 = 0 → Yields (.movi e f) s (fun t => WritesS s t e f.rd (f.imm.signExtend 64))) ∧
      (f.imm.toNat < 2 ^ 32 → Yields (.movhi e f) s (fun t =>
        WritesS s t e f.rd (f.imm.setWidth 32 ++ ((regsOf s e).get f.rs1).setWidth 32))))


/-- R90 and R91. -/
def Obligations.ComparesAndPredicateLogicWritePredicates : Prop :=
  ∀ (s : State) (e : EaselId),
    (∀ f : FmtAI, Issues s e f.pneg f.pred → f.legal → f.rd.toNat < 8 →
      let a := f.a s e
      let b := f.b s e
      let p := f.rd.setWidth 3
      Yields (.eq e f) s (fun t => WritesP s t e p (decide (a = b))) ∧
      Yields (.ne e f) s (fun t => WritesP s t e p (decide (a ≠ b))) ∧
      Yields (.lt e f) s (fun t => WritesP s t e p (decide (a.toInt < b.toInt))) ∧
      Yields (.ge e f) s (fun t => WritesP s t e p (decide (b.toInt ≤ a.toInt))) ∧
      Yields (.ltu e f) s (fun t => WritesP s t e p (decide (a.toNat < b.toNat))) ∧
      Yields (.geu e f) s (fun t => WritesP s t e p (decide (b.toNat ≤ a.toNat))) ∧
      Yields (.test e f) s (fun t => WritesP s t e p (decide (a &&& b ≠ 0)))) ∧
    (∀ f : FmtA, Issues s e f.pneg f.pred → f.rs3 = 0 → f.low = 0 →
      let a := (regsOf s e).pget (f.rs1.setWidth 3)
      let b := (regsOf s e).pget (f.rs2.setWidth 3)
      let p := f.rd.setWidth 3
      Yields (.pand e f) s (fun t => WritesP s t e p (a && b)) ∧
      Yields (.por e f) s (fun t => WritesP s t e p (a || b)) ∧
      Yields (.pxor e f) s (fun t => WritesP s t e p (a != b)) ∧
      Yields (.pandn e f) s (fun t => WritesP s t e p (a && !b)) ∧
      (f.rs2 = 0 → Yields (.pnot e f) s (fun t => WritesP s t e p (!a))) ∧
      (f.rs1 = 0 → f.rs2 = 0 → Yields (.pget e f) s (fun t => ∃ v : Word, WritesS s t e f.rd v ∧
        (∀ i : BitVec 3, v.getLsbD i.toNat = (regsOf s e).pget i) ∧ v.toNat < 256)) ∧
      (f.rd = 0 → f.rs2 = 0 → Yields (.pset e f) s (fun t => OnlyRegs s t e ∧
        (∀ i : BitVec 3, (regsOf t e).pget i = (if i = 0 then true else (f.a s e).getLsbD i.toNat)) ∧
        { regsOf t e with p := (regsOf s e).p } =
          { regsOf s e with pc := (regsOf s e).pc + 8, serial := serialAfter s e })))


/-- R92 and R93. -/
def Obligations.BranchesAndJumpsGoToTheirTarget : Prop :=
  ∀ (s : State) (e : EaselId),
    let pc := (regsOf s e).pc
    (∀ f : FmtB, Issues s e f.pneg f.pred →
      let a := (regsOf s e).get f.rs1
      let b := (regsOf s e).get f.rs2
      let target := BitVec.ofInt 64 (pc.toInt + f.off.toInt * 8)
      let goes (taken : Bool) (t : State) : Prop := MovesTo s t e (if taken then target else pc + 8)
      (f.rd = 0 →
        (f.rs1 = 0 → f.rs2 = 0 → Yields (.b e f) s (goes true)) ∧
        (f.rs2 = 0 → Yields (.bz e f) s (goes (decide (a = 0))) ∧
          Yields (.bnz e f) s (goes (decide (a ≠ 0)))) ∧
        Yields (.beq e f) s (goes (decide (a = b))) ∧
        Yields (.bne e f) s (goes (decide (a ≠ b))) ∧
        Yields (.blt e f) s (goes (decide (a.toInt < b.toInt))) ∧
        Yields (.bge e f) s (goes (decide (b.toInt ≤ a.toInt))) ∧
        Yields (.bltu e f) s (goes (decide (a.toNat < b.toNat))) ∧
        Yields (.bgeu e f) s (goes (decide (b.toNat ≤ a.toNat)))) ∧
      (f.rs1 = 0 → f.rs2 = 0 → Yields (.call e f) s (fun t => WritesAndGoes s t e f.rd (pc + 8) target))) ∧
    (∀ f : FmtI, Issues s e f.pneg f.pred →
      let target := f.addr s e
      (target.toNat % 8 = 0 → Yields (.jalr e f) s (fun t => WritesAndGoes s t e f.rd (pc + 8) target)) ∧
      (target.toNat % 8 ≠ 0 → Yields (.jalr e f) s (fun t =>
        FaultsPrecisely s t e 0x35 target (wordI 0x09 0x01 f))))

/-- R97 to R99 for local memory: `coreDecode` is the decoding that R98 names. -/
def Obligations.LocalLoadsReturnMemoryBytes : Prop :=
  ∀ (s : State) (e : EaselId) (f : FmtI) (off : Nat), Issues s e f.pneg f.pred →
    coreDecode s.hw (s.hw.easel e) (f.addr s e) = .local off →
    let loads (i : Instr) (n : Nat) (signed : Bool) : Prop :=
      off % n = 0 → CleanWords s off n → sbHolds (s.hw.easel e) (f.addr s e) n = false →
        Yields i s (fun t => WritesS s t e f.rd
          (if signed then BitVec.ofInt 64 (signedValue (8 * n) (leNat (s.hw.mem.read off n)))
           else BitVec.ofNat 64 (leNat (s.hw.mem.read off n))))
    loads (.ldb e f) 1 true ∧ loads (.ldbu e f) 1 false ∧ loads (.ldh e f) 2 true ∧
      loads (.ldhu e f) 2 false ∧ loads (.ldw e f) 4 true ∧ loads (.ldwu e f) 4 false ∧
      loads (.ldd e f) 8 false


/-- R97, R100 for local memory: the address stored to is the one that `coreDecode` gives. -/
def Obligations.LocalStoresWriteOnlyTheirBytes : Prop :=
  ∀ (s : State) (e : EaselId) (f : FmtI) (off : Nat), Issues s e f.pneg f.pred →
    coreDecode s.hw (s.hw.easel e) (f.addr s e) = .local off → (s.hw.easel e).sb.length < 16 →
    let stores (i : Instr) (n : Nat) : Prop :=
      off % n = 0 → CleanWords s off n → sbHolds (s.hw.easel e) (f.addr s e) n = false →
        Yields i s (fun t =>
          (∀ k < n, t.hw.mem.byte (off + k) = BitVec.ofNat 8 (((regsOf s e).get f.rd).toNat / 256 ^ k)) ∧
          (∀ a, a < off ∨ off + n ≤ a → t.hw.mem.byte a = s.hw.mem.byte a) ∧
          (∀ w, t.hw.mem.bad w = true → s.hw.mem.bad w = true) ∧
          (∀ w, 8 * w + 8 ≤ off ∨ off + n ≤ 8 * w → t.hw.mem.bad w = s.hw.mem.bad w) ∧
          regsOf t e = { regsOf s e with pc := (regsOf s e).pc + 8, serial := serialAfter s e } ∧
          OnlyMemory s t e)
    stores (.stb e f) 1 ∧ stores (.sth e f) 2 ∧ stores (.stw e f) 4 ∧ stores (.std e f) 8


/-- R97, R98 and R113: the two precise faults, for every load and store of local memory. -/
def Obligations.MisalignedAccessFaultsAndMovesNothing : Prop :=
  ∀ (s : State) (e : EaselId) (f : FmtI) (off : Nat) (cls : BitVec 8), Issues s e f.pneg f.pred →
    let misaligned (i : Instr) (w : Word) (n : Nat) : Prop :=
      coreDecode s.hw (s.hw.easel e) (f.addr s e) = .local off → off % n ≠ 0 →
        Yields i s (fun t => FaultsPrecisely s t e 0x14 (f.addr s e) w ∧
          ∀ a, t.hw.mem.byte a = s.hw.mem.byte a)
    let refused (i : Instr) (w : Word) (n : Nat) : Prop :=
      coreDecode s.hw (s.hw.easel e) (f.addr s e) = .fault cls →
        let c : BitVec 8 := if cls = 0x06 ∧ (f.addr s e).toNat % n ≠ 0 then 0x14 else cls
        Yields i s (fun t => FaultsPrecisely s t e c (f.addr s e) w ∧
          ∀ a, t.hw.mem.byte a = s.hw.mem.byte a)
    (misaligned (.ldh e f) (wordI 0x0C 0x02 f) 2 ∧ misaligned (.ldhu e f) (wordI 0x0C 0x03 f) 2 ∧
      misaligned (.ldw e f) (wordI 0x0C 0x04 f) 4 ∧ misaligned (.ldwu e f) (wordI 0x0C 0x05 f) 4 ∧
      misaligned (.ldd e f) (wordI 0x0C 0x06 f) 8 ∧ misaligned (.sth e f) (wordI 0x0D 0x01 f) 2 ∧
      misaligned (.stw e f) (wordI 0x0D 0x02 f) 4 ∧ misaligned (.std e f) (wordI 0x0D 0x03 f) 8) ∧
    (refused (.ldb e f) (wordI 0x0C 0x00 f) 1 ∧ refused (.ldbu e f) (wordI 0x0C 0x01 f) 1 ∧
      refused (.ldh e f) (wordI 0x0C 0x02 f) 2 ∧ refused (.ldhu e f) (wordI 0x0C 0x03 f) 2 ∧
      refused (.ldw e f) (wordI 0x0C 0x04 f) 4 ∧ refused (.ldwu e f) (wordI 0x0C 0x05 f) 4 ∧
      refused (.ldd e f) (wordI 0x0C 0x06 f) 8 ∧ refused (.stb e f) (wordI 0x0D 0x00 f) 1 ∧
      refused (.sth e f) (wordI 0x0D 0x01 f) 2 ∧ refused (.stw e f) (wordI 0x0D 0x02 f) 4 ∧
      refused (.std e f) (wordI 0x0D 0x03 f) 8)

/-- R84 and R103: `csrRead` is what a control register reads as, none where Table 3-2 lists none. -/
def Obligations.ControlRegisterInstructionsReadAndWrite : Prop :=
  ∀ (s : State) (e : EaselId) (f : FmtC), Issues s e f.pneg f.pred → f.low = 0 →
    let n := f.csr.toNat
    let v := (regsOf s e).get f.rs1
    let inReach := n < 0x100 ∨ (s.hw.easel e).service = true
    let stores (i : Instr) (new : Word → Word) : Prop :=
      ∀ old, csrRead s.hw e n = some old →
        Yields i s (fun t => OnlyEasel s t e ∧ csrRead t.hw e n = some (new old) ∧
          (∀ m, m ≠ n → m ≠ 2 → csrRead t.hw e m = csrRead s.hw e m) ∧
          (∀ k, (regsOf t e).get k = if k = 0 then 0 else if k = f.rd then old else (regsOf s e).get k) ∧
          (regsOf t e).pc = (regsOf s e).pc + 8 ∧ (regsOf t e).p = (regsOf s e).p ∧
          (regsOf t e).td = (regsOf s e).td ∧ (regsOf t e).serial = serialAfter s e)
    let rw := (0x10 ≤ n ∧ n ≤ 0x13) ∨ (n = 0x100 ∧ (s.hw.easel e).service = true)
    (rw → stores (.csrw e f) (fun _ => v) ∧ stores (.csrs e f) (fun old => old ||| v) ∧
      stores (.csrc e f) (fun old => old &&& ~~~v)) ∧
    (n = 1 → stores (.csrw e f) (fun old => (old &&& 0x3FFF &&& ~~~v) ||| (v &&& 0x13F0000)) ∧
      stores (.csrs e f) (fun old => old ||| (v &&& 0x13F0000)) ∧
      stores (.csrc e f) (fun old => old &&& ~~~(v &&& 0x13F0000))) ∧
    (∀ old, csrRead s.hw e n = some old → inReach →
      (f.rs1 = 0 → Yields (.csrr e f) s (fun t => WritesS s t e f.rd old)) ∧
      (n ≠ 1 → ¬ rw →
        Yields (.csrs e f) s (fun t => WritesS s t e f.rd old) ∧
        Yields (.csrc e f) s (fun t => WritesS s t e f.rd old) ∧
        Yields (.csrw e f) s (fun t => FaultsPrecisely s t e 0x33 0 (wordC 0x10 0x01 f)))) ∧
    ((csrRead s.hw e n = none ∨ ¬ inReach) →
      (f.rs1 = 0 → Yields (.csrr e f) s (fun t => FaultsPrecisely s t e 0x33 0 (wordC 0x10 0x00 f))) ∧
      Yields (.csrw e f) s (fun t => FaultsPrecisely s t e 0x33 0 (wordC 0x10 0x01 f)) ∧
      Yields (.csrs e f) s (fun t => FaultsPrecisely s t e 0x33 0 (wordC 0x10 0x02 f)) ∧
      Yields (.csrc e f) s (fun t => FaultsPrecisely s t e 0x33 0 (wordC 0x10 0x03 f)))


/-- Tables 3-2 to 3-4, field by field. -/
def Obligations.ControlRegistersShowTheEaselState : Prop :=
  ∀ (s : State) (e : EaselId),
    let x := s.hw.easel e
    let field (n lo len : Nat) : Option Nat := (csrRead s.hw e n).map (fun w => w.toNat / 2 ^ lo % 2 ^ len)
    let one (b : Bool) : Option Nat := some (if b then 1 else 0)
    field 0x000 0 1 = one x.service ∧ field 0x000 1 1 = one s.hw.bru.numbering ∧
    field 0x000 2 1 = one x.core.sketch ∧ field 0x000 4 60 = some 0 ∧
    csrRead s.hw e 0x001 = some (regsOf s e).arith ∧ csrRead s.hw e 0x002 = some (regsOf s e).serial ∧
    csrRead s.hw e 0x004 = some (BitVec.ofNat 64 s.hw.ftc.count) ∧
    field 0x005 0 8 = some e.val ∧ field 0x005 16 1 = some (e.val / 104) ∧
    field 0x005 17 2 = some (e.val / 52) ∧ field 0x005 19 3 = some (e.val % 104 / 13) ∧
    field 0x005 22 4 = some (e.val % 13) ∧ field 0x005 26 38 = some 0 ∧
    field 0x006 0 6 = some (x.csCtx.toNat % 64) ∧ field 0x006 16 16 = some (x.csCtx.toNat / 65536) ∧
    (x.me.length ≤ 64 → field 0x008 0 7 = some x.me.length) ∧
    (x.vu.length ≤ 64 → field 0x008 8 7 = some x.vu.length) ∧
    (x.ce.length ≤ 64 → field 0x008 16 7 = some x.ce.length) ∧
    csrRead s.hw e 0x100 = some x.csr.epc ∧ csrRead s.hw e 0x101 = some x.csr.fclass ∧
    csrRead s.hw e 0x102 = some x.csr.fserial ∧ csrRead s.hw e 0x103 = some x.csr.fpc ∧
    csrRead s.hw e 0x104 = some x.csr.faddr ∧ csrRead s.hw e 0x105 = some x.csr.finst ∧
    (∀ n, (9 ≤ n ∧ n < 0x10) ∨ (0x14 ≤ n ∧ n < 0x100) ∨ 0x106 ≤ n ∨ n = 7 → csrRead s.hw e n = none)


/-- R105: `tdw r t k` is word k of descriptor t. -/
def Obligations.TileDescriptorInstructionsWriteTheirWords : Prop :=
  ∀ (s : State) (e : EaselId) (f : FmtT), Issues s e f.pneg f.pred → f.low = 0 →
    let r := regsOf s e
    let puts (i : Instr) (new : BitVec 2 → Option Word) : Prop :=
      Yields i s (fun t => OnlyRegs s t e ∧
        (∀ d k, (regsOf t e).tdw d k =
          if d = f.td then (new k).getD (r.tdw d k) else r.tdw d k) ∧
        { regsOf t e with td := r.td } = { r with pc := r.pc + 8, serial := serialAfter s e })
    (f.rd = 0 → f.td2 = 0 →
      puts (.tdw e f) (fun k => if k = f.word then some (r.get f.rs1) else none) ∧
      (f.word = 0 → puts (.tdadd e f) (fun k => if k = 0 then some (r.tdw f.td 0 + r.get f.rs1) else none))) ∧
    (f.rs1 = 0 → f.td2 = 0 → Yields (.tdr e f) s (fun t => WritesS s t e f.rd (r.tdw f.td f.word))) ∧
    (f.rd = 0 → f.rs1 = 0 → f.word = 0 →
      puts (.tdmov e f) (fun k => some (r.tdw f.td2 k)) ∧
      (f.td2 = 0 → puts (.tdclr e f) (fun _ => some 0)))

/-- R107; the status of an unknown service is that of R424. -/
def Obligations.SystemInstructionsTakeTheirEffect : Prop :=
  ∀ (s : State) (e : EaselId) (f : FmtI), Issues s e f.pneg f.pred → f.rd = 0 → f.rs1 = 0 →
    let r := regsOf s e
    let x := s.hw.easel e
    (f.imm = 0 →
      Yields (.nop e f) s (fun t => MovesTo s t e (r.pc + 8)) ∧
      Yields (.ifence e f) s (fun t => MovesTo s t e (r.pc + 8)) ∧
      (x.service = false → Yields (.exit e f) s (fun t => OnlyEasel s t e ∧
        t.hw.easel e = { x with exited := true, core := { r with pc := r.pc + 8, serial := r.serial + 1 } } ∧
        coreReady t.hw e = false))) ∧
    (f.imm.toNat < 2 ^ 16 → x.service = false →
      (1 ≤ f.imm.toNat ∧ f.imm.toNat ≤ 5 → Yields (.svc e f) s (fun t => OnlyEasel s t e ∧
        regsOf t e = r ∧ coreReady t.hw e = false ∧
        (t.hw.easel e).blocked.map (·.what) = some (.svc (f.imm.setWidth 16)))) ∧
      (f.imm.toNat = 0 ∨ 5 < f.imm.toNat → Yields (.svc e f) s (fun t =>
        (regsOf t e).get 2 = 1 ∧ (regsOf t e).pc = r.pc + 8 ∧ (regsOf t e).serial = r.serial + 1 ∧
        (∀ i, i ≠ 1 → i ≠ 2 → (regsOf t e).get i = r.get i) ∧ t.hw.mem = s.hw.mem))) ∧
    (f.imm.toNat < 2 ^ 16 →
      Yields (.trap e f) s (fun t => FaultsPrecisely s t e 0x37 (f.imm.setWidth 64) (wordI 0x3C 0x03 f)))


/-- R80, R96 and R108.  The layout of the save area and the faults of a bad one are the model's choice (assumption 23):
the statement says only that what SRVSAVE writes is what SRVLOAD loads.  `issue` is what every instruction of the core
is. -/
def Obligations.PrivilegedInstructionsRunInServiceMode : Prop :=
  ∀ (s : State) (e : EaselId) (f : FmtI),
    let r := regsOf s e
    let x := s.hw.easel e
    (Issues s e f.pneg f.pred → f.rd = 0 → f.imm = 0 →
      (x.service = false →
        Yields (.srvsave e f) s (fun t => FaultsPrecisely s t e 0x32 0 (wordI 0x3E 0x00 f)) ∧
        Yields (.srvload e f) s (fun t => FaultsPrecisely s t e 0x32 0 (wordI 0x3E 0x01 f)) ∧
        Yields (.srvsetctx e f) s (fun t => FaultsPrecisely s t e 0x32 0 (wordI 0x3E 0x02 f)) ∧
        (f.rs1 = 0 →
          Yields (.srvret e f) s (fun t => FaultsPrecisely s t e 0x32 0 (wordI 0x3E 0x03 f)) ∧
          Yields (.srvstop e f) s (fun t => FaultsPrecisely s t e 0x32 0 (wordI 0x3E 0x04 f)))) ∧
      (x.service = true →
        (∀ off, coreDecode s.hw x (r.get f.rs1) = .local off → off % 8 = 0 → chanWaits s.hw off saveLen = false →
          Yields (.srvsave e f) s (fun t => bytesWords 298 (t.hw.mem.read off saveLen) = saveWords x ∧
            (∀ a, a < off ∨ off + saveLen ≤ a → t.hw.mem.byte a = s.hw.mem.byte a) ∧
            regsOf t e = { r with pc := r.pc + 8 } ∧ (t.hw.easel e).core = x.core ∧
            { t.hw with easels := s.hw.easels, mem := s.hw.mem } = s.hw ∧ t.pending = s.pending) ∧
          (CleanWords s off saveLen →
            Yields (.srvload e f) s (fun t => OnlyEasel s t e ∧
              regsOf t e = { r with pc := r.pc + 8 } ∧
              (t.hw.easel e).core.pc = s.hw.mem.word off ∧
              (∀ i : BitVec 5, i ≠ 0 → (t.hw.easel e).core.get i = s.hw.mem.word (off + 8 * (i.toNat + 1))) ∧
              ∀ y : Easel, bytesWords 298 (s.hw.mem.read off saveLen) = saveWords y →
                let c := (t.hw.easel e).core
                c.pc = y.core.pc ∧ (∀ i, c.get i = y.core.get i) ∧ (∀ i, c.pget i = y.core.pget i) ∧
                  (∀ d k, c.tdw d k = y.core.tdw d k) ∧ c.sbm = y.core.sbm ∧ c.sketch = y.core.sketch ∧
                  c.arith = y.core.arith &&& 0x13F3FFF ∧ c.serial = y.core.serial ∧
                  (∀ k < 4, SMap.get 0 c.scratch k = SMap.get 0 y.core.scratch k) ∧
                  (t.hw.easel e).csr.epc = y.csr.epc))) ∧
        (∀ off, coreDecode s.hw x (r.get f.rs1) = .local off → off % 8 ≠ 0 →
          Yields (.srvsave e f) s (fun t => FaultsPrecisely s t e 0x14 (r.get f.rs1) (wordI 0x3E 0x00 f)) ∧
          Yields (.srvload e f) s (fun t => FaultsPrecisely s t e 0x14 (r.get f.rs1) (wordI 0x3E 0x01 f))) ∧
        (∀ cls, coreDecode s.hw x (r.get f.rs1) = .fault cls → cls ≠ 0x06 →
          Yields (.srvsave e f) s (fun t => FaultsPrecisely s t e cls (r.get f.rs1) (wordI 0x3E 0x00 f)) ∧
          Yields (.srvload e f) s (fun t => FaultsPrecisely s t e cls (r.get f.rs1) (wordI 0x3E 0x01 f))) ∧
        Yields (.srvsetctx e f) s (fun t => OnlyEasel s t e ∧ regsOf t e = { r with pc := r.pc + 8 } ∧
          (t.hw.easel e).csCtx.toNat % 64 = (r.get f.rs1).toNat % 64 ∧
          (t.hw.easel e).csCtx.toNat / 65536 = (r.get f.rs1).toNat / 65536 % 65536 ∧
          (t.hw.easel e).core = x.core) ∧
        (f.rs1 = 0 →
          Yields (.srvret e f) s (fun t => OnlyEasel s t e ∧ (t.hw.easel e).service = false ∧
            regsOf t e = { x.core with pc := BitVec.ofNat 64 (x.csr.epc.toNat / 8 * 8) }) ∧
          Yields (.srvstop e f) s (fun t => OnlyEasel s t e ∧ (t.hw.easel e).idled = true ∧
            coreReady t.hw e = false ∧ (t.hw.easel e).core = x.core)))) ∧
    (∀ entry : Word,
      let at_ := BitVec.ofNat 64 (entry.toNat / 8 * 8)
      (s.hw.up e = true → x.service = false → Yields (.serviceModeCommand e entry) s (fun t => OnlyEasel s t e ∧
        t.hw.easel e = { x with
          service := true, idled := false, svcCore := { x.svcCore with pc := at_ }
          csr := { x.csr with epc := x.core.pc } })) ∧
      (s.hw.up e = true → x.service = true → x.idled = true → Yields (.serviceModeCommand e entry) s (fun t =>
        OnlyEasel s t e ∧ t.hw.easel e = { x with idled := false, svcCore := { x.svcCore with pc := at_ } })) ∧
      (s.hw.up e = false ∨ (x.service = true ∧ x.idled = false) → Yields (.serviceModeCommand e entry) s (fun t =>
        OnlyEasel s t e ∧ t.hw.easel e = x))) ∧
    (coreReady s.hw e = true → fetchFault s.hw e = none → ∀ (w : Word) (pneg : Bool) (pred : BitVec 3)
      (dec : Option (BitVec 8)) (body : Hw → Eff),
      issue s.hw e w pneg pred dec body = issue (fetchTouch s.hw e) e w pneg pred dec body)

/-- R111, R118, R119, R123, R124: for each of the 34 instructions.  The checks are those of R106, R124, R126 to R128
and of the instruction's own rule, as lists of check and fault class in order. -/
def Obligations.EngineInstructionsEnterTheirQueue : Prop :=
  ∀ (s : State) (e : EaselId) (f : FmtE), Issues s e f.pneg f.pred → (f.sig = true ∨ f.so = 0) →
    let r := regsOf s e
    let x := s.hw.easel e
    let queues (i : Instr) (q : Engine) (op : EngOp) (w : Word) (xs : List Word)
        (checks : EaselId → QEntry → List (Bool × BitVec 8)) : Prop :=
      let new : QEntry :=
        { op := op, fmt := f, ta := r.tdesc f.tda, tb := r.tdesc f.tdb, tc := r.tdesc f.tdc, xs := xs,
          arith := r.arith, sbm := r.sbm, sketch := r.sketch,
          seq := SMap.get 0 s.hw.sk.seqs (x.actx.val * 208 + e.val), serial := r.serial, pc := r.pc,
          inst := w, ctx := x.actx, started := false, since := 0, sqr := 0, txns := [], got := [],
          acked := [], bad := [], prog := 0, flags := 0, slow := 0, order := s.hw.sk.issued, tracked := none }
      (firstFail (checks e new) = none → (x.queue q).length < 64 →
        Yields i s (fun t => t.pending = s.pending ∧
          { t.hw with easels := s.hw.easels, sk := s.hw.sk } = s.hw ∧
          t.hw.sk = { s.hw.sk with issued := s.hw.sk.issued + 1 } ∧
          (∀ e', e' ≠ e → t.hw.easel e' = s.hw.easel e') ∧ t.hw.easel e =
          (x.setQueue q (x.queue q ++ [new])).setCur
            { r with pc := r.pc + 8, serial := serialAfter s e })) ∧
      (firstFail (checks e new) = none → 64 ≤ (x.queue q).length → Yields i s (fun t =>
        OnlyEasel s t e ∧ regsOf t e = r ∧ (t.hw.easel e).queue q = x.queue q ∧ coreReady t.hw e = false ∧
        ((if x.service then (t.hw.easel e).svcBlocked else (t.hw.easel e).blocked).map (·.what)) =
          some (.queueRoom q new))) ∧
      (∀ c, firstFail (checks e new) = some c → Yields i s (fun t => FaultsPrecisely s t e c 0 w ∧
        (t.hw.easel e).me = x.me ∧ (t.hw.easel e).vu = x.vu ∧ (t.hw.easel e).ce = x.ce))
    let one := [r.get f.rs]
    (f.tdc = 0 → f.func.toNat < 8 →
      queues (.mma e f) .me .mma (wordE 0x14 0x00 f) one mmaChecks) ∧
    (f.tdb = 0 → f.tdc = 0 → f.func.toNat < 8 →
      queues (.accload e f) .me .accload (wordE 0x14 0x01 f) one (accChecks false (fun _ => true))) ∧
    (f.tdb = 0 → f.tdc = 0 → f.func.toNat < 16 →
      queues (.accstore e f) .me .accstore (wordE 0x14 0x02 f) one (accChecks true (fun _ => true)) ∧
      queues (.convert e f) .me .convert (wordE 0x14 0x03 f) one (accChecks false convertFmt)) ∧
    (f.tda = 0 → f.tdb = 0 → f.tdc = 0 → f.func.toNat < 4 →
      queues (.anchor e f) .me .anchor (wordE 0x14 0x04 f) one
        (fun _ i => [(ancOk (nthW i.xs 0), 0x38)])) ∧
    (∀ p ∈ [(Instr.vadd, VOp.add, 0x00), (Instr.vsub, VOp.sub, 0x01), (Instr.vmul, VOp.mul, 0x02),
        (Instr.vfma, VOp.fma, 0x03), (Instr.vdiv, VOp.div, 0x04), (Instr.vmin, VOp.min, 0x05),
        (Instr.vmax, VOp.max, 0x06), (Instr.vsqrt, VOp.sqrt, 0x07), (Instr.vcvt, VOp.cvt, 0x08),
        (Instr.vrsum, VOp.rsum, 0x09), (Instr.vrmax, VOp.rmax, 0x0A), (Instr.vrmin, VOp.rmin, 0x0B),
        (Instr.vcmplt, VOp.cmplt, 0x0C), (Instr.vcmpeq, VOp.cmpeq, 0x0D), (Instr.vexp, VOp.exp, 0x10),
        (Instr.vexp2, VOp.exp2, 0x11), (Instr.vlog2, VOp.log2, 0x12), (Instr.vln, VOp.ln, 0x13),
        (Instr.vrcp, VOp.rcp, 0x14), (Instr.vrsqrt, VOp.rsqrt, 0x15), (Instr.vtanh, VOp.tanh, 0x16),
        (Instr.vsigm, VOp.sigm, 0x17), (Instr.vsilu, VOp.silu, 0x18), (Instr.vgelu, VOp.gelu, 0x19),
        (Instr.vsin, VOp.sin, 0x1A), (Instr.vcos, VOp.cos, 0x1B)],
      vuDecOk p.2.1 f = true →
        queues (p.1 e f) .vu (.vec p.2.1) (wordE 0x15 p.2.2 f) one (vuChecks p.2.1)) ∧
    (f.tdc = 0 → f.func.toNat < 4 →
      queues (.copy e f) .ce .copy (wordE 0x18 0x00 f)
        (if f.rs = 0 then [] else [r.get f.rs, r.get (f.rs + 1), r.get (f.rs + 2), r.get (f.rs + 3)])
        copyChecks) ∧
    (f.rs = 0 → f.func.toNat < 4 →
      queues (.gather e f) .ce .gather (wordE 0x18 0x01 f) [] (indexChecks (·.ta) (·.tb)) ∧
      queues (.scatter e f) .ce .scatter (wordE 0x18 0x02 f) [] (indexChecks (·.tb) (·.ta)))


/-- R120 to R122, R153, R156.  `engEffect` is what the instruction computes with what it has left to do, `engFaultOf`
the fault it meets, `mayComplete` that it is started, meets none, its requests are answered, its slots are free and F lets
it advance. -/
def Obligations.EnginesStartCompleteAndFault : Prop :=
  ∀ (s : State) (e : EaselId) (q : Engine) (i : QEntry),
    let x := s.hw.easel e
    (nextStart x q = some i → enginesRun s.hw e i.ctx = true →
      Yields (.engineStart e q) s (fun t =>
        ((t.hw.easel e).queue q).map (·.serial) = (x.queue q).map (·.serial) ∧
        (∃ j ∈ (t.hw.easel e).queue q, j.serial = i.serial ∧ j.started = true ∧ j.op = i.op ∧
          j.ta = i.ta ∧ j.tb = i.tb ∧ j.tc = i.tc ∧ j.since = s.hw.now ∧
          (q = .ce → j.txns = txnsOf s.hw e i ∧ j.sqr < 12 ∧
            ∀ k ∈ x.ce, k.started = true → k.op.isRelease = false → k.sqr ≠ j.sqr)) ∧
        regsOf t e = regsOf s e ∧ ∀ a, t.hw.mem.byte a = s.hw.mem.byte a)) ∧
    (nextStart x q = none → Yields (.engineStart e q) s (fun t => t = s)) ∧
    (∀ l, findEntry s.hw e q i.serial = some i →
      let h := if q = .me then spoilAcc s.hw e l else s.hw
      (q ≠ .ce → i.sketch = false → i.fmt.sig = false → x.blocked = none → x.svcBlocked = none → x.sb = [] →
        mayComplete h e q i = true →
        Yields (.engineInstructionComplete e q i.serial l) s (fun t =>
          let f := engEffect h e i (engLeft i)
          findEntry t.hw e q i.serial = none ∧
          (t.hw.easel e).acc = f.acc ∧
          (t.hw.easel e).core.arith &&& f.flags = f.flags ∧
          (∀ a, t.hw.mem.byte a = (f.ws.foldl (fun m w => m.write w.1 w.2) s.hw.mem).byte a) ∧
          (∀ e', e' ≠ e → (t.hw.easel e').acc = (s.hw.easel e').acc))) ∧
      (mayComplete h e q i = false →
        Yields (.engineInstructionComplete e q i.serial l) s (fun t => t = { s with hw := h }))) ∧
    (findEntry s.hw e q i.serial = some i → i.started = true → i.op.isRelease = false →
      ∀ c a done,
        let ends (cls : BitVec 8) (addr : Word) (t : State) : Prop :=
          findEntry t.hw e q i.serial = none ∧ (t.hw.ctx i.ctx).state = 6 ∧
          ∃ r, (t.hw.ctx i.ctx).faults.head? = some r ∧ r.primary = true ∧ r.precise = false ∧ r.cls = cls ∧
            r.addr = addr ∧ r.serial = i.serial ∧ r.pc = i.pc ∧ r.agent = engAgent q
        (∀ f, engFaultOf s.hw e q i = some f → RunsClean s i.ctx →
          Yields (.engineFault e q i.serial c a done) s (ends f.1 f.2)) ∧
        (engFaultOf s.hw e q i = none → c = 0x05 → RunsClean s i.ctx →
          Yields (.engineFault e q i.serial c a done) s (ends 0x05 a)) ∧
        (engFaultOf s.hw e q i = none → c ≠ 0x05 → Yields (.engineFault e q i.serial c a done) s (fun t => t = s))) ∧
    (∀ t0, x.ramp.idleSince = some t0 →
      Yields (.meIdleTimeout e) s (fun t => OnlyEasel s t e ∧ t.hw.easel e =
        (if t0 + 1000 ≤ s.hw.now then { x with ramp := { x.ramp with run := none } } else x)))


/-- R56 and R62: the block sum truncates each product on its own, and R60's tags combine in any order. -/
def Obligations.AnchoredBlockIgnoresProductOrder : Prop :=
  (∀ (L lim : Int) (ca cb : Nat) (sc : Option Int) (ps qs : List (Machine.Num × Bool)) (a : Acc), ps.Perm qs →
    anchoredBlock L lim ca cb sc ps a = anchoredBlock L lim ca cb sc qs a) ∧
  (∀ (L lim : Int) (ca cb : Nat) (s1 s2 : Option Int) (ps qs : List (Machine.Num × Bool)) (a : Acc),
    let f := fun b => anchoredBlock L lim ca cb s1 ps b
    let g := fun b => anchoredBlock L lim ca cb s2 qs b
    (f (g a)).v = (g (f a)).v ∧ (f (g a)).tag = (g (f a)).tag ∧ (f (g a)).aovf = (g (f a)).aovf)


/-- R58 to R60, R62, R130, R134. -/
def Obligations.AccumulatorEntriesStayWithinTheirSpan : Prop :=
  (∀ (w old : Word) (x : AccEntry) (ca cb v : Nat) (add : Bool)
      (bs : List (Option Int × List (Machine.Num × Bool))),
    ancFloat w = false → 8 ≤ ancSpan w → ancSpan w ≤ 96 →
    let lim : Int := 2 ^ (ancSpan w - 1) - 1
    let inSpan (y : AccEntry) : Prop := -lim ≤ y.int ∧ y.int ≤ lim
    let m := (mmaEntry w ca cb bs x true).1
    let l := (accloadEntry w ca add v x).1
    inSpan m ∧ (m.tag ≠ 0 → m.int = 0) ∧ inSpan l ∧ (l.tag ≠ 0 → l.int = 0) ∧
      inSpan (reexpress old w x).1 ∧ (reexpress old w x).1.tag = x.tag) ∧
  (∀ (i : QEntry) (a : AccSets), ancKeep (nthW i.xs 0) = false →
    let b := (anchorRun i a).acc
    (∀ r c, r < 96 → c < 128 → b.entry i.set r c = AccEntry.zero) ∧
    b.anchor i.set = nthW i.xs 0 ∧
    (∀ k, k < 4 → k ≠ i.set → b.anchor k = a.anchor k ∧
      ∀ r c, r < 96 → c < 128 → b.entry k r c = a.entry k r c))

/-- R275, R278, R279, R282 to R284; `resolveName` is the object that a checked name reaches (R271, R292). -/
def Obligations.SyncInstructionsCountAndWait : Prop :=
  ∀ (s : State) (e : EaselId),
    let x := s.hw.easel e
    (∀ (f : FmtI) (o : ObjId), Issues s e f.pneg f.pred → nameFault s.hw ((regsOf s e).get f.rs1) = none →
      resolveName s.hw x.actx e ((regsOf s e).get f.rs1) (f.imm.setWidth 2) = .obj o →
      (∀ w ∈ s.hw.sync.waiters, w.obj ≠ o) →
      let v := (regsOf s e).get f.rd
      let word := s.hw.obj o
      let count := wfld word 0 48
      let others (t : State) : Prop := (∀ o', o' ≠ o → t.hw.obj o' = s.hw.obj o') ∧
        t.hw.mem = s.hw.mem ∧ ∀ e', e' ≠ e → t.hw.easel e' = s.hw.easel e'
      (f.imm.toNat < 4 → isBarrier word = false →
        (x.sb.length < 16 → count + v.toNat % 2 ^ 32 < 2 ^ 48 → Yields (.signal e f) s (fun t =>
          wfld (t.hw.obj o) 0 48 = count + v.toNat % 2 ^ 32 ∧
          wfld (t.hw.obj o) 48 16 = wfld word 48 16 ∧ WentOn s t e ∧ others t))) ∧
      (f.imm.toNat < 4 → Yields (.syncrd e f) s (fun t => WritesS s t e f.rd word)) ∧
      (f.imm.toNat < 4 → x.sb.length < 16 → setOk o v = true →
        Yields (.syncset e f) s (fun t => t.hw.obj o = v ∧ WentOn s t e ∧ others t)) ∧
      (f.imm.toNat < 128 → isBarrier word = false → x.service = false → x.loaded = some x.actx →
        (wfld ((regsOf s e).get f.rs1) 33 2 = 3 → wfld ((regsOf s e).get f.rs1) 23 10 = s.hw.fa) →
        let n := wfld v 0 48
        (n ≤ count → (n = 0 ∨ waitRoom s.hw o = true) → Yields (.wait e f) s (fun t =>
          wfld (t.hw.obj o) 0 48 = (if f.imm.getLsbD 2 then count - n else count) ∧
          WentOn s t e ∧ (t.hw.easel e).blocked = none ∧ others t)) ∧
        (n ≠ 0 → waitRoom s.hw o = false → Yields (.wait e f) s (fun t =>
          OnlyEasel s t e ∧ regsOf t e = regsOf s e ∧ (t.hw.easel e).blocked.map (·.what) =
            some (.waitRoom o n (f.imm.getLsbD 2) (tcodeNs (f.imm.toNat / 8 % 16))))) ∧
        (count < n → waitRoom s.hw o = true → Yields (.wait e f) s (fun t =>
          t.hw.obj o = word ∧ regsOf t e = regsOf s e ∧
          (t.hw.easel e).blocked.map (·.what) = some (.sync o (tcodeNs (f.imm.toNat / 8 % 16))) ∧
          (∃ w ∈ t.hw.sync.waiters, w.obj = o ∧ w.easel = e ∧ w.threshold = n ∧
            w.consume = f.imm.getLsbD 2) ∧ others t)))) ∧
    (∀ (f : FmtI) (cls : BitVec 8), Issues s e f.pneg f.pred → f.imm.toNat < 4 →
      nameFault s.hw ((regsOf s e).get f.rs1) = some cls →
      let a := (regsOf s e).get f.rs1
      Yields (.signal e f) s (fun t => FaultsPrecisely s t e cls a (wordI 0x1C 0x00 f)) ∧
      Yields (.wait e f) s (fun t => FaultsPrecisely s t e cls a (wordI 0x1C 0x01 f)) ∧
      Yields (.syncrd e f) s (fun t => FaultsPrecisely s t e cls a (wordI 0x1C 0x02 f)) ∧
      Yields (.syncset e f) s (fun t => FaultsPrecisely s t e cls a (wordI 0x1C 0x03 f))) ∧
    (∀ (o : ObjId) (n : Nat) (c : Bool) (b : Blocked), x.blocked = some b →
      (b.what = .sync o (some 0) ∨ b.what = .waitRoom o n c (some 0)) →
      Yields (.syncWaitTimeout e) s (fun t => (∀ o', t.hw.obj o' = s.hw.obj o') ∧
        (t.hw.easel e).stopped = true ∧ (t.hw.easel e).blocked = none ∧ (t.hw.easel e).core = x.core ∧
        (t.hw.easel e).csr.fclass = 0x320 ∧ (t.hw.easel e).csr.fpc = b.pc ∧
        (b.what = .sync o (some 0) → ∀ w ∈ t.hw.sync.waiters, ¬ (w.obj = o ∧ w.easel = e ∧ w.ctx = x.actx))))


/-- R275 and R281. -/
def Obligations.BarriersCountArrivalsAndRelease : Prop :=
  (∀ (s : State) (e : EaselId) (f : FmtI) (i : Fin 32768), Issues s e f.pneg f.pred → f.imm.toNat < 4 →
    nameFault s.hw ((regsOf s e).get f.rs1) = none →
    resolveName s.hw (s.hw.easel e).actx e ((regsOf s e).get f.rs1) (f.imm.setWidth 2) = .obj (.mod i) →
    (s.hw.easel e).sb.length < 16 → (∀ r ∈ s.hw.sync.releases, r.obj ≠ i) →
    let w := s.hw.obj (.mod i)
    let arrived := wfld w 0 16
    let expected := wfld w 16 16
    isBarrier w = true →
    (arrived + 1 < expected → Yields (.signal e f) s (fun t =>
      wfld (t.hw.obj (.mod i)) 0 16 = arrived + 1 ∧ wfld (t.hw.obj (.mod i)) 16 16 = expected ∧
      wfld (t.hw.obj (.mod i)) 32 32 = wfld w 32 32 ∧ t.hw.sync.releases = s.hw.sync.releases)) ∧
    (arrived + 1 = expected → wfld w 48 5 ≠ 0 → s.hw.ftcNow % 2 ^ wfld w 48 5 ≠ 0 →
      Yields (.signal e f) s (fun t =>
        wfld (t.hw.obj (.mod i)) 0 16 = 0 ∧ wfld (t.hw.obj (.mod i)) 32 16 = (wfld w 32 16 + 1) % 65536 ∧
        ∃ r ∈ t.hw.sync.releases, r.obj = i ∧ r.gen.toNat = wfld w 32 16 ∧
          s.hw.ftcNow < r.time ∧ r.time ≤ s.hw.ftcNow + 2 ^ wfld w 48 5 ∧ r.time % 2 ^ wfld w 48 5 = 0))) ∧
  (∀ (s : State) (i : Fin 32768) (r : BarrierRelease),
    s.hw.sync.releases.find? (fun r => r.obj == i) = some r →
    (r.time ≤ s.hw.ftcNow → Yields (.barrierReleaseTime i) s (fun t =>
      t.hw.sync.waiters = s.hw.sync.waiters.filter (fun w => !(w.obj == .mod i && w.gen == some r.gen)) ∧
      (∀ o, t.hw.obj o = s.hw.obj o) ∧
      ∀ w ∈ s.hw.sync.waiters, w.obj = .mod i → w.gen = some r.gen →
        (s.hw.easel w.easel).loaded = some w.ctx → (t.hw.easel w.easel).blocked = none)) ∧
    (s.hw.ftcNow < r.time → Yields (.barrierReleaseTime i) s (fun t => t = s)))


/-- R286 to R290, Table 9-4, for local targets at every scope. -/
def Obligations.AtomicsReadModifyWriteLocalMemory : Prop :=
  ∀ (s : State) (e : EaselId) (scope : BitVec 2) (f : FmtA), Issues s e f.pneg f.pred → f.low = 0 →
    let a := f.a s e
    let b := f.b s e
    let c := f.c s e
    let all : List (EaselId → BitVec 2 → FmtA → Instr) :=
      [.swap, .cas, .aadd, .aand, .aor, .axor, .amin, .amax, .aminu, .amaxu, .anadd64, .anadd128]
    let legal (k : Nat) : Prop := k = 1 ∨ k = 11 ∨ f.rs3 = 0
    (∀ off, coreDecode s.hw (s.hw.easel e) a = .local off →
      (∀ g ∈ s.hw.sk.slots, g.ctx = (s.hw.easel e).actx → g.granule ≠ off / 64) →
      let old := s.hw.mem.word off
      let rmw (i : Instr) (n : Nat) (k : Nat) (new : Nat) : Prop :=
        legal k → off % n = 0 → CleanWords s off n → sbHolds (s.hw.easel e) a n = false →
          Yields i s (fun t =>
            RegWritten s t e f.rd old ((regsOf s e).pc + 8) ∧
            leNat (t.hw.mem.read off n) = new ∧
            (∀ x, x < off ∨ off + n ≤ x → t.hw.mem.byte x = s.hw.mem.byte x) ∧
            OnlyMemory s t e)
      rmw (.swap e scope f) 8 0 b.toNat ∧
      rmw (.cas e scope f) 8 1 (if old = c then b.toNat else old.toNat) ∧
      rmw (.aadd e scope f) 8 2 ((old.toNat + b.toNat) % 2 ^ 64) ∧
      rmw (.aand e scope f) 8 3 (old &&& b).toNat ∧
      rmw (.aor e scope f) 8 4 (old ||| b).toNat ∧
      rmw (.axor e scope f) 8 5 (old ^^^ b).toNat ∧
      rmw (.amin e scope f) 8 6 (if old.toInt ≤ b.toInt then old.toNat else b.toNat) ∧
      rmw (.amax e scope f) 8 7 (if old.toInt ≤ b.toInt then b.toNat else old.toNat) ∧
      rmw (.aminu e scope f) 8 8 (min old.toNat b.toNat) ∧
      rmw (.amaxu e scope f) 8 9 (max old.toNat b.toNat) ∧
      (let va := signedValue 62 old.toNat
       let vb := signedValue 62 b.toNat
       (old.toNat < 2 ^ 62 → b.toNat < 2 ^ 62 → -2 ^ 61 < va + vb → va + vb < 2 ^ 61 →
        rmw (.anadd64 e scope f) 8 10 ((va + vb) % 2 ^ 62).toNat)) ∧
      rmw (.anadd128 e scope f) 16 11
        (addA 128 (leNat (s.hw.mem.read off 16)) (b.toNat + c.toNat * 2 ^ 64))) ∧
    (∀ k i, all[k]? = some i → legal k →
      let n := if k = 11 then 16 else 8
      let w := wordA 0x1E (BitVec.ofNat 4 k ++ scope) f
      (∀ off, coreDecode s.hw (s.hw.easel e) a = .local off → off % n ≠ 0 →
        Yields (i e scope f) s (fun t => FaultsPrecisely s t e 0x14 a w)) ∧
      (∀ off, coreDecode s.hw (s.hw.easel e) a = .local off → off % n = 0 →
        (∃ g ∈ s.hw.sk.slots, g.ctx = (s.hw.easel e).actx ∧ g.granule = off / 64) →
        Yields (i e scope f) s (fun t => FaultsPrecisely s t e 0x34 a w)) ∧
      (∀ bus, coreDecode s.hw (s.hw.easel e) a = .host bus → bus % n = 0 →
        Yields (i e scope f) s (fun t => FaultsPrecisely s t e 0x26 a w)))

/-- R253 to R258, for flags in local memory. -/
def Obligations.OrderingInstructionsWaitAndAct : Prop :=
  ∀ (s : State) (e : EaselId),
    let x := s.hw.easel e
    NoneDrains x → x.svcBlocked = none →
    (∀ (f : FmtI), Issues s e f.pneg f.pred → x.service = false →
      let a := (regsOf s e).get f.rs1
      let v := (regsOf s e).get f.rd
      (f.imm.toNat < 4 → a.toNat % 8 = 0 →
        (∀ off, decodeUma s.hw x.actx a = .local off → storesDone x = true → x.sb.length < 16 →
          CleanWords s off 8 → sbHolds x a 8 = false →
          Yields (.release e f) s (fun t => t.hw.mem.word off = v ∧
            (∀ b, b < off ∨ off + 8 ≤ b → t.hw.mem.byte b = s.hw.mem.byte b) ∧
            WentOn s t e ∧ (t.hw.easel e).blocked = none ∧ OnlyMemory s t e)) ∧
        (storesDone x = false → Yields (.release e f) s (fun t => OnlyEasel s t e ∧
          regsOf t e = regsOf s e ∧
          (t.hw.easel e).blocked.map (·.what) = some (.release false (f.imm.setWidth 2) a v)))) ∧
      (∀ q, f.imm.toNat / 4 = (match q with | Engine.me => 1 | Engine.vu => 2 | Engine.ce => 3) →
        a.toNat % 8 = 0 → (x.queue q).length < 64 → Yields (.release e f) s (fun t =>
          { t.hw with easels := s.hw.easels, sk := s.hw.sk } = s.hw ∧
          t.hw.sk = { s.hw.sk with issued := s.hw.sk.issued + 1 } ∧
          (∀ e', e' ≠ e → t.hw.easel e' = s.hw.easel e') ∧ WentOn s t e ∧ ∃ j : QEntry, (t.hw.easel e).queue q = x.queue q ++ [j] ∧
            j.op = .release false (f.imm.setWidth 2) ∧ j.xs = [a, v] ∧ j.serial = (regsOf s e).serial)) ∧
      (f.rd = 0 → f.rs1 = 0 → f.imm.toNat < 16 → Yields (.acquire e f) s (fun t => WentOn s t e ∧
        (f.imm.getLsbD 2 = true → f.imm.toNat % 4 ≠ 0 → (t.hw.easel e).prefetch = []) ∧
        (f.imm.getLsbD 3 = true → 2 ≤ f.imm.toNat % 4 →
          ∀ g ∈ t.hw.glz.staging, g.ctx ≠ x.actx) ∧
        t.hw.mem = s.hw.mem ∧ SameReqs s t ∧ (∀ e', e' ≠ e → t.hw.easel e' = s.hw.easel e'))) ∧
      (f.rd = 0 → f.rs1 = 0 → f.imm.toNat < 32 →
        let holds := fenceHolds s.hw e (f.imm.setWidth 5)
        (holds = true → Yields (.fence e f) s (fun t => OnlyEasel s t e ∧ WentOn s t e ∧
          (t.hw.easel e).blocked = none)) ∧
        (f.imm ≠ 0 → holds = false → Yields (.fence e f) s (fun t => OnlyEasel s t e ∧
          regsOf t e = regsOf s e ∧
          (t.hw.easel e).blocked.map (·.what) = some (.fence (f.imm.setWidth 5)))))) ∧
    (∀ (q : Engine) (i : QEntry) (scope : BitVec 2) (off : Nat),
      (x.queue q).head? = some i → i.op = .release false scope → i.started = false → x.stopped = false →
      x.loaded = some i.ctx → x.blocked = none →
      decodeUma s.hw i.ctx (nthW i.xs 0) = .local off → CleanWords s off 8 →
      Yields (.releaseAction e q i.serial) s (fun t => t.hw.mem.word off = nthW i.xs 1 ∧
        (∀ b, b < off ∨ off + 8 ≤ b → t.hw.mem.byte b = s.hw.mem.byte b) ∧
        findEntry t.hw e q i.serial = none ∧ regsOf t e = regsOf s e))


/-- R101 and R114. -/
def Obligations.DeferredStoreFaultsStopTheContext : Prop :=
  ∀ (s : State) (e : EaselId) (n : Nat) (b : SbEntry), (s.hw.easel e).sb[n]? = some b →
    (∀ c, (c ≠ b.cls ∨ b.cls = 0) → Yields (.storeDeferredFault e n c) s (fun t => t = s)) ∧
    (b.cls ≠ 0 → (s.hw.ctx b.ctx).state = 3 → (s.hw.ctx b.ctx).faults = [] →
    Yields (.storeDeferredFault e n b.cls) s (fun t =>
      (t.hw.easel e).sb = (s.hw.easel e).sb.eraseIdx n ∧
      (t.hw.ctx b.ctx).state = 6 ∧
      (∃ r, (t.hw.ctx b.ctx).faults = [r] ∧ r.cls = b.cls ∧ r.primary = true ∧ r.precise = false ∧
        r.serial = b.serial ∧ r.pc = b.pc ∧ r.addr = b.addr ∧ r.inst = b.inst ∧
        r.easel.toNat = e.val % 256 ∧ r.agent = 0) ∧
      ((s.hw.easel e).loaded = some b.ctx → (t.hw.easel e).stopped = true ∧
        (t.hw.easel e).csr.fclass = (b.cls.setWidth 64 ||| 0x200)) ∧
      regsOf t e = regsOf s e))

/-- R225, R227, R235, R236, R239. -/
def Obligations.SketchInstructionsControlSketchMode : Prop :=
  ∀ (s : State) (e : EaselId),
    let x := s.hw.easel e
    let r := regsOf s e
    (∀ f : FmtI, Issues s e f.pneg f.pred → f.rd = 0 →
      let sets (i : Instr) (v : Word) : Prop := Yields i s (fun t =>
        regsOf t e = { r with pc := r.pc + 8, serial := serialAfter s e, sbm := v.setWidth 8,
                              sketch := v.getLsbD 8 && decide (v.toNat % 256 ≠ 0) } ∧
        SMap.get 0 t.hw.sk.seqs (x.actx.val * 208 + e.val) = BitVec.ofNat 8 (v.toNat / 65536) ∧
        t.hw.mem = s.hw.mem ∧ t.hw.sk.slots = s.hw.sk.slots ∧ ∀ e', e' ≠ e → t.hw.easel e' = s.hw.easel e')
      (f.rs1 = 0 → f.imm.toNat < 2 ^ 24 → f.imm.toNat / 512 % 128 = 0 →
        sets (.sketch e f) (f.imm.setWidth 64)) ∧
      (f.imm = 0 → sets (.sketchr e f) (r.get f.rs1))) ∧
    (∀ f : FmtI, Issues s e f.pneg f.pred → x.service = false → NoneDrains x → x.svcBlocked = none →
      let waits (i : Instr) (w : WaitFor) : Prop := Yields i s (fun t => OnlyEasel s t e ∧ regsOf t e = r ∧
        (t.hw.easel e).blocked.map (·.what) = some w)
      let since := if sketchDrained x then some s.hw.now else none
      (f.rd = 0 → f.imm.toNat < 8 → waits (.varnish e f) (.varnish (f.imm.setWidth 3) (r.get f.rs1) since)) ∧
      (f.rd = 0 → f.rs1 = 0 → f.imm.toNat < 256 → waits (.scrape e f) (.scrape (f.imm.setWidth 8) since)) ∧
      (f.rs1 = 0 → f.imm = 0 →
        (sketchDrained x = true → Yields (.skocc e f) s (fun t => OnlyEasel s t e ∧
          RegWritten s t e f.rd (BitVec.ofNat 64 (heldCount s.hw x.actx (partOf e))) (r.pc + 8))) ∧
        (sketchDrained x = false → waits (.skocc e f) (.skocc f.rd)))) ∧
    (∀ (b : Blocked) (t0 : Nat), x.blocked = some b → x.service = false → pointDue s.hw e t0 = true →
      let after (i : Instr) (p : SketchSlot → Bool) (moved : State → Prop) : Prop := Yields i s (fun t =>
        t.hw.sk.slots = s.hw.sk.slots.filter (fun g => !p g) ∧ moved t ∧
        (t.hw.easel e).blocked = none ∧ (regsOf t e).pc = r.pc + 8 ∧ (t.hw.easel e).prefetch = [] ∧
        t.hw.mem.cells = s.hw.mem.cells)
      (∀ br n, b.what = .varnish br n (some t0) →
        let p : SketchSlot → Bool := fun g =>
          g.ctx == x.actx && g.easel == e && g.branch == br && decide (g.seq.toNat < min n.toNat 256)
        after (.varnishPoint e) p (fun t => ∃ l, t.hw.mem.unfolded = s.hw.mem.unfolded ++ l ∧
          l.Perm (s.hw.sk.slots.filter p) ∧ l.Pairwise (fun a c => a.order ≤ c.order))) ∧
      (∀ m, b.what = .scrape m (some t0) →
        let p : SketchSlot → Bool := fun g => g.ctx == x.actx && g.easel == e && m.getLsbD g.branch.toNat
        after (.scrapePoint e) p (fun t => t.hw.mem.unfolded = s.hw.mem.unfolded ∧
          t.hw.sk.toZero = s.hw.sk.toZero ++ s.hw.sk.slots.filter p)))


/-- R237: folding is invisible; R239. -/
def Obligations.FoldingKeepsTheVarnishedImage : Prop :=
  ∀ (s : State) (p : PartId),
    ((∀ a ∈ s.hw.mem.unfolded, a.bytes.length = 64) → (∀ w, s.hw.mem.bad w = false) →
      ∀ g, foldNext s.hw.mem.unfolded p = some g →
      Yields (.sketchFold p false) s (fun t => (∀ a, t.hw.mem.byte a = s.hw.mem.byte a) ∧
        t.hw.mem.unfolded = s.hw.mem.unfolded.erase g ∧ t.hw.sk = s.hw.sk)) ∧
    (foldNext s.hw.mem.unfolded p = none → Yields (.sketchFold p false) s (fun t => t = s)) ∧
    Yields (.sketchSlotZero p) s (fun t =>
      t.hw.sk.toZero = removeFirst (fun g => g.part == p) s.hw.sk.toZero ∧
      t.hw.mem = s.hw.mem ∧ t.hw.sk.slots = s.hw.sk.slots)

/-- R195, R199 to R201. -/
def Obligations.GlazeInstructionsPassReadAndStop : Prop :=
  ∀ (s : State) (e : EaselId) (f : FmtI), Issues s e f.pneg f.pred → f.imm.toNat < 64 →
    let x := s.hw.easel e
    let r := regsOf s e
    let a := r.get f.rs1
    let n := glzSlotOf f
    (f.rd = 0 →
      (a.toNat % 64 = 0 → Yields (.glzbind e f) s (fun t => WentOn s t e ∧
        t.hw.glz.binds = s.hw.glz.binds ++ [{ slot := n, uma := a, easel := e, ctx := x.actx, serial := r.serial,
                                              pc := r.pc, inst := wordI 0x25 0x00 f }] ∧
        t.hw.glz.slots = s.hw.glz.slots ∧ t.hw.mem = s.hw.mem ∧
        ∀ e', e' ≠ e → t.hw.easel e' = s.hw.easel e')) ∧
      (a.toNat % 64 ≠ 0 → Yields (.glzbind e f) s (fun t =>
        FaultsPrecisely s t e 0x14 a (wordI 0x25 0x00 f) ∧ t.hw.glz.binds = s.hw.glz.binds))) ∧
    (f.rs1 = 0 → Yields (.glzstat e f) s (fun t => WritesS s t e f.rd
      (if slotOf s.hw n = some x.actx then glzStatus (s.hw.gslot n) else 0))) ∧
    (f.rd = 0 → f.rs1 = 0 →
      (slotOf s.hw n = some x.actx → Yields (.glzstop e f) s (fun t => WentOn s t e ∧
        ((s.hw.gslot n).state = 1 → (t.hw.gslot n).state = 3) ∧
        ((s.hw.gslot n).state ≠ 1 → t.hw.gslot n = s.hw.gslot n) ∧
        (∀ m, m ≠ n → t.hw.gslot m = s.hw.gslot m) ∧ t.hw.mem = s.hw.mem)) ∧
      (slotOf s.hw n ≠ some x.actx → RunsClean s x.actx → Yields (.glzstop e f) s (fun t => WentOn s t e ∧
        TakesPrimary t x.actx 0x63 0 ∧ ((s.hw.gslot n).ctx ≠ x.actx → t.hw.gslot n = s.hw.gslot n))))


/-- R199, R202, R203, R206 to R208, R210, R218; `bindFault` and `entryFault` are the checks of R203 and R206,
`entryWrites` the Palette places of an entry. -/
def Obligations.GlazeStreamsBindDeliverAndComplete : Prop :=
  ∀ (s : State) (n : SlotId),
    let g := s.hw.gslot n
    let others (t : State) : Prop := ∀ m, m ≠ n → t.hw.gslot m = s.hw.gslot m
    (∀ b, s.hw.glz.binds.find? (fun b => b.slot == n) = some b →
      let gone := removeFirst (fun b => b.slot == n) s.hw.glz.binds
      let x := s.hw.easel b.easel
      bindWaits s.hw b = false → x.blocked = none → x.svcBlocked = none → NoneDrains x →
      (∀ off, slotOf s.hw n = some b.ctx → g.state ≠ 1 → g.state ≠ 5 → decodeUma s.hw b.ctx b.uma = .local off →
        CleanWords s off 64 →
        (∀ t ∈ s.hw.glz.staging, ¬ (t.ctx = b.ctx ∧ t.uma = b.uma)) →
        let d := bytesWords 8 (s.hw.mem.read off 64)
        let g' : GlazeSlot := { GlazeSlot.init with state := 1, easel := b.easel, ctx := b.ctx, serial := b.serial,
                                                    pc := b.pc, inst := b.inst, desc := d,
                                                    ents := s.hw.mem.read (nthW d 6).toNat (32 * Nat.min 16 (wfld (nthW d 7) 0 16)) }
        let g1 : GlazeSlot := { g' with entry := entryBytes s.hw g' 0 }
        bindFault s.hw g' b.uma = none → isRemote (gSrc g') = false → 0 < gEntries g' →
        CleanWords s (gList g').toNat (listLen g') → chanDown s.hw (gList g').toNat (listLen g') = false →
        entryFault s.hw g1 = none → (curEntry g1).gate = true →
        Yields (.glazeBind n) s (fun t => t.hw.gslot n = { g1 with gated := true } ∧ t.hw.glz.binds = gone ∧
          others t ∧ t.hw.mem = s.hw.mem)) ∧
      ((slotOf s.hw n ≠ some b.ctx ∨ g.state = 1 ∨ g.state = 5) → RunsClean s b.ctx →
        x.loaded = some b.ctx → Yields (.glazeBind n) s (fun t =>
          TakesPrimary t b.ctx 0x63 b.uma ∧ t.hw.glz.binds = gone ∧
          (g.ctx ≠ b.ctx → t.hw.gslot n = g)))) ∧
    (g.state = 1 → g.nextBlock < gBlocks g → isRemote (gSrc g) = false → gCipher g = false → gBalpa g = false →
      g.gated = true → g.lens.length < 4 →
      (∀ r ∈ blockReads g, chanWaits s.hw r.1 r.2 = false) → blockFault s.hw g = none →
      let b := s.hw.mem.read ((gSrc g).toNat + 65536 * g.nextBlock) (gBlkLen g g.nextBlock)
      Yields (.glazeBlockVerify n false) s (fun t =>
        t.hw.gslot n = GlazeSlot.counted { g with
          nextBlock := g.nextBlock + 1, elems := g.elems ++ b, lens := g.lens ++ [b.length], got := [] } ∧
        others t ∧ t.hw.mem.cells = s.hw.mem.cells)) ∧
    (let e := curEntry g
     let o : ObjId := .mod e.gateSo
     let el := g.elems.take (e.elemBytes - g.curPos)
     g.state = 1 → g.gated = true → g.cur < gEntries g → g.curPos < e.elemBytes → gBalpa g = false →
      e.same = false → isBarrier (s.hw.obj o) = false → 0 < wfld (s.hw.obj o) 0 48 →
      deliverFault s.hw g (entryWrites e g.curPos el []) = none →
      (isRemote (gSrc g) = true → glzSendFault s.hw g = none) →
      (e.elemBytes - g.curPos ≤ g.elems.length ∨ g.nextBlock < gBlocks g) →
      Yields (.glazeGateTake n) s (fun t =>
        t.hw.obj o = setFld (s.hw.obj o) 0 48 (wfld (s.hw.obj o) 0 48 - 1) ∧
        (∀ o', o' ≠ o → t.hw.obj o' = s.hw.obj o') ∧
        t.hw.mem = (applyWrites s.hw (entryWrites e g.curPos el [])).mem ∧
        (t.hw.gslot n).state = 1 ∧ (t.hw.gslot n).gated = false ∧
        (t.hw.gslot n).curPos = g.curPos + el.length ∧ (t.hw.gslot n).elems = g.elems.drop el.length ∧ others t)) ∧
    (g.state = 1 → g.gated = false → g.cur + 1 = gEntries g → entryFull g = true →
      (curEntry g).sig = false → bit (nthW g.desc 7) 37 = false →
      Yields (.glazeEntryComplete n) s (fun t => (t.hw.gslot n).state = 2 ∧
        (t.hw.gslot n).entriesDone = g.entriesDone + 1 ∧ (t.hw.gslot n).blocksDone = g.blocksDone ∧
        others t ∧ t.hw.mem = s.hw.mem)) ∧
    (∀ r, let b : BlockId := .glz (Fin.ofNat 2 (n.val / 32))
      let o := 0x100 + 8 * (n.val % 32)
      performs s.hw r b o = true → SMap.find s.hw.regs.whold (latchKey r b) = none →
      bit (s.hw.breg b o) 6 = true →
      Yields (.glzSlotRelease r n) s (fun t => t.hw.gslot n = GlazeSlot.init ∧ slotOf t.hw n = none ∧
        others t ∧ t.hw.mem = s.hw.mem))

/-- R335, R339, R342, R343, R347 and R351, for ports that are not in DOWN. -/
def Obligations.RouterForwardsByTableTreeAndCircuit : Prop :=
  ∀ (s : State) (i : Nat) (q : QPkt), (∀ p, (s.hw.port p).state ≠ 4) →
    let x := q.pkt.hdr
    let stay (t : State) : Prop := ∀ p, queueAt t p = queueAt s p
    let sends (t : State) (p : PortId) (c : QPkt) : Prop :=
      queueAt t p = queueAt s p ++ [c] ∧ ∀ p', p' ≠ p → queueAt t p' = queueAt s p'
    let here (t : State) : Prop := t.hw.rte.localq = s.hw.rte.localq ++ [{ q with flits := 0 }]
    let stays (t : State) : Prop := t.hw.rte.localq = s.hw.rte.localq
    (s.hw.rte.inq[i]? = some q → nextOfVc s.hw i q = true →
      (x.mcast = false → x.circuit = 0 →
        (x.dst = s.hw.fa → Yields (.packetRoute i) s (fun t => LeavesInput s t i ∧ here t ∧ stay t)) ∧
        (∀ v rw p, x.dst ≠ s.hw.fa → s.hw.version x.epoch = some (v, rw) → s.hw.route v x.dst = some p →
          Yields (.packetRoute i) s (fun t => LeavesInput s t i ∧ stays t ∧
            sends t p { q with pkt := { q.pkt with w0 := setFld q.pkt.w0 23 1 (b2n v) } } ∧
            (rw = true → Counts s t 0x400030 1))) ∧
        (∀ v rw, x.dst ≠ s.hw.fa → s.hw.version x.epoch = some (v, rw) → s.hw.route v x.dst = none →
          q.inPort.isSome = true →
          Yields (.packetRoute i) s (fun t => LeavesInput s t i ∧ stays t ∧ stay t ∧ Counts s t 0x400028 1))) ∧
      (x.mcast = true →
        let base := if x.axis then 3 else 0
        let own := axisPos s.hw.fa base
        (mcastOk s.hw q x = true → Yields (.mcastForward i) s (fun t => LeavesInput s t i ∧
          (if x.mask.testBit own then here t else stays t) ∧
          (∀ k, k < 3 → queueAt t (Fin.ofNat 12 (base + k)) = queueAt s (Fin.ofNat 12 (base + k)) ++
            (let m := subMask x.mask own k
             if (∀ d, q.inPort = some d → d.val < base + k) ∧ m ≠ 0 then
               [{ q with flits := 0, pkt := { q.pkt with w0 := setFld q.pkt.w0 54 8 m } }] else [])) ∧
          (∀ p : PortId, (∀ k, k < 3 → p.val ≠ base + k) → queueAt t p = queueAt s p))) ∧
        (mcastOk s.hw q x = false → q.inPort.isSome = true →
          Yields (.mcastForward i) s (fun t => LeavesInput s t i ∧ stays t ∧ stay t ∧ Counts s t 0x400040 1))) ∧
      (x.mcast = false → x.circuit ≠ 0 →
        let w := s.hw.circ x.circuit
        (∀ out, x.vc = 3 → cOther w (sideOf q.inPort) = some out → cState w = 1 →
          (out = 15 → x.dst = s.hw.fa →
            Yields (.circuitForward i) s (fun t => LeavesInput s t i ∧ here t ∧ stay t)) ∧
          (out ≠ 15 → Yields (.circuitForward i) s (fun t => LeavesInput s t i ∧ stays t ∧
            sends t (Fin.ofNat 12 out) q))) ∧
        ((x.vc ≠ 3 ∨ cState w = 0 ∨ cOther w (sideOf q.inPort) = none) →
          Yields (.circuitForward i) s (fun t => LeavesInput s t i ∧ stays t ∧ stay t ∧
            Counts s t 0x400038 1)))) ∧
    (∀ id p, s.hw.rte.localq[i]? = some q → noticeId q x = some id → q.inPort = some p →
      cState (s.hw.circ id) = 1 → cOther (s.hw.circ id) p.val = some 15 →
      Yields (.circuitDownNotice i) s (fun t => t.hw.rte.localq = s.hw.rte.localq.eraseIdx i ∧
        t.hw.circ id = setFld (s.hw.circ id) 24 2 0 ∧ Pends t 0x0E0 (id + p.val * 4096) ∧ stay t ∧
        t.hw.mem = s.hw.mem))


/-- R353 to R355. -/
def Obligations.RouterWatchesStallsAndOccupancy : Prop :=
  (∀ (s : State) (port : PortId) (vc : Fin 8),
    let p := s.hw.port port
    let l := p.txq.filter (fun q => q.pkt.hdr.vc == vc.val)
    let w := s.hw.rte.inq.filter (waitsIn s.hw port vc.val)
    (p.state = 2 → l ++ w ≠ [] → 10000000 ≤ SMap.get 0 p.stall vc.val → (∀ q ∈ l ++ w, q.inPort.isSome = true) →
      Yields (.stallWatchdogExpire port vc) s (fun t =>
        queueAt t port = p.txq.filter (fun q => q.pkt.hdr.vc != vc.val) ∧
        (∀ p', p' ≠ port → queueAt t p' = queueAt s p') ∧
        t.hw.rte.inq = s.hw.rte.inq.filter (fun q => !waitsIn s.hw port vc.val q) ∧
        SMap.get 0 (t.hw.port port).stall vc.val = 0 ∧ Counts s t 0x400048 (l ++ w).length ∧
        Pends t 0x0E1 (port.val + vc.val * 16 + min (l ++ w).length (2 ^ 24 - 1) * 256) ∧
        (∃ r, t.hw.flt.noCtx.getLast? = some r ∧ r.cls = 0x42 ∧ r.agent = 6) ∧
        t.hw.mem = s.hw.mem ∧ t.hw.easels = s.hw.easels)) ∧
    (SMap.get 0 p.stall vc.val < 10000000 → Yields (.stallWatchdogExpire port vc) s (fun t => t = s))) ∧
  (∀ s : State, s.hw.ftcNow % 1000 = 0 → Yields .cmapSample s (fun t =>
    (∀ p v b, p < 12 → v < 7 → b < 16 →
      SMap.get 0 t.hw.rte.cmapNow (cmapKey p v b) = SMap.get 0 s.hw.rte.cmapNow (cmapKey p v b) +
        (let q := s.hw.port (Fin.ofNat 12 p)
         if (if q.state = 2 then cmapBin (SMap.get 0 q.credits v) else 0) = b then 1 else 0)) ∧
    { t.hw with rte := { t.hw.rte with cmapNow := s.hw.rte.cmapNow } } = s.hw)) ∧
  (∀ s : State, s.hw.ftcNow % 1000000 = 0 → s.hw.rte.cmapNow ≠ [] → Yields .cmapWindowEnd s (fun t =>
    t.hw.rte.cmapNow = [] ∧ t.hw.rte.cmapValid = true ∧
    t.hw.rte.cmapNewest = (if s.hw.rte.cmapValid then s.hw.rte.cmapNewest + 1 else 0) ∧
    t.hw.rte.cmapTime + 1000000 = max s.hw.ftcNow 1000000 ∧
    ∀ n, SMap.get [] t.hw.rte.cmap n =
      if n = t.hw.rte.cmapNewest.toNat then s.hw.rte.cmapNow else SMap.get [] s.hw.rte.cmap n))

/-- R30, R249 to R251, R271, R290, R317, R319, R418; `grants` is what this module grants a job, payload
layouts are assumption 17. -/
def Obligations.RemoteRequestsActOnGrantedMemoryAndAnswer : Prop :=
  ∀ (s : State) (i : Nat) (q : QPkt) (k : Plain), MayAnswer s k →
    let x := q.pkt.hdr
    let gone (t : State) : Prop := t.hw.rte.localq = s.hw.rte.localq.eraseIdx i
    let memKept (t : State) : Prop := ∀ a, t.hw.mem.byte a = s.hw.mem.byte a
    let writes (c : Instr) : Prop :=
      (0 < k.body.length → grants s.hw k.key.job x.off k.body.length = true →
        CleanHere s x.off k.body.length →
        Yields c s (fun t => gone t ∧ Responds s t x k 5 5 [] 0 ∧
          (∀ j, (hj : j < k.body.length) → t.hw.mem.byte (x.off + j) = k.body[j]) ∧
          (∀ a, a < x.off ∨ x.off + k.body.length ≤ a → t.hw.mem.byte a = s.hw.mem.byte a) ∧
          t.hw.easels = s.hw.easels)) ∧
      (0 < k.body.length → grants s.hw k.key.job x.off k.body.length = false →
        Yields c s (fun t => gone t ∧ Responds s t x k 5 5 [] 1 ∧ memKept t ∧ t.hw.easels = s.hw.easels))
    (Opens s i q 0 k → x.stream = 0 → writes (.remoteWriteReceive i)) ∧
    (Opens s i q 1 k → (∀ h ∈ s.hw.rte.held, h.2.1 ≠ 0) →
      ((x.stream = 0 ∨ (q.inPort = none ∧ streamHere s.hw x = 0)) → writes (.remoteWriteFinalReceive i)) ∧
      (x.stream ≠ 0 → q.inPort = none → 0 < streamHere s.hw x → Yields (.remoteWriteFinalReceive i) s (fun t => gone t ∧
        t.hw.rte.held = s.hw.rte.held ++ [(q, streamHere s.hw x, s.hw.now)] ∧
        t.hw.rte.inq = s.hw.rte.inq ∧ t.hw.mem = s.hw.mem))) ∧
    (∀ h, s.hw.rte.held[i]? = some h → h.1 = q → h.2.2 + 10000000 ≤ s.hw.now →
      Yields (.finalStreamAbandon i) s (fun t => t.hw.rte.held = s.hw.rte.held.eraseIdx i ∧
        Pends t 0x0C4 (x.src + x.stream.toNat * 65536) ∧ t.hw.rte.inq = s.hw.rte.inq ∧ t.hw.mem = s.hw.mem)) ∧
    (Opens s i q 2 k → x.circuit = 0 →
      (grants s.hw k.key.job x.off x.len = true → CleanHere s x.off x.len →
        Yields (.remoteReadRequestReceive i) s (fun t => gone t ∧ memKept t ∧
          Responds s t x k 5 3 (s.hw.mem.read x.off x.len) 0)) ∧
      (grants s.hw k.key.job x.off x.len = false →
        Yields (.remoteReadRequestReceive i) s (fun t => gone t ∧ memKept t ∧ Responds s t x k 5 3 [] 1))) ∧
    (Opens s i q 4 k →
      let op := wfld (bWord k.body) 0 4
      let n := if op = 11 then 16 else 8
      let old := leNat (s.hw.mem.read x.off n)
      op < 12 → x.off % n = 0 → CleanHere s x.off n → grants s.hw k.key.job x.off n = true →
      Yields (.atomicRequestReceive i) s (fun t => gone t ∧
        Responds s t x k 5 5 (wBytes (BitVec.ofNat 64 old)) 0 ∧
        t.hw.mem.read x.off n = leBytes n (atomNew op old (bWord (k.body.drop 8)) (bWord (k.body.drop 16))) ∧
        (∀ a, a < x.off ∨ x.off + n ≤ a → t.hw.mem.byte a = s.hw.mem.byte a))) ∧
    (∀ o, Opens s i q 6 k → peerObj s.hw k.key.job (wfld (bWord k.body) 16 15) = some o →
      let w := s.hw.obj (.mod o)
      let v := bWord (k.body.drop 8)
      let op := wfld (bWord k.body) 0 2
      let others (t : State) : Prop := (∀ o', o' ≠ ObjId.mod o → t.hw.obj o' = s.hw.obj o') ∧ t.hw.mem = s.hw.mem
      (∀ y ∈ s.hw.sync.waiters, y.obj ≠ .mod o) →
      (op = 0 → isBarrier w = false → wfld w 0 48 + v.toNat % 2 ^ 32 < 2 ^ 48 →
        Yields (.syncOperationReceive i) s (fun t => gone t ∧ Responds s t x k 0 7 [] 0 ∧ others t ∧
          wfld (t.hw.obj (.mod o)) 0 48 = wfld w 0 48 + v.toNat % 2 ^ 32)) ∧
      (op = 1 → Yields (.syncOperationReceive i) s (fun t => gone t ∧ Responds s t x k 0 7 (wBytes w) 0 ∧
        t.hw.obj (.mod o) = w ∧ others t)) ∧
      (op = 2 → setOk (.mod o) v = true → Yields (.syncOperationReceive i) s (fun t => gone t ∧
        Responds s t x k 0 7 [] 0 ∧ t.hw.obj (.mod o) = v ∧ others t)))


/-- R99, R244, R283, R285, R288, R319; `answered` is the request that a response answers. -/
def Obligations.ResponsesEndOutstandingRequests : Prop :=
  (∀ (s : State) (i : Nat) (q : QPkt) (k : Plain),
    let x := q.pkt.hdr
    let gone (t : State) : Prop := t.hw.rte.localq = s.hw.rte.localq.eraseIdx i
    let ended (t : State) (r : Request) : Prop := t.hw.reqs = s.hw.reqs.filter (fun y => y.tag != r.tag)
    let coreGets (c : Instr) (w : WaitFor) (rd : BitVec 5) (r : Request) (e : EaselId) (v : Word) : Prop :=
      r.by_ = .core e → x.status = 0 → (s.hw.easel e).loaded = r.ctx → r.ctx.isSome = true →
      OnlyCoreWaits (s.hw.easel e) →
      (s.hw.easel e).blocked.map (·.what) = some w →
      Yields c s (fun t => gone t ∧ ended t r ∧ t.hw.mem = s.hw.mem ∧ (t.hw.easel e).blocked = none ∧
        (t.hw.easel e).core.get rd = (if rd = 0 then 0 else v) ∧
        (∀ j, j ≠ rd → (t.hw.easel e).core.get j = (s.hw.easel e).core.get j) ∧
        { (t.hw.easel e).core with s := (s.hw.easel e).core.s } =
          { (s.hw.easel e).core with pc := (s.hw.easel e).core.pc + 8, serial := (s.hw.easel e).core.serial + 1 } ∧
        ∀ e', e' ≠ e → t.hw.easel e' = s.hw.easel e')
    (∀ r, answered s.hw x = some r → (s.hw.ctx r.who).job = k.key.job →
      (Opens s i q 3 k → ∀ e rd size signed, coreGets (.readResponseReceive i) (.load rd size signed r.tag) rd r e
        (extendLoad size signed k.body)) ∧
      (Opens s i q 5 k → ∀ e rd, coreGets (.writeResponseReceive i) (.atom rd r.tag) rd r e (bWord k.body)) ∧
      (Opens s i q 7 k → ∀ e rd, coreGets (.syncResponseReceive i) (.syncrd rd r.tag) rd r e (bWord k.body)) ∧
      (Opens s i q 5 k → ∀ e, r.by_ = .storeBuf e → (s.hw.easel e).blocked = none → OnlyCoreWaits (s.hw.easel e) →
        (x.status = 0 → Yields (.writeResponseReceive i) s (fun t => gone t ∧ ended t r ∧
          (t.hw.easel e).sb = (s.hw.easel e).sb.filter (fun b => b.tag != some r.tag) ∧
          (t.hw.easel e).core = (s.hw.easel e).core ∧ t.hw.mem = s.hw.mem)) ∧
        (x.status = 1 → Yields (.writeResponseReceive i) s (fun t => gone t ∧ ended t r ∧
          (t.hw.easel e).sb = (s.hw.easel e).sb.map
            (fun b => if b.tag = some r.tag then { b with tag := none, cls := 0x17 } else b) ∧
          (t.hw.easel e).core = (s.hw.easel e).core ∧ t.hw.mem = s.hw.mem)))) ∧
    (answered s.hw x = none → Opens s i q 3 k → Yields (.readResponseReceive i) s (fun t => gone t ∧
      Counts s t (blkBase (.syn (if portNorth q.at then 0 else 1)) + 0x28) 1 ∧
      t.hw.easels = s.hw.easels ∧ t.hw.reqs = s.hw.reqs ∧ t.hw.mem = s.hw.mem))) ∧
  (∀ (s : State) (r : Request) (e : EaselId), peerReq s.hw r.tag = some r → r.by_ = .storeBuf e →
    (∀ d, r.deadline = some d → d ≤ s.hw.now → (s.hw.easel e).blocked = none → OnlyCoreWaits (s.hw.easel e) → Yields (.remoteTransactionTimeout r.tag) s (fun t =>
      t.hw.reqs = s.hw.reqs.filter (fun y => y.tag != r.tag) ∧
      Counts s t (blkBase (.syn (if r.north then 0 else 1)) + 0x20) 1 ∧
      (t.hw.easel e).sb = (s.hw.easel e).sb.map
        (fun b => if b.tag = some r.tag then { b with tag := none, cls := 0x23 } else b) ∧
      t.hw.mem = s.hw.mem)) ∧
    ((∀ d, r.deadline = some d → s.hw.now < d) → Yields (.remoteTransactionTimeout r.tag) s (fun t => t = s)))

/-- R301 to R303, R306, R308; `absorb` cuts a flit's bytes into packets (R307). -/
def Obligations.FlitsAreCheckedAcknowledgedAndReplayed : Prop :=
  ∀ (s : State) (i : PortId),
    let p := s.hw.port i
    let kept (t : State) : Prop := t.hw.rte.inq = s.hw.rte.inq ∧ t.hw.mem = s.hw.mem
    (p.state ≠ 2 → (∀ f bad fec, Yields (.flitReceive i f bad fec) s (fun t => t = s)) ∧
      Yields (.flitTransmit i) s (fun t => t = s)) ∧
    (∀ f : Flit, p.state = 2 → isSide i = false →
      let r := absorb 32 p.rxBytes (sub f.data 0 240)
      (flitGood f = true → fKind f.hdr = 0 → fSeq f.hdr = p.rxExpect → (∀ k ∈ r.1, pktOk k.hdr = true) →
        Yields (.flitReceive i f false ⟨0, []⟩) s (fun t =>
          t.hw.rte.inq.map (·.pkt) = s.hw.rte.inq.map (·.pkt) ++ r.1 ∧
          (∀ q ∈ t.hw.rte.inq.drop s.hw.rte.inq.length, q.inPort = some i) ∧
          (t.hw.port i).rxExpect = p.rxExpect + 1 ∧ (t.hw.port i).nackDue = false ∧
          (t.hw.port i).rxBytes = r.2 ∧ t.hw.mem = s.hw.mem)) ∧
      (flitGood f = true → fKind f.hdr = 0 → fSeq f.hdr ≠ p.rxExpect →
        Yields (.flitReceive i f false ⟨0, []⟩) s (fun t => kept t ∧ (t.hw.port i).nackDue = true ∧
          (t.hw.port i).rxExpect = p.rxExpect)) ∧
      (∀ bad, (bad = true ∨ flitGood f = false) → Yields (.flitReceive i f bad ⟨0, []⟩) s (fun t => kept t ∧
        (t.hw.port i).nackDue = true ∧ (t.hw.port i).rxExpect = p.rxExpect ∧
        (t.hw.port i).replay = p.replay ∧ (t.hw.port i).winFails = p.winFails + 1 ∧
        (flitGood f = false → Counts s t (blkBase (.err i) + 0x50) 1))) ∧
      (flitGood f = true → fKind f.hdr = 1 → Yields (.flitReceive i f false ⟨0, []⟩) s (fun t => kept t ∧
        (t.hw.port i).replay = (if p.replay.any (fun g => g.seq == fAck f.hdr) then
          (p.replay.dropWhile (fun g => g.seq != fAck f.hdr)).drop 1 else p.replay) ∧
        (∀ g l, (t.hw.port i).replay = g :: l → fNack f.hdr = true → p.replayFrom = none →
          (t.hw.port i).replayFrom = some g.seq ∧ Counts s t (blkBase (.err i) + 0x58) 1) ∧
        ((fNack f.hdr = false ∨ p.replayFrom ≠ none) → (t.hw.port i).replayFrom = p.replayFrom) ∧
        (t.hw.port i).rxExpect = p.rxExpect))) ∧
    (p.state = 2 →
      let sends (t : State) (seq : BitVec 12) (kind : Nat) (data : Bytes) : Prop := ∃ f,
        t.hw.out = s.hw.out ++ [.flit i f] ∧ fSeq f.hdr = seq ∧ fAck f.hdr = p.rxExpect - 1 ∧
        fNack f.hdr = p.nackDue ∧ fKind f.hdr = kind ∧ f.data = sub data 0 240 ∧ flitGood f = true
      (∀ q g, p.replayFrom = some q → p.replay.find? (fun f => f.seq == q) = some g →
        Yields (.flitTransmit i) s (fun t => kept t ∧ sends t q 0 g.data ∧ (t.hw.port i).replay = p.replay ∧
          (t.hw.port i).txNext = p.txNext ∧
          (t.hw.port i).replayFrom = (if q + 1 = p.txNext then none else some (q + 1)))) ∧
      (p.replayFrom = none → p.replay.length < 1024 → p.txCur = none →
        ((∃ v ∈ p.ready, 1 ≤ v ∧ v ≤ 5) ∨ p.ready.length = 1) →
        Yields (.flitTransmit i) s (fun t => kept t ∧ (t.hw.port i).txNext = p.txNext + 1 ∧
          (t.hw.port i).nackDue = false ∧
          ∃ g v, v ∈ p.ready ∧ (t.hw.port i).replay = p.replay ++ [g] ∧ g.seq = p.txNext ∧
            sends t p.txNext 0 g.data ∧
            SMap.get 0 (t.hw.port i).credits v = SMap.get 0 p.credits v + 1)) ∧
      (p.replayFrom = none → p.txCur = none → p.ready = [] →
        Yields (.flitTransmit i) s (fun t => kept t ∧ sends t p.txNext 1 [] ∧
          (t.hw.port i).txNext = p.txNext ∧ (t.hw.port i).replay = p.replay ∧ queueAt t i = queueAt s i)))


/-- R310 to R314 and R331, for a port that holds no packet where it goes DOWN. -/
def Obligations.PortsTrainDegradeAndGoDown : Prop :=
  ∀ (s : State) (i : PortId),
    let p := s.hw.port i
    let cfg := s.hw.breg (.err i)
    let downs (c : Instr) : Prop := p.held = [] → Yields c s (fun t => PortDown s t i)
    (∀ lanes fa pt eq l, p.state = 1 → widest (lanes &&& laneMask s.hw i) = some l →
      (partnerOk s.hw i fa pt = true ∨ bit (cfg 0x38) 3 = false) →
      Yields (.portTrainingComplete i (.up lanes fa pt eq)) s (fun t =>
        PortMoves s t i (if partnerOk s.hw i fa pt then 2 else 5) l ∧
        (t.hw.port i).partnerFa = fa ∧ (t.hw.port i).partnerPort = pt ∧ (t.hw.port i).partnerValid = true ∧
        (t.hw.port i).eqNow = eq ∧ (t.hw.port i).eqSaved = some eq ∧ t.hw.mem = s.hw.mem)) ∧
    (p.state = 1 → downs (.portTrainingComplete i .failed)) ∧
    (p.state = 1 → p.since + 2000000000 ≤ s.hw.now → downs (.portTrainingTimeout i)) ∧
    (s.hw.now < p.since + 2000000000 → Yields (.portTrainingTimeout i) s (fun t => t = s)) ∧
    (p.state = 4 → bit (cfg 0x38) 2 = true → p.since + 100000000 ≤ s.hw.now →
      Yields (.portAutoUpRetry i) s (fun t => PortMoves s t i 1 0 ∧ t.hw.mem = s.hw.mem)) ∧
    (p.state = 2 → p.winStart + 1000000 ≤ s.hw.now → Yields (.degradeWindowEnd i) s (fun t =>
      (t.hw.port i).decided = (p.decided || decide (wfld (cfg 0x30) 0 16 ≤ p.winFails)) ∧
      (t.hw.port i).winStart = s.hw.now ∧ (t.hw.port i).winFails = 0 ∧ (t.hw.port i).state = 2 ∧
      ∀ i', i' ≠ i → t.hw.port i' = s.hw.port i')) ∧
    (∀ lane : Fin 8, p.state = 2 → p.lanes.getLsbD lane.val = true → Yields (.laneLossOfLock i lane) s (fun t =>
      (t.hw.port i).decided = true ∧ (t.hw.port i).lockLost.getLsbD lane.val = true ∧
      (t.hw.port i).state = 2 ∧ ∀ i', i' ≠ i → t.hw.port i' = s.hw.port i')) ∧
    (p.state = 2 → p.decided = true →
      (p.lanes = 0xFF ∨ p.lanes = 0x0F ∨ p.lanes = 0xF0 → Yields (.laneDegrade i) s (fun t => ∃ l f,
        PortMoves s t i 3 l ∧ l &&& p.lanes = l ∧ 2 * popc 8 l.toNat = popc 8 p.lanes.toNat ∧
        l.getLsbD (worstLane p) = false ∧ Counts s t (blkBase (.err i) + 0x60) 1 ∧
        t.hw.out = s.hw.out ++ [.flit i f] ∧ fKind f.hdr = 3)) ∧
      (popc 8 p.lanes.toNat ≤ 2 → downs (.laneDegrade i))) ∧
    (p.state = 3 → widest p.lanes = some p.lanes → Yields (.retrainComplete i p.lanes) s (fun t => PortMoves s t i 2 p.lanes ∧
      (t.hw.port i).replayFrom = p.replay.head?.map (·.seq) ∧ (t.hw.port i).replay = p.replay ∧
      queueAt t i = queueAt s i ∧ (t.hw.port i).decided = p.decided)) ∧
    (p.state = 3 → p.chipTrain = false → p.since + 50000 ≤ s.hw.now → downs (.retrainTimeout i)) ∧
    (p.state = 3 → p.chipTrain = true → p.since + 10000000 ≤ s.hw.now →
      Yields (.retrainTimeout i) s (fun t => PortMoves s t i 1 0)) ∧
    (p.state = 3 → s.hw.now < p.since + 50000 → Yields (.retrainTimeout i) s (fun t => t = s)) ∧
    ((p.state = 2 ∨ p.state = 3) → downs (.linkDown i)) ∧
    (∀ r, MayWriteReg s r (.err i) 0x38 →
      (p.state = 2 → bit (cfg 0x38) 1 = false → Yields (.errRetrainFull r i) s (fun t =>
        PortMoves s t i 3 (laneMask s.hw i))) ∧
      Yields (.errSaveEq r i) s (fun t => (t.hw.port i).eqSaved = some p.eqNow) ∧
      (p.state = 5 → bit (cfg 0x38) 0 = false → bit (cfg 0x38) 1 = false →
        Yields (.errAcceptMiswire r i) s (fun t => PortMoves s t i 2 p.lanes)))


/-- R322 to R326; what the error bound takes beside the offset is a free value (assumption 5), the record's order
is assumption 45. -/
def Obligations.FabricTimeFollowsItsParent : Prop :=
  ∀ s : State,
    let f := s.hw.ftc
    let cfg := s.hw.breg .ftc
    let onlyFtc (t : State) : Prop := { t.hw with ftc := f } = s.hw
    (∀ i st, ftcPort s.hw = some i → (s.hw.port i).state = 2 →
      let q : Int := (((st.t2 : Int) - st.t1) + ((st.t3 : Int) - st.t4)) / 2
      Yields (.timingFlitReceive i st) s (fun t =>
        t.hw.ftc.offsetQ = q ∧ min q.natAbs 262140 ≤ t.hw.ftc.errQ ∧ t.hw.ftc.errQ ≤ 262140 ∧
        (t.hw.ftc.synced = true ↔ t.hw.ftc.errQ ≤ 50) ∧
        (q ≤ 400000 → t.hw.ftc.count = f.count ∧ t.hw.ftc.owed = q * 250000) ∧
        (400000 < q → t.hw.ftc.count = f.count + (q / 4).toNat ∧ t.hw.ftc.owed = 0 ∧
          Pends t 0x0C2 (min (q / 4000).toNat (2 ^ 32 - 1))))) ∧
    (∀ i, ftcPort s.hw = some i → (s.hw.port i).state = 2 →
      (f.exchAt + wfld (cfg 0x18) 16 10 * 1000 ≤ s.hw.now → Yields .ftcExchangePeriod s (fun t =>
        (∃ fl, t.hw.out = s.hw.out ++ [.flit i fl] ∧ fKind fl.hdr = 2 ∧ flitGood fl = true ∧
          fl.data = sub (timingRecord f.stamp 0 0) 0 240) ∧ t.hw.ftc = { f with exchAt := s.hw.now })) ∧
      (s.hw.now < f.exchAt + wfld (cfg 0x18) 16 10 * 1000 → Yields .ftcExchangePeriod s (fun t => t = s))) ∧
    (f.holdover = true → f.onAlt = false → f.lostAt + 100000 ≤ s.hw.now → bit (cfg 0x18) 10 = true →
      (s.hw.port (Fin.ofNat 12 (wfld (cfg 0x18) 6 4))).state = 2 → bit (cfg 0x18) 0 = false →
      Yields .ftcHoldoverSwitch s (fun t =>
        t.hw.ftc = { f with onAlt := true, holdover := false, errQ := min (f.errQ + f.drift s.hw.now) 262140 } ∧
        Pends t 0x0C3 (wfld (cfg 0x18) 6 4 % 12))) ∧
    (f.holdover = true →
      (50 < errBoundQ s.hw → Yields .holdoverSyncedClear s (fun t => t.hw.ftc.synced = false ∧ onlyFtc t)) ∧
      (errBoundQ s.hw ≤ 50 → Yields .holdoverSyncedClear s (fun t => t = s))) ∧
    (∀ at_, f.roleAt = some at_ → bit (cfg 0x18) 0 = true → f.synced = false →
      (at_ + 1000000000 ≤ s.hw.now → Yields .ftcMasterSyncTimeout s (fun t =>
        t.hw.ftc.synced = true ∧ t.hw.ftc.count = f.count ∧ onlyFtc t)) ∧
      (s.hw.now < at_ + 1000000000 → Yields .ftcMasterSyncTimeout s (fun t => t = s))) ∧
    (∀ r v, MayWriteReg s r .ftc 0x20 →
      (bit (cfg 0x18) 0 = true → f.everSynced = false → Yields (.ftcSet r v) s (fun t =>
        t.hw.ftcNow = v.toNat ∧ t.hw.ftc.synced = true ∧ t.hw.ftc.everSynced = true ∧ onlyFtc t)) ∧
      ((bit (cfg 0x18) 0 = false ∨ f.everSynced = true) → Yields (.ftcSet r v) s (fun t => t = s))) ∧
    (∀ r v, MayWriteReg s r .ftc 0x30 → s.hw.ftcNow ≤ v.toNat → Yields (.ftcSnapArm r v) s (fun t =>
      t.hw.ftc = { f with snapArmed := true } ∧ t.hw.breg .ftc 0x30 = v ∧ t.hw.mem = s.hw.mem)) ∧
    (f.snapArmed = true →
      (s.hw.ftcNow < (cfg 0x30).toNat → Yields .ftcSnapshot s (fun t => t = s)) ∧
      (let off := wfld (cfg 0x38) 0 48
       let rec_ := wordsBytes (snapWords s.hw)
       (cfg 0x30).toNat ≤ s.hw.ftcNow → isLp off = true → isLp (off + rec_.length - 1) = true →
        CleanWords s off rec_.length → bit (cfg 0x40) 15 = false → Yields .ftcSnapshot s (fun t =>
          (∀ j, (hj : j < rec_.length) → t.hw.mem.byte (off + j) = rec_[j]) ∧
          (∀ a, a < off ∨ off + rec_.length ≤ a → t.hw.mem.byte a = s.hw.mem.byte a) ∧
          t.hw.ftc = { f with snapArmed := false } ∧ bit (t.hw.breg .ftc 0x48) 1 = true)))

/-- R362, R363, R367, R369, R370, R380 to R383; `acceptFault` is the class of Table 12-3, `slotResult` what the
collective computes. -/
def Obligations.CollectivesAreAcceptedCompletedAndTimedOut : Prop :=
  (∀ (s : State) (e : EaselId) (f : FmtI), Issues s e f.pneg f.pred → (s.hw.easel e).service = false →
    f.rd = 0 → f.imm = 0 →
    let a := (regsOf s e).get f.rs1
    (a.toNat % 64 = 0 → Yields (.coll e f) s (fun t => OnlyEasel s t e ∧ regsOf t e = regsOf s e ∧
      (t.hw.easel e).blocked.map (·.what) = some (.coll a))) ∧
    (a.toNat % 64 ≠ 0 → Yields (.coll e f) s (fun t => FaultsPrecisely s t e 0x14 a (wordI 0x24 0x00 f)))) ∧
  (∀ (s : State) (e : EaselId) (slot : SlotId) (b : Blocked) (uma : Word) (off : Nat),
    let x := s.hw.easel e
    x.blocked = some b → b.what = .coll uma → x.stopped = false → x.loaded = some x.actx →
    SMap.find s.hw.col.slots slot.val = none → fenceHolds s.hw e 0xF = true →
    decodeUma s.hw x.actx uma = .local off → CleanHere s off 64 →
    let d := bytesWords 8 (s.hw.mem.read off 64)
    let c := collOf s.hw d
    let goes (t : State) : Prop := (t.hw.easel e).blocked = none ∧
      (t.hw.easel e).core = { x.core with pc := x.core.pc + 8, serial := x.core.serial + 1 } ∧ t.hw.mem = s.hw.mem
    (acceptFault s.hw x.actx d = none → (∃ p ∈ s.hw.col.slots, (collOf s.hw p.2.desc).group = c.group) →
      let q := SMap.get 0 s.hw.col.seqs c.group
      Yields (.collAccept e slot) s (fun t => goes t ∧
        SMap.get 0 t.hw.col.seqs c.group = (q + 1) % 2 ^ 32 ∧ t.hw.rte.inq = s.hw.rte.inq ∧
        ∃ k, SMap.find t.hw.col.slots slot.val = some k ∧ k.desc = d ∧ k.seq = q ∧ k.easel = e ∧
          k.ctx = x.actx ∧ k.serial = b.serial ∧ k.running = false ∧ k.acceptAt = s.hw.now ∧
          k.sig = c.signature (groupDigest s.hw c.group) q)) ∧
    (∀ cls, acceptFault s.hw x.actx d = some cls → RunsClean s x.actx → Yields (.collAccept e slot) s (fun t =>
      goes t ∧ TakesPrimary t x.actx cls uma ∧ SMap.find t.hw.col.slots slot.val = none ∧
      t.hw.col.seqs = s.hw.col.seqs ∧ t.hw.rte.inq = s.hw.rte.inq))) ∧
  (∀ (s : State) (slot : SlotId) (k : ColSlot), SMap.find s.hw.col.slots slot.val = some k →
    let c := collOf s.hw k.desc
    (∀ r, k.running = true → collSentAll s.hw k = true → slotResult s.hw k = some r →
      (∀ b ∈ c.bufs, chanWaits s.hw b.1 b.2 = false) → CleanHere s c.dst r.length → c.hdr = 0 → c.sig = false → c.op ≠ 6 →
      (∀ p ∈ s.hw.col.slots, p.1 ≠ slot.val → (collOf s.hw p.2.desc).group ≠ c.group) →
      Yields (.collComplete slot) s (fun t =>
        (∀ j, (hj : j < r.length) → t.hw.mem.byte (c.dst + j) = r[j]) ∧
        (∀ a, a < c.dst ∨ c.dst + r.length ≤ a → t.hw.mem.byte a = s.hw.mem.byte a) ∧
        SMap.find t.hw.col.slots slot.val = none ∧ t.hw.easels = s.hw.easels ∧
        t.hw.rte.inq.map (·.pkt) = s.hw.rte.inq.map (·.pkt))) ∧
    ((k.running = false ∨ collSentAll s.hw k = false) → Yields (.collComplete slot) s (fun t => t = s)) ∧
    (∀ d, tcodeNs c.tcode = some d →
      (k.acceptAt + d ≤ s.hw.now → RunsClean s k.ctx → slotBlank s.hw k = true →
        Yields (.collTimeout slot) s (fun t => TakesPrimary t k.ctx 0x21 0 ∧ Counts s t 0x160020 1 ∧
          SMap.find t.hw.col.slots slot.val = none ∧ t.hw.mem = s.hw.mem)) ∧
      (s.hw.now < k.acceptAt + d → Yields (.collTimeout slot) s (fun t => t = s))))


/-- R370, R371, R374, R376, R378; packet layouts are assumption 17. -/
def Obligations.CollectivePacketsDriveTheHandshake : Prop :=
  (∀ (s : State) (i : Nat) (q : QPkt) (k : Plain),
    let x := q.pkt.hdr
    let r := ctlReady x k
    let gone (t : State) : Prop := t.hw.rte.localq = s.hw.rte.localq.eraseIdx i ∧ t.hw.mem = s.hw.mem
    let found := findColl s.hw r.digest r.seq.toNat r.job
    let sent (t : State) (n : SlotId) (c : ColSlot) (dst typ vc off : Nat) : Prop := ∃ p,
      t.hw.rte.inq = s.hw.rte.inq ++ [p] ∧ p.inPort = none ∧ p.col = some n ∧ p.pkt.hdr.dst = dst ∧
      p.pkt.hdr.typ = typ ∧ p.pkt.hdr.vc = vc ∧ p.pkt.hdr.off = off ∧ p.pkt.hdr.sig = c.sig
    let mayLeave (c : ColSlot) (fa : Nat) : Prop := collSendFault s.hw c fa = none ∧ fa < 2 ^ 10
    (Opens s i q 9 k → x.tag = 1 →
      (∀ n c, found = some (n, c) → c.running = true →
        let from_ := senderRank s.hw c r.src.toNat
        (r.sig = c.sig → mayLeave c (rankFa s.hw c from_) →
          Yields (.collReadyReceive i) s (fun t => gone t ∧ sent t n c (rankFa s.hw c from_) 9 0 0)) ∧
        (r.sig ≠ c.sig → RunsClean s c.ctx → slotBlank s.hw c = true →
          SMap.find s.hw.col.slots n.val = some c → Yields (.collReadyReceive i) s (fun t => gone t ∧
            TakesPrimary t c.ctx 0x22 0 ∧ SMap.find t.hw.col.slots n.val = none ∧ Counts s t 0x160018 1))) ∧
      ((found = none ∧ seqPassed s.hw r.digest r.seq.toNat r.job = false) ∨
          (∃ n c, found = some (n, c) ∧ c.running = false) → s.hw.col.held.length < 2048 →
        r ∉ s.hw.col.held → Yields (.collReadyReceive i) s (fun t => gone t ∧
          t.hw.col.held = s.hw.col.held ++ [r] ∧ t.hw.rte.inq = s.hw.rte.inq)) ∧
      (found = none → seqPassed s.hw r.digest r.seq.toNat r.job = true → Yields (.collReadyReceive i) s (fun t =>
        gone t ∧ t.hw.col = s.hw.col ∧ t.hw.rte.inq = s.hw.rte.inq ∧ Counts s t 0x160030 1))) ∧
    (Opens s i q 9 k → x.tag = 2 →
      (∀ n c, found = some (n, c) →
        let from_ := senderRank s.hw c x.src
        let c' := { c with grants := c.grants ++ [from_], readies := c.readies.filter (fun p => p.1 != from_) }
        ((c.running = false ∨ readyMsgs s.hw c' = []) → Yields (.collGrantReceive i) s (fun t => gone t ∧
          SMap.find t.hw.col.slots n.val = some c' ∧ t.hw.rte.inq = s.hw.rte.inq)) ∧
        (∀ m, c.running = true → readyMsgs s.hw c' = [m] →
          readyMsgs s.hw { c' with sent := c.sent ++ [m.key] } = [] →
          (m.step ≠ 9 → m.step < 2 ^ 10 ∧ m.off < 2 ^ 38 ∧ m.vc < 8 ∧ m.body.length ≤ 3584) →
          mayLeave c (rankFa s.hw c m.rank) →
          Yields (.collGrantReceive i) s (fun t => gone t ∧
            (if m.step = 9 then sent t n c (rankFa s.hw c m.rank) 9 0 0
             else sent t n c (rankFa s.hw c m.rank) 8 m.vc (m.step * 2 ^ 38 + m.off)) ∧
            SMap.find t.hw.col.slots n.val = some { c' with sent := c.sent ++ [m.key] }))) ∧
      (found = none → otherJob s.hw r.digest r.seq.toNat = false → Yields (.collGrantReceive i) s (fun t => gone t ∧ Counts s t 0x160028 1 ∧
        t.hw.col = s.hw.col))) ∧
    (Opens s i q 9 k → x.tag = 3 →
      (∀ n c, found = some (n, c) → Yields (.collCountsReceive i) s (fun t => gone t ∧
        SMap.find t.hw.col.slots n.val = some { c with
          counts := c.counts ++ [(senderRank s.hw c x.src, wfld (bWord (k.body.drop 8)) 32 32)] })) ∧
      (found = none → otherJob s.hw r.digest r.seq.toNat = false → Yields (.collCountsReceive i) s (fun t => gone t ∧ Counts s t 0x160028 1))) ∧
    (Opens s i q 8 k →
      let same (p : SlotId × ColSlot) : Bool := p.2.running && p.2.sig == x.sig &&
        (groupMembers s.hw (collOf s.hw p.2.desc).group).contains x.src
      let open_ := (slotList s.hw).find? (fun p => same p && (s.hw.ctx p.2.ctx).job == k.key.job)
      (∀ n c, open_ = some (n, c) →
        let c' := { c with
          parts := c.parts ++ [((x.off / 2 ^ 38) * 1024 + senderRank s.hw c x.src, x.off % 2 ^ 38, k.body)],
          ovfAny := c.ovfAny || x.tag == 1 }
        readyMsgs s.hw c' = [] → Yields (.collDataReceive i) s (fun t => gone t ∧
          SMap.find t.hw.col.slots n.val = some c' ∧ t.hw.rte.inq = s.hw.rte.inq)) ∧
      ((slotList s.hw).all (fun p => !same p) = true → Yields (.collDataReceive i) s (fun t => gone t ∧ Counts s t 0x160028 1 ∧
        t.hw.col = s.hw.col)))) ∧
  (∀ (s : State) (n : SlotId) (c : ColSlot) (r at_ : Nat), SMap.find s.hw.col.slots n.val = some c →
    c.readies = [(r, at_)] →
    (at_ + 100000 ≤ s.hw.now → collSendFault s.hw c (rankFa s.hw c r) = none → rankFa s.hw c r < 2 ^ 10 →
      Yields (.collReadyResend n) s (fun t =>
        (∃ p, t.hw.rte.inq = s.hw.rte.inq ++ [p] ∧ p.col = some n ∧ p.pkt.hdr.dst = rankFa s.hw c r ∧
          p.pkt.hdr.typ = 9 ∧ p.pkt.hdr.tag = 1 ∧ p.pkt.hdr.sig = c.sig) ∧
        SMap.find t.hw.col.slots n.val = some { c with readies := [(r, s.hw.now)] })) ∧
    (s.hw.now < at_ + 100000 → Yields (.collReadyResend n) s (fun t => t = s)))

/-- R34 to R40; `stagedWords` is the staging copy of a block, `blkOk` its rules. -/
def Obligations.CommitsTakeStagedFieldsTogether : Prop :=
  ∀ (s : State) (b : BlockId),
    let c := s.hw.blk b
    let cap := stagedWords s.hw b
    let active (t : State) : Prop := t.hw.regs.act = s.hw.regs.act ∧ t.hw.mem = s.hw.mem ∧ t.hw.easels = s.hw.easels
    let staged (t : State) : Prop := stagedWords t.hw b = []
    (∀ r, MayWriteReg s r b 8 →
      (∀ i lock, (i = Instr.commitGo r b ∧ lock = false) ∨ (i = .commitGoLock r b ∧ lock = true) →
        (c.busy = false → c.locked = false → blkOk s.hw (applyRegs s.hw cap) b cap = true →
          Yields i s (fun t => active t ∧ staged t ∧ (t.hw.blk b).busy = true ∧ (t.hw.blk b).captured = cap ∧
            (t.hw.blk b).lockReq = lock ∧ (t.hw.blk b).pend = false ∧ (t.hw.blk b).seq = c.seq)) ∧
        (c.busy = false → c.locked = false → blkOk s.hw (applyRegs s.hw cap) b cap = false →
          Yields i s (fun t => active t ∧ t.hw.regs.staged = s.hw.regs.staged ∧
            t.hw.blk b = { c with pend := false, error := 1 })) ∧
        (c.busy = true → Yields i s (fun t => active t ∧ t.hw.regs.staged = s.hw.regs.staged ∧
          t.hw.blk b = { c with error := 2 })) ∧
        (c.busy = false → c.locked = true → changesLocked s.hw cap = true →
          Yields i s (fun t => active t ∧ t.hw.regs.staged = s.hw.regs.staged ∧
            t.hw.blk b = { c with error := 3 }))) ∧
      Yields (.commitDiscard r b) s (fun t => active t ∧ staged t ∧
        t.hw.blk b = { c with pend := false, error := 0 })) ∧
    (c.busy = false → Yields (.commitApply b) s (fun t => t = s)) ∧
    (c.busy = true → SMap.sorted c.captured = true →
      (b = .evc ∨ b = .thm ∨ b = .fwu ∨ (∃ d, b = .cnv d) ∨ (∃ i, b = .glz i) ∨ (∃ p, b = .skt p)) →
      Yields (.commitApply b) s (fun t =>
        (∀ k, t.hw.reg k = match SMap.find c.captured k with
          | some v => mergeStaged s.hw k v
          | none => s.hw.reg k) ∧
        t.hw.blk b = { c with busy := false, locked := c.locked || c.lockReq, lockReq := false, error := 0,
                              seq := c.seq + 1, captured := [] } ∧
        t.hw.mem = s.hw.mem ∧ t.hw.easels = s.hw.easels))


/-- R9, R35, R43, R193, R392; `regAt` gives the fields of a register, `viewReg` what it reads as. -/
def Obligations.RegisterAccessesReadAndWriteTheirFields : Prop :=
  ∀ (s : State) (r : Requester) (off : Nat) (b : BlockId) (o : Nat), (bar0Off r off).bind blockOf = some (b, o) →
    o % 8 = 0 → off % 8 = 0 → MayWriteReg s r b o → (∀ f, r = .fn f → (s.hw.fn f).waiting = []) →
    let k := blkBase b + o
    let i := regAt s.hw.pins.variant1800 k
    let plain := o ≠ 8 ∧ (∀ h w v low, specialWrite h r b o w v low = none) ∧ i.counter = false ∧ i.w1c = 0
    let wrote (t : State) (v : Word) : Prop :=
      t.hw.reg k = (s.hw.reg k &&& ~~~i.rw) ||| (v &&& i.rw) ∧ (∀ k', k' ≠ k → t.hw.reg k' = s.hw.reg k') ∧
        (i.staged ≠ 0 → (i.rwl = false ∨ (s.hw.blk b).locked = false) →
          stagedWord t.hw k &&& i.staged = v &&& i.staged ∧ (t.hw.blk b).pend = true) ∧
        t.hw.mem = s.hw.mem ∧ t.hw.easels = s.hw.easels
    (∀ v, plain → Yields (.registerWrite r off 8 v false) s (fun t => wrote t v)) ∧
    (∀ v, Yields (.registerWrite r off 4 v false) s (fun t => t.hw.regs.act = s.hw.regs.act ∧
      SMap.find t.hw.regs.whold (latchKey r b) = some (o, BitVec.ofNat 32 (wfld v 0 32)))) ∧
    (∀ lo hi, plain → SMap.find (SMap.put s.hw.regs.whold (latchKey r b) (o, lo)) (latchKey r b) = some (o, lo) →
      Yields (.registerWrite r (off + 4) 4 hi false)
        { s with hw := { s.hw with regs := { s.hw.regs with
            whold := SMap.put s.hw.regs.whold (latchKey r b) (o, lo) } } }
        (fun t => wrote t (put lo.toNat 0 32 ||| put (wfld hi 0 32) 32 32))) ∧
    (i.counter = true → Yields (.counterWriteClear r off) s (fun t => t.hw.reg k = 0 ∧
      (∀ k', k' ≠ k → t.hw.reg k' = s.hw.reg k') ∧ t.hw.mem = s.hw.mem)) ∧
    ((∀ f, r = .fn f → f ≠ 0 → s.hw.bru.ready = true) →
      Yields (.registerReadLowHalf r off 4) s (fun t =>
        t.hw.out = s.hw.out ++ [.readDone r (put (wfld (viewReg s.hw (r == .fn 0) b o) 0 32) 0 32)] ∧
        SMap.find t.hw.regs.rhold (latchKey r b) =
          some (o, BitVec.ofNat 32 (wfld (viewReg s.hw (r == .fn 0) b o) 32 32)) ∧
        t.hw.regs.act = s.hw.regs.act ∧ t.hw.mem = s.hw.mem) ∧
      (∀ hi, SMap.find (SMap.put s.hw.regs.rhold (latchKey r b) (o, hi)) (latchKey r b) = some (o, hi) →
        Yields (.registerReadLowHalf r (off + 4) 4)
          { s with hw := { s.hw with regs := { s.hw.regs with
              rhold := SMap.put s.hw.regs.rhold (latchKey r b) (o, hi) } } }
          (fun t => t.hw.out = s.hw.out ++ [.readDone r (put hi.toNat 0 32)] ∧
            SMap.find t.hw.regs.rhold (latchKey r b) = none ∧ t.hw.regs.act = s.hw.regs.act ∧
            t.hw.mem = s.hw.mem))) ∧
    (∀ f v off' size, r = .fn f → formOk off' size = false → Yields (.registerWrite r off' size v false) s (fun t =>
      Pends t 0x180 f.val ∧ Counts s t (f.val * 0x1000 + 0x78) 1 ∧ t.hw.regs.staged = s.hw.regs.staged ∧
      t.hw.regs.whold = s.hw.regs.whold ∧ t.hw.mem = s.hw.mem))

/-- R160, R162, R173, R174, R180, R184, R186, R188, R471. -/
def Obligations.MemoriesScrubRefreshAndRetrain : Prop :=
  ∀ s : State,
    (∀ (m : ScrubMem) (n : Nat) (path : Bool),
      let i := SMap.get 0 s.hw.memctl.scrubPos (scrubKey m) % (scrubRange m).2
      let off := (scrubRange m).1 + 8 * i
      let bits := SMap.get 0 s.hw.mem.ecc (off / 8) + n
      let moved (t : State) : Prop := t.hw.mem.cells = s.hw.mem.cells ∧
        SMap.get 0 t.hw.memctl.scrubPos (scrubKey m) = (i + 1) % (scrubRange m).2
      (MemInv s → (isPal off = true ∨ s.hw.memctl.selfRefresh = false) → bits < 3 →
        Yields (.patrolScrubRead m ⟨n, path⟩) s (fun t => moved t ∧ SMap.get 0 t.hw.mem.ecc (off / 8) = 0 ∧
          (∀ w, w ≠ off / 8 → SMap.get 0 t.hw.mem.ecc w = SMap.get 0 s.hw.mem.ecc w) ∧
          (∀ e, m = .palette e → bits ≠ 0 → Counts s t (blkBase (.easel e) + 0x40) 1) ∧
          t.hw.easels = s.hw.easels)) ∧
      (∀ e c, m = .palette e → 3 ≤ bits → (s.hw.easel e).loaded = some c → RunsClean s c →
        Yields (.patrolScrubRead m ⟨n, path⟩) s (fun t => moved t ∧ SMap.get 0 t.hw.mem.ecc (off / 8) = bits ∧
          TakesPrimary t c 0x01 (BitVec.ofNat 64 off) ∧ Counts s t (blkBase (.easel e) + 0x48) 1)) ∧
      ((∀ e, m ≠ .palette e) → s.hw.memctl.selfRefresh = true →
        Yields (.patrolScrubRead m ⟨n, path⟩) s (fun t => t = s))) ∧
    (∀ (n : Fin 32) (v : Int), (s.hw.canvasSensor n.val).failed = false →
      let d := n.val / 16
      (v < 105 → Yields (.canvasTempSample n v) s (fun t =>
        t.hw.canvasSensor n.val = { s.hw.canvasSensor n.val with reading := v } ∧
        (85 < v → t.hw.memctl.refresh2x.getLsbD d = true) ∧
        (82 < v → SMap.find t.hw.memctl.coolSince d = none) ∧
        (s.hw.memctl.refresh2x.getLsbD d = true → t.hw.memctl.refresh2x.getLsbD d = true) ∧
        t.hw.mem = s.hw.mem)) ∧
      (105 ≤ v → s.hw.thm.tripped = false → s.hw.flt.powerCycle = false →
        Yields (.canvasTempSample n v) s (fun t => t.hw.thm.tripped = true ∧ t.hw.pins.thermtrip = true ∧
          t.hw.reg 0x80030 = (put 1 0 3 ||| put n.val 3 8 ||| bitw true 63) ∧ AsksPowerCycle t 0))) ∧
    (∀ (d : Fin 2) (t0 : Nat), SMap.find s.hw.memctl.coolSince d.val = some t0 →
      (t0 + 10000000 ≤ s.hw.now → Yields (.canvasRefreshRestore d) s (fun t =>
        t.hw.memctl.refresh2x.getLsbD d.val = false ∧
        ∀ d', d' ≠ d.val → t.hw.memctl.refresh2x.getLsbD d' = s.hw.memctl.refresh2x.getLsbD d')) ∧
      (s.hw.now < t0 + 10000000 → Yields (.canvasRefreshRestore d) s (fun t => t = s))) ∧
    (∀ ch : Fin 96,
      let lost := SMap.find s.hw.memctl.chLost ch.val
      let down (c : Instr) : Prop := s.hw.flt.powerCycle = false → s.hw.flt.recoveries = [] →
        (∀ c ∈ s.hw.flt.captures, c.isOpen = false) →
        Yields c s (fun t => t.hw.memctl.chUp.getLsbD ch.val = false ∧
          (∀ n, n < 96 → n ≠ ch.val → t.hw.memctl.chUp.getLsbD n = s.hw.memctl.chUp.getLsbD n) ∧
          Pends t 0x084 (ch.val + 256) ∧ BeginsRecovery s t .chip 0x06 ∧ t.hw.mem = s.hw.mem)
      Yields (.lpddr6Recentre ch) s (fun t => t = s) ∧
      (lost = none → s.hw.memctl.chUp.getLsbD ch.val = true →
        Yields (.lpddr6ChannelRetrain ch .lost) s (fun t =>
          SMap.find t.hw.memctl.chLost ch.val = some s.hw.now ∧
          Counts s t (blkBase (.lpm (Fin.ofNat 2 (ch.val / 48))) + 0x50) 1 ∧ t.hw.mem = s.hw.mem)) ∧
      (∀ t0, lost = some t0 →
        Yields (.lpddr6ChannelRetrain ch .done) s (fun t => SMap.find t.hw.memctl.chLost ch.val = none ∧
          Pends t 0x084 ch.val ∧ t.hw.memctl.chUp = s.hw.memctl.chUp ∧ t.hw.mem = s.hw.mem) ∧
        down (.lpddr6ChannelRetrain ch .failed) ∧
        (t0 + 2000000 ≤ s.hw.now → down (.lpddr6RetrainTimeout ch)) ∧
        (s.hw.now < t0 + 2000000 → Yields (.lpddr6RetrainTimeout ch) s (fun t => t = s)))) ∧
    (∀ (p : Fin 24) (v : Nat),
      (∀ rate, Yields (.lpddr6TempRead p (.celsius v rate)) s (fun t =>
        SMap.get 0 t.hw.memctl.pkgTemp p.val = v ∧ SMap.get 0 t.hw.memctl.pkgRate p.val = rate ∧ t.hw.memctl.pkgHigh = s.hw.memctl.pkgHigh ∧
        (95 ≤ v → Pends t 0x083 (p.val + min v 255 * 65536)) ∧ (v < 95 → t.hw.evc = s.hw.evc))) ∧
      Yields (.lpddr6TempRead p (.beyondRange v)) s (fun t => SMap.get 0 t.hw.memctl.pkgTemp p.val = v ∧
        t.hw.memctl.pkgHigh.getLsbD p.val = true) ∧
      Yields (.lpddr6TempRead p .unreadable) s (fun t => t.hw.memctl.pkgHigh.getLsbD p.val = true ∧
        Pends t 0x083 (p.val + 256)))

/-- R275, R396 to R400, R408, R409. -/
def Obligations.HostQueuesFetchAndComplete : Prop :=
  ∀ (s : State) (f : FnId),
    let x := s.hw.fn f
    let open_ := s.hw.hostOpen = true ∧ s.hw.fnOn f = true
    (∀ ctl, MayWriteReg s (.fn f) (.hif f) 0x20 →
      let was := bit (s.hw.reg (hifOff f 0x20)) 17
      let base := s.hw.reg (hifOff f 0x18)
      (bit ctl 17 = true → was = false →
        (ringError (wfld ctl 0 17) base = 0 → Yields (.hifCmdqEnable f ctl) s (fun t =>
          t.hw.fn f = { x with base := base, size := wfld ctl 0 17, running := true, error := 0, head := 0, tail := 0,
                               fetching := none } ∧ t.hw.mem = s.hw.mem)) ∧
        (ringError (wfld ctl 0 17) base ≠ 0 → Yields (.hifCmdqEnable f ctl) s (fun t =>
          t.hw.fn f = { x with running := false, error := ringError (wfld ctl 0 17) base }))) ∧
      (bit ctl 17 = false → Yields (.hifCmdqEnable f ctl) s (fun t =>
        t.hw.fn f = { x with running := false, fetching := none }))) ∧
    (∀ size data, open_ → x.waiting = [] → (size = 4 ∨ size = 8) →
      let index : BitVec 17 := data.setWidth 17
      (x.running = true → index.toNat < x.size → Yields (.hifDbCmdqTail f (.write 0 size data false)) s (fun t =>
        t.hw.fn f = { x with tail := index } ∧ t.hw.evc = s.hw.evc)) ∧
      (x.running = true → x.size ≤ index.toNat → Yields (.hifDbCmdqTail f (.write 0 size data false)) s (fun t =>
        (t.hw.fn f).running = false ∧ (t.hw.fn f).error = 3 ∧ (t.hw.fn f).tail = x.tail ∧ Pends t 0x181 f.val)) ∧
      (x.running = false → Yields (.hifDbCmdqTail f (.write 0 size data false)) s (fun t => t.hw.fn f = x ∧
        Counts s t (hifOff f 0x78) 1)) ∧
      (cplOn s.hw f = true → index.toNat < cplSize s.hw f → x.cplWait = [] →
        ringWithin x.cplHead x.cplTail index (cplSize s.hw f) = true →
        Yields (.hifDbCplqHead f (.write 0 size data false)) s (fun t => (t.hw.fn f).cplHead = index ∧
          (t.hw.fn f).cplTail = x.cplTail ∧ (t.hw.fn f).cplPhase = x.cplPhase)) ∧
      (cplOn s.hw f = true → cplSize s.hw f ≤ index.toNat → Yields (.hifDbCplqHead f (.write 0 size data false)) s (fun t =>
        (t.hw.fn f).cplError = 3 ∧ (t.hw.fn f).cplHead = x.cplHead ∧ Pends t 0x182 f.val)) ∧
      (evrOn s.hw f = true → index.toNat < evrSize s.hw f →
        ringWithin x.evrHead x.evrTail index (evrSize s.hw f) = true →
        Yields (.hifDbEvrHead f (.write 0 size data false)) s (fun t => (t.hw.fn f).evrHead = index ∧
          (t.hw.fn f).evrTail = x.evrTail ∧ (t.hw.fn f).evrPhase = x.evrPhase))) ∧
    (∀ p ∈ [(Instr.hifDbCmdqTail f, 0x000), (.hifDbCplqHead f, 0x008), (.hifDbEvrHead f, 0x010)],
      ∀ off size, open_ → x.waiting = [] →
      (formOk (p.2 + off) size = true → Yields (p.1 (.read off size)) s (fun t =>
        t = { s with hw := s.hw.emit (.readDone (.fn f) 0) })) ∧
      (∀ d, formOk (p.2 + off) size = false → Yields (p.1 (.write off size d false)) s (fun t =>
        Pends t 0x180 f.val ∧ Counts s t (hifOff f 0x78) 1 ∧ t.hw.hif = s.hw.hif)) ∧
      (∀ d, Yields (p.1 (.write off size d true)) s (fun t => Pends t 0x185 f.val ∧ t.hw.hif = s.hw.hif))) ∧
    (let n := min 16 (ringUsed x.head x.tail x.size)
     let at_ := BitVec.ofNat 64 (x.base.toNat + 64 * x.head.toNat)
     s.hw.hostOpen = true → x.running = true → x.fetching = none → 0 < n → s.hw.fwu.paused = false →
      (cplOn s.hw f = false ∨ cplFull s.hw f = false) →
      Yields (.commandFetch f) s (fun t => (t.hw.fn f).fetching = some (s.hw.nextTag, n) ∧
        t.hw.out = s.hw.out ++ [.hostRead s.hw.nextTag at_ (64 * n)] ∧
        (∃ r, t.hw.reqs = s.hw.reqs ++ [r] ∧ r.tag = s.hw.nextTag ∧ r.by_ = .cmdFetch f ∧ r.host = true) ∧
        (t.hw.fn f).head = x.head)) ∧
    ((s.hw.hostOpen = false ∨ x.running = false) → Yields (.commandFetch f) s (fun t => t = s)) ∧
    (∀ c, Fronts s f 0x00 false [] c → Yields (.cmdNop f) s (fun t => Completes s t f c 0 0 ∧
      t.hw.mem = s.hw.mem ∧ t.hw.easels = s.hw.easels)) ∧
    (∀ c, Fronts s f 0x02 false [] c → x.inProgress = [] → Yields (.cmdFence f) s (fun t =>
      Completes s t f c 0 0 ∧ t.hw.mem = s.hw.mem ∧ t.hw.easels = s.hw.easels)) ∧
    (∀ c, Fronts s f 0x02 false [] c → x.inProgress ≠ [] → Yields (.cmdFence f) s (fun t => Holds s t f c ∧
      t.hw.mem = s.hw.mem ∧ t.hw.easels = s.hw.easels)) ∧
    (∀ c, Fronts s f 0x01 false [0x7FFF, 0xFFFFFFFF] c →
      let i := (nthW c.words 1).toNat
      let o : ObjId := .mod (Fin.ofNat 32768 i)
      let n := wfld (s.hw.obj o) 0 48 + (nthW c.words 2).toNat
      (fnHoldsObj s.hw f i = true → isBarrier (s.hw.obj o) = false → n < 2 ^ 48 →
        (∀ w ∈ s.hw.sync.waiters, w.obj ≠ o) → Yields (.cmdSyncSignal f) s (fun t => Completes s t f c 0 0 ∧
          wfld (t.hw.obj o) 0 48 = n ∧ (∀ o', o' ≠ o → t.hw.obj o' = s.hw.obj o') ∧ t.hw.mem = s.hw.mem)) ∧
      (fnHoldsObj s.hw f i = false → Yields (.cmdSyncSignal f) s (fun t => Completes s t f c 4 0 ∧
        t.hw.sync = s.hw.sync)))


/-- R402, R404, R405, R407. -/
def Obligations.EventsCoalesceArbitrateAndReachTheirRing : Prop :=
  ∀ s : State,
    (∀ (src : BitVec 10) (p : BitVec 32),
      let was := bit (s.hw.reg (0x40200 + 8 * (src.toNat / 64))) (src.toNat % 64)
      let n := SMap.get 0 s.hw.evc.count src.toNat
      Yields (.eventRaise src p) s (fun t => Pends t src.toNat p.toNat ∧
        (was = false → SMap.get 0 t.hw.evc.count src.toNat = n) ∧
        (was = true → SMap.get 0 t.hw.evc.count src.toNat = min (n + 1) (2 ^ 22 - 1)) ∧
        (∀ o, o ≠ src.toNat → SMap.get 0 t.hw.evc.count o = SMap.get 0 s.hw.evc.count o ∧
          SMap.get 0 t.hw.evc.payload o = SMap.get 0 s.hw.evc.payload o) ∧
        t.hw.evc.queue = s.hw.evc.queue ∧ t.hw.mem = s.hw.mem ∧ t.hw.easels = s.hw.easels)) ∧
    (∀ (pin : Fin 4) (up : Bool),
      (s.hw.evc.level.getLsbD pin.val = up → Yields (.pinFilterAccept pin up) s (fun t => t = s)) ∧
      (s.hw.evc.level.getLsbD pin.val = !up → pin ≠ 1 → pin ≠ 2 → Yields (.pinFilterAccept pin up) s (fun t =>
        t.hw.evc.level.getLsbD pin.val = up ∧
        (∀ j, j ≠ pin.val → t.hw.evc.level.getLsbD j = s.hw.evc.level.getLsbD j) ∧
        Pends t pin.val (if up then 1 else 0)))) ∧
    (let open_ (j : Nat) : Bool := bit (s.hw.reg (0x40200 + 8 * (j / 64))) (j % 64) &&
       !bit (s.hw.reg (0x40100 + 8 * (j / 64))) (j % 64)
     ∀ i, i < 1024 → open_ i = true → (∀ j, j < i → open_ j = false) →
      (s.hw.evc.queue.length < 256 → Yields .eventArbitrate s (fun t =>
        t.hw.evc.queue = s.hw.evc.queue ++ [{ src := BitVec.ofNat 10 i,
                                              count := BitVec.ofNat 22 (SMap.get 0 s.hw.evc.count i),
                                              payload := SMap.get 0 s.hw.evc.payload i,
                                              detail := SMap.get [] s.hw.evc.detail i, ftc := s.hw.ftcNow }] ∧
        bit (t.hw.reg (0x40200 + 8 * (i / 64))) (i % 64) = false ∧ SMap.get 0 t.hw.evc.count i = 0 ∧
        (∀ j, j < 1024 → j ≠ i → bit (t.hw.reg (0x40200 + 8 * (j / 64))) (j % 64) =
          bit (s.hw.reg (0x40200 + 8 * (j / 64))) (j % 64)))) ∧
      (256 ≤ s.hw.evc.queue.length → Yields .eventArbitrate s (fun t => t = s))) ∧
    (∀ (r : EvRecord) (l : List EvRecord), s.hw.evc.queue = r :: l → s.hw.hostUp = true →
      s.hw.fwu.paused = false → perCtxSource r.src.toNat = false →
      let f := oneTarget s.hw r.src.toNat r.payload
      let x := s.hw.fn f
      let n := evrSize s.hw f
      (evrOn s.hw f = false → Yields .eventRecordDeliver s (fun t => t.hw.evc.queue = l ∧
        Counts s t (hifOff f 0x70) 1 ∧ t.hw.out = s.hw.out)) ∧
      (evrOn s.hw f = true → ringUsed x.evrHead x.evrTail n + 1 < n → Yields .eventRecordDeliver s (fun t =>
        t.hw.evc.queue = l ∧ (t.hw.fn f).evrTail = ringNext x.evrTail n ∧ (t.hw.fn f).evrSeq = x.evrSeq + 1 ∧
        (t.hw.fn f).evrLost = false ∧ (∀ o ∈ s.hw.out, o ∈ t.hw.out) ∧
        .hostWrite (BitVec.ofNat 64 ((s.hw.reg (hifOff f 0x48)).toNat + 64 * x.evrTail.toNat + 56))
          (wBytes (put (x.evrSeq + 1) 0 63 ||| bitw x.evrPhase 63)) false ∈ t.hw.out)))


/-- R388, R394, R395, R397, R399, R401, R442, R515, R556. -/
def Obligations.PciePortServesWindowsResetsAndRequests : Prop :=
  ∀ s : State,
    (∀ (f : FnId) (off n a : Nat), s.hw.hostOpen = true → bar2Here s.hw f off n = true →
      bar2Waits s.hw f off n = false → (s.hw.fn f).waiting = [] →
      (bar2Map s.hw f off n = some a → pageConf s.hw a = false → pageZeroing s.hw a = false →
        rangeDown s.hw a n = false → s.hw.mem.badRead a n = none → s.hw.mem.pathBad a n = none → a % 0x200000 + n ≤ 0x200000 →
        Yields (.bar2Read f off n) s (fun t => (∀ b, t.hw.mem.byte b = s.hw.mem.byte b) ∧
          ∃ d, t.hw.out = s.hw.out ++ [.bar2Data f d] ∧ d.length = n ∧
            ∀ j, (hj : j < d.length) → d[j] = s.hw.mem.byte (a + j))) ∧
      (bar2Map s.hw f off n = none → Yields (.bar2Read f off n) s (fun t =>
        t.hw.out = s.hw.out ++ [.unsupported] ∧ t.hw.mem = s.hw.mem)) ∧
      (∀ d : Bytes, d.length = n → bar2Map s.hw f off n = some a → pageConf s.hw a = false →
        pageZeroing s.hw a = false → rangeDown s.hw a n = false → s.hw.mem.badWrite a n = none → s.hw.mem.pathBad a n = none →
        a % 0x200000 + n ≤ 0x200000 → Yields (.bar2Write f off d false) s (fun t =>
          (∀ j, (hj : j < d.length) → t.hw.mem.byte (a + j) = d[j]) ∧
          (∀ b, b < a ∨ a + n ≤ b → t.hw.mem.byte b = s.hw.mem.byte b) ∧ t.hw.easels = s.hw.easels))) ∧
    (∀ f : FnId, f ≠ 0 → s.hw.hostUp = true → s.hw.fnOn f = true →
      (∀ c, (s.hw.ctx c).conf = true → (s.hw.ctx c).live = true → (s.hw.ctx c).fn ≠ f) →
      Yields (.functionLevelReset f) s (fun t =>
        t.hw.fn f = { HifFn.init with fetchSeq := (s.hw.fn f).fetchSeq, inProgress := (s.hw.fn f).inProgress.map (fun r => { r with silent := true }) } ∧
        (∀ f', f' ≠ f → t.hw.fn f' = s.hw.fn f') ∧ t.hw.tdi f = 3 ∧
        (∀ k, k < 0x1000 → t.hw.reg (hifOff f k) =
          if (regAt s.hw.pins.variant1800 (hifOff f k)).rs then s.hw.reg (hifOff f k)
          else regReset s.hw.pins.variant1800 (hifOff f k)) ∧
        t.hw.mem = s.hw.mem)) ∧
    (s.hw.hif.perst = false → s.hw.pins.powered = true → Yields .perstAssert s (fun t =>
      t.hw.hif.perst = true ∧ t.hw.hif.configured = false ∧ linkUp t.hw.hif.link = false ∧ t.hw.hif.vfEnable = false ∧
      t.hw.sec.ide = [] ∧ ∀ f, (t.hw.fn f).running = false ∧ (t.hw.fn f).cplTail = 0 ∧ (t.hw.fn f).evrTail = 0 ∧
        (t.hw.fn f).fetched = [] ∧ (t.hw.fn f).msixMask = 7)) ∧
    Yields .perstDeassert s (fun t => t = { s with hw := { s.hw with hif := { s.hw.hif with perst := false } } }) ∧
    (∀ l, s.hw.pins.powered = true → linkLegal l = true → (s.hw.hif.perst = false ∨ l.pm = .down) →
      s.hw.hif.link ≠ l →
      Yields (.pcieLinkStateChange l) s (fun t => t.hw.hif.link = l ∧ (∃ p, Pends t 0x184 p) ∧
        (linkUp l = true → 2 ≤ s.hw.bru.phase.toNat → t.hw.hif.configured = true) ∧
        (linkUp s.hw.hif.link = true → linkUp l = false → t.hw.sec.ide = []))) ∧
    (∀ (tag : BitVec 16) (r : Request), s.hw.reqs.find? (fun r => r.tag == tag && r.host) = some r →
      (∀ f n d, r.by_ = .cmdFetch f → (s.hw.fn f).fetching = some (tag, n) → (s.hw.fn f).fetched = [] →
        let x := s.hw.fn f
        let head : BitVec 17 := BitVec.ofNat 17 ((x.head.toNat + n) % max x.size 1)
        (∀ c ∈ splitCmds head x.fetchSeq n d, opKnown c.op = true) → Yields (.pcieCompletion tag (.data d)) s (fun t =>
          (t.hw.fn f).fetched = splitCmds head x.fetchSeq n d ∧ (t.hw.fn f).fetchSeq = x.fetchSeq + n ∧ (t.hw.fn f).head = head ∧ (t.hw.fn f).fetching = none ∧
          t.hw.reqs = s.hw.reqs.filter (fun q => q.tag != tag))) ∧
      (∀ f n, r.by_ = .cmdFetch f → (s.hw.fn f).fetching = some (tag, n) →
        Yields (.pcieCompletion tag .error) s (fun t => (t.hw.fn f).running = false ∧ (t.hw.fn f).error = 4 ∧
          Pends t 0x181 f.val) ∧
        Yields (.pcieCompletion tag .poisoned) s (fun t => (t.hw.fn f).running = false ∧
          (t.hw.fn f).error = 4)) ∧
      (∀ e b rd size signed d, r.by_ = .core e → r.ctx = (s.hw.easel e).loaded → r.ctx.isSome = true →
        OnlyCoreWaits (s.hw.easel e) → (s.hw.easel e).blocked = some b →
        b.what = .load rd size signed tag → Yields (.pcieCompletion tag (.data d)) s (fun t =>
          (t.hw.easel e).blocked = none ∧
          (t.hw.easel e).core.get rd = (if rd = 0 then 0 else extendLoad size signed d) ∧
          (t.hw.easel e).core.pc = (s.hw.easel e).core.pc + 8 ∧ t.hw.mem = s.hw.mem))) ∧
    (∀ (f : FnId), s.hw.hostUp = true →
      (s.hw.hif.configured = false → ∀ q, Yields (.configurationRequest f q) s (fun t =>
        t = { s with hw := s.hw.emit (.cfgRetry f) })) ∧
      (s.hw.hif.configured = true → s.hw.fnOn f = true →
        (∀ reg, Yields (.configurationRequest f (.read reg)) s (fun t =>
          t = { s with hw := s.hw.emit (.cfgData f (cfgDword s.hw f reg)) })) ∧
        (∀ reg d, Yields (.configurationRequest f (.write reg d)) s (fun t => ∀ k,
          cfgDword t.hw f k = if k = reg then
              (match cfgFixed s.hw f k with | some (v, m) => v ||| (d &&& m) | none => d)
            else cfgDword s.hw f k)) ∧
        (∀ c, Yields (.configurationRequest f (.findCap c)) s (fun t =>
          t = { s with hw := s.hw.emit (.cfgFound f (hasCap f c)) })) ∧
        (∀ n, n = 128 ∨ n = 256 ∨ n = 512 → Yields (.configurationRequest f (.maxPayload n)) s (fun t =>
          t.hw.fn f = { s.hw.fn f with maxPayload := n })) ∧
        (∀ n, 30 ≤ n → n ≤ 40 → f = 0 → Yields (.configurationRequest f (.bar2Size false n)) s (fun t =>
          t.hw.hif = { s.hw.hif with bar2Pf := n })) ∧
        (∀ on, Yields (.configurationRequest f (.relaxedOrdering on)) s (fun t =>
          t.hw.fn f = { s.hw.fn f with relaxed := on })) ∧
        (f = 0 → Yields (.configurationRequest f (.vfEnable true)) s (fun t => t.hw.hif.vfEnable = true)) ∧
        (∀ v : Fin 3, (s.hw.fn f).msixPend.getLsbD v.val = true →
          Yields (.configurationRequest f (.msixMask v false)) s (fun t =>
            (t.hw.fn f).msixMask.getLsbD v.val = false ∧ (t.hw.fn f).msixPend.getLsbD v.val = false ∧
            t.hw.out = s.hw.out ++ [.msix f v]))))

/-- R263, R390, R414, R419 to R421, R423, R427, R444 and Table 14-2. -/
def Obligations.ContextCommandsTakeTheirEffect : Prop :=
  ∀ (s : State) (f : FnId) (k : HostCmd),
    let c := k.ctx
    let x := s.hw.ctx c
    let w (n : Nat) : Word := nthW k.words n
    let all : Word := 0xFFFFFFFFFFFFFFFF
    let canvas := bit (w 1) 0
    let page (i : Nat) : Nat := (if canvas then 393216 else 0) + (w 2).toNat + i
    let inKind := (w 2).toNat + (w 3).toNat ≤ (if canvas then 32768 else 393216)
    let zeroed (t : State) : Prop := ∀ i, i < (w 3).toNat → ∀ j, j < 0x200000 →
      SMap.get 0 t.hw.mem.cells (pageBase (page i) + j) = 0
    let mine := x.state ≠ 0 ∧ x.state ≠ 7 ∧ x.fn = f
    (Fronts s f 0x10 true [0x3FFFFFFF, 0xFFFFFFFF, 0xFFFF007F, 0x7FFFFF] k →
      (f ≠ 0 → Yields (.ctxCreate f) s (fun t => Completes s t f k 6 0 ∧ t.hw.ctx c = x)) ∧
      (f = 0 → x.state ≠ 0 → Yields (.ctxCreate f) s (fun t => Completes s t f k 7 0 ∧ t.hw.ctx c = x)) ∧
      (let m := BitVec.ofNat 4 (wfld (w 1) 16 4)
       let slots := wfld (w 3) 0 7
       let sketch := wfld (w 4) 0 23
       f = 0 → x.state = 0 → m ≠ 0 → slots ≤ 64 → sketch ≤ 4194304 → quantumOk (w 2).toNat = true →
        (bit (w 1) 26 = false ∨ wfld (w 1) 20 6 ≠ 0) →
        match takeResources (Started s f k) c m slots (wfld (w 3) 16 16) sketch with
        | some r => Yields (.ctxCreate f) s (fun t => Completes s t f k 0 0 ∧ CtxMoves t c 1 ∧
            t.hw.ctx c = { Ctx.init with state := 1, job := BitVec.ofNat 16 (wfld (w 1) 0 16), mask := m,
                                         fn := Fin.ofNat 64 (wfld (w 1) 20 6), conf := bit (w 1) 26,
                                         prio := BitVec.ofNat 3 (wfld (w 1) 27 3), quantum := (w 2).toNat,
                                         savePages := r.2 })
        | none => Yields (.ctxCreate f) s (fun t => Completes s t f k 8 0 ∧ t.hw.ctx c = x))) ∧
    (Fronts s f 0x11 true [3, all, all] k → f = 0 → x.live = true → inKind →
      (∀ i, i < (w 3).toNat → pageFree s.hw (page i) = true) →
      Yields (.ctxAlloc f) s (fun t => Completes s t f k 0 0 ∧ zeroed t ∧
        ∀ p, t.hw.owner p = if ∃ i, i < (w 3).toNat ∧ p = page i then .ctx c (bit (w 1) 1) else s.hw.owner p)) ∧
    (Fronts s f 0x12 true [1, all, all] k → f = 0 → x.live = true → inKind →
      (∀ i, i < (w 3).toNat → holdsPage s.hw c (page i) = true) →
      Yields (.ctxRelease f) s (fun t => Completes s t f k 0 0 ∧ zeroed t ∧
        ∀ p, t.hw.owner p = if ∃ i, i < (w 3).toNat ∧ p = page i then .free else s.hw.owner p)) ∧
    (let len := (w 2).toNat
     let load := (w 3).toNat
     let entry := (w 4).toNat
     let a := (w 1).toNat
     let image := s.hw.mem.read a len
     Fronts s f 0x13 true [all, 0xFFFFFFFF, 0x1FFFFF, 0x1FFFFF] k → startStatus s.hw f k = 0 →
      wfld (w 1) 60 4 = 0 → isLp a = true → a + len ≤ 0xC000000000 → s.hw.mem.badRead a len = none →
      s.hw.mem.pathBad a len = none → chanWaits s.hw a len = false → (len = 0 ∨ chanDown s.hw a len = false) →
      Yields (.ctxStart f) s (fun t => Completes s t f k 0 0 ∧ CtxMoves t c 2 ∧
        (t.hw.ctx c).measurement = ctxMeasure x image ∧ (t.hw.ctx c).kem = none ∧
        ∀ e ∈ ctxEasels s.hw x.mask, ∃ v, SMap.find (t.hw.ctx c).saved e.val = some v ∧
          v.core = { CoreRegs.init with pc := BitVec.ofNat 64 (palBase e.val + entry) } ∧
          v.blocked = none ∧ v.exited = false ∧
          ∀ j, (hj : j < image.length) → SMap.get 0 v.palette (load + j) = image[j])) ∧
    (Fronts s f 0x14 true [] k → mine →
      (x.state = 2 → Yields (.ctxStop f) s (fun t => Completes s t f k 0 0 ∧ CtxMoves t c 4)) ∧
      (x.state = 3 → Yields (.ctxStop f) s (fun t => Holds s t f k ∧
        ∀ e, (s.hw.easel e).loaded = some c → (t.hw.easel e).stopped = true)) ∧
      (x.state ≠ 2 → x.state ≠ 3 → Yields (.ctxStop f) s (fun t => Completes s t f k 7 0 ∧ t.hw.ctx c = x))) ∧
    (Fronts s f 0x15 true [] k → mine → x.state = 4 → x.held = false →
      Yields (.ctxResume f) s (fun t => Completes s t f k 0 0 ∧ CtxMoves t c 2 ∧
        (t.hw.ctx c).runnableAt = s.hw.now)) ∧
    (Fronts s f 0x17 true [7, all] k → f = 0 → x.live = true →
      (quantumOk (w 2).toNat = true → Yields (.ctxSched f) s (fun t => Completes s t f k 0 0 ∧
        t.hw.ctx c = { x with prio := BitVec.ofNat 3 (wfld (w 1) 0 3), quantum := (w 2).toNat })) ∧
      (quantumOk (w 2).toNat = false → Yields (.ctxSched f) s (fun t => Completes s t f k 0x0D 0 ∧
        t.hw.ctx c = x))) ∧
    (Fronts s f 0x18 true [0x3F] k → f = 0 → x.live = true →
      (x.conf = false → Yields (.ctxAssign f) s (fun t => Completes s t f k 0 0 ∧
        t.hw.ctx c = { x with fn := Fin.ofNat 64 (wfld (w 1) 0 6) })) ∧
      (x.conf = true → Yields (.ctxAssign f) s (fun t => Completes s t f k 9 0 ∧ t.hw.ctx c = x))) ∧
    (Fronts s f 0x19 true [all] k → mine → wfld (w 1) 0 6 = 0 → Yields (.ctxPerfRead f) s (fun t =>
      Completes s t f k 0 0 ∧
      .hostWrite (w 1) (wordsBytes ((List.range 16).map (fun i =>
        BitVec.ofNat 64 (SMap.get 0 s.hw.ctxs.perf (c.val * 16 + i))))) (s.hw.fn f).relaxed ∈ t.hw.out)) ∧
    (Fronts s f 0x1A true [] k → f = 0 → x.state ≠ 0 → Yields (.ctxQuery f) s (fun t =>
      Completes s t f k 0 (x.state.toNat + x.mask.toNat * 8 + b2n x.conf * 128 +
        heldPages s.hw c % 2 ^ 32 * 256) ∧ t.hw.ctx c = x)) ∧
    (Fronts s f 0x16 true [] k → f = 0 → x.live = true → Yields (.ctxDestroy f) s (fun t =>
      (stopPending s.hw c = none → Holds s t f k) ∧ CtxMoves t c 7 ∧ SMap.find t.hw.sec.xtsKeys c.val = none ∧ (∀ p ∈ t.hw.sec.wkeys, p.2.1 ≠ c) ∧
      (t.hw.ctx c).kem = none ∧ (∀ e, (s.hw.easel e).loaded = some c → (t.hw.easel e).loaded = none) ∧
      ∀ n p, SMap.find t.hw.col.slots (n : SlotId).val = some p → p.ctx ≠ c))


/-- R427 and R428. -/
def Obligations.GessoLeavesNothingOfTheContext : Prop :=
  (∀ (s : State) (c : CtxId), (s.hw.ctx c).state = 7 →
    ((s.hw.ctx c).gessoAt ≤ s.hw.now → Yields (.gessoStepsEnd c) s (fun t =>
      (t.hw.ctx c).state = 0 ∧ Pends t 0x141 c.val ∧ (∀ p, holdsPage t.hw c p = false) ∧
      (∀ n, slotOf t.hw n ≠ some c) ∧ (∀ g ∈ t.hw.sk.slots, g.ctx ≠ c) ∧
      (∀ p ∈ t.hw.glz.slots, p.2.ctx = c → p.2 = GlazeSlot.init))) ∧
    (s.hw.now < (s.hw.ctx c).gessoAt → Yields (.gessoStepsEnd c) s (fun t => t = s))) ∧
  (∀ (s : State) (p : Nat),
    (s.hw.owner p = .zeroing → s.hw.memctl.selfRefresh = false → Yields (.zeroingPageFree p) s (fun t =>
      t.hw.owner p = .free ∧ (∀ q, q ≠ p → t.hw.owner q = s.hw.owner q) ∧ Pends t 0x142 1 ∧
      (∀ j, j < 0x200000 → SMap.get 0 t.hw.mem.cells (pageBase p + j) = 0) ∧
      ∀ a, a < pageBase p ∨ pageBase p + 0x200000 ≤ a → t.hw.mem.byte a = s.hw.mem.byte a)) ∧
    (s.hw.owner p ≠ .zeroing → Yields (.zeroingPageFree p) s (fun t => t = s)))


/-- R413, R415, R425, R426 and Table 14-1. -/
def Obligations.SchedulerLoadsAndUnloadsContexts : Prop :=
  (∀ (s : State) (p : PartId) (c : CtxId), SMap.find s.hw.ctxs.loaded p.val = some c →
    let x := s.hw.ctx c
    s.hw.fwu.paused = false → x.quantum ≠ 0 → x.state = 3 →
    (x.quantum * 1000 ≤ x.ranFor → (∃ d, mayReplace { x with due := true } (s.hw.ctx d) = true) →
      Yields (.quantumExpire p) s (fun t => t.hw.ctx c = { x with due := true } ∧ t.hw.easels = s.hw.easels ∧
        t.hw.mem = s.hw.mem)) ∧
    (x.ranFor < x.quantum * 1000 → Yields (.quantumExpire p) s (fun t => t = s))) ∧
  (∀ (s : State) (ps : BitVec 4) (c : CtxId), s.hw.fwu.paused = false → s.hw.bru.ready = true →
    s.hw.chipRec = false → s.hw.pwr.idle ≠ 3 →
    let x := s.hw.ctx c
    let atRest (e : EaselId) : Prop :=
      (∀ i ∈ (s.hw.easel e).me ++ (s.hw.easel e).vu ++ (s.hw.easel e).ce, i.started = false) ∧
        (s.hw.easel e).acc.errs = [] ∧ s.hw.mem.corrected (palBase e.val) 0x200000 = 0 ∧
        ∀ g ∈ s.hw.mem.unfolded, isPal (64 * g.granule) = true → palEasel (64 * g.granule) ≠ e
    (loadedOn s.hw ps = [] → chosen s.hw c = true → x.mask &&& ~~~ps = 0 →
      (∀ e, (savedOf x e).ce = []) → (∀ p ∈ s.hw.glz.slots, p.2.ctx = c → p.2.state ≠ 5) →
      (∀ e, ∀ b, (savedOf x e).blocked = some b → ∃ n, b.what = .svc n) →
      (∀ e ∈ ctxEasels s.hw x.mask, NoneDrains (s.hw.easel e) ∧ (s.hw.easel e).svcBlocked = none) → Yields (.contextSwitch ps (some c)) s (fun t => CtxMoves t c 3 ∧
        (∀ p, x.mask.getLsbD p.val = true → partCtx t.hw p = some c) ∧
        ∀ e ∈ ctxEasels s.hw x.mask, s.hw.up e = true →
          (t.hw.easel e).loaded = some c ∧ (t.hw.easel e).service = false ∧ (t.hw.easel e).stopped = false ∧
          (t.hw.easel e).core = (savedOf x e).core ∧ (t.hw.easel e).blocked = (savedOf x e).blocked)) ∧
    (loadedOn s.hw ps = [c] → x.mask &&& ~~~ps = 0 → x.state = 3 → x.held = true → stopPending s.hw c = none →
      (∀ e ∈ ctxEasels s.hw x.mask, atRest e) → Yields (.contextSwitch ps none) s (fun t => CtxMoves t c 4 ∧ (∀ p, partCtx t.hw p ≠ some c) ∧
        ∀ e ∈ ctxEasels s.hw x.mask, (s.hw.easel e).loaded = some c →
          (t.hw.easel e).loaded = none ∧ (t.hw.easel e).service = true ∧ (t.hw.easel e).idled = true ∧
          ∃ v, SMap.find (t.hw.ctx c).saved e.val = some v ∧ v.core = (s.hw.easel e).core ∧
            v.blocked = (s.hw.easel e).blocked ∧ v.acc = (s.hw.easel e).acc ∧
            ∀ j, j < 0x200000 → SMap.get 0 v.palette j = SMap.get 0 s.hw.mem.cells (palBase e.val + j)))) ∧
  (∀ (s : State) (r : Request) (e : EaselId) (serial : Word) (n off : Nat) (i : QEntry) (x : Txn),
    s.hw.reqs.find? (fun q => q.tag == r.tag) = some r → r.by_ = .copy e serial n →
    ctxEntry s.hw r.who e .ce serial = some i → i.txns[n]? = some x →
    decodeUma s.hw r.who x.dst = .local off → isPal off = true → s.hw.resident r.who e = true →
    ((s.hw.easel e).stopped = true → 4000 ≤ (s.hw.easel e).stopNs →
      Yields (.copyTransactionAbandon r.tag) s (fun t =>
        t.hw.reqs = s.hw.reqs.filter (fun q => q.tag != r.tag) ∧ t.hw.easels = s.hw.easels ∧ t.hw.mem = s.hw.mem)) ∧
    ((s.hw.easel e).stopNs < 4000 → Yields (.copyTransactionAbandon r.tag) s (fun t => t = s))) ∧
  (∀ (s : State) (c : CtxId),
    let es := (ctxEasels s.hw (s.hw.ctx c).mask).filter (fun e => s.hw.up e)
    ((s.hw.ctx c).state = 3 → colBusy s.hw c = false →
      (∀ p ∈ s.hw.glz.slots, p.2.ctx = c → p.2.state ≠ 1 ∧ p.2.state ≠ 5) →
      (∀ e ∈ es, (s.hw.easel e).loaded = some c ∧ (s.hw.easel e).exited = true ∧ (s.hw.easel e).me = [] ∧
        (s.hw.easel e).vu = [] ∧ (s.hw.easel e).ce = [] ∧ ∀ b ∈ (s.hw.easel e).sb, b.ctx ≠ c) →
      Yields (.contextExitComplete c) s (fun t => CtxMoves t c 5)) ∧
    ((∃ e ∈ es, (s.hw.easel e).exited = false) → Yields (.contextExitComplete c) s (fun t => t = s)))


/-- R222, R269, R359, R424 and Table 14-4; failed services and NOTIFY and YIELD leave s1 to a free value. -/
def Obligations.ContextServicesAnswerTheirCaller : Prop :=
  ∀ (s : State) (e : EaselId) (c : CtxId) (b : Blocked), (s.hw.easel e).loaded = some c →
    (s.hw.easel e).blocked = some b → s.hw.fwu.paused = false →
    let r := (s.hw.easel e).core
    let answers (t : State) (v : Option Nat) (status : Nat) : Prop :=
      (t.hw.easel e).blocked = none ∧ (t.hw.easel e).core.pc = r.pc + 8 ∧
        (t.hw.easel e).core.serial = r.serial + 1 ∧
        (∀ n, v = some n → (t.hw.easel e).core.get 1 = BitVec.ofNat 64 n) ∧
        (t.hw.easel e).core.get 2 = BitVec.ofNat 64 status ∧
        (∀ i, i ≠ 1 → i ≠ 2 → (t.hw.easel e).core.get i = r.get i) ∧ t.hw.mem = s.hw.mem
    (∀ p m, b.what = .svc 1 → sketchPart (r.get 1).toNat = some p → bit (r.get 3) 0 = true →
      freeRegion s.hw p = some m → (r.get 2).toNat < 2 ^ 23 →
      (fwCommit s.hw (.skt p) (regionCap p m (r.get 1)
        (put (r.get 2).toNat 0 23 ||| put c.val 24 6 ||| bitw true 31))).isSome = true →
      Yields (.sketchRegion e) s (fun t => answers t (some m) 0 ∧
        regionOf t.hw p m = ((r.get 1).toNat, (r.get 2).toNat, c.val, true) ∧
        ((s.hw.blk (.skt p)).busy = false → stagedWords s.hw (.skt p) = [] →
          ∀ m', m' < 64 → m' ≠ m → regionOf t.hw p m' = regionOf s.hw p m'))) ∧
    (∀ base, let n := (r.get 1).toNat
      b.what = .svc 2 → (modRange s.hw c).2 = 0 → 0 < n → n ≤ 32768 → objRange s.hw n = some base →
      (fwCommits s.hw.useFree (rangeCommits c base n)).isSome = true →
      Yields (.syncRange e) s (fun t => answers t (some base) 0 ∧
        ((s.hw.blk (.syn 1)).busy = false → modRange t.hw c = (base, n)))) ∧
    (let n := (r.get 2).toNat
     b.what = .svc 3 →
      (∀ g base l, n ≤ 10 → bit (r.get 3) 6 = false →
        (List.range 64).find? (fun g => !bit (s.hw.reg (colOff (0x100 + 8 * g))) 32) = some g →
        memberList s.hw c (r.get 1) (2 ^ n) = some l →
        (∀ off, decodeUma s.hw c (r.get 1) = .local off → s.hw.mem.corrected off (2 * 2 ^ n) = 0) → (∀ a ∈ l, a < 1024) → distinct l = true →
        s.hw.fa ∈ l → findMembers (memberRanges s.hw none) (2 ^ n) 65 0 = some base →
        (fwCommit s.hw .col (memberWords (base / 4) (cdiv (2 ^ n) 4) l ++ [(colOff (0x100 + 8 * g),
          put base 0 13 ||| put n 16 4 ||| put c.val 20 6 ||| bitw true 32)])).isSome = true →
        Yields (.group e) s (fun t => answers t (some g) 0 ∧ groupMembers t.hw g = l ∧
          bit (groupReg t.hw g) 32 = true ∧ wfld (groupReg t.hw g) 20 6 = c.val)) ∧
      (10 < n → Yields (.group e) s (fun t => answers t none 2 ∧ t.hw.regs = s.hw.regs))) ∧
    (b.what = .svc 4 → Yields (.notify e) s (fun t => answers t none 0 ∧
      Pends t (0x200 + c.val) (wfld (r.get 1) 0 32))) ∧
    (b.what = .svc 5 → Yields (.yield e) s (fun t => answers t none 0 ∧
      t.hw.ctx c = { s.hw.ctx c with due := (s.hw.ctx c).state == 3 }))

/-- R437 to R439, R441 and Table 14-2. -/
def Obligations.KeyCommandsMakeMoveAndClearKeys : Prop :=
  ∀ (s : State) (f : FnId) (k : HostCmd),
    let c := k.ctx
    let x := s.hw.ctx c
    let w (n : Nat) : Word := nthW k.words n
    let all : Word := 0xFFFFFFFFFFFFFFFF
    let ok := keyStatus s.hw f k = 0
    let reads (t : State) : Prop := Holds s t f k ∧ .hostRead s.hw.nextTag (w 1) 1188 ∈ t.hw.out ∧
      (∃ r ∈ t.hw.reqs, r.tag = s.hw.nextTag ∧ r.by_ = .hostCmd f k.seq ∧ r.host = true) ∧ t.hw.sec = s.hw.sec
    let slot := wfld (w 1) 0 7
    let keys := s.hw.sec.jobKeys
    (Fronts s f 0x20 true [] k → ok → Yields (.wkeyGenkem f) s (fun t => Completes s t f k 0 0 ∧
      (t.hw.ctx c).kem = some (Config.kemKeygen (Config.drbg s.hw.sec.drbgNext)) ∧ (t.hw.ctx c).evidence = [] ∧
      t.hw.sec.drbgNext = s.hw.sec.drbgNext + 1 ∧ (t.hw.ctx c).measurement = x.measurement)) ∧
    (Fronts s f 0x21 true [all] k → ok → Yields (.wkeyInstall f) s reads) ∧
    (Fronts s f 0x23 true [all, 1] k → ok → Yields (.jobkeyInstall f) s reads) ∧
    (∀ (r : Request) (d : Bytes), s.hw.reqs.find? (fun q => q.tag == r.tag && q.host) = some r →
      r.by_ = .hostCmd f k.seq → readingCmd s.hw f k.seq = some k → ok →
      let b := sub d 0 1188
      let j := leNat (sub b 4 4)
      let kid := BitVec.ofNat 16 (leNat (sub b 4 2))
      (k.op = 0x21 → unwrapBlob s.hw c 1 b = none → Yields (.pcieCompletion r.tag (.data d)) s (fun t =>
        t.hw.sec = s.hw.sec ∧ Pends t 0x143 (c.val + 0x0A * 256) ∧ Counts s t 0x60040 1)) ∧
      (∀ key, k.op = 0x21 → unwrapBlob s.hw c 1 b = some key → j < 128 → wkeyInUse s.hw j = false →
        (∀ q, SMap.find s.hw.sec.wkeys j = some q → q.1 = c) →
        Yields (.pcieCompletion r.tag (.data d)) s (fun t => SMap.find t.hw.sec.wkeys j = some (c, key) ∧
          ∀ i, i ≠ j → SMap.find t.hw.sec.wkeys i = SMap.find s.hw.sec.wkeys i)) ∧
      (∀ key e, k.op = 0x23 → unwrapBlob s.hw c 2 b = some key → leNat (sub b 6 2) = x.job.toNat →
        kid ∉ s.hw.sec.everHeld → (List.range 64).find? (fun e => (SMap.find keys e).isNone) = some e →
        Yields (.pcieCompletion r.tag (.data d)) s (fun t =>
          SMap.find t.hw.sec.jobKeys e =
            some { id := kid, key := key, job := x.job, nonce := 0, send := bit (w 2) 0 } ∧
          kid ∈ t.hw.sec.everHeld ∧ (bit (w 2) 0 = true → ∀ p ∈ t.hw.sec.jobKeys, p.2.job = x.job → p.2.send = true →
            p.1 = e))) ∧
      (∀ key, k.op = 0x23 → unwrapBlob s.hw c 2 b = some key → leNat (sub b 6 2) = x.job.toNat →
        kid ∈ s.hw.sec.everHeld → Yields (.pcieCompletion r.tag (.data d)) s (fun t =>
          t.hw.sec = s.hw.sec ∧ Pends t 0x143 (c.val + 0x0B * 256)))) ∧
    (Fronts s f 0x22 true [0x7F] k → ok →
      ((∃ key, SMap.find s.hw.sec.wkeys slot = some (c, key)) → wkeyInUse s.hw slot = false →
        Yields (.wkeyClear f) s (fun t => Completes s t f k 0 0 ∧ SMap.find t.hw.sec.wkeys slot = none ∧
          ∀ i, i ≠ slot → SMap.find t.hw.sec.wkeys i = SMap.find s.hw.sec.wkeys i)) ∧
      ((∀ key, SMap.find s.hw.sec.wkeys slot ≠ some (c, key)) →
        Yields (.wkeyClear f) s (fun t => Completes s t f k 3 0 ∧ t.hw.sec = s.hw.sec))) ∧
    (Fronts s f 0x24 true [0xFFFF] k → ok →
      (∀ e key, namedKey s.hw k = some (e, key) → Yields (.jobkeySend f) s (fun t => Completes s t f k 0 0 ∧
        t.hw.sec.jobKeys.map (fun p => (p.1, { p.2 with send := false })) =
          keys.map (fun p => (p.1, { p.2 with send := false })) ∧
        ∀ p ∈ t.hw.sec.jobKeys, p.2.job = x.job → (p.2.send = true ↔ p.1 = e))) ∧
      (namedKey s.hw k = none → Yields (.jobkeySend f) s (fun t => Completes s t f k 3 0 ∧ t.hw.sec = s.hw.sec))) ∧
    (Fronts s f 0x25 true [0xFFFF] k → ok →
      (∀ e key, namedKey s.hw k = some (e, key) → key.send = false → Yields (.jobkeyRetire f) s (fun t =>
        Completes s t f k 0 0 ∧ SMap.find t.hw.sec.jobKeys e = none ∧
        ∀ i, i ≠ e → SMap.find t.hw.sec.jobKeys i = SMap.find keys i)) ∧
      (∀ e key, namedKey s.hw k = some (e, key) → key.send = true → Yields (.jobkeyRetire f) s (fun t =>
        Completes s t f k 3 0 ∧ t.hw.sec = s.hw.sec)) ∧
      (namedKey s.hw k = none → Yields (.jobkeyRetire f) s (fun t => Completes s t f k 3 0 ∧ t.hw.sec = s.hw.sec)))


/-- R492, R494, R500 to R503, R506, R507 and Table 16-10. -/
def Obligations.CapturesAndResetsServeTheirFunction : Prop :=
  ∀ (s : State) (f : FnId) (k : HostCmd),
    let c := k.ctx
    let x := s.hw.ctx c
    let w (n : Nat) : Word := nthW k.words n
    let all : Word := 0xFFFFFFFFFFFFFFFF
    let caps := s.hw.flt.captures
    let id := wfld (w 1) 0 16
    let mine := x.state ≠ 0 ∧ x.state ≠ 7 ∧ x.fn = f
    let calm := s.hw.flt.powerCycle = false ∧ s.hw.flt.recoveries = []
    (Fronts s f 0x30 false [all, 0xFFFF] k →
      (f = 0 → wfld (w 1) 0 6 = 0 →
        let l := (caps.filter (fun c => !c.isOpen)).take (w 2).toNat
        Yields (.capList f) s (fun t => Completes s t f k 0 l.length ∧ (l ≠ [] →
          .hostWrite (w 1) (wordsBytes (l.flatMap (·.words))) (s.hw.fn f).relaxed ∈ t.hw.out))) ∧
      (f ≠ 0 → Yields (.capList f) s (fun t => Completes s t f k 6 0))) ∧
    (Fronts s f 0x31 false [0xFFFF, all, all, all] k →
      let off := (w 2).toNat
      let n := (w 3).toNat
      (capOf s.hw id = none → Yields (.capRead f) s (fun t => Completes s t f k 0x0E 0)) ∧
      ∀ v, capOf s.hw id = some v →
        (capReader s.hw f v = false → Yields (.capRead f) s (fun t => Completes s t f k 1 0)) ∧
        (capReader s.hw f v = true → n % 64 = 0 → n ≤ 0x4000000 → off + n ≤ up64 v.bytes → v.dropped = false →
          s.hw.mem.badRead (v.offset + off) n = none → s.hw.mem.pathBad (v.offset + off) n = none →
          chanWaits s.hw (v.offset + off) n = false → chanDown s.hw (v.offset + off) n = false →
          Yields (.capRead f) s (fun t => Completes s t f k 0 0 ∧
            .hostWrite (w 4) (sub (wordsBytes v.words ++ s.hw.mem.read (v.offset + 64) (up64 v.bytes - 64)) off n)
              (s.hw.fn f).relaxed ∈ t.hw.out ∧ t.hw.flt.captures = caps)) ∧
        (capReader s.hw f v = true → n % 64 = 0 → n ≤ 0x4000000 → off + n ≤ up64 v.bytes → v.dropped = true →
          Yields (.capRead f) s (fun t => Completes s t f k 0 0 ∧
            .hostWrite (w 4) (sub (wordsBytes v.words) off n) (s.hw.fn f).relaxed ∈ t.hw.out))) ∧
    (Fronts s f 0x32 false [0xFFFF] k → f = 0 →
      ((capOf s.hw id).isSome = true → Yields (.capRelease f) s (fun t => Completes s t f k 0 0 ∧
        t.hw.flt.captures = caps.filter (fun c => c.isOpen || c.id.toNat != id))) ∧
      (capOf s.hw id = none → Yields (.capRelease f) s (fun t => Completes s t f k 0x0E 0 ∧
        t.hw.flt.captures = caps))) ∧
    (Fronts s f 0x37 true [1, all, all] k → mine →
      let first := (w 2).toNat
      let n := (w 3).toNat
      (n = 0 ∨ (first + n ≤ 393216 ∧ (maskParts x.mask).length * 143 ≤ n * 2 ∧
          ∀ i, i < n → holdsPage s.hw c (first + i) = true)) →
      Yields (.capConfig f) s (fun t => Completes s t f k 0 0 ∧
        t.hw.ctx c = { x with capPalettes := bit (w 1) 0, capFirst := first, capCount := n })) ∧
    (Fronts s f 0x33 true [] k → mine →
      (x.state = 6 → Yields (.ctxRecover f) s (fun t =>
        (stopPending s.hw c = none → Completes s t f k 0 0) ∧ CtxMoves t c 1 ∧
        (t.hw.ctx c).faults = [] ∧ (∀ r ∈ t.hw.reqs, r.ctx ≠ some c) ∧
        (∀ n p, SMap.find t.hw.col.slots (n : SlotId).val = some p → p.ctx ≠ c) ∧
        (∀ g ∈ t.hw.sk.slots, g.ctx ≠ c) ∧
        (∀ e ∈ ctxEasels s.hw x.mask, (t.hw.easel e).loaded ≠ some c) ∧
        (x.faults ≠ [] → ∀ v ∈ t.hw.flt.captures, v.isOpen = true → v.level = 0 → bit v.contexts c.val = false))) ∧
      (x.state ≠ 6 → Yields (.ctxRecover f) s (fun t => Completes s t f k 7 0 ∧ t.hw.ctx c = x))) ∧
    (∀ e : EaselId, Fronts s f 0x34 false [0xFF] k → e.val = wfld (w 1) 0 8 → s.hw.up e = true →
      (f = 0 → calm → (∀ q ∈ s.hw.flt.engHistory, q.1 + 1000000000 ≤ s.hw.now) →
        Yields (.engineReset f) s (fun t => Holds s t f k ∧ BeginsRecovery s t (.engine e) 0)) ∧
      (f ≠ 0 → Yields (.engineReset f) s (fun t => Completes s t f k 6 0 ∧ t.hw.flt = s.hw.flt))) ∧
    (∀ p : PartId, Fronts s f 0x35 false [3] k → p.val = wfld (w 1) 0 2 →
      (f = 0 → calm → Yields (.partitionReset f) s (fun t =>
        Holds s t f k ∧ BeginsRecovery s t (.partition p) 0)) ∧
      (f ≠ 0 → Yields (.partitionReset f) s (fun t => Completes s t f k 6 0 ∧ t.hw.flt = s.hw.flt))) ∧
    (Fronts s f 0x36 false [] k →
      (f = 0 → calm → (s.hw.fn f).inProgress = [] → Yields (.chipReset f) s (fun t =>
        Completes s t f k 5 0 ∧ BeginsRecovery s t .chip 0)) ∧
      (f ≠ 0 → Yields (.chipReset f) s (fun t => Completes s t f k 6 0 ∧ t.hw.flt = s.hw.flt)))

/-- R431, R432, R434 to R436; the codes are those of log entry 13. -/
def Obligations.SpdmNegotiatesAuthenticatesAndOpensSessions : Prop :=
  ∀ (s : State) (tr : Transport) (nonce : Bytes), spdmUp s.hw tr = true →
    let sec := s.hw.sec
    let n := sec.drbgNext
    let tells (t : State) (code : BitVec 8) (body : Bytes) : Prop := t.hw.out = s.hw.out ++ [.spdm tr code body]
    let signed (t : State) (code : BitVec 8) (body : Bytes) (draw : Nat) : Prop :=
      ∃ m, tells t code (body ++ Config.mldsaSign sec.alias2 m (Config.drbg draw)) ∧ t.hw.sec.drbgNext = draw + 1
    let known := (SMap.find sec.negotiated (tnum tr)).isSome = true
    Yields (.getVersion tr none) s (fun t => tells t 0x04 [0, 1, 0x00, 0x13] ∧
      SMap.find t.hw.sec.versioned (tnum tr) = some false ∧
      (t.hw.sec.sessions = sec.sessions ∧ ∀ p ∈ t.hw.sec.negotiated, p.1 ≠ tnum tr)) ∧
    ((SMap.find sec.versioned (tnum tr)).isSome = true → Yields (.getCapabilities tr none) s (fun t =>
      (∃ b, tells t 0x61 b) ∧ SMap.find t.hw.sec.versioned (tnum tr) = some true)) ∧
    (∀ o : AlgOffer, SMap.find sec.versioned (tnum tr) = some true →
      ((4, 0xF002) ∈ o.extHash → (4, 0xF001) ∈ o.extAsym → (4, 0xF003) ∈ o.kex → o.aesGcm = true →
        Yields (.negotiateAlgorithms tr none o) s (fun t =>
          tells t 0x63 (extAlg 0xF002 ++ extAlg 0xF001 ++ extAlg 0xF003 ++ [2, 0]) ∧
          SMap.find t.hw.sec.negotiated (tnum tr) = some true)) ∧
      ((4, 0xF002) ∉ o.extHash → (4, 0xF001) ∉ o.extAsym → (4, 0xF003) ∉ o.kex → o.aesGcm = false →
        Yields (.negotiateAlgorithms tr none o) s (fun t => tells t 0x7F [1, 0] ∧
          SMap.find t.hw.sec.negotiated (tnum tr) = none))) ∧
    (∀ se : Option (Fin 4), (se = none → known) → (∀ i, se = some i → sessOpen s.hw tr i = true) →
      Yields (.getDigests tr se) s (fun t => tells t 0x01 (sha3 (certChain s.hw)) ∧ t.hw.sec = sec) ∧
      Yields (.getCertificate tr se) s (fun t => tells t 0x02 (certChain s.hw) ∧ t.hw.sec = sec) ∧
      (nonce.length = 32 →
        Yields (.getMeasurements tr se 0 nonce) s (fun t => signed t 0x60 [8] n) ∧
        Yields (.getMeasurements tr se 0xFF nonce) s (fun t =>
          signed t 0x60 ([1, 2, 3, 4, 5, 6, 7, 8].flatMap (fun j => leBytes 1 j ++ measureBlock s.hw j)) n) ∧
        ∀ i : BitVec 8, 1 ≤ i.toNat → i.toNat ≤ 8 → Yields (.getMeasurements tr se i nonce) s (fun t =>
          signed t 0x60 (leBytes 1 i.toNat ++ measureBlock s.hw i.toNat) n))) ∧
    (known → nonce.length = 32 → Yields (.challenge tr none nonce) s (fun t =>
      signed t 0x03 (sha3 (certChain s.hw) ++ sub (Config.drbg n) 0 32) (n + 1))) ∧
    (∀ (ek : Bytes) (i : Fin 4), SMap.find sec.negotiated (tnum tr) = some true → ek.length = 1184 →
      (∀ j, j < i → SMap.find sec.sessions (sessNum tr j) ≠ none) → SMap.find sec.sessions (sessNum tr i) = none →
      Yields (.keyExchange tr none ek) s (fun t =>
        signed t 0x64 (leBytes 1 i.val ++ (Config.kemEncaps ek (Config.drbg n)).1) (n + 1) ∧
        SMap.find t.hw.sec.sessions (sessNum tr i) =
          some { finished := false, secret := (Config.kemEncaps ek (Config.drbg n)).2, updates := 0 })) ∧
    (∀ (i : Fin 4) (x : SpdmSession) (v : Bytes), SMap.find sec.sessions (sessNum tr i) = some x →
      x.finished = false →
      (v = Config.spdmVerify x.secret → Yields (.finish tr (some i) v) s (fun t => tells t 0x65 [] ∧
        SMap.find t.hw.sec.sessions (sessNum tr i) = some { x with finished := true })) ∧
      (v ≠ Config.spdmVerify x.secret → Yields (.finish tr (some i) v) s (fun t => tells t 0x7F [6, 0] ∧
        SMap.find t.hw.sec.sessions (sessNum tr i) = none)))


/-- R433, R434, R437, R442; the codes are those of log entry 13. -/
def Obligations.SessionRequestsServeSessionsEvidenceAndInterfaces : Prop :=
  ∀ (s : State) (tr : Transport) (i : Fin 4),
    let sec := s.hw.sec
    let tells (t : State) (tr : Transport) (code : BitVec 8) (body : Bytes) : Prop :=
      t.hw.out = s.hw.out ++ [.spdm tr code body]
    let se := some i
    let others (t : State) : Prop := ∀ j, j ≠ sessNum tr i → SMap.find t.hw.sec.sessions j = SMap.find sec.sessions j
    (spdmUp s.hw tr = true → sessOpen s.hw tr i = true →
      Yields (.heartbeat tr se) s (fun t => tells t tr 0x68 [] ∧ t.hw.sec = sec) ∧
      Yields (.keyUpdate tr se) s (fun t => tells t tr 0x69 [] ∧ others t ∧
        SMap.find t.hw.sec.sessions (sessNum tr i) =
          (SMap.find sec.sessions (sessNum tr i)).map (fun x => { x with updates := x.updates + 1 })) ∧
      Yields (.endSession tr se) s (fun t => tells t tr 0x6C [] ∧ others t ∧
        SMap.find t.hw.sec.sessions (sessNum tr i) = none) ∧
      ∀ (c : CtxId) (nonce ek dk : Bytes),
        ((s.hw.ctx c).kem = some (ek, dk) → nonce.length = 32 → (s.hw.ctx c).live = true →
          let b := evidenceBody s.hw c nonce ek
          Yields (.getCtxEvidence tr se c nonce) s (fun t =>
            tells t tr 0x7E (b ++ Config.mldsaSign sec.alias2 (ascii "HX7-CTX-EVIDENCE-1" ++ sha3 b)
              (Config.drbg sec.drbgNext)) ∧
            t.hw.ctx c = { s.hw.ctx c with evidence := (s.hw.ctx c).evidence ++ [nonce] })) ∧
        ((s.hw.ctx c).kem = none → Yields (.getCtxEvidence tr se c nonce) s (fun t =>
          tells t tr 0x7F [1, 0] ∧ t.hw.ctxs = s.hw.ctxs))) ∧
    (spdmUp s.hw .doe = true → sessOpen s.hw .doe i = true →
      (∀ (n : Fin 65) (vf : Option FnId) (key : Bytes),
        Yields (.ideKm se .query) s (fun t => (∃ b, tells t .doe 0x7E b) ∧ t.hw.sec = sec) ∧
        Yields (.ideKm se (.keyProg n vf key)) s (fun t => tells t .doe 0x7E [3] ∧
          SMap.find t.hw.sec.ide n.val = some { vf := vf, key := key, on := false }) ∧
        (∀ x, SMap.find sec.ide n.val = some x → Yields (.ideKm se (.setGo n)) s (fun t => tells t .doe 0x7E [6] ∧
          SMap.find t.hw.sec.ide n.val = some { x with on := true })) ∧
        Yields (.ideKm se (.setStop n)) s (fun t => tells t .doe 0x7E [6] ∧
          SMap.find t.hw.sec.ide n.val = none ∧ (∀ x v, SMap.find sec.ide n.val = some x → x.vf = some v → v ≠ 0 →
            t.hw.tdi v = 3 ∧ (s.hw.tdi v ≠ 3 → ∃ u, Pends t 0x145 u) ∧
            ∀ c, (s.hw.ctx c).conf = true → (s.hw.ctx c).fn = v → (s.hw.ctx c).state = 2 → s.hw.tdi v ≠ 3 →
              (t.hw.ctx c).state = 4 ∧ (t.hw.ctx c).held = true))) ∧
      ∀ vf : FnId, vf ≠ 0 → s.hw.fnOn vf = true →
        let goes (req : TdispReq) (st : BitVec 2) (body : Bytes) : Prop := Yields (.tdisp se vf req) s (fun t =>
          tells t .doe 0x7E body ∧ t.hw.tdi vf = st ∧ ∀ v, v ≠ vf → t.hw.tdi v = s.hw.tdi v)
        goes .getState (s.hw.tdi vf) (5 :: leBytes 1 (s.hw.tdi vf).toNat) ∧
        (s.hw.tdi vf = 0 → goes .lockInterface 1 [3] ∧ goes .startInterface 0 [0x7F] ∧ goes .getReport 0 [0x7F]) ∧
        (s.hw.tdi vf = 1 → goes .startInterface 2 [6] ∧ goes .lockInterface 1 [0x7F]) ∧
        (s.hw.tdi vf = 1 ∨ s.hw.tdi vf = 2 → Yields (.tdisp se vf .getReport) s (fun t =>
          (∃ b, tells t .doe 0x7E (4 :: b)) ∧ t.hw.tdi vf = s.hw.tdi vf)) ∧
        (s.hw.tdi vf = 3 → goes .startInterface 3 [0x7F] ∧ goes .lockInterface 3 [0x7F]) ∧
        goes .stopInterface 0 [7]) ∧
    (spdmUp s.hw tr = true →
      Yields (.heartbeat tr none) s (fun t => tells t tr 0x7F [0x0B, 0] ∧ t.hw.sec = sec) ∧
      (sessOpen s.hw tr i = false → Yields (.endSession tr se) s (fun t => tells t tr 0x7F [2, 0] ∧ t.hw.sec = sec))) ∧
    (spdmUp s.hw tr = false → Yields (.keyUpdate tr se) s (fun t => t = s))

/-- R452 to R454, R456, R457, R459 to R461 and Table 15-1. -/
def Obligations.PowerLoopsMeasureAndLimit : Prop :=
  ∀ s : State,
    let p := s.hw.pwr
    let limits (t : State) : Prop := (∀ e ∈ s.hw.bru.enabled, (t.hw.easel e).flim =
        min (fPwr t.hw) (s.hw.zone (zoneOf e)).fthm) ∧ t.hw.mem = s.hw.mem ∧
      (fPwr t.hw < 64 → t.hw.pwr.target = 2100)
    (∀ est me, Yields (.powerEstimate est me) s (fun t =>
      let x : PSample := { p := est * p.gain / 16384, me := me * p.gain / 16384,
                           f := (appliedF s.hw).1, busy := (appliedF s.hw).2 }
      t.hw.pwr.estWin = (x :: p.estWin).take 1000 ∧ t.hw.pwr.me = x.me ∧ t.hw.pwr.fFast ≤ max p.fFast 64 ∧
        t.hw.pwr.fFast ≤ p.fFast + 1 ∧ (s.hw.now < p.fFastRaise + 10000 → t.hw.pwr.fFast ≤ p.fFast) ∧
        t.hw.pwr.fFast = loopOutput p.fFast ((x :: p.estWin).take 10) (variantW s.hw * 12)
          (if p.fFastRaise + 10000 ≤ s.hw.now then 1 else 0) ∧
        t.hw.pwr.fShort = p.fShort ∧ t.hw.pwr.fSust = p.fSust ∧ limits t)) ∧
    (∀ mv ma, Yields (.powerMeasure mv ma) s (fun t =>
      t.hw.pwr.vinMv = mv ∧ t.hw.pwr.iin10ma = ma / 10 ∧ t.hw.pwr.energy = p.energy + mv * ma ∧
        t.hw.pwr.measWin.head?.map (·.p) = some (mv * ma / 100000) ∧ t.hw.pwr.measWin.tail = p.measWin.take 999 ∧
        t.hw.easels = s.hw.easels ∧ t.hw.regs = s.hw.regs)) ∧
    (let m := (meanSample p.measWin 10).p
     let e := p.estMean.foldl (· + ·) 0 / max p.estMean.length 1
     let u := p.gain * m / e
     supWrites s.hw = true → 3000 ≤ m → e ≠ 0 →
      ((u * 10 < 16384 * 8 ∨ 16384 * 125 < u * 100) → Yields .gainRecalibrate s (fun t =>
        t.hw.pwr = p ∧ Pends t 0x013 u)) ∧
      (16384 * 8 ≤ u * 10 → u * 100 ≤ 16384 * 125 → Yields .gainRecalibrate s (fun t =>
        p.gain * 95 / 100 ≤ t.hw.pwr.gain ∧ (t.hw.pwr.gain ≤ p.gain * 105 / 100) ∧
        (p.gain * 95 / 100 ≤ u → u ≤ p.gain * 105 / 100 → t.hw.pwr.gain = u)))) ∧
    (supWrites s.hw = true →
      Yields .shortLoopUpdate s (fun t => t.hw.pwr.fShort ≤ p.fShort + 4 ∧
        t.hw.pwr.fShort = loopOutput p.fShort (p.measWin.take 10) (capInForce s.hw 0x70020) 4 ∧
        t.hw.pwr.fFast = p.fFast ∧ t.hw.pwr.fSust = p.fSust ∧ limits t) ∧
      Yields .sustainedLoopUpdate s (fun t => t.hw.pwr.fSust ≤ p.fSust + 4 ∧
        t.hw.pwr.fSust = loopOutput p.fSust p.measWin (capInForce s.hw 0x70018) 4 ∧
        t.hw.pwr.fFast = p.fFast ∧ t.hw.pwr.fShort = p.fShort ∧ limits t)) ∧
    (supWrites s.hw = false → Yields .shortLoopUpdate s (fun t => t = s) ∧
      Yields .sustainedLoopUpdate s (fun t => t = s) ∧ Yields .gainRecalibrate s (fun t => t = s) ∧
      Yields .boostTargetUpdate s (fun t => t = s)) ∧
    (let boost := bit (s.hw.reg 0x70028) 0 = true ∧ s.hw.pins.variant1800 = false ∧ s.hw.thm.fallback = false ∧
        clamped s.hw = false ∧ junctionAt s.hw 90 = false ∧ 64 ≤ fPwr s.hw ∧
        ∀ q ∈ s.hw.thm.junction, 64 ≤ q.2.fthm
     let near := capInForce s.hw 0x70020 < (meanSample p.measWin 10).p + 1500
     let clocks (t : State) (mhz : Nat) : Prop := t.hw.pwr = { p with target := mhz } ∧
        ∀ e ∈ s.hw.bru.enabled, (t.hw.easel e).clockMhz = mhz
     supWrites s.hw = true →
      (¬ boost → Yields .boostTargetUpdate s (fun t => t.hw.pwr = { p with target := 2100 })) ∧
      (boost → near → Yields .boostTargetUpdate s (fun t => clocks t (max 2100 (p.target - 100)))) ∧
      (boost → ¬ near → (∀ n, p.limLowAt = some n → n + 1000000 ≤ s.hw.now) →
        (∀ n, p.hotAt = some n → n + 1000000 ≤ s.hw.now) → junctionAt s.hw 86 = false →
        Yields .boostTargetUpdate s (fun t => clocks t (min 2400 (p.target + 50))))) ∧
    (p.thrOpen = true → throttled s.hw = false → p.thrLast + 10000 ≤ s.hw.now →
      Yields .throttleIntervalEnd s (fun t => t.hw.pwr.thrOpen = false ∧ t.hw.pwr.tlog.tail = p.tlog.take 63 ∧
        t.hw.pwr.tlog.head? = some { start := p.thrStart, duration := s.hw.ftcNow - p.thrStart, fMin := p.thrMin,
                                     cause := p.thrCause })) ∧
    (throttled s.hw = true → Yields .throttleIntervalEnd s (fun t => t = s)) ∧
    (∀ (r : Requester) (short : Bool) (w : BitVec 12), MayWriteReg s r .pwr (if short then 0x20 else 0x18) →
      Yields (.pwrCapWrite r short w) s (fun t =>
        t.hw.reg (if short then 0x70020 else 0x70018) =
          BitVec.ofNat 64 (max 1200 (min (if s.hw.pins.variant1800 then 1800 else 2400) w.toNat)) ∧
        (∀ k, k ≠ (if short then 0x70020 else 0x70018) → t.hw.reg k = s.hw.reg k) ∧ t.hw.pwr = p))


/-- R404, R463, R464, R466, Tables 15-2 and 15-3. -/
def Obligations.ClampsAndIdleStatesActAndRelease : Prop :=
  ∀ s : State,
    let p := s.hw.pwr
    let clampedTo (t : State) (off : Nat) : Prop := t.hw.pwr.target = 2100 ∧ Counts s t off 1 ∧ t.hw.mem = s.hw.mem ∧
      t.hw.pwr.thrOpen = true
    (p.pinWarn = false → s.hw.bru.enabled ≠ [] → Yields .pwrwarnAssert s (fun t => t.hw.pwr.pinWarn = true ∧
      clampedTo t 0x70080 ∧ ∀ e, warnF t.hw e ≤ 16)) ∧
    (p.pinWarn = true → Yields .pwrwarnAssert s (fun t => t = s)) ∧
    Yields .pwrwarnRelease s (fun t => t.hw.pwr.pinWarn = false ∧ t.hw.pwr.uvWarn = p.uvWarn ∧
      t.hw.pwr.leakPins = p.leakPins ∧ t.hw.pwr.droop = p.droop ∧ t.hw.easels = s.hw.easels) ∧
    (∀ mv, p.uvWarn = false → mv < wfld (s.hw.reg 0x70038) 16 16 → s.hw.bru.enabled ≠ [] →
      Yields (.undervoltageWarning mv) s (fun t => t.hw.pwr.uvWarn = true ∧ clampedTo t 0x70080 ∧
        (∀ e, warnF t.hw e ≤ 16) ∧ Pends t 0x011 mv)) ∧
    (∀ mv, wfld (s.hw.reg 0x70038) 16 16 ≤ mv → Yields (.undervoltageWarning mv) s (fun t => t = s)) ∧
    Yields .undervoltageRelease s (fun t => t.hw.pwr.uvWarn = false ∧ t.hw.pwr.pinWarn = p.pinWarn ∧
      t.hw.pwr.leakPins = p.leakPins ∧ t.hw.pwr.droop = p.droop ∧ t.hw.easels = s.hw.easels) ∧
    (∀ d : Fin 2, p.droop.getLsbD d.val = false → (∃ e ∈ s.hw.bru.enabled, (dieOf e).val = d.val) →
      Yields (.droopCut d) s (fun t => t.hw.pwr.droop.getLsbD d.val = true ∧ clampedTo t 0x70088 ∧
        ∀ e, (dieOf e).val = d.val → warnF t.hw e = 0)) ∧
    (∀ d : Fin 2, Yields (.droopRelease d) s (fun t => t.hw.pwr.droop.getLsbD d.val = false ∧
      (∀ i : Fin 2, i ≠ d → t.hw.pwr.droop.getLsbD i.val = p.droop.getLsbD i.val) ∧
      t.hw.pwr.pinWarn = p.pinWarn ∧ t.hw.pwr.uvWarn = p.uvWarn ∧ t.hw.easels = s.hw.easels)) ∧
    (let i := deepestIdle (wfld (s.hw.reg 0x70048) 0 32)
     ∀ since, p.quietSince = some since →
      (isQuiet s.hw = true → since + wfld (s.hw.reg 0x70050) 0 24 * 1000 ≤ s.hw.now → p.idle < i →
        Yields .idleEntry s (fun t => t.hw.pwr.idle = i ∧ (i ≠ 3 → t.hw.ctxs = s.hw.ctxs ∧
          t.hw.memctl = s.hw.memctl) ∧ (i = 1 → t.hw.easels = s.hw.easels) ∧
          (i = 2 → ∀ e, t.hw.easel e = { s.hw.easel e with
            acc := if (s.hw.easel e).loaded.isSome = true
              then { (s.hw.easel e).acc with errs := (s.hw.easel e).acc.errs.filter (fun q => q.2.bad) }
              else AccSets.init }) ∧ (i = 3 → t.hw.memctl.selfRefresh = true ∧ ∀ c ∈ loadedOn s.hw 15, c ∉ loadedOn t.hw 15))) ∧
      (isQuiet s.hw = false → Yields .idleEntry s (fun t => t = s))) ∧
    (∀ cause, Yields (.idleExit cause) s (fun t => t.hw.pwr = { p with idle := 0, quietSince := none } ∧
      t.hw.memctl = { s.hw.memctl with selfRefresh := false } ∧ t.hw.easels = s.hw.easels ∧ t.hw.mem = s.hw.mem)) ∧
    (∀ (r : Requester) (tol : BitVec 32), MayWriteReg s r .pwr 0x48 → Yields (.pwrLatTolWrite r tol) s (fun t =>
      t.hw.reg 0x70048 = tol.setWidth 64 ∧
        (tol.toNat < exitBound p.idle → t.hw.pwr.idle = 0 ∧ t.hw.memctl.selfRefresh = false) ∧
        (exitBound p.idle ≤ tol.toNat → t.hw.pwr = p ∧ t.hw.memctl = s.hw.memctl)))

/-- R460, R467 to R473 and R504. -/
def Obligations.ThermalStateIsMeasuredLimitedAndTrips : Prop :=
  ∀ s : State,
    let trips (c : TripCause) (code n : Nat) : Prop := Yields (.thermalTrip c) s (fun t => t.hw.thm.tripped = true ∧
      t.hw.pins.thermtrip = true ∧ t.hw.reg 0x80030 = (put code 0 3 ||| put n 3 8 ||| bitw true 63) ∧
      AsksPowerCycle t 0)
    let leaves (c : TripCause) : Prop := Yields (.thermalTrip c) s (fun t => t = s)
    (∀ set : SampleSet, Yields (.sampleSetPublish set) s (fun t =>
      (∀ z, z < 48 → (t.hw.zone z).reading = (set.junction[z]?).getD (s.hw.zone z).reading ∧
        (t.hw.zone z).failed = (s.hw.zone z).failed ∧ (t.hw.zone z).fthm = (s.hw.zone z).fthm) ∧
      (∀ n, n < 32 → (t.hw.canvasSensor n).reading = (set.canvas[n]?).getD (s.hw.canvasSensor n).reading) ∧
      t.hw.thm.inlet = set.inlet ∧ t.hw.thm.outlet = set.outlet ∧ t.hw.sup.sets = s.hw.sup.sets + 1 ∧
      ((set.inlet < 150 ∨ 400 < set.inlet) → s.hw.thm.inletBad = false → Pends t 0x025 (wrapInt 32 set.inlet)) ∧
      (junctionAt t.hw 90 = true → t.hw.pwr.target = 2100) ∧ t.hw.mem = s.hw.mem)) ∧
    (supWrites s.hw = true → Yields .thermalLoopUpdate s (fun t =>
      (∀ z, z < 48 →
        let temp := zoneReading s.hw z
        let theta : Int := (wfld (s.hw.reg 0x80018) 0 7 : Nat) * 1000000
        let f := (s.hw.zone z).fthm
        (105000000 ≤ temp → (t.hw.zone z).fthm = 8) ∧
        (temp < 105000000 → theta ≤ temp ∨ lpddrHot s.hw = true ∨ canvasHot s.hw (z / 24) = true →
          (t.hw.zone z).fthm = max 1 (f - 4)) ∧
        (temp < 105000000 → temp < theta → lpddrHot s.hw = false → canvasHot s.hw (z / 24) = false →
          (t.hw.zone z).fthm = if theta - 2000000 < temp then f else min 64 (f + 1))) ∧
      ∀ e ∈ s.hw.bru.enabled, (t.hw.easel e).flim = min (fPwr s.hw) (t.hw.zone (zoneOf e)).fthm)) ∧
    (supWrites s.hw = false → Yields .thermalLoopUpdate s (fun t => t = s)) ∧
    (∀ faulty, Yields (.sensorCheck faulty) s (fun t =>
      (∀ z, z < 48 → let x := s.hw.zone z
        (x.failed = true → t.hw.zone z = x) ∧
        (x.failed = false → z ∈ faulty ∨ x.reading < -40 ∨ 150 < x.reading → (t.hw.zone z).failed = true ∧
          bit (t.hw.reg 0x40200) 0x18 = true) ∧
        (x.failed = false → z ∉ faulty → -40 ≤ x.reading → x.reading ≤ 150 →
          x.model ≤ x.reading * 1000000 + 15000000 → t.hw.zone z = { x with below := 0 })) ∧
      (∀ n, n < 32 → (64 + n) ∈ faulty ∨ (s.hw.canvasSensor n).failed = true → (t.hw.canvasSensor n).failed = true) ∧
      (2 ≤ failedSensors t.hw → t.hw.thm.fallback = true ∧ (s.hw.thm.fallback = false → t.hw.pwr.target = 2100 ∧
        Pends t 0x019 (failedSensors t.hw) ∧ ∀ e ∈ s.hw.bru.enabled, (t.hw.easel e).clockMhz = 1600)) ∧
      (failedSensors t.hw < 2 → t.hw.thm.fallback = s.hw.thm.fallback))) ∧
    (s.hw.thm.tripped = false → s.hw.flt.powerCycle = false →
      (∀ z : Fin 48, let x := s.hw.zone z.val
        (x.failed = false → 110 ≤ x.reading → trips (.junction z) 0 z.val) ∧
        (x.failed = true → 110000000 ≤ x.model → trips (.supervisor z) 3 z.val)) ∧
      (∀ n : Fin 32, (s.hw.canvasSensor n.val).failed = false → 105 ≤ (s.hw.canvasSensor n.val).reading →
        trips (.canvas n) 1 n.val) ∧ trips .pin 2 0) ∧
    (∀ z : Fin 48, (s.hw.zone z.val).reading < 110 → leaves (.junction z)) ∧ (s.hw.thm.tripped = true → leaves .pin) ∧
    (∀ a b, Yields (.leakTraceMeasure a b) s (fun t => t.hw.thm.reported = s.hw.thm.reported ∧
      (a = s.hw.leakReported 0 → SMap.get 0 t.hw.thm.seen 0 = 0) ∧
      (a ≠ s.hw.leakReported 0 → SMap.find t.hw.thm.candidate 0 = some a ∧ SMap.get 0 t.hw.thm.seen 0 =
        if SMap.find s.hw.thm.candidate 0 = some a then SMap.get 0 s.hw.thm.seen 0 + 1 else 1))) ∧
    (∀ (i : Fin 2) (c : LeakCode), SMap.find s.hw.thm.candidate i.val = some c →
      (SMap.get 0 s.hw.thm.seen i.val < 10 → Yields (.leakTraceChange i) s (fun t => t = s)) ∧
      (10 ≤ SMap.get 0 s.hw.thm.seen i.val → Yields (.leakTraceChange i) s (fun t => t.hw.leakReported i.val = c ∧
        (c = .wet → s.hw.pwr.leakWet = false → s.hw.flt.powerCycle = false → t.hw.pwr.leakWet = true ∧
          t.hw.pins.leakOut = true ∧ t.hw.pwr.target = 2100 ∧ Pends t 0x01B (2 ^ i.val) ∧ AsksPowerCycle t 0) ∧
        (c = .openFault ∨ c = .excitation → Pends t 0x01C (leakWord t.hw) ∧ t.hw.pwr = s.hw.pwr) ∧
        (c = .dry → t.hw.pwr = s.hw.pwr ∧ t.hw.pins = s.hw.pins ∧ t.hw.regs = s.hw.regs))))


/-- R475 to R479 and R542. -/
def Obligations.SupervisorsCompareHandOverAndRestart : Prop :=
  ∀ (s : State) (i : Fin 2),
    let sup := s.hw.sup
    let calm := s.hw.flt.powerCycle = false ∧ s.hw.flt.recoveries = []
    let restarted : Sup := { s.hw.supOf i with started := true, synced := false, matches_ := 0,
                                               restartAt := some s.hw.now, scFail := false }
    (∀ a, sup.holder = some a →
      let b := otherSup a
      (∀ d p0 p1, Yields (.digestCompare (some d) (some d) p0 p1) s (fun t => t.hw.sup.diverge = 0 ∧
        (sup.swapPending = true → t.hw.sup.holder = some b ∧ (t.hw.supOf b).writing = true ∧
          (t.hw.supOf a).writing = false ∧ t.hw.sup.swapPending = false ∧ Pends t 0x023 b.val) ∧
        (sup.swapPending = false → t.hw.sup.holder = some a ∧ t.hw.supOf a = s.hw.supOf a) ∧
        (t.hw.supOf b).matches_ = (s.hw.supOf b).matches_ + b2n (s.hw.supOf b).restartAt.isSome)) ∧
      (∀ d0 d1 p0 p1, d0 ≠ d1 ∨ d0 = none ∨ d1 = none →
        let passA := if a = 0 then p0 else p1
        ((s.hw.supOf b).restartAt ≠ none → Yields (.digestCompare d0 d1 p0 p1) s (fun t =>
          t.hw.supOf b = { s.hw.supOf b with matches_ := 0 } ∧ t.hw.supOf a = s.hw.supOf a ∧
            t.hw.sup.holder = some a)) ∧
        ((s.hw.supOf b).restartAt = none → d0 ≠ none → d1 ≠ none → sup.diverge < 2 →
          Yields (.digestCompare d0 d1 p0 p1) s (fun t => t.hw.sup = { sup with diverge := sup.diverge + 1 })) ∧
        ((s.hw.supOf b).restartAt = none → d0 = none ∨ d1 = none ∨ sup.diverge = 2 →
          Yields (.digestCompare d0 d1 p0 p1) s (fun t => (∃ n, Pends t 0x020 n) ∧
            Counts s t (blkBase (.sup 0) + 0x30) 1 ∧ Counts s t (blkBase (.sup 1) + 0x30) 1 ∧
            (passA = true → (t.hw.supOf b).suspect = true ∧ (t.hw.supOf a).writing = (s.hw.supOf a).writing ∧
              (t.hw.supOf a).suspect = (s.hw.supOf a).suspect) ∧
            (passA = false → (t.hw.supOf a).suspect = true ∧ (t.hw.supOf a).writing = false))))) ∧
    (sup.holder = none → ∀ d0 d1 p0 p1, Yields (.digestCompare d0 d1 p0 p1) s (fun t => t = s)) ∧
    (sup.holder = some i → (s.hw.supOf i).writing = true →
      (s.hw.now < sup.renewed + 300000 → Yields (.leaseRenew i) s (fun t =>
        t.hw.sup = { sup with renewed := s.hw.now })) ∧
      (sup.renewed + 300000 ≤ s.hw.now → Yields (.leaseRenew i) s (fun t =>
        t.hw.supOf i = { s.hw.supOf i with writing := false } ∧ t.hw.sup.renewed = sup.renewed))) ∧
    (sup.holder ≠ some i → Yields (.leaseRenew i) s (fun t => t = s)) ∧
    (∀ a, sup.holder = some a →
      let b := otherSup a
      let able := (s.hw.supOf b).started = true ∧ (s.hw.supOf b).synced = true
      (s.hw.now < sup.renewed + 300000 → Yields .leaseExpire s (fun t => t = s)) ∧
      (sup.renewed + 300000 ≤ s.hw.now → able → Yields .leaseExpire s (fun t => t.hw.sup.holder = some b ∧
        t.hw.sup.renewed = s.hw.now ∧ (t.hw.supOf b).writing = true ∧ (t.hw.supOf a).writing = false ∧
        t.hw.pwr.target = 2100 ∧ Counts s t (blkBase (.sup b) + 0x28) 1 ∧
        Pends t 0x022 (b.val + 256 * b2n (s.hw.supOf b).suspect))) ∧
      (sup.renewed + 300000 ≤ s.hw.now → ¬ able → calm → Yields .leaseExpire s (fun t =>
        t.hw.sup.holder = none ∧ (t.hw.supOf a).writing = false ∧ BeginsRecovery s t .chip 0))) ∧
    (∀ r, MayWriteReg s r (.sup i) 0x18 →
      (swapError s.hw = 0 → Yields (.supSwap r i) s (fun t => t.hw.sup.swapPending = true ∧
        (t.hw.supOf i).swapError = 0 ∧ t.hw.sup.holder = sup.holder)) ∧
      (swapError s.hw ≠ 0 → Yields (.supSwap r i) s (fun t => t.hw.sup.swapPending = sup.swapPending ∧
        t.hw.supOf i = { s.hw.supOf i with swapError := swapError s.hw } ∧ t.hw.sup.holder = sup.holder))) ∧
    (∀ r, MayWriteReg s r (.sup i) 0x20 →
      (sup.holder ≠ some i → Yields (.supRestart r i) s (fun t => t.hw.supOf i = restarted ∧
        t.hw.supOf (otherSup i) = s.hw.supOf (otherSup i))) ∧
      (sup.holder = some i → Yields (.supRestart r i) s (fun t => t = s))) ∧
    (sup.holder ≠ some i → (s.hw.supOf i).restartAt ≠ none →
      (100 ≤ (s.hw.supOf i).matches_ → Yields (.supSyncComplete i) s (fun t => Pends t 0x024 i.val ∧
        t.hw.supOf i = { s.hw.supOf i with synced := true, suspect := false, restartAt := none })) ∧
      ((s.hw.supOf i).matches_ < 100 → Yields (.supSyncComplete i) s (fun t => t = s))) ∧
    (standby s.hw = some i →
      (s.hw.fwu.supStage = 1 → Yields .supervisorUpdate s (fun t => t.hw.supOf i = restarted ∧
        t.hw.fwu.supStage = 2 ∧ (i = 0 → t.hw.fwu.runSup0 = s.hw.fwu.actSlot) ∧
        (i = 1 → t.hw.fwu.runSup1 = s.hw.fwu.actSlot))) ∧
      (s.hw.fwu.supStage = 2 → swapError s.hw = 0 → Yields .supervisorUpdate s (fun t =>
        t.hw.sup.swapPending = true ∧ t.hw.fwu.supStage = 3)) ∧
      (s.hw.fwu.supStage = 2 ∨ s.hw.fwu.supStage = 4 → (s.hw.supOf i).synced = false →
        (∀ at_, (s.hw.supOf i).restartAt = some at_ → at_ + 10000000 ≤ s.hw.now →
          Yields (.supervisorSyncTimeout i) s (fun t => t.hw.supOf i = restarted ∧ Pends t 0x245 0x0F ∧
            t.hw.fwu.step = 0 ∧ t.hw.fwu.actError = 0x0F ∧
            (i = 0 → t.hw.fwu.runSup0 = 1 - s.hw.fwu.actSlot) ∧ (i = 1 → t.hw.fwu.runSup1 = 1 - s.hw.fwu.actSlot))) ∧
        ((s.hw.supOf i).restartAt = none → Yields (.supervisorSyncTimeout i) s (fun t => t = s))))

/-- R489, R490, R495, R497, R501 to R504, R506, R521; the watchdog's and the timeouts' trigger classes as log entry 71 says. -/
def Obligations.RecoveriesRunEscalateAndResetTheirUnit : Prop :=
  ∀ s : State, s.hw.flt.powerCycle = false →
    let recs := s.hw.flt.recoveries
    let calm := recs = []
    let fresh := recs = [] ∧ ∀ q ∈ s.hw.flt.engHistory, q.1 + 1000000000 ≤ s.hw.now
    let zeroPal (t : State) (e : EaselId) : Prop := ∀ j, j < 0x200000 → SMap.get 0 t.hw.mem.cells (palBase e.val + j) = 0
    let ends (t : State) (u : RecUnit) : Prop := ∀ r ∈ t.hw.flt.recoveries, r.unit ≠ u
    let leaves (i : Instr) : Prop := Yields i s (fun t => t = s)
    (∀ e q serial i, watched s.hw e q serial = some i → fresh → RunsClean s i.ctx →
      Yields (.engineWatchdogExpire e q serial) s (fun t => BeginsRecovery s t (.engine e) 0x70 ∧
        TakesPrimary t i.ctx 0x70 0 ∧ Counts s t (blkBase (.easel e) + 0x38) 1)) ∧
    (∀ e q serial, watched s.hw e q serial = none → leaves (.engineWatchdogExpire e q serial)) ∧
    (∀ e, let x := s.hw.easel e
      (s.hw.up e = true → x.stopped = true → 100000 ≤ x.stopNs → (∃ i ∈ x.me ++ x.vu ++ x.ce, i.started = true) → fresh →
        Yields (.engineBoundaryTimeout e) s (fun t => BeginsRecovery s t (.engine e) 0)) ∧
      (x.stopped = false ∨ x.stopNs < 100000 → leaves (.engineBoundaryTimeout e))) ∧
    (∀ core, calm → Yields (.cpSilenceTimeout core) s (fun t => BeginsRecovery s t .chip 0)) ∧
    (∀ trigger, (s.hw.chipRec = true → triggerOk trigger = true →
        Yields (.powerCycleRequest trigger) s (fun t => AsksPowerCycle t trigger)) ∧
      (s.hw.chipRec = false ∨ triggerOk trigger = false → leaves (.powerCycleRequest trigger))) ∧
    (∀ u r, recs = [r] → r.unit = u →
      (s.hw.now < r.start + recLimit u → leaves (.recoveryEscalationTimeout u)) ∧
      (r.start + recLimit u ≤ s.hw.now → Yields (.recoveryEscalationTimeout u) s (fun t =>
        (∀ e, u = .engine e → BeginsRecovery s t (.partition (partOf e)) r.trigger) ∧
        (∀ p, u = .partition p → BeginsRecovery s t .chip r.trigger) ∧
        (u = .chip → AsksPowerCycle t r.trigger)))) ∧
    (∀ id c, s.hw.flt.captures.find? (fun c => c.id == id && c.isOpen) = some c → ∀ n, capBound c.level = some n →
      (s.hw.ftcNow < c.ftcStart + n → leaves (.captureBoundExpire id)) ∧
      (c.ftcStart + n ≤ s.hw.ftcNow → Yields (.captureBoundExpire id) s (fun t =>
        (∀ v ∈ t.hw.flt.captures, v.id = id → v.isOpen = false) ∧
        ∃ v ∈ t.hw.flt.captures, v.id = id ∧ v.incomplete = true ∧ v.ftcEnd = s.hw.ftcNow))) ∧
    (∀ e first second, let x := s.hw.easel e
      (x.loaded ≠ none → leaves (.knownAnswerRun e first second)) ∧
      (s.hw.up e = true → x.loaded = none → recovering s.hw (.engine e) = false →
        (first = true → Yields (.knownAnswerRun e first second) s (fun t => OnlyEasel s t e ∧
          t.hw.easel e = { x with katPass := true, katValid := true, katTime := s.hw.ftcNow })) ∧
        (first = false → fresh → Yields (.knownAnswerRun e first second) s (fun t => ends t (.engine e) ∧
          (t.hw.easel e).katPass = second ∧ (e ∈ t.hw.bru.fenced ↔ second = false) ∧
          Pends t 0x043 (e.val + b2n (!second) * 256))))) ∧
    (∀ e trigger kat kat2, s.hw.up e = true → triggerOk trigger = true → recovering s.hw (.engine e) = true ∨ fresh →
      let x := s.hw.easel e
      let pass := kat || kat2
      Yields (.engineRecovery e trigger kat kat2) s (fun t => ends t (.engine e) ∧ zeroPal t e ∧
        (t.hw.easel e).loaded = none ∧ (t.hw.easel e).core = CoreRegs.init ∧ (t.hw.easel e).me = [] ∧
        (t.hw.easel e).vu = [] ∧ (t.hw.easel e).ce = [] ∧ (t.hw.easel e).katPass = pass ∧
        (t.hw.easel e).katTime = s.hw.ftcNow ∧ (t.hw.easel e).flim = x.flim ∧
        (e ∈ t.hw.bru.fenced ↔ pass = false) ∧ Pends t 0x043 (e.val + b2n (!pass) * 256))) ∧
    (∀ e trigger kat kat2, s.hw.up e = false ∨ triggerOk trigger = false → leaves (.engineRecovery e trigger kat kat2)) ∧
    (∀ p trigger failing, triggerOk trigger = false → leaves (.partitionRecovery p trigger failing)) ∧
    (∀ p trigger failing, triggerOk trigger = true → recovering s.hw (.partition p) = true ∨ calm →
      Yields (.partitionRecovery p trigger failing) s (fun t => ends t (.partition p) ∧ Pends t 0x044 p.val ∧
        (∀ g ∈ t.hw.sk.slots, g.part ≠ p) ∧ ∀ e, partOf e = p → s.hw.up e = true →
          (t.hw.easel e).loaded = none ∧ (t.hw.easel e).core = CoreRegs.init ∧ zeroPal t e ∧
          ((t.hw.easel e).katPass = true ↔ e ∉ failing) ∧ (e ∈ t.hw.bru.fenced ↔ e ∈ failing))) ∧
    (∀ trigger failing, (s.hw.bru.phase ≠ 6 → s.hw.bru.phase ≠ 7 → leaves (.chipRecovery trigger failing)) ∧
      (triggerOk trigger = false → leaves (.chipRecovery trigger failing)) ∧
      (triggerOk trigger = true → s.hw.bru.phase = 7 → s.hw.chipRec = true ∨ calm → s.hw.fwu.slot0.state = 3 → s.hw.fwu.slot1.state ≠ 4 →
        s.hw.fwu.slot0.failCount < 2 → imageOk s.hw 0 = true → s.hw.fwu.session = none → s.hw.fwu.step = 0 →
        s.hw.fwu.paused = false → Yields (.chipRecovery trigger failing) s (fun t => t.hw.flt.recoveries = [] ∧
          t.hw.bru.phase = 7 ∧ t.hw.bru.ready = true ∧ t.hw.pins.fault = false ∧ t.hw.reqs = [] ∧
          (∀ c, (t.hw.ctx c).state = 0) ∧ (∀ e, zeroPal t e) ∧ t.hw.sec.wkeys = [] ∧ t.hw.sec.jobKeys = [] ∧
          t.hw.sec.xtsKeys = [] ∧ t.hw.sec.sessions = [] ∧ t.hw.ctxs.loaded = [] ∧
          Pends t 0x240 (s.hw.bru.enabled.length * 256) ∧ t.hw.fwu.slot0 = { s.hw.fwu.slot0 with failCount := 0 } ∧
          ∀ e ∈ s.hw.bru.enabled, (e ∈ t.hw.bru.fenced ↔ e ∈ s.hw.bru.fenced ∨ e ∈ failing))))

/-- R17, R189, R513, R514, R516, R521, R528, R545, R552, R554. -/
def Obligations.SuppliesClocksAndBootBringTheModuleUp : Prop :=
  ∀ s : State,
    let bru := s.hw.bru
    let pins := s.hw.pins
    let leaves (i : Instr) : Prop := Yields i s (fun t => t = s)
    let dark (t : State) : Prop := t.hw.mem.cells = [] ∧ t.hw.mem.ecc = [] ∧ t.hw.easels = [] ∧ t.hw.ctxs.tab = [] ∧
      t.hw.ports = [] ∧ t.hw.bru.ready = false ∧ t.hw.bru.phase = 0 ∧ t.hw.bru.field = bru.field ∧
      t.hw.bru.fused = bru.fused ∧ t.hw.fwu.floorR = s.hw.fwu.floorR ∧ t.hw.fwu.floorI = s.hw.fwu.floorI ∧
      (s.hw.fwu.slot0.state ≠ 1 → t.hw.fwu.slot0 = s.hw.fwu.slot0) ∧ t.hw.tray.hours = s.hw.tray.hours
    (∀ pos rc, (pins.powered = false → Yields (.powerOn pos rc) s (fun t => dark t ∧ t.hw.pins.powered = true ∧
        t.hw.pins.refclk = rc ∧ t.hw.pins.fault = true ∧ t.hw.rte.pos = pos ∧ t.hw.bru.released = rc ∧
        t.hw.bru.porAt = s.hw.now)) ∧
      (pins.powered = true → leaves (.powerOn pos rc))) ∧
    (∀ high, (pins.powered = true → Yields (.supplyShutdown high) s (fun t => dark t ∧ t.hw.pins.powered = false)) ∧
      (pins.powered = false → leaves (.supplyShutdown high))) ∧
    (pins.powered = true → pins.refclk = true → Yields .refclkLoss s (fun t => t.hw.pins = { pins with refclk := false } ∧
      Pends t 0x004 1 ∧ t.hw.easels = s.hw.easels ∧ t.hw.mem = s.hw.mem ∧ t.hw.bru = bru)) ∧
    (pins.powered = true → pins.refclk = false →
      (bru.released = true → Yields .refclkRestore s (fun t => t.hw.pins = { pins with refclk := true } ∧
        Pends t 0x004 0 ∧ t.hw.bru = bru)) ∧
      (bru.released = false → Yields .refclkRestore s (fun t => t.hw.pins = { pins with refclk := true } ∧
        t.hw.bru = { bru with released := true, porAt := s.hw.now } ∧ t.hw.regs = s.hw.regs))) ∧
    (∀ env : BootEnv,
      (pins.powered = false ∨ bru.released = false ∨ 1 < bru.phase.toNat → leaves (.coldBoot env)) ∧
      (pins.powered = true → bru.released = true → bru.phase = 0 →
        (∀ i : BitVec 1, (s.hw.slot i).state ≠ 4 ∧ ((s.hw.slot i).state = 3 ∨ (s.hw.slot i).state = 2 →
            imageOk s.hw i = false)) → Yields (.coldBoot env) s (fun t => t.hw.bru.phase = 9 ∧ t.hw.bru.error = 6 ∧
          t.hw.pins.fault = true ∧ t.hw.pins.computeOn = false ∧ t.hw.tray.boots = s.hw.tray.boots + 1)) ∧
      (pins.powered = true → bru.released = true → bru.phase = 0 → s.hw.fwu.slot0.state = 3 →
        s.hw.fwu.slot1.state ≠ 4 → s.hw.fwu.slot0.failCount < 2 → imageOk s.hw 0 = true →
        let fails (err unit : BitVec 8) (n : BitVec 2) : Prop := Yields (.coldBoot env) s (fun t =>
          t.hw.bru.phase = 8 ∧ t.hw.bru.error = err ∧ t.hw.bru.failUnit = unit ∧ t.hw.bru.ready = bru.ready ∧
            t.hw.fwu.slot0.failCount = s.hw.fwu.slot0.failCount + n)
        let sups := env.sup0 = true ∨ env.sup1 = true
        (env.ihlelOk = false → fails 5 0 1) ∧
        (env.ihlelOk = true → ¬ sups → fails 3 0xFF 0) ∧
        (env.ihlelOk = true → sups → env.runtimeOk = false → fails 4 0 1) ∧
        (env.ihlelOk = true → sups → env.runtimeOk = true → env.bad12 = [] →
          (∀ d, env.canvasBad = some d → fails 2 (BitVec.ofNat 8 d.val) 0) ∧
          (env.canvasBad = none → Yields (.coldBoot env) s (fun t => t.hw.bru.phase = 6 ∧ t.hw.bru.error = 0 ∧
            t.hw.mem.cells = [] ∧ t.hw.mem.ecc = [] ∧ t.hw.fwu.runRuntime = 0 ∧ t.hw.pins.computeOn = true ∧
            t.hw.memctl.chUp = BitVec.allOnes 96 ∧ t.hw.sup.holder = some (if env.sup0 then 0 else 1) ∧
            ∀ e, e ∈ t.hw.bru.enabled ↔ (e ∉ bru.fused ∧ (t.hw.bru.policy = true → e ∉ bru.field ∧ e ∉ env.sodFail)) ∧
              e ∉ env.katFail))))) ∧
    (bru.phase = 6 →
      let b := bru.bootSlot
      Yields .bootReady s (fun t => t.hw.bru.phase = 7 ∧ t.hw.bru.ready = true ∧ t.hw.pins.fault = false ∧
        Pends t 0x240 (b.toNat + bru.enabled.length * 256) ∧ (t.hw.slot b).failCount = 0 ∧
        t.hw.bru.bootNs = s.hw.now - bru.porAt ∧ (bru.trialBoot = true → (t.hw.slot b).state = 3 ∧
          (t.hw.slot (1 - b)).state ≠ 3) ∧ (bru.trialBoot = false → (t.hw.slot b).state = (s.hw.slot b).state))) ∧
    (bru.phase ≠ 6 → leaves .bootReady) ∧
    (∀ r (i : BitVec 8), MayWriteReg s r .bru 0x30 →
      (bru.ready = true → Yields (.bruFieldClear r i) s (fun t => t.hw.bru = { bru with
        field := bru.field.filter (fun e => e.val != i.toNat) } ∧ t.hw.regs = s.hw.regs)) ∧
      (bru.ready = false → leaves (.bruFieldClear r i)))

/-- R522, R533 to R537, R539, R541. -/
def Obligations.UpdatesFloorsAndActivationsFollowTheirProtocol : Prop :=
  ∀ (s : State) (m : SvcHdr),
    let fwu := s.hw.fwu
    let good (n : Nat) : Prop := s.hw.pins.powered = true ∧ s.hw.bru.phase ≠ 0 ∧ m.magic = 0x5848 ∧ m.version = 1 ∧
      m.len.toNat = n
    let answers (t : State) (err : BitVec 8) : Prop := t.hw.out = s.hw.out ++ [.service m.src 0x14 m.session
      (leBytes 1 (b2n t.hw.fwu.session.isSome) ++ leBytes 1 err.toNat ++ leBytes 1 t.hw.fwu.lastSlot.toNat ++ [0] ++
        leBytes 4 t.hw.fwu.received ++ wBytes (actStatus t.hw))]
    let leaves (i : Instr) : Prop := Yields i s (fun t => t = s)
    let slotsKept (t : State) : Prop := ∀ j, t.hw.slot j = s.hw.slot j
    let floors (t : State) (i : BitVec 1) : Prop :=
      t.hw.fwu.floorR = BitVec.ofNat 16 (max fwu.floorR.toNat (s.hw.slot i).rsvn) ∧
        t.hw.fwu.floorI = BitVec.ofNat 16 (max fwu.floorI.toNat (s.hw.slot i).isvn) ∧
        ∀ j, t.hw.slot j = if (s.hw.slot j).state = 2 ∧
            ((s.hw.slot j).rsvn < max fwu.floorR.toNat (s.hw.slot i).rsvn ∨
              (s.hw.slot j).isvn < max fwu.floorI.toNat (s.hw.slot i).isvn)
          then { s.hw.slot j with state := 5 } else s.hw.slot j
    let trial (t : State) (i : BitVec 1) : Prop := t.hw.slot i = { s.hw.slot i with state := 4, trialUsed := false } ∧
      t.hw.fwu.step = 5 ∧ t.hw.fwu.actSlot = i
    let live (t : State) (i : BitVec 1) : Prop := slotsKept t ∧ t.hw.fwu.step = 1 ∧ t.hw.fwu.actSlot = i ∧
      t.hw.fwu.deadline = s.hw.now + 100000000
    let failsAct (t : State) (err : BitVec 8) : Prop := slotsKept t ∧ t.hw.fwu.step = 0 ∧ t.hw.fwu.actError = err ∧
      Pends t 0x245 err.toNat
    (∀ (header : Bytes) (i : BitVec 1), good header.length → activating s.hw = false →
      let len := leNat (sub header 16 4)
      (fwu.session = none → bit (s.hw.reg 0xB0038) 0 = true → updTarget s.hw = some i → headerError s.hw header = 0 →
        Yields (.updBegin m header) s (fun t => answers t 0 ∧
          t.hw.slot i = { FwSlot.init with state := 1, header := header } ∧ t.hw.slot (1 - i) = s.hw.slot (1 - i) ∧
          t.hw.fwu.received = 0 ∧ t.hw.fwu.session = some { id := m.session, slot := i, bodyLen := len,
                                                            last := s.hw.now })) ∧
      ((∃ u, fwu.session = some u ∧ u.id ≠ m.session) → Yields (.updBegin m header) s (fun t =>
        answers t 1 ∧ t.hw.fwu = fwu ∧ Pends t 0x245 1))) ∧
    (∀ u (off : BitVec 32) (data : Bytes) ok, good (4 + data.length) → fwu.session = some u → u.id = m.session →
      (off.toNat = fwu.received → data.length = min 1024 (u.bodyLen - fwu.received) → data ≠ [] → ok = true →
        Yields (.updData m off data ok) s (fun t => t.hw.fwu.received = fwu.received + data.length ∧
          t.hw.slot u.slot = { s.hw.slot u.slot with body := (s.hw.slot u.slot).body ++ data } ∧
          t.hw.fwu.session = some { u with last := s.hw.now })) ∧
      (off.toNat ≠ fwu.received → Yields (.updData m off data ok) s (fun t => answers t fwu.error ∧ slotsKept t ∧
        t.hw.fwu.received = fwu.received))) ∧
    (∀ u rb, good 0 → fwu.session = some u → u.id = m.session →
      (u.bodyLen ≤ fwu.received → rb = true → bodyOk (s.hw.slot u.slot).header (s.hw.slot u.slot).body = true →
        s.hw.bru.phase ≠ 9 → Yields (.updEnd m rb) s (fun t => answers t 0 ∧ t.hw.fwu.session = none ∧
          t.hw.slot u.slot = { s.hw.slot u.slot with state := 2 } ∧ Pends t 0x244 u.slot.toNat)) ∧
      (u.bodyLen ≤ fwu.received → rb = false → Yields (.updEnd m rb) s (fun t => answers t 9 ∧
        t.hw.fwu.session = none ∧ (t.hw.slot u.slot).state = 5 ∧ Pends t 0x245 9)) ∧
      (fwu.received < u.bodyLen → Yields (.updEnd m rb) s (fun t => answers t 3 ∧ slotsKept t ∧
        t.hw.fwu.session = some { u with last := s.hw.now }))) ∧
    (∀ u, good 0 → fwu.session = some u → u.id = m.session → Yields (.updAbort m) s (fun t => answers t 0 ∧
      t.hw.fwu.session = none ∧ t.hw.slot u.slot = { s.hw.slot u.slot with state := 5 })) ∧
    (∀ i, good 0 → fwu.session = none → slotIn s.hw 4 = some i → Yields (.updAbort m) s (fun t => answers t 0 ∧
      t.hw.slot i = { s.hw.slot i with state := 2, trialUsed := false })) ∧
    (good 0 → Yields (.query m) s (fun t => answers t fwu.error ∧ { t.hw with out := s.hw.out } = s.hw)) ∧
    (m.magic ≠ 0x5848 ∨ m.version ≠ 1 → leaves (.query m) ∧ ∀ a b c, leaves (.updBegin m a) ∧
      leaves (.updData m b a c) ∧ leaves (.updEnd m c) ∧ leaves (.updAbort m) ∧ leaves (.raiseFloor m)) ∧
    (∀ u, fwu.session = some u →
      (u.last + 10000000000 ≤ s.hw.now → Yields .updSessionTimeout s (fun t => t.hw.fwu.session = none ∧
        t.hw.fwu.error = 0x0B ∧ (t.hw.slot u.slot).state = 5 ∧ Pends t 0x245 0x0B)) ∧
      (s.hw.now < u.last + 10000000000 → leaves .updSessionTimeout)) ∧
    (∀ i, slotIn s.hw 3 = some i → s.hw.bru.ready = true → fwu.runRuntime = i →
      (good 0 → Yields (.raiseFloor m) s (fun t => answers t 0 ∧ floors t i)) ∧
      ∀ r, MayWriteReg s r .fwu 0x58 → Yields (.fwuRaiseFloor r) s (fun t => floors t i ∧ t.hw.out = s.hw.out)) ∧
    (s.hw.bru.ready = false → good 0 → Yields (.raiseFloor m) s (fun t => answers t 0x10 ∧ t.hw.fwu = fwu)) ∧
    (∀ i : Fin 2, let j := BitVec.ofNat 1 i.val
      (∀ mode : BitVec 8, good 2 →
        let err := activateError s.hw i.val mode.toNat
        (err = 0 → Yields (.activate m (BitVec.ofNat 8 i.val) mode) s (fun t => answers t 0 ∧
          (mode = 0 → trial t j) ∧ (mode ≠ 0 → live t j))) ∧
        (err ≠ 0 → err ≠ 1 → Yields (.activate m (BitVec.ofNat 8 i.val) mode) s (fun t =>
          answers t err ∧ failsAct t err))) ∧
      ∀ r (mode : BitVec 2), MayWriteReg s r .fwu 0x40 → activateError s.hw i.val mode.toNat = 0 →
        Yields (.fwuActivate r i mode) s (fun t => (mode = 0 → trial t j) ∧ (mode ≠ 0 → live t j))) ∧
    (fwu.step = 1 → quiescent s.hw = true → Yields .handoverQuiescent s (fun t =>
      t.hw.fwu = { fwu with step := 2, paused := true } ∧ t.hw.easels = s.hw.easels ∧ t.hw.mem = s.hw.mem)) ∧
    (fwu.step ≠ 1 → leaves .handoverQuiescent ∧ leaves .activationQuiesceTimeout) ∧
    (fwu.step = 1 → fwu.deadline ≤ s.hw.now → Yields .activationQuiesceTimeout s (fun t => failsAct t 0x0E)) ∧
    (fwu.paused = true →
      Yields (.handoverRecordRead true) s (fun t => t.hw.fwu.paused = false ∧ t.hw.fwu.runRuntime = fwu.actSlot ∧
        (t.hw.slot fwu.actSlot).state = 3 ∧ (t.hw.slot (1 - fwu.actSlot)).state ≠ 3 ∧ t.hw.sec.sessions = [] ∧
        t.hw.fwu.cpSet = !fwu.cpSet ∧ Pends t 0x246 fwu.actSlot.toNat) ∧
      Yields (.handoverRecordRead false) s (fun t => t.hw.fwu.paused = false ∧ failsAct t 0x0D)) ∧
    (∀ a, fwu.paused = false → leaves (.handoverRecordRead a))

/-- R9, R456, R559, R560, R562, R563, R567; the ICMPv6 types as log entry 103 says. -/
def Obligations.TrayInterfaceAddressesReadsWritesAndRecords : Prop :=
  ∀ s : State,
    let tray := s.hw.tray
    let on := s.hw.pins.powered = true
    let leaves (i : Instr) : Prop := Yields i s (fun t => t = s)
    (∀ st dyn : BitVec 7,
      (on → tray.dynAddr = none → st.toNat = 0x30 + s.hw.rte.pos.toNat % 4 → Yields (.setdasa st dyn) s (fun t =>
        t = { s with hw := { s.hw with tray := { tray with dynAddr := some dyn } } })) ∧
      (on → tray.dynAddr = none → Yields (.entdaa dyn) s (fun t =>
        t = { s with hw := { s.hw with tray := { tray with dynAddr := some dyn } } })) ∧
      (st.toNat ≠ 0x30 + s.hw.rte.pos.toNat % 4 → leaves (.setdasa st dyn)) ∧
      (tray.dynAddr ≠ none → leaves (.setdasa st dyn) ∧ leaves (.entdaa dyn))) ∧
    (∀ (off : BitVec 16) (data : Word),
      (on → Yields (.i3cRead off) s (fun t => { t.hw with out := s.hw.out } = s.hw ∧ t.hw.out = s.hw.out ++
        [.i3c (if off.toNat % 8 = 0 then viewReg s.hw false .tray off.toNat else 0)])) ∧
      (off.toNat % 8 ≠ 0 → leaves (.i3cWrite off data))) ∧
    (∀ data : Word, MayWriteReg s .tray .tray 0x18 → Yields (.i3cWrite 0x18 data) s (fun t =>
      wfld (t.hw.reg 0xC0018) 0 12 = max 1200 (min (if s.hw.pins.variant1800 then 1800 else 2400) (wfld data 0 12)) ∧
        bit (t.hw.reg 0xC0018) 12 = bit data 12 ∧ ∀ k, k ≠ 0xC0018 → t.hw.reg k = s.hw.reg k)) ∧
    (on → Yields .i3cLostTransaction s (fun t => Counts s t 0xC0040 1 ∧ t.hw.tray = tray)) ∧
    (let k := s.hw.ftcNow / 100000000
     let n : BitVec 6 := if tray.valid then tray.newest + 1 else 0
     (on → k ≠ tray.window → tray.unacked < 64 → Yields .telemetryRecord s (fun t =>
        SMap.find t.hw.tray.telem n.toNat = some (telemNow s.hw) ∧ t.hw.tray.newest = n ∧ t.hw.tray.valid = true ∧
        t.hw.tray.unacked = tray.unacked + 1 ∧ t.hw.tray.window = k ∧ t.hw.regs = s.hw.regs ∧
        ∀ i, i ≠ n.toNat → SMap.find t.hw.tray.telem i = SMap.find tray.telem i)) ∧
      (on → k ≠ tray.window → 64 ≤ tray.unacked → Yields .telemetryRecord s (fun t =>
        t.hw.tray.telem = tray.telem ∧ t.hw.tray.unacked = tray.unacked ∧ wfld (t.hw.reg 0xC0030) 32 32 =
          min (wfld (s.hw.reg 0xC0030) 32 32 + 1) 0xFFFFFFFF)) ∧
      (k = tray.window → leaves .telemetryRecord)) ∧
    (on → Yields .powerOnHour s (fun t =>
      t = { s with hw := { s.hw with tray := { tray with hours := tray.hours + 1 } } })) ∧
    (∀ msg : Bytes, svcPortUp s.hw = true →
      (icmpType msg = 135 → Yields (.neighbourDiscovery msg) s (fun t => ∃ c : Bytes, c.length = 2 ∧
        t.hw.out = s.hw.out ++ [.ipv6 ([136, 0] ++ c ++ [0x60, 0, 0, 0] ++ sub msg 8 16 ++ [2, 1] ++
          (leBytes 6 Config.mac.toNat).reverse)])) ∧
      (icmpType msg = 128 → Yields (.icmpv6Echo msg) s (fun t => ∃ c : Bytes, c.length = 2 ∧
        t.hw.out = s.hw.out ++ [.ipv6 ([129, 0] ++ c ++ msg.drop 4)])) ∧
      (icmpType msg ≠ 135 → leaves (.neighbourDiscovery msg)) ∧ (icmpType msg ≠ 128 → leaves (.icmpv6Echo msg))) ∧
    (s.hw.pins.powered = false → leaves .powerOnHour ∧ leaves .i3cLostTransaction ∧ leaves .telemetryRecord)

/-- The block's one sender queues its commands, first in, first out; the idle step is the model's choice (log entry 2). -/
def Obligations.StepRunsTheFrontCommand : Prop :=
  (∀ (s : State) (c : Instr) (rest : List Instr), s.pending = c :: rest →
    Machine.step s = Machine.exec c { s with pending := rest }) ∧
  (∀ s : State, s.pending = [] → ∃ t, Machine.step s = .next t ∧ t.pending = [] ∧ t.hw.now = s.hw.now + 1 ∧
    ((∀ p ∈ s.hw.easels, p.2.sb = [] ∧ p.2.ce = [] ∧ p.2.blocked = none ∧ p.2.svcBlocked = none) →
      s.hw.glz.slots = [] → s.hw.col.slots = [] → (∀ p ∈ s.hw.hif.fns, p.2.waiting = []) →
      t.hw.mem = s.hw.mem ∧ t.hw.out = s.hw.out))


/-- R9, R285, R310, R414, R513 and the reset columns of the register tables; the variant is log entry 3's choice. -/
def Obligations.ResetHoldsItsValuesAndCanonicalMemory : Prop :=
  let s := State.reset
  s.pending = [] ∧ MemInv s ∧ s.hw.mem.cells = [] ∧ s.hw.bru.phase = 0 ∧ s.hw.bru.ready = false ∧
    (∀ c, (s.hw.ctx c).state = 0) ∧ (∀ p, (s.hw.port p).state = 0) ∧ s.hw.flt.recoveries = [] ∧
    s.hw.rto = 2000000 ∧ s.hw.reg 0x70018 = 2400 ∧ s.hw.reg 0x70020 = 2400 ∧
    (∀ k, k < 16 → s.hw.reg (0x40100 + 8 * k) = 0xFFFFFFFFFFFFFFFF ∧ s.hw.reg (0x40200 + 8 * k) = 0)


/-- No command stops the block, none touches the queue, and equal memories stay equal data. -/
def Obligations.EveryStepAnswersAndKeepsMemoryCanonical : Prop :=
  ∀ s : State, MemInv s → ∃ t, Machine.step s = .next t ∧ t.pending = s.pending.tail ∧ MemInv t


/-- Tables 3-5 to 3-7, R305 and Table 10-3: no field of a word or header is lost or overlaps another. -/
def Obligations.WordsAndHeadersReadBackAsEncoded : Prop :=
  (∀ (i : Instr) (w : Word), encodeWord i = some w → ∃ e, decodeWord e w = some i) ∧
  (∀ (x : Hdr) (body tag : Bytes), x.dst < 2 ^ 10 → x.src < 2 ^ 10 → x.vc < 8 → x.circuit < 2 ^ 12 → x.typ < 16 →
    x.len < 2 ^ 12 → x.mask < 2 ^ 8 → x.origin < 4 → x.off < 2 ^ 48 → x.nonce < 2 ^ 56 →
    (mkPkt x body tag).hdr = x ∧ (mkPkt x body tag).body = body ∧ (mkPkt x body tag).tag = tag)


/-- R86 and R87: decoding faults are raised whatever the guard. -/
def Obligations.FalseGuardOnlyMovesOn : Prop :=
  ∀ (s : State) (e : EaselId) (w : Word) (i : Instr), decodeWord e w = some i → AtInstruction s e →
    ((s.hw.easel e).service = true → (s.hw.easel e).blocked = none) →
    ¬ GuardHolds (s.hw.easel e) (w.getLsbD 57) (w.extractLsb' 54 3) →
    Yields i s (fun t => MovesTo s t e ((regsOf s e).pc + 8) ∨
      (t.hw.mem = s.hw.mem ∧ (FaultsPrecisely s t e 0x31 0 w ∨ FaultsPrecisely s t e 0x32 0 w)))
end

