-- ==== Sys2Proof/Laws/Sparse.lean ====
section
/-! SUPPORT. Laws of sparse tables: reading after writing, and the canonical form. -/

namespace Sys2Proof.Machine

variable {α : Type}

@[simp] theorem SMap.get_nil (d : α) (k : Nat) : SMap.get d [] k = d := rfl

@[simp] theorem SMap.get_put_same (d : α) (m : SMap α) (k : Nat) (v : α) :
    SMap.get d (SMap.put m k v) k = v := by
  induction m with
  | nil => simp [SMap.put, SMap.get]
  | cons c m ih =>
    obtain ⟨j, w⟩ := c
    by_cases h1 : j = k
    · simp [SMap.put, SMap.get, h1]
    · by_cases h2 : k < j
      · simp [SMap.put, SMap.get, h1, h2]
      · simp [SMap.put, SMap.get, h1, h2, ih]

theorem SMap.get_put_ne (d : α) (m : SMap α) {k k' : Nat} (v : α) (h : k' ≠ k) :
    SMap.get d (SMap.put m k v) k' = SMap.get d m k' := by
  induction m with
  | nil => simp [SMap.put, SMap.get, Ne.symm h]
  | cons c m ih =>
    obtain ⟨j, w⟩ := c
    by_cases h1 : j = k
    · subst h1
      simp [SMap.put, SMap.get, Ne.symm h]
    · by_cases h2 : k < j
      · simp [SMap.put, SMap.get, h1, h2, Ne.symm h]
      · simp [SMap.put, SMap.get, h1, h2, ih]

theorem SMap.get_put (d : α) (m : SMap α) (k k' : Nat) (v : α) :
    SMap.get d (SMap.put m k v) k' = if k' = k then v else SMap.get d m k' := by
  by_cases h : k' = k
  · simp [h]
  · simp [h, SMap.get_put_ne]

theorem SMap.get_del_same (d : α) (m : SMap α) (k : Nat) : SMap.get d (SMap.del m k) k = d := by
  induction m with
  | nil => rfl
  | cons c m ih =>
    obtain ⟨j, w⟩ := c
    by_cases h : j = k
    · simpa [SMap.del, h] using ih
    · simpa [SMap.del, SMap.get, h] using ih

theorem SMap.get_del_ne (d : α) (m : SMap α) {k k' : Nat} (h : k' ≠ k) :
    SMap.get d (SMap.del m k) k' = SMap.get d m k' := by
  induction m with
  | nil => rfl
  | cons c m ih =>
    obtain ⟨j, w⟩ := c
    by_cases h1 : j = k
    · subst h1
      simpa [SMap.del, SMap.get, Ne.symm h] using ih
    · by_cases h2 : j = k'
      · simp [SMap.del, SMap.get, h2, h]
      · simpa [SMap.del, SMap.get, h1, h2] using ih

theorem SMap.get_set [DecidableEq α] (d : α) (m : SMap α) (k k' : Nat) (v : α) :
    SMap.get d (SMap.set d m k v) k' = if k' = k then v else SMap.get d m k' := by
  unfold SMap.set
  by_cases hv : v = d
  · by_cases h : k' = k
    · simp [hv, h, SMap.get_del_same]
    · simp [hv, h, SMap.get_del_ne]
  · simp [hv, SMap.get_put]

@[simp] theorem SMap.get_set_same [DecidableEq α] (d : α) (m : SMap α) (k : Nat) (v : α) :
    SMap.get d (SMap.set d m k v) k = v := by simp [SMap.get_set]

theorem SMap.get_update (d : α) (m : SMap α) (k k' : Nat) (f : α → α) :
    SMap.get d (SMap.update d m k f) k' = if k' = k then f (SMap.get d m k) else SMap.get d m k' := by
  simp [SMap.update, SMap.get_put]

/-- A table whose values are changed one by one, the default staying as it is. -/
theorem SMap.get_map (d : α) (m : SMap α) (f : α → α) (hd : f d = d) (k : Nat) :
    SMap.get d (m.map (fun p => (p.1, f p.2))) k = f (SMap.get d m k) := by
  induction m with
  | nil => simp [SMap.get, hd]
  | cons c m ih =>
    obtain ⟨j, w⟩ := c
    by_cases h : j = k
    · simp [SMap.get, h]
    · simpa [SMap.get, h] using ih

/-! ### The canonical form -/

theorem SMap.sorted_tail {c : Nat × α} {m : SMap α} (h : SMap.sorted (c :: m) = true) :
    SMap.sorted m = true := by
  cases m with
  | nil => rfl
  | cons b m =>
    obtain ⟨j, w⟩ := c
    obtain ⟨k, v⟩ := b
    simp [SMap.sorted] at h
    exact h.2

/-- In a sorted table the first key is below every later one. -/
theorem SMap.sorted_lt {j : Nat} {w : α} {m : SMap α} (h : SMap.sorted ((j, w) :: m) = true) :
    ∀ c ∈ m, j < c.1 := by
  induction m generalizing j w with
  | nil => simp
  | cons b m ih =>
    obtain ⟨k, v⟩ := b
    simp [SMap.sorted] at h
    intro c hc
    rcases List.mem_cons.mp hc with rfl | hc
    · exact h.1
    · exact Nat.lt_trans h.1 (ih h.2 c hc)

theorem SMap.sorted_cons {j : Nat} {w : α} {m : SMap α} (hm : SMap.sorted m = true)
    (h : ∀ c ∈ m, j < c.1) : SMap.sorted ((j, w) :: m) = true := by
  cases m with
  | nil => rfl
  | cons b m =>
    obtain ⟨k, v⟩ := b
    simp [SMap.sorted, hm]
    exact h (k, v) (by simp)

/-- Removing entries keeps the order. -/
theorem SMap.sorted_filter (p : Nat × α → Bool) {m : SMap α} (h : SMap.sorted m = true) :
    SMap.sorted (m.filter p) = true := by
  induction m with
  | nil => rfl
  | cons c m ih =>
    obtain ⟨j, w⟩ := c
    have ih' := ih (SMap.sorted_tail h)
    by_cases hp : p (j, w)
    · simp only [List.filter_cons, hp, if_true]
      exact SMap.sorted_cons ih' (fun c hc => SMap.sorted_lt h c (List.mem_of_mem_filter hc))
    · simpa [List.filter_cons, hp] using ih'

theorem SMap.mem_put {m : SMap α} {k : Nat} {v : α} {c : Nat × α} (h : c ∈ SMap.put m k v) :
    c = (k, v) ∨ c ∈ m := by
  induction m with
  | nil => simpa [SMap.put] using h
  | cons b m ih =>
    obtain ⟨j, w⟩ := b
    by_cases h1 : j = k
    · simp only [SMap.put, h1, if_true, List.mem_cons] at h ⊢
      tauto
    · by_cases h2 : k < j
      · simp only [SMap.put, h1, h2, if_true, if_false, List.mem_cons] at h ⊢
        tauto
      · simp only [SMap.put, h1, h2, if_false, List.mem_cons] at h ⊢
        rcases h with h | h
        · tauto
        · have := ih h
          tauto

/-- Listing a value keeps the order. -/
theorem SMap.sorted_put {m : SMap α} (k : Nat) (v : α) (h : SMap.sorted m = true) :
    SMap.sorted (SMap.put m k v) = true := by
  induction m with
  | nil => rfl
  | cons c m ih =>
    obtain ⟨j, w⟩ := c
    by_cases h1 : j = k
    · subst h1
      simp only [SMap.put, if_true]
      exact SMap.sorted_cons (SMap.sorted_tail h) (SMap.sorted_lt h)
    · by_cases h2 : k < j
      · simp only [SMap.put, h1, h2, if_true, if_false]
        exact SMap.sorted_cons h (fun c hc => by
          rcases List.mem_cons.mp hc with rfl | hc
          · exact h2
          · exact Nat.lt_trans h2 (SMap.sorted_lt h c hc))
      · simp only [SMap.put, h1, h2, if_false]
        refine SMap.sorted_cons (ih (SMap.sorted_tail h)) (fun c hc => ?_)
        rcases SMap.mem_put hc with rfl | hc
        · exact Nat.lt_of_le_of_ne (Nat.le_of_not_lt h2) h1
        · exact SMap.sorted_lt h c hc

/-- Removing entries keeps the canonical form. -/
theorem SMap.wf_filter [DecidableEq α] (d : α) (p : Nat × α → Bool) {m : SMap α}
    (h : SMap.wf d m = true) : SMap.wf d (m.filter p) = true := by
  simp only [SMap.wf, Bool.and_eq_true, List.all_eq_true] at h ⊢
  exact ⟨SMap.sorted_filter p h.1, fun c hc => h.2 c (List.mem_of_mem_filter hc)⟩

/-- Writing keeps the canonical form. -/
theorem SMap.wf_set [DecidableEq α] (d : α) {m : SMap α} (k : Nat) (v : α) (h : SMap.wf d m = true) :
    SMap.wf d (SMap.set d m k v) = true := by
  unfold SMap.set
  by_cases hv : v = d
  · simpa [hv, SMap.del] using SMap.wf_filter d (fun c => c.1 != k) h
  · simp only [hv, if_false]
    simp only [SMap.wf, Bool.and_eq_true, List.all_eq_true] at h ⊢
    refine ⟨SMap.sorted_put k v h.1, fun c hc => ?_⟩
    rcases SMap.mem_put hc with rfl | hc
    · simpa using hv
    · exact h.2 c hc

end Sys2Proof.Machine
end

