-- ==== Sys2Proof/Laws/State.lean ====
section
/-! SUPPORT. One lemma per field of the hardware per named update, true by computation: what each update leaves
alone; and what reading gives after a write. -/

namespace Sys2Proof.Machine

/-! ### Hw.setReg -/

@[simp] theorem Hw.setReg_now (h : Hw) (k : Nat) (v : Word) : (h.setReg k v).now = h.now := rfl
@[simp] theorem Hw.setReg_free (h : Hw) (k : Nat) (v : Word) : (h.setReg k v).free = h.free := rfl
@[simp] theorem Hw.setReg_easels (h : Hw) (k : Nat) (v : Word) : (h.setReg k v).easels = h.easels := rfl
@[simp] theorem Hw.setReg_mem (h : Hw) (k : Nat) (v : Word) : (h.setReg k v).mem = h.mem := rfl
@[simp] theorem Hw.setReg_sk (h : Hw) (k : Nat) (v : Word) : (h.setReg k v).sk = h.sk := rfl
@[simp] theorem Hw.setReg_memctl (h : Hw) (k : Nat) (v : Word) : (h.setReg k v).memctl = h.memctl := rfl
@[simp] theorem Hw.setReg_sync (h : Hw) (k : Nat) (v : Word) : (h.setReg k v).sync = h.sync := rfl
@[simp] theorem Hw.setReg_reqs (h : Hw) (k : Nat) (v : Word) : (h.setReg k v).reqs = h.reqs := rfl
@[simp] theorem Hw.setReg_glz (h : Hw) (k : Nat) (v : Word) : (h.setReg k v).glz = h.glz := rfl
@[simp] theorem Hw.setReg_ports (h : Hw) (k : Nat) (v : Word) : (h.setReg k v).ports = h.ports := rfl
@[simp] theorem Hw.setReg_rte (h : Hw) (k : Nat) (v : Word) : (h.setReg k v).rte = h.rte := rfl
@[simp] theorem Hw.setReg_ftc (h : Hw) (k : Nat) (v : Word) : (h.setReg k v).ftc = h.ftc := rfl
@[simp] theorem Hw.setReg_col (h : Hw) (k : Nat) (v : Word) : (h.setReg k v).col = h.col := rfl
@[simp] theorem Hw.setReg_hif (h : Hw) (k : Nat) (v : Word) : (h.setReg k v).hif = h.hif := rfl
@[simp] theorem Hw.setReg_evc (h : Hw) (k : Nat) (v : Word) : (h.setReg k v).evc = h.evc := rfl
@[simp] theorem Hw.setReg_ctxs (h : Hw) (k : Nat) (v : Word) : (h.setReg k v).ctxs = h.ctxs := rfl
@[simp] theorem Hw.setReg_sec (h : Hw) (k : Nat) (v : Word) : (h.setReg k v).sec = h.sec := rfl
@[simp] theorem Hw.setReg_flt (h : Hw) (k : Nat) (v : Word) : (h.setReg k v).flt = h.flt := rfl
@[simp] theorem Hw.setReg_pwr (h : Hw) (k : Nat) (v : Word) : (h.setReg k v).pwr = h.pwr := rfl
@[simp] theorem Hw.setReg_thm (h : Hw) (k : Nat) (v : Word) : (h.setReg k v).thm = h.thm := rfl
@[simp] theorem Hw.setReg_sup (h : Hw) (k : Nat) (v : Word) : (h.setReg k v).sup = h.sup := rfl
@[simp] theorem Hw.setReg_bru (h : Hw) (k : Nat) (v : Word) : (h.setReg k v).bru = h.bru := rfl
@[simp] theorem Hw.setReg_fwu (h : Hw) (k : Nat) (v : Word) : (h.setReg k v).fwu = h.fwu := rfl
@[simp] theorem Hw.setReg_tray (h : Hw) (k : Nat) (v : Word) : (h.setReg k v).tray = h.tray := rfl
@[simp] theorem Hw.setReg_pins (h : Hw) (k : Nat) (v : Word) : (h.setReg k v).pins = h.pins := rfl
@[simp] theorem Hw.setReg_out (h : Hw) (k : Nat) (v : Word) : (h.setReg k v).out = h.out := rfl

/-! ### Hw.count -/

@[simp] theorem Hw.count_now (h : Hw) (k n : Nat) : (h.count k n).now = h.now := rfl
@[simp] theorem Hw.count_free (h : Hw) (k n : Nat) : (h.count k n).free = h.free := rfl
@[simp] theorem Hw.count_easels (h : Hw) (k n : Nat) : (h.count k n).easels = h.easels := rfl
@[simp] theorem Hw.count_mem (h : Hw) (k n : Nat) : (h.count k n).mem = h.mem := rfl
@[simp] theorem Hw.count_sk (h : Hw) (k n : Nat) : (h.count k n).sk = h.sk := rfl
@[simp] theorem Hw.count_memctl (h : Hw) (k n : Nat) : (h.count k n).memctl = h.memctl := rfl
@[simp] theorem Hw.count_sync (h : Hw) (k n : Nat) : (h.count k n).sync = h.sync := rfl
@[simp] theorem Hw.count_reqs (h : Hw) (k n : Nat) : (h.count k n).reqs = h.reqs := rfl
@[simp] theorem Hw.count_glz (h : Hw) (k n : Nat) : (h.count k n).glz = h.glz := rfl
@[simp] theorem Hw.count_ports (h : Hw) (k n : Nat) : (h.count k n).ports = h.ports := rfl
@[simp] theorem Hw.count_rte (h : Hw) (k n : Nat) : (h.count k n).rte = h.rte := rfl
@[simp] theorem Hw.count_ftc (h : Hw) (k n : Nat) : (h.count k n).ftc = h.ftc := rfl
@[simp] theorem Hw.count_col (h : Hw) (k n : Nat) : (h.count k n).col = h.col := rfl
@[simp] theorem Hw.count_hif (h : Hw) (k n : Nat) : (h.count k n).hif = h.hif := rfl
@[simp] theorem Hw.count_evc (h : Hw) (k n : Nat) : (h.count k n).evc = h.evc := rfl
@[simp] theorem Hw.count_ctxs (h : Hw) (k n : Nat) : (h.count k n).ctxs = h.ctxs := rfl
@[simp] theorem Hw.count_sec (h : Hw) (k n : Nat) : (h.count k n).sec = h.sec := rfl
@[simp] theorem Hw.count_flt (h : Hw) (k n : Nat) : (h.count k n).flt = h.flt := rfl
@[simp] theorem Hw.count_pwr (h : Hw) (k n : Nat) : (h.count k n).pwr = h.pwr := rfl
@[simp] theorem Hw.count_thm (h : Hw) (k n : Nat) : (h.count k n).thm = h.thm := rfl
@[simp] theorem Hw.count_sup (h : Hw) (k n : Nat) : (h.count k n).sup = h.sup := rfl
@[simp] theorem Hw.count_bru (h : Hw) (k n : Nat) : (h.count k n).bru = h.bru := rfl
@[simp] theorem Hw.count_fwu (h : Hw) (k n : Nat) : (h.count k n).fwu = h.fwu := rfl
@[simp] theorem Hw.count_tray (h : Hw) (k n : Nat) : (h.count k n).tray = h.tray := rfl
@[simp] theorem Hw.count_pins (h : Hw) (k n : Nat) : (h.count k n).pins = h.pins := rfl
@[simp] theorem Hw.count_out (h : Hw) (k n : Nat) : (h.count k n).out = h.out := rfl

/-! ### Hw.countWrap -/

@[simp] theorem Hw.countWrap_now (h : Hw) (k n : Nat) : (h.countWrap k n).now = h.now := rfl
@[simp] theorem Hw.countWrap_free (h : Hw) (k n : Nat) : (h.countWrap k n).free = h.free := rfl
@[simp] theorem Hw.countWrap_easels (h : Hw) (k n : Nat) : (h.countWrap k n).easels = h.easels := rfl
@[simp] theorem Hw.countWrap_mem (h : Hw) (k n : Nat) : (h.countWrap k n).mem = h.mem := rfl
@[simp] theorem Hw.countWrap_sk (h : Hw) (k n : Nat) : (h.countWrap k n).sk = h.sk := rfl
@[simp] theorem Hw.countWrap_memctl (h : Hw) (k n : Nat) : (h.countWrap k n).memctl = h.memctl := rfl
@[simp] theorem Hw.countWrap_sync (h : Hw) (k n : Nat) : (h.countWrap k n).sync = h.sync := rfl
@[simp] theorem Hw.countWrap_reqs (h : Hw) (k n : Nat) : (h.countWrap k n).reqs = h.reqs := rfl
@[simp] theorem Hw.countWrap_glz (h : Hw) (k n : Nat) : (h.countWrap k n).glz = h.glz := rfl
@[simp] theorem Hw.countWrap_ports (h : Hw) (k n : Nat) : (h.countWrap k n).ports = h.ports := rfl
@[simp] theorem Hw.countWrap_rte (h : Hw) (k n : Nat) : (h.countWrap k n).rte = h.rte := rfl
@[simp] theorem Hw.countWrap_ftc (h : Hw) (k n : Nat) : (h.countWrap k n).ftc = h.ftc := rfl
@[simp] theorem Hw.countWrap_col (h : Hw) (k n : Nat) : (h.countWrap k n).col = h.col := rfl
@[simp] theorem Hw.countWrap_hif (h : Hw) (k n : Nat) : (h.countWrap k n).hif = h.hif := rfl
@[simp] theorem Hw.countWrap_evc (h : Hw) (k n : Nat) : (h.countWrap k n).evc = h.evc := rfl
@[simp] theorem Hw.countWrap_ctxs (h : Hw) (k n : Nat) : (h.countWrap k n).ctxs = h.ctxs := rfl
@[simp] theorem Hw.countWrap_sec (h : Hw) (k n : Nat) : (h.countWrap k n).sec = h.sec := rfl
@[simp] theorem Hw.countWrap_flt (h : Hw) (k n : Nat) : (h.countWrap k n).flt = h.flt := rfl
@[simp] theorem Hw.countWrap_pwr (h : Hw) (k n : Nat) : (h.countWrap k n).pwr = h.pwr := rfl
@[simp] theorem Hw.countWrap_thm (h : Hw) (k n : Nat) : (h.countWrap k n).thm = h.thm := rfl
@[simp] theorem Hw.countWrap_sup (h : Hw) (k n : Nat) : (h.countWrap k n).sup = h.sup := rfl
@[simp] theorem Hw.countWrap_bru (h : Hw) (k n : Nat) : (h.countWrap k n).bru = h.bru := rfl
@[simp] theorem Hw.countWrap_fwu (h : Hw) (k n : Nat) : (h.countWrap k n).fwu = h.fwu := rfl
@[simp] theorem Hw.countWrap_tray (h : Hw) (k n : Nat) : (h.countWrap k n).tray = h.tray := rfl
@[simp] theorem Hw.countWrap_pins (h : Hw) (k n : Nat) : (h.countWrap k n).pins = h.pins := rfl
@[simp] theorem Hw.countWrap_out (h : Hw) (k n : Nat) : (h.countWrap k n).out = h.out := rfl

/-! ### Hw.useFree -/

@[simp] theorem Hw.useFree_now (h : Hw) : h.useFree.now = h.now := rfl
@[simp] theorem Hw.useFree_regs (h : Hw) : h.useFree.regs = h.regs := rfl
@[simp] theorem Hw.useFree_easels (h : Hw) : h.useFree.easels = h.easels := rfl
@[simp] theorem Hw.useFree_mem (h : Hw) : h.useFree.mem = h.mem := rfl
@[simp] theorem Hw.useFree_sk (h : Hw) : h.useFree.sk = h.sk := rfl
@[simp] theorem Hw.useFree_memctl (h : Hw) : h.useFree.memctl = h.memctl := rfl
@[simp] theorem Hw.useFree_sync (h : Hw) : h.useFree.sync = h.sync := rfl
@[simp] theorem Hw.useFree_reqs (h : Hw) : h.useFree.reqs = h.reqs := rfl
@[simp] theorem Hw.useFree_glz (h : Hw) : h.useFree.glz = h.glz := rfl
@[simp] theorem Hw.useFree_ports (h : Hw) : h.useFree.ports = h.ports := rfl
@[simp] theorem Hw.useFree_rte (h : Hw) : h.useFree.rte = h.rte := rfl
@[simp] theorem Hw.useFree_ftc (h : Hw) : h.useFree.ftc = h.ftc := rfl
@[simp] theorem Hw.useFree_col (h : Hw) : h.useFree.col = h.col := rfl
@[simp] theorem Hw.useFree_hif (h : Hw) : h.useFree.hif = h.hif := rfl
@[simp] theorem Hw.useFree_evc (h : Hw) : h.useFree.evc = h.evc := rfl
@[simp] theorem Hw.useFree_ctxs (h : Hw) : h.useFree.ctxs = h.ctxs := rfl
@[simp] theorem Hw.useFree_sec (h : Hw) : h.useFree.sec = h.sec := rfl
@[simp] theorem Hw.useFree_flt (h : Hw) : h.useFree.flt = h.flt := rfl
@[simp] theorem Hw.useFree_pwr (h : Hw) : h.useFree.pwr = h.pwr := rfl
@[simp] theorem Hw.useFree_thm (h : Hw) : h.useFree.thm = h.thm := rfl
@[simp] theorem Hw.useFree_sup (h : Hw) : h.useFree.sup = h.sup := rfl
@[simp] theorem Hw.useFree_bru (h : Hw) : h.useFree.bru = h.bru := rfl
@[simp] theorem Hw.useFree_fwu (h : Hw) : h.useFree.fwu = h.fwu := rfl
@[simp] theorem Hw.useFree_tray (h : Hw) : h.useFree.tray = h.tray := rfl
@[simp] theorem Hw.useFree_pins (h : Hw) : h.useFree.pins = h.pins := rfl
@[simp] theorem Hw.useFree_out (h : Hw) : h.useFree.out = h.out := rfl

/-! ### Hw.emit -/

@[simp] theorem Hw.emit_now (h : Hw) (o : Out) : (h.emit o).now = h.now := rfl
@[simp] theorem Hw.emit_free (h : Hw) (o : Out) : (h.emit o).free = h.free := rfl
@[simp] theorem Hw.emit_regs (h : Hw) (o : Out) : (h.emit o).regs = h.regs := rfl
@[simp] theorem Hw.emit_easels (h : Hw) (o : Out) : (h.emit o).easels = h.easels := rfl
@[simp] theorem Hw.emit_mem (h : Hw) (o : Out) : (h.emit o).mem = h.mem := rfl
@[simp] theorem Hw.emit_sk (h : Hw) (o : Out) : (h.emit o).sk = h.sk := rfl
@[simp] theorem Hw.emit_memctl (h : Hw) (o : Out) : (h.emit o).memctl = h.memctl := rfl
@[simp] theorem Hw.emit_sync (h : Hw) (o : Out) : (h.emit o).sync = h.sync := rfl
@[simp] theorem Hw.emit_reqs (h : Hw) (o : Out) : (h.emit o).reqs = h.reqs := rfl
@[simp] theorem Hw.emit_glz (h : Hw) (o : Out) : (h.emit o).glz = h.glz := rfl
@[simp] theorem Hw.emit_ports (h : Hw) (o : Out) : (h.emit o).ports = h.ports := rfl
@[simp] theorem Hw.emit_rte (h : Hw) (o : Out) : (h.emit o).rte = h.rte := rfl
@[simp] theorem Hw.emit_ftc (h : Hw) (o : Out) : (h.emit o).ftc = h.ftc := rfl
@[simp] theorem Hw.emit_col (h : Hw) (o : Out) : (h.emit o).col = h.col := rfl
@[simp] theorem Hw.emit_hif (h : Hw) (o : Out) : (h.emit o).hif = h.hif := rfl
@[simp] theorem Hw.emit_evc (h : Hw) (o : Out) : (h.emit o).evc = h.evc := rfl
@[simp] theorem Hw.emit_ctxs (h : Hw) (o : Out) : (h.emit o).ctxs = h.ctxs := rfl
@[simp] theorem Hw.emit_sec (h : Hw) (o : Out) : (h.emit o).sec = h.sec := rfl
@[simp] theorem Hw.emit_flt (h : Hw) (o : Out) : (h.emit o).flt = h.flt := rfl
@[simp] theorem Hw.emit_pwr (h : Hw) (o : Out) : (h.emit o).pwr = h.pwr := rfl
@[simp] theorem Hw.emit_thm (h : Hw) (o : Out) : (h.emit o).thm = h.thm := rfl
@[simp] theorem Hw.emit_sup (h : Hw) (o : Out) : (h.emit o).sup = h.sup := rfl
@[simp] theorem Hw.emit_bru (h : Hw) (o : Out) : (h.emit o).bru = h.bru := rfl
@[simp] theorem Hw.emit_fwu (h : Hw) (o : Out) : (h.emit o).fwu = h.fwu := rfl
@[simp] theorem Hw.emit_tray (h : Hw) (o : Out) : (h.emit o).tray = h.tray := rfl
@[simp] theorem Hw.emit_pins (h : Hw) (o : Out) : (h.emit o).pins = h.pins := rfl

/-! ### raiseEv -/

@[simp] theorem raiseEv_now (h : Hw) (s p : Nat) (d : List Word) : (raiseEv h s p d).now = h.now := rfl
@[simp] theorem raiseEv_free (h : Hw) (s p : Nat) (d : List Word) : (raiseEv h s p d).free = h.free := rfl
@[simp] theorem raiseEv_easels (h : Hw) (s p : Nat) (d : List Word) : (raiseEv h s p d).easels = h.easels := rfl
@[simp] theorem raiseEv_mem (h : Hw) (s p : Nat) (d : List Word) : (raiseEv h s p d).mem = h.mem := rfl
@[simp] theorem raiseEv_sk (h : Hw) (s p : Nat) (d : List Word) : (raiseEv h s p d).sk = h.sk := rfl
@[simp] theorem raiseEv_memctl (h : Hw) (s p : Nat) (d : List Word) : (raiseEv h s p d).memctl = h.memctl := rfl
@[simp] theorem raiseEv_sync (h : Hw) (s p : Nat) (d : List Word) : (raiseEv h s p d).sync = h.sync := rfl
@[simp] theorem raiseEv_reqs (h : Hw) (s p : Nat) (d : List Word) : (raiseEv h s p d).reqs = h.reqs := rfl
@[simp] theorem raiseEv_glz (h : Hw) (s p : Nat) (d : List Word) : (raiseEv h s p d).glz = h.glz := rfl
@[simp] theorem raiseEv_ports (h : Hw) (s p : Nat) (d : List Word) : (raiseEv h s p d).ports = h.ports := rfl
@[simp] theorem raiseEv_rte (h : Hw) (s p : Nat) (d : List Word) : (raiseEv h s p d).rte = h.rte := rfl
@[simp] theorem raiseEv_ftc (h : Hw) (s p : Nat) (d : List Word) : (raiseEv h s p d).ftc = h.ftc := rfl
@[simp] theorem raiseEv_col (h : Hw) (s p : Nat) (d : List Word) : (raiseEv h s p d).col = h.col := rfl
@[simp] theorem raiseEv_hif (h : Hw) (s p : Nat) (d : List Word) : (raiseEv h s p d).hif = h.hif := rfl
@[simp] theorem raiseEv_ctxs (h : Hw) (s p : Nat) (d : List Word) : (raiseEv h s p d).ctxs = h.ctxs := rfl
@[simp] theorem raiseEv_sec (h : Hw) (s p : Nat) (d : List Word) : (raiseEv h s p d).sec = h.sec := rfl
@[simp] theorem raiseEv_flt (h : Hw) (s p : Nat) (d : List Word) : (raiseEv h s p d).flt = h.flt := rfl
@[simp] theorem raiseEv_pwr (h : Hw) (s p : Nat) (d : List Word) : (raiseEv h s p d).pwr = h.pwr := rfl
@[simp] theorem raiseEv_thm (h : Hw) (s p : Nat) (d : List Word) : (raiseEv h s p d).thm = h.thm := rfl
@[simp] theorem raiseEv_sup (h : Hw) (s p : Nat) (d : List Word) : (raiseEv h s p d).sup = h.sup := rfl
@[simp] theorem raiseEv_bru (h : Hw) (s p : Nat) (d : List Word) : (raiseEv h s p d).bru = h.bru := rfl
@[simp] theorem raiseEv_fwu (h : Hw) (s p : Nat) (d : List Word) : (raiseEv h s p d).fwu = h.fwu := rfl
@[simp] theorem raiseEv_tray (h : Hw) (s p : Nat) (d : List Word) : (raiseEv h s p d).tray = h.tray := rfl
@[simp] theorem raiseEv_pins (h : Hw) (s p : Nat) (d : List Word) : (raiseEv h s p d).pins = h.pins := rfl
@[simp] theorem raiseEv_out (h : Hw) (s p : Nat) (d : List Word) : (raiseEv h s p d).out = h.out := rfl

/-! ### raiseFor -/

@[simp] theorem raiseFor_now (h : Hw) (s k p : Nat) (d : List Word) : (raiseFor h s k p d).now = h.now := rfl
@[simp] theorem raiseFor_free (h : Hw) (s k p : Nat) (d : List Word) : (raiseFor h s k p d).free = h.free := rfl
@[simp] theorem raiseFor_easels (h : Hw) (s k p : Nat) (d : List Word) : (raiseFor h s k p d).easels = h.easels := rfl
@[simp] theorem raiseFor_mem (h : Hw) (s k p : Nat) (d : List Word) : (raiseFor h s k p d).mem = h.mem := rfl
@[simp] theorem raiseFor_sk (h : Hw) (s k p : Nat) (d : List Word) : (raiseFor h s k p d).sk = h.sk := rfl
@[simp] theorem raiseFor_memctl (h : Hw) (s k p : Nat) (d : List Word) : (raiseFor h s k p d).memctl = h.memctl := rfl
@[simp] theorem raiseFor_sync (h : Hw) (s k p : Nat) (d : List Word) : (raiseFor h s k p d).sync = h.sync := rfl
@[simp] theorem raiseFor_reqs (h : Hw) (s k p : Nat) (d : List Word) : (raiseFor h s k p d).reqs = h.reqs := rfl
@[simp] theorem raiseFor_glz (h : Hw) (s k p : Nat) (d : List Word) : (raiseFor h s k p d).glz = h.glz := rfl
@[simp] theorem raiseFor_ports (h : Hw) (s k p : Nat) (d : List Word) : (raiseFor h s k p d).ports = h.ports := rfl
@[simp] theorem raiseFor_rte (h : Hw) (s k p : Nat) (d : List Word) : (raiseFor h s k p d).rte = h.rte := rfl
@[simp] theorem raiseFor_ftc (h : Hw) (s k p : Nat) (d : List Word) : (raiseFor h s k p d).ftc = h.ftc := rfl
@[simp] theorem raiseFor_col (h : Hw) (s k p : Nat) (d : List Word) : (raiseFor h s k p d).col = h.col := rfl
@[simp] theorem raiseFor_hif (h : Hw) (s k p : Nat) (d : List Word) : (raiseFor h s k p d).hif = h.hif := rfl
@[simp] theorem raiseFor_ctxs (h : Hw) (s k p : Nat) (d : List Word) : (raiseFor h s k p d).ctxs = h.ctxs := rfl
@[simp] theorem raiseFor_sec (h : Hw) (s k p : Nat) (d : List Word) : (raiseFor h s k p d).sec = h.sec := rfl
@[simp] theorem raiseFor_flt (h : Hw) (s k p : Nat) (d : List Word) : (raiseFor h s k p d).flt = h.flt := rfl
@[simp] theorem raiseFor_pwr (h : Hw) (s k p : Nat) (d : List Word) : (raiseFor h s k p d).pwr = h.pwr := rfl
@[simp] theorem raiseFor_thm (h : Hw) (s k p : Nat) (d : List Word) : (raiseFor h s k p d).thm = h.thm := rfl
@[simp] theorem raiseFor_sup (h : Hw) (s k p : Nat) (d : List Word) : (raiseFor h s k p d).sup = h.sup := rfl
@[simp] theorem raiseFor_bru (h : Hw) (s k p : Nat) (d : List Word) : (raiseFor h s k p d).bru = h.bru := rfl
@[simp] theorem raiseFor_fwu (h : Hw) (s k p : Nat) (d : List Word) : (raiseFor h s k p d).fwu = h.fwu := rfl
@[simp] theorem raiseFor_tray (h : Hw) (s k p : Nat) (d : List Word) : (raiseFor h s k p d).tray = h.tray := rfl
@[simp] theorem raiseFor_pins (h : Hw) (s k p : Nat) (d : List Word) : (raiseFor h s k p d).pins = h.pins := rfl
@[simp] theorem raiseFor_out (h : Hw) (s k p : Nat) (d : List Word) : (raiseFor h s k p d).out = h.out := rfl

/-! ### raiseCtx -/

@[simp] theorem raiseCtx_now (h : Hw) (s : Nat) (c : CtxId) (p : Nat) (d : List Word) : (raiseCtx h s c p d).now = h.now := rfl
@[simp] theorem raiseCtx_free (h : Hw) (s : Nat) (c : CtxId) (p : Nat) (d : List Word) : (raiseCtx h s c p d).free = h.free := rfl
@[simp] theorem raiseCtx_easels (h : Hw) (s : Nat) (c : CtxId) (p : Nat) (d : List Word) : (raiseCtx h s c p d).easels = h.easels := rfl
@[simp] theorem raiseCtx_mem (h : Hw) (s : Nat) (c : CtxId) (p : Nat) (d : List Word) : (raiseCtx h s c p d).mem = h.mem := rfl
@[simp] theorem raiseCtx_sk (h : Hw) (s : Nat) (c : CtxId) (p : Nat) (d : List Word) : (raiseCtx h s c p d).sk = h.sk := rfl
@[simp] theorem raiseCtx_memctl (h : Hw) (s : Nat) (c : CtxId) (p : Nat) (d : List Word) : (raiseCtx h s c p d).memctl = h.memctl := rfl
@[simp] theorem raiseCtx_sync (h : Hw) (s : Nat) (c : CtxId) (p : Nat) (d : List Word) : (raiseCtx h s c p d).sync = h.sync := rfl
@[simp] theorem raiseCtx_reqs (h : Hw) (s : Nat) (c : CtxId) (p : Nat) (d : List Word) : (raiseCtx h s c p d).reqs = h.reqs := rfl
@[simp] theorem raiseCtx_glz (h : Hw) (s : Nat) (c : CtxId) (p : Nat) (d : List Word) : (raiseCtx h s c p d).glz = h.glz := rfl
@[simp] theorem raiseCtx_ports (h : Hw) (s : Nat) (c : CtxId) (p : Nat) (d : List Word) : (raiseCtx h s c p d).ports = h.ports := rfl
@[simp] theorem raiseCtx_rte (h : Hw) (s : Nat) (c : CtxId) (p : Nat) (d : List Word) : (raiseCtx h s c p d).rte = h.rte := rfl
@[simp] theorem raiseCtx_ftc (h : Hw) (s : Nat) (c : CtxId) (p : Nat) (d : List Word) : (raiseCtx h s c p d).ftc = h.ftc := rfl
@[simp] theorem raiseCtx_col (h : Hw) (s : Nat) (c : CtxId) (p : Nat) (d : List Word) : (raiseCtx h s c p d).col = h.col := rfl
@[simp] theorem raiseCtx_hif (h : Hw) (s : Nat) (c : CtxId) (p : Nat) (d : List Word) : (raiseCtx h s c p d).hif = h.hif := rfl
@[simp] theorem raiseCtx_ctxs (h : Hw) (s : Nat) (c : CtxId) (p : Nat) (d : List Word) : (raiseCtx h s c p d).ctxs = h.ctxs := rfl
@[simp] theorem raiseCtx_sec (h : Hw) (s : Nat) (c : CtxId) (p : Nat) (d : List Word) : (raiseCtx h s c p d).sec = h.sec := rfl
@[simp] theorem raiseCtx_flt (h : Hw) (s : Nat) (c : CtxId) (p : Nat) (d : List Word) : (raiseCtx h s c p d).flt = h.flt := rfl
@[simp] theorem raiseCtx_pwr (h : Hw) (s : Nat) (c : CtxId) (p : Nat) (d : List Word) : (raiseCtx h s c p d).pwr = h.pwr := rfl
@[simp] theorem raiseCtx_thm (h : Hw) (s : Nat) (c : CtxId) (p : Nat) (d : List Word) : (raiseCtx h s c p d).thm = h.thm := rfl
@[simp] theorem raiseCtx_sup (h : Hw) (s : Nat) (c : CtxId) (p : Nat) (d : List Word) : (raiseCtx h s c p d).sup = h.sup := rfl
@[simp] theorem raiseCtx_bru (h : Hw) (s : Nat) (c : CtxId) (p : Nat) (d : List Word) : (raiseCtx h s c p d).bru = h.bru := rfl
@[simp] theorem raiseCtx_fwu (h : Hw) (s : Nat) (c : CtxId) (p : Nat) (d : List Word) : (raiseCtx h s c p d).fwu = h.fwu := rfl
@[simp] theorem raiseCtx_tray (h : Hw) (s : Nat) (c : CtxId) (p : Nat) (d : List Word) : (raiseCtx h s c p d).tray = h.tray := rfl
@[simp] theorem raiseCtx_pins (h : Hw) (s : Nat) (c : CtxId) (p : Nat) (d : List Word) : (raiseCtx h s c p d).pins = h.pins := rfl
@[simp] theorem raiseCtx_out (h : Hw) (s : Nat) (c : CtxId) (p : Nat) (d : List Word) : (raiseCtx h s c p d).out = h.out := rfl

/-! ### Hw.setEasel -/

@[simp] theorem Hw.setEasel_now (h : Hw) (e : EaselId) (x : Easel) : (h.setEasel e x).now = h.now := rfl
@[simp] theorem Hw.setEasel_free (h : Hw) (e : EaselId) (x : Easel) : (h.setEasel e x).free = h.free := rfl
@[simp] theorem Hw.setEasel_regs (h : Hw) (e : EaselId) (x : Easel) : (h.setEasel e x).regs = h.regs := rfl
@[simp] theorem Hw.setEasel_mem (h : Hw) (e : EaselId) (x : Easel) : (h.setEasel e x).mem = h.mem := rfl
@[simp] theorem Hw.setEasel_sk (h : Hw) (e : EaselId) (x : Easel) : (h.setEasel e x).sk = h.sk := rfl
@[simp] theorem Hw.setEasel_memctl (h : Hw) (e : EaselId) (x : Easel) : (h.setEasel e x).memctl = h.memctl := rfl
@[simp] theorem Hw.setEasel_sync (h : Hw) (e : EaselId) (x : Easel) : (h.setEasel e x).sync = h.sync := rfl
@[simp] theorem Hw.setEasel_reqs (h : Hw) (e : EaselId) (x : Easel) : (h.setEasel e x).reqs = h.reqs := rfl
@[simp] theorem Hw.setEasel_glz (h : Hw) (e : EaselId) (x : Easel) : (h.setEasel e x).glz = h.glz := rfl
@[simp] theorem Hw.setEasel_ports (h : Hw) (e : EaselId) (x : Easel) : (h.setEasel e x).ports = h.ports := rfl
@[simp] theorem Hw.setEasel_rte (h : Hw) (e : EaselId) (x : Easel) : (h.setEasel e x).rte = h.rte := rfl
@[simp] theorem Hw.setEasel_ftc (h : Hw) (e : EaselId) (x : Easel) : (h.setEasel e x).ftc = h.ftc := rfl
@[simp] theorem Hw.setEasel_col (h : Hw) (e : EaselId) (x : Easel) : (h.setEasel e x).col = h.col := rfl
@[simp] theorem Hw.setEasel_hif (h : Hw) (e : EaselId) (x : Easel) : (h.setEasel e x).hif = h.hif := rfl
@[simp] theorem Hw.setEasel_evc (h : Hw) (e : EaselId) (x : Easel) : (h.setEasel e x).evc = h.evc := rfl
@[simp] theorem Hw.setEasel_ctxs (h : Hw) (e : EaselId) (x : Easel) : (h.setEasel e x).ctxs = h.ctxs := rfl
@[simp] theorem Hw.setEasel_sec (h : Hw) (e : EaselId) (x : Easel) : (h.setEasel e x).sec = h.sec := rfl
@[simp] theorem Hw.setEasel_flt (h : Hw) (e : EaselId) (x : Easel) : (h.setEasel e x).flt = h.flt := rfl
@[simp] theorem Hw.setEasel_pwr (h : Hw) (e : EaselId) (x : Easel) : (h.setEasel e x).pwr = h.pwr := rfl
@[simp] theorem Hw.setEasel_thm (h : Hw) (e : EaselId) (x : Easel) : (h.setEasel e x).thm = h.thm := rfl
@[simp] theorem Hw.setEasel_sup (h : Hw) (e : EaselId) (x : Easel) : (h.setEasel e x).sup = h.sup := rfl
@[simp] theorem Hw.setEasel_bru (h : Hw) (e : EaselId) (x : Easel) : (h.setEasel e x).bru = h.bru := rfl
@[simp] theorem Hw.setEasel_fwu (h : Hw) (e : EaselId) (x : Easel) : (h.setEasel e x).fwu = h.fwu := rfl
@[simp] theorem Hw.setEasel_tray (h : Hw) (e : EaselId) (x : Easel) : (h.setEasel e x).tray = h.tray := rfl
@[simp] theorem Hw.setEasel_pins (h : Hw) (e : EaselId) (x : Easel) : (h.setEasel e x).pins = h.pins := rfl
@[simp] theorem Hw.setEasel_out (h : Hw) (e : EaselId) (x : Easel) : (h.setEasel e x).out = h.out := rfl

/-! ### Hw.modEasel -/

@[simp] theorem Hw.modEasel_now (h : Hw) (e : EaselId) (f : Easel → Easel) : (h.modEasel e f).now = h.now := rfl
@[simp] theorem Hw.modEasel_free (h : Hw) (e : EaselId) (f : Easel → Easel) : (h.modEasel e f).free = h.free := rfl
@[simp] theorem Hw.modEasel_regs (h : Hw) (e : EaselId) (f : Easel → Easel) : (h.modEasel e f).regs = h.regs := rfl
@[simp] theorem Hw.modEasel_mem (h : Hw) (e : EaselId) (f : Easel → Easel) : (h.modEasel e f).mem = h.mem := rfl
@[simp] theorem Hw.modEasel_sk (h : Hw) (e : EaselId) (f : Easel → Easel) : (h.modEasel e f).sk = h.sk := rfl
@[simp] theorem Hw.modEasel_memctl (h : Hw) (e : EaselId) (f : Easel → Easel) : (h.modEasel e f).memctl = h.memctl := rfl
@[simp] theorem Hw.modEasel_sync (h : Hw) (e : EaselId) (f : Easel → Easel) : (h.modEasel e f).sync = h.sync := rfl
@[simp] theorem Hw.modEasel_reqs (h : Hw) (e : EaselId) (f : Easel → Easel) : (h.modEasel e f).reqs = h.reqs := rfl
@[simp] theorem Hw.modEasel_glz (h : Hw) (e : EaselId) (f : Easel → Easel) : (h.modEasel e f).glz = h.glz := rfl
@[simp] theorem Hw.modEasel_ports (h : Hw) (e : EaselId) (f : Easel → Easel) : (h.modEasel e f).ports = h.ports := rfl
@[simp] theorem Hw.modEasel_rte (h : Hw) (e : EaselId) (f : Easel → Easel) : (h.modEasel e f).rte = h.rte := rfl
@[simp] theorem Hw.modEasel_ftc (h : Hw) (e : EaselId) (f : Easel → Easel) : (h.modEasel e f).ftc = h.ftc := rfl
@[simp] theorem Hw.modEasel_col (h : Hw) (e : EaselId) (f : Easel → Easel) : (h.modEasel e f).col = h.col := rfl
@[simp] theorem Hw.modEasel_hif (h : Hw) (e : EaselId) (f : Easel → Easel) : (h.modEasel e f).hif = h.hif := rfl
@[simp] theorem Hw.modEasel_evc (h : Hw) (e : EaselId) (f : Easel → Easel) : (h.modEasel e f).evc = h.evc := rfl
@[simp] theorem Hw.modEasel_ctxs (h : Hw) (e : EaselId) (f : Easel → Easel) : (h.modEasel e f).ctxs = h.ctxs := rfl
@[simp] theorem Hw.modEasel_sec (h : Hw) (e : EaselId) (f : Easel → Easel) : (h.modEasel e f).sec = h.sec := rfl
@[simp] theorem Hw.modEasel_flt (h : Hw) (e : EaselId) (f : Easel → Easel) : (h.modEasel e f).flt = h.flt := rfl
@[simp] theorem Hw.modEasel_pwr (h : Hw) (e : EaselId) (f : Easel → Easel) : (h.modEasel e f).pwr = h.pwr := rfl
@[simp] theorem Hw.modEasel_thm (h : Hw) (e : EaselId) (f : Easel → Easel) : (h.modEasel e f).thm = h.thm := rfl
@[simp] theorem Hw.modEasel_sup (h : Hw) (e : EaselId) (f : Easel → Easel) : (h.modEasel e f).sup = h.sup := rfl
@[simp] theorem Hw.modEasel_bru (h : Hw) (e : EaselId) (f : Easel → Easel) : (h.modEasel e f).bru = h.bru := rfl
@[simp] theorem Hw.modEasel_fwu (h : Hw) (e : EaselId) (f : Easel → Easel) : (h.modEasel e f).fwu = h.fwu := rfl
@[simp] theorem Hw.modEasel_tray (h : Hw) (e : EaselId) (f : Easel → Easel) : (h.modEasel e f).tray = h.tray := rfl
@[simp] theorem Hw.modEasel_pins (h : Hw) (e : EaselId) (f : Easel → Easel) : (h.modEasel e f).pins = h.pins := rfl
@[simp] theorem Hw.modEasel_out (h : Hw) (e : EaselId) (f : Easel → Easel) : (h.modEasel e f).out = h.out := rfl

/-! ### Hw.modCur -/

@[simp] theorem Hw.modCur_now (h : Hw) (e : EaselId) (f : CoreRegs → CoreRegs) : (h.modCur e f).now = h.now := rfl
@[simp] theorem Hw.modCur_free (h : Hw) (e : EaselId) (f : CoreRegs → CoreRegs) : (h.modCur e f).free = h.free := rfl
@[simp] theorem Hw.modCur_regs (h : Hw) (e : EaselId) (f : CoreRegs → CoreRegs) : (h.modCur e f).regs = h.regs := rfl
@[simp] theorem Hw.modCur_mem (h : Hw) (e : EaselId) (f : CoreRegs → CoreRegs) : (h.modCur e f).mem = h.mem := rfl
@[simp] theorem Hw.modCur_sk (h : Hw) (e : EaselId) (f : CoreRegs → CoreRegs) : (h.modCur e f).sk = h.sk := rfl
@[simp] theorem Hw.modCur_memctl (h : Hw) (e : EaselId) (f : CoreRegs → CoreRegs) : (h.modCur e f).memctl = h.memctl := rfl
@[simp] theorem Hw.modCur_sync (h : Hw) (e : EaselId) (f : CoreRegs → CoreRegs) : (h.modCur e f).sync = h.sync := rfl
@[simp] theorem Hw.modCur_reqs (h : Hw) (e : EaselId) (f : CoreRegs → CoreRegs) : (h.modCur e f).reqs = h.reqs := rfl
@[simp] theorem Hw.modCur_glz (h : Hw) (e : EaselId) (f : CoreRegs → CoreRegs) : (h.modCur e f).glz = h.glz := rfl
@[simp] theorem Hw.modCur_ports (h : Hw) (e : EaselId) (f : CoreRegs → CoreRegs) : (h.modCur e f).ports = h.ports := rfl
@[simp] theorem Hw.modCur_rte (h : Hw) (e : EaselId) (f : CoreRegs → CoreRegs) : (h.modCur e f).rte = h.rte := rfl
@[simp] theorem Hw.modCur_ftc (h : Hw) (e : EaselId) (f : CoreRegs → CoreRegs) : (h.modCur e f).ftc = h.ftc := rfl
@[simp] theorem Hw.modCur_col (h : Hw) (e : EaselId) (f : CoreRegs → CoreRegs) : (h.modCur e f).col = h.col := rfl
@[simp] theorem Hw.modCur_hif (h : Hw) (e : EaselId) (f : CoreRegs → CoreRegs) : (h.modCur e f).hif = h.hif := rfl
@[simp] theorem Hw.modCur_evc (h : Hw) (e : EaselId) (f : CoreRegs → CoreRegs) : (h.modCur e f).evc = h.evc := rfl
@[simp] theorem Hw.modCur_ctxs (h : Hw) (e : EaselId) (f : CoreRegs → CoreRegs) : (h.modCur e f).ctxs = h.ctxs := rfl
@[simp] theorem Hw.modCur_sec (h : Hw) (e : EaselId) (f : CoreRegs → CoreRegs) : (h.modCur e f).sec = h.sec := rfl
@[simp] theorem Hw.modCur_flt (h : Hw) (e : EaselId) (f : CoreRegs → CoreRegs) : (h.modCur e f).flt = h.flt := rfl
@[simp] theorem Hw.modCur_pwr (h : Hw) (e : EaselId) (f : CoreRegs → CoreRegs) : (h.modCur e f).pwr = h.pwr := rfl
@[simp] theorem Hw.modCur_thm (h : Hw) (e : EaselId) (f : CoreRegs → CoreRegs) : (h.modCur e f).thm = h.thm := rfl
@[simp] theorem Hw.modCur_sup (h : Hw) (e : EaselId) (f : CoreRegs → CoreRegs) : (h.modCur e f).sup = h.sup := rfl
@[simp] theorem Hw.modCur_bru (h : Hw) (e : EaselId) (f : CoreRegs → CoreRegs) : (h.modCur e f).bru = h.bru := rfl
@[simp] theorem Hw.modCur_fwu (h : Hw) (e : EaselId) (f : CoreRegs → CoreRegs) : (h.modCur e f).fwu = h.fwu := rfl
@[simp] theorem Hw.modCur_tray (h : Hw) (e : EaselId) (f : CoreRegs → CoreRegs) : (h.modCur e f).tray = h.tray := rfl
@[simp] theorem Hw.modCur_pins (h : Hw) (e : EaselId) (f : CoreRegs → CoreRegs) : (h.modCur e f).pins = h.pins := rfl
@[simp] theorem Hw.modCur_out (h : Hw) (e : EaselId) (f : CoreRegs → CoreRegs) : (h.modCur e f).out = h.out := rfl

/-! ### Hw.setS -/

@[simp] theorem Hw.setS_now (h : Hw) (e : EaselId) (r : BitVec 5) (v : Word) : (h.setS e r v).now = h.now := rfl
@[simp] theorem Hw.setS_free (h : Hw) (e : EaselId) (r : BitVec 5) (v : Word) : (h.setS e r v).free = h.free := rfl
@[simp] theorem Hw.setS_regs (h : Hw) (e : EaselId) (r : BitVec 5) (v : Word) : (h.setS e r v).regs = h.regs := rfl
@[simp] theorem Hw.setS_mem (h : Hw) (e : EaselId) (r : BitVec 5) (v : Word) : (h.setS e r v).mem = h.mem := rfl
@[simp] theorem Hw.setS_sk (h : Hw) (e : EaselId) (r : BitVec 5) (v : Word) : (h.setS e r v).sk = h.sk := rfl
@[simp] theorem Hw.setS_memctl (h : Hw) (e : EaselId) (r : BitVec 5) (v : Word) : (h.setS e r v).memctl = h.memctl := rfl
@[simp] theorem Hw.setS_sync (h : Hw) (e : EaselId) (r : BitVec 5) (v : Word) : (h.setS e r v).sync = h.sync := rfl
@[simp] theorem Hw.setS_reqs (h : Hw) (e : EaselId) (r : BitVec 5) (v : Word) : (h.setS e r v).reqs = h.reqs := rfl
@[simp] theorem Hw.setS_glz (h : Hw) (e : EaselId) (r : BitVec 5) (v : Word) : (h.setS e r v).glz = h.glz := rfl
@[simp] theorem Hw.setS_ports (h : Hw) (e : EaselId) (r : BitVec 5) (v : Word) : (h.setS e r v).ports = h.ports := rfl
@[simp] theorem Hw.setS_rte (h : Hw) (e : EaselId) (r : BitVec 5) (v : Word) : (h.setS e r v).rte = h.rte := rfl
@[simp] theorem Hw.setS_ftc (h : Hw) (e : EaselId) (r : BitVec 5) (v : Word) : (h.setS e r v).ftc = h.ftc := rfl
@[simp] theorem Hw.setS_col (h : Hw) (e : EaselId) (r : BitVec 5) (v : Word) : (h.setS e r v).col = h.col := rfl
@[simp] theorem Hw.setS_hif (h : Hw) (e : EaselId) (r : BitVec 5) (v : Word) : (h.setS e r v).hif = h.hif := rfl
@[simp] theorem Hw.setS_evc (h : Hw) (e : EaselId) (r : BitVec 5) (v : Word) : (h.setS e r v).evc = h.evc := rfl
@[simp] theorem Hw.setS_ctxs (h : Hw) (e : EaselId) (r : BitVec 5) (v : Word) : (h.setS e r v).ctxs = h.ctxs := rfl
@[simp] theorem Hw.setS_sec (h : Hw) (e : EaselId) (r : BitVec 5) (v : Word) : (h.setS e r v).sec = h.sec := rfl
@[simp] theorem Hw.setS_flt (h : Hw) (e : EaselId) (r : BitVec 5) (v : Word) : (h.setS e r v).flt = h.flt := rfl
@[simp] theorem Hw.setS_pwr (h : Hw) (e : EaselId) (r : BitVec 5) (v : Word) : (h.setS e r v).pwr = h.pwr := rfl
@[simp] theorem Hw.setS_thm (h : Hw) (e : EaselId) (r : BitVec 5) (v : Word) : (h.setS e r v).thm = h.thm := rfl
@[simp] theorem Hw.setS_sup (h : Hw) (e : EaselId) (r : BitVec 5) (v : Word) : (h.setS e r v).sup = h.sup := rfl
@[simp] theorem Hw.setS_bru (h : Hw) (e : EaselId) (r : BitVec 5) (v : Word) : (h.setS e r v).bru = h.bru := rfl
@[simp] theorem Hw.setS_fwu (h : Hw) (e : EaselId) (r : BitVec 5) (v : Word) : (h.setS e r v).fwu = h.fwu := rfl
@[simp] theorem Hw.setS_tray (h : Hw) (e : EaselId) (r : BitVec 5) (v : Word) : (h.setS e r v).tray = h.tray := rfl
@[simp] theorem Hw.setS_pins (h : Hw) (e : EaselId) (r : BitVec 5) (v : Word) : (h.setS e r v).pins = h.pins := rfl
@[simp] theorem Hw.setS_out (h : Hw) (e : EaselId) (r : BitVec 5) (v : Word) : (h.setS e r v).out = h.out := rfl

/-! ### Hw.setP -/

@[simp] theorem Hw.setP_now (h : Hw) (e : EaselId) (r : BitVec 5) (v : Bool) : (h.setP e r v).now = h.now := rfl
@[simp] theorem Hw.setP_free (h : Hw) (e : EaselId) (r : BitVec 5) (v : Bool) : (h.setP e r v).free = h.free := rfl
@[simp] theorem Hw.setP_regs (h : Hw) (e : EaselId) (r : BitVec 5) (v : Bool) : (h.setP e r v).regs = h.regs := rfl
@[simp] theorem Hw.setP_mem (h : Hw) (e : EaselId) (r : BitVec 5) (v : Bool) : (h.setP e r v).mem = h.mem := rfl
@[simp] theorem Hw.setP_sk (h : Hw) (e : EaselId) (r : BitVec 5) (v : Bool) : (h.setP e r v).sk = h.sk := rfl
@[simp] theorem Hw.setP_memctl (h : Hw) (e : EaselId) (r : BitVec 5) (v : Bool) : (h.setP e r v).memctl = h.memctl := rfl
@[simp] theorem Hw.setP_sync (h : Hw) (e : EaselId) (r : BitVec 5) (v : Bool) : (h.setP e r v).sync = h.sync := rfl
@[simp] theorem Hw.setP_reqs (h : Hw) (e : EaselId) (r : BitVec 5) (v : Bool) : (h.setP e r v).reqs = h.reqs := rfl
@[simp] theorem Hw.setP_glz (h : Hw) (e : EaselId) (r : BitVec 5) (v : Bool) : (h.setP e r v).glz = h.glz := rfl
@[simp] theorem Hw.setP_ports (h : Hw) (e : EaselId) (r : BitVec 5) (v : Bool) : (h.setP e r v).ports = h.ports := rfl
@[simp] theorem Hw.setP_rte (h : Hw) (e : EaselId) (r : BitVec 5) (v : Bool) : (h.setP e r v).rte = h.rte := rfl
@[simp] theorem Hw.setP_ftc (h : Hw) (e : EaselId) (r : BitVec 5) (v : Bool) : (h.setP e r v).ftc = h.ftc := rfl
@[simp] theorem Hw.setP_col (h : Hw) (e : EaselId) (r : BitVec 5) (v : Bool) : (h.setP e r v).col = h.col := rfl
@[simp] theorem Hw.setP_hif (h : Hw) (e : EaselId) (r : BitVec 5) (v : Bool) : (h.setP e r v).hif = h.hif := rfl
@[simp] theorem Hw.setP_evc (h : Hw) (e : EaselId) (r : BitVec 5) (v : Bool) : (h.setP e r v).evc = h.evc := rfl
@[simp] theorem Hw.setP_ctxs (h : Hw) (e : EaselId) (r : BitVec 5) (v : Bool) : (h.setP e r v).ctxs = h.ctxs := rfl
@[simp] theorem Hw.setP_sec (h : Hw) (e : EaselId) (r : BitVec 5) (v : Bool) : (h.setP e r v).sec = h.sec := rfl
@[simp] theorem Hw.setP_flt (h : Hw) (e : EaselId) (r : BitVec 5) (v : Bool) : (h.setP e r v).flt = h.flt := rfl
@[simp] theorem Hw.setP_pwr (h : Hw) (e : EaselId) (r : BitVec 5) (v : Bool) : (h.setP e r v).pwr = h.pwr := rfl
@[simp] theorem Hw.setP_thm (h : Hw) (e : EaselId) (r : BitVec 5) (v : Bool) : (h.setP e r v).thm = h.thm := rfl
@[simp] theorem Hw.setP_sup (h : Hw) (e : EaselId) (r : BitVec 5) (v : Bool) : (h.setP e r v).sup = h.sup := rfl
@[simp] theorem Hw.setP_bru (h : Hw) (e : EaselId) (r : BitVec 5) (v : Bool) : (h.setP e r v).bru = h.bru := rfl
@[simp] theorem Hw.setP_fwu (h : Hw) (e : EaselId) (r : BitVec 5) (v : Bool) : (h.setP e r v).fwu = h.fwu := rfl
@[simp] theorem Hw.setP_tray (h : Hw) (e : EaselId) (r : BitVec 5) (v : Bool) : (h.setP e r v).tray = h.tray := rfl
@[simp] theorem Hw.setP_pins (h : Hw) (e : EaselId) (r : BitVec 5) (v : Bool) : (h.setP e r v).pins = h.pins := rfl
@[simp] theorem Hw.setP_out (h : Hw) (e : EaselId) (r : BitVec 5) (v : Bool) : (h.setP e r v).out = h.out := rfl

/-! ### Hw.setCtx -/

@[simp] theorem Hw.setCtx_now (h : Hw) (c : CtxId) (x : Ctx) : (h.setCtx c x).now = h.now := rfl
@[simp] theorem Hw.setCtx_free (h : Hw) (c : CtxId) (x : Ctx) : (h.setCtx c x).free = h.free := rfl
@[simp] theorem Hw.setCtx_regs (h : Hw) (c : CtxId) (x : Ctx) : (h.setCtx c x).regs = h.regs := rfl
@[simp] theorem Hw.setCtx_easels (h : Hw) (c : CtxId) (x : Ctx) : (h.setCtx c x).easels = h.easels := rfl
@[simp] theorem Hw.setCtx_mem (h : Hw) (c : CtxId) (x : Ctx) : (h.setCtx c x).mem = h.mem := rfl
@[simp] theorem Hw.setCtx_sk (h : Hw) (c : CtxId) (x : Ctx) : (h.setCtx c x).sk = h.sk := rfl
@[simp] theorem Hw.setCtx_memctl (h : Hw) (c : CtxId) (x : Ctx) : (h.setCtx c x).memctl = h.memctl := rfl
@[simp] theorem Hw.setCtx_sync (h : Hw) (c : CtxId) (x : Ctx) : (h.setCtx c x).sync = h.sync := rfl
@[simp] theorem Hw.setCtx_reqs (h : Hw) (c : CtxId) (x : Ctx) : (h.setCtx c x).reqs = h.reqs := rfl
@[simp] theorem Hw.setCtx_glz (h : Hw) (c : CtxId) (x : Ctx) : (h.setCtx c x).glz = h.glz := rfl
@[simp] theorem Hw.setCtx_ports (h : Hw) (c : CtxId) (x : Ctx) : (h.setCtx c x).ports = h.ports := rfl
@[simp] theorem Hw.setCtx_rte (h : Hw) (c : CtxId) (x : Ctx) : (h.setCtx c x).rte = h.rte := rfl
@[simp] theorem Hw.setCtx_ftc (h : Hw) (c : CtxId) (x : Ctx) : (h.setCtx c x).ftc = h.ftc := rfl
@[simp] theorem Hw.setCtx_col (h : Hw) (c : CtxId) (x : Ctx) : (h.setCtx c x).col = h.col := rfl
@[simp] theorem Hw.setCtx_hif (h : Hw) (c : CtxId) (x : Ctx) : (h.setCtx c x).hif = h.hif := rfl
@[simp] theorem Hw.setCtx_evc (h : Hw) (c : CtxId) (x : Ctx) : (h.setCtx c x).evc = h.evc := rfl
@[simp] theorem Hw.setCtx_sec (h : Hw) (c : CtxId) (x : Ctx) : (h.setCtx c x).sec = h.sec := rfl
@[simp] theorem Hw.setCtx_flt (h : Hw) (c : CtxId) (x : Ctx) : (h.setCtx c x).flt = h.flt := rfl
@[simp] theorem Hw.setCtx_pwr (h : Hw) (c : CtxId) (x : Ctx) : (h.setCtx c x).pwr = h.pwr := rfl
@[simp] theorem Hw.setCtx_thm (h : Hw) (c : CtxId) (x : Ctx) : (h.setCtx c x).thm = h.thm := rfl
@[simp] theorem Hw.setCtx_sup (h : Hw) (c : CtxId) (x : Ctx) : (h.setCtx c x).sup = h.sup := rfl
@[simp] theorem Hw.setCtx_bru (h : Hw) (c : CtxId) (x : Ctx) : (h.setCtx c x).bru = h.bru := rfl
@[simp] theorem Hw.setCtx_fwu (h : Hw) (c : CtxId) (x : Ctx) : (h.setCtx c x).fwu = h.fwu := rfl
@[simp] theorem Hw.setCtx_tray (h : Hw) (c : CtxId) (x : Ctx) : (h.setCtx c x).tray = h.tray := rfl
@[simp] theorem Hw.setCtx_pins (h : Hw) (c : CtxId) (x : Ctx) : (h.setCtx c x).pins = h.pins := rfl
@[simp] theorem Hw.setCtx_out (h : Hw) (c : CtxId) (x : Ctx) : (h.setCtx c x).out = h.out := rfl

/-! ### Hw.modCtx -/

@[simp] theorem Hw.modCtx_now (h : Hw) (c : CtxId) (f : Ctx → Ctx) : (h.modCtx c f).now = h.now := rfl
@[simp] theorem Hw.modCtx_free (h : Hw) (c : CtxId) (f : Ctx → Ctx) : (h.modCtx c f).free = h.free := rfl
@[simp] theorem Hw.modCtx_regs (h : Hw) (c : CtxId) (f : Ctx → Ctx) : (h.modCtx c f).regs = h.regs := rfl
@[simp] theorem Hw.modCtx_easels (h : Hw) (c : CtxId) (f : Ctx → Ctx) : (h.modCtx c f).easels = h.easels := rfl
@[simp] theorem Hw.modCtx_mem (h : Hw) (c : CtxId) (f : Ctx → Ctx) : (h.modCtx c f).mem = h.mem := rfl
@[simp] theorem Hw.modCtx_sk (h : Hw) (c : CtxId) (f : Ctx → Ctx) : (h.modCtx c f).sk = h.sk := rfl
@[simp] theorem Hw.modCtx_memctl (h : Hw) (c : CtxId) (f : Ctx → Ctx) : (h.modCtx c f).memctl = h.memctl := rfl
@[simp] theorem Hw.modCtx_sync (h : Hw) (c : CtxId) (f : Ctx → Ctx) : (h.modCtx c f).sync = h.sync := rfl
@[simp] theorem Hw.modCtx_reqs (h : Hw) (c : CtxId) (f : Ctx → Ctx) : (h.modCtx c f).reqs = h.reqs := rfl
@[simp] theorem Hw.modCtx_glz (h : Hw) (c : CtxId) (f : Ctx → Ctx) : (h.modCtx c f).glz = h.glz := rfl
@[simp] theorem Hw.modCtx_ports (h : Hw) (c : CtxId) (f : Ctx → Ctx) : (h.modCtx c f).ports = h.ports := rfl
@[simp] theorem Hw.modCtx_rte (h : Hw) (c : CtxId) (f : Ctx → Ctx) : (h.modCtx c f).rte = h.rte := rfl
@[simp] theorem Hw.modCtx_ftc (h : Hw) (c : CtxId) (f : Ctx → Ctx) : (h.modCtx c f).ftc = h.ftc := rfl
@[simp] theorem Hw.modCtx_col (h : Hw) (c : CtxId) (f : Ctx → Ctx) : (h.modCtx c f).col = h.col := rfl
@[simp] theorem Hw.modCtx_hif (h : Hw) (c : CtxId) (f : Ctx → Ctx) : (h.modCtx c f).hif = h.hif := rfl
@[simp] theorem Hw.modCtx_evc (h : Hw) (c : CtxId) (f : Ctx → Ctx) : (h.modCtx c f).evc = h.evc := rfl
@[simp] theorem Hw.modCtx_sec (h : Hw) (c : CtxId) (f : Ctx → Ctx) : (h.modCtx c f).sec = h.sec := rfl
@[simp] theorem Hw.modCtx_flt (h : Hw) (c : CtxId) (f : Ctx → Ctx) : (h.modCtx c f).flt = h.flt := rfl
@[simp] theorem Hw.modCtx_pwr (h : Hw) (c : CtxId) (f : Ctx → Ctx) : (h.modCtx c f).pwr = h.pwr := rfl
@[simp] theorem Hw.modCtx_thm (h : Hw) (c : CtxId) (f : Ctx → Ctx) : (h.modCtx c f).thm = h.thm := rfl
@[simp] theorem Hw.modCtx_sup (h : Hw) (c : CtxId) (f : Ctx → Ctx) : (h.modCtx c f).sup = h.sup := rfl
@[simp] theorem Hw.modCtx_bru (h : Hw) (c : CtxId) (f : Ctx → Ctx) : (h.modCtx c f).bru = h.bru := rfl
@[simp] theorem Hw.modCtx_fwu (h : Hw) (c : CtxId) (f : Ctx → Ctx) : (h.modCtx c f).fwu = h.fwu := rfl
@[simp] theorem Hw.modCtx_tray (h : Hw) (c : CtxId) (f : Ctx → Ctx) : (h.modCtx c f).tray = h.tray := rfl
@[simp] theorem Hw.modCtx_pins (h : Hw) (c : CtxId) (f : Ctx → Ctx) : (h.modCtx c f).pins = h.pins := rfl
@[simp] theorem Hw.modCtx_out (h : Hw) (c : CtxId) (f : Ctx → Ctx) : (h.modCtx c f).out = h.out := rfl

/-! ### Hw.modLoaded -/

@[simp] theorem Hw.modLoaded_now (h : Hw) (c : CtxId) (f : Easel → Easel) : (h.modLoaded c f).now = h.now := rfl
@[simp] theorem Hw.modLoaded_free (h : Hw) (c : CtxId) (f : Easel → Easel) : (h.modLoaded c f).free = h.free := rfl
@[simp] theorem Hw.modLoaded_regs (h : Hw) (c : CtxId) (f : Easel → Easel) : (h.modLoaded c f).regs = h.regs := rfl
@[simp] theorem Hw.modLoaded_mem (h : Hw) (c : CtxId) (f : Easel → Easel) : (h.modLoaded c f).mem = h.mem := rfl
@[simp] theorem Hw.modLoaded_sk (h : Hw) (c : CtxId) (f : Easel → Easel) : (h.modLoaded c f).sk = h.sk := rfl
@[simp] theorem Hw.modLoaded_memctl (h : Hw) (c : CtxId) (f : Easel → Easel) : (h.modLoaded c f).memctl = h.memctl := rfl
@[simp] theorem Hw.modLoaded_sync (h : Hw) (c : CtxId) (f : Easel → Easel) : (h.modLoaded c f).sync = h.sync := rfl
@[simp] theorem Hw.modLoaded_reqs (h : Hw) (c : CtxId) (f : Easel → Easel) : (h.modLoaded c f).reqs = h.reqs := rfl
@[simp] theorem Hw.modLoaded_glz (h : Hw) (c : CtxId) (f : Easel → Easel) : (h.modLoaded c f).glz = h.glz := rfl
@[simp] theorem Hw.modLoaded_ports (h : Hw) (c : CtxId) (f : Easel → Easel) : (h.modLoaded c f).ports = h.ports := rfl
@[simp] theorem Hw.modLoaded_rte (h : Hw) (c : CtxId) (f : Easel → Easel) : (h.modLoaded c f).rte = h.rte := rfl
@[simp] theorem Hw.modLoaded_ftc (h : Hw) (c : CtxId) (f : Easel → Easel) : (h.modLoaded c f).ftc = h.ftc := rfl
@[simp] theorem Hw.modLoaded_col (h : Hw) (c : CtxId) (f : Easel → Easel) : (h.modLoaded c f).col = h.col := rfl
@[simp] theorem Hw.modLoaded_hif (h : Hw) (c : CtxId) (f : Easel → Easel) : (h.modLoaded c f).hif = h.hif := rfl
@[simp] theorem Hw.modLoaded_evc (h : Hw) (c : CtxId) (f : Easel → Easel) : (h.modLoaded c f).evc = h.evc := rfl
@[simp] theorem Hw.modLoaded_ctxs (h : Hw) (c : CtxId) (f : Easel → Easel) : (h.modLoaded c f).ctxs = h.ctxs := rfl
@[simp] theorem Hw.modLoaded_sec (h : Hw) (c : CtxId) (f : Easel → Easel) : (h.modLoaded c f).sec = h.sec := rfl
@[simp] theorem Hw.modLoaded_flt (h : Hw) (c : CtxId) (f : Easel → Easel) : (h.modLoaded c f).flt = h.flt := rfl
@[simp] theorem Hw.modLoaded_pwr (h : Hw) (c : CtxId) (f : Easel → Easel) : (h.modLoaded c f).pwr = h.pwr := rfl
@[simp] theorem Hw.modLoaded_thm (h : Hw) (c : CtxId) (f : Easel → Easel) : (h.modLoaded c f).thm = h.thm := rfl
@[simp] theorem Hw.modLoaded_sup (h : Hw) (c : CtxId) (f : Easel → Easel) : (h.modLoaded c f).sup = h.sup := rfl
@[simp] theorem Hw.modLoaded_bru (h : Hw) (c : CtxId) (f : Easel → Easel) : (h.modLoaded c f).bru = h.bru := rfl
@[simp] theorem Hw.modLoaded_fwu (h : Hw) (c : CtxId) (f : Easel → Easel) : (h.modLoaded c f).fwu = h.fwu := rfl
@[simp] theorem Hw.modLoaded_tray (h : Hw) (c : CtxId) (f : Easel → Easel) : (h.modLoaded c f).tray = h.tray := rfl
@[simp] theorem Hw.modLoaded_pins (h : Hw) (c : CtxId) (f : Easel → Easel) : (h.modLoaded c f).pins = h.pins := rfl
@[simp] theorem Hw.modLoaded_out (h : Hw) (c : CtxId) (f : Easel → Easel) : (h.modLoaded c f).out = h.out := rfl

/-! ### setCtxState -/

@[simp] theorem setCtxState_now (h : Hw) (c : CtxId) (v : BitVec 3) : (setCtxState h c v).now = h.now := rfl
@[simp] theorem setCtxState_free (h : Hw) (c : CtxId) (v : BitVec 3) : (setCtxState h c v).free = h.free := rfl
@[simp] theorem setCtxState_easels (h : Hw) (c : CtxId) (v : BitVec 3) : (setCtxState h c v).easels = h.easels := rfl
@[simp] theorem setCtxState_mem (h : Hw) (c : CtxId) (v : BitVec 3) : (setCtxState h c v).mem = h.mem := rfl
@[simp] theorem setCtxState_sk (h : Hw) (c : CtxId) (v : BitVec 3) : (setCtxState h c v).sk = h.sk := rfl
@[simp] theorem setCtxState_memctl (h : Hw) (c : CtxId) (v : BitVec 3) : (setCtxState h c v).memctl = h.memctl := rfl
@[simp] theorem setCtxState_sync (h : Hw) (c : CtxId) (v : BitVec 3) : (setCtxState h c v).sync = h.sync := rfl
@[simp] theorem setCtxState_reqs (h : Hw) (c : CtxId) (v : BitVec 3) : (setCtxState h c v).reqs = h.reqs := rfl
@[simp] theorem setCtxState_glz (h : Hw) (c : CtxId) (v : BitVec 3) : (setCtxState h c v).glz = h.glz := rfl
@[simp] theorem setCtxState_ports (h : Hw) (c : CtxId) (v : BitVec 3) : (setCtxState h c v).ports = h.ports := rfl
@[simp] theorem setCtxState_rte (h : Hw) (c : CtxId) (v : BitVec 3) : (setCtxState h c v).rte = h.rte := rfl
@[simp] theorem setCtxState_ftc (h : Hw) (c : CtxId) (v : BitVec 3) : (setCtxState h c v).ftc = h.ftc := rfl
@[simp] theorem setCtxState_col (h : Hw) (c : CtxId) (v : BitVec 3) : (setCtxState h c v).col = h.col := rfl
@[simp] theorem setCtxState_hif (h : Hw) (c : CtxId) (v : BitVec 3) : (setCtxState h c v).hif = h.hif := rfl
@[simp] theorem setCtxState_sec (h : Hw) (c : CtxId) (v : BitVec 3) : (setCtxState h c v).sec = h.sec := rfl
@[simp] theorem setCtxState_flt (h : Hw) (c : CtxId) (v : BitVec 3) : (setCtxState h c v).flt = h.flt := rfl
@[simp] theorem setCtxState_pwr (h : Hw) (c : CtxId) (v : BitVec 3) : (setCtxState h c v).pwr = h.pwr := rfl
@[simp] theorem setCtxState_thm (h : Hw) (c : CtxId) (v : BitVec 3) : (setCtxState h c v).thm = h.thm := rfl
@[simp] theorem setCtxState_sup (h : Hw) (c : CtxId) (v : BitVec 3) : (setCtxState h c v).sup = h.sup := rfl
@[simp] theorem setCtxState_bru (h : Hw) (c : CtxId) (v : BitVec 3) : (setCtxState h c v).bru = h.bru := rfl
@[simp] theorem setCtxState_fwu (h : Hw) (c : CtxId) (v : BitVec 3) : (setCtxState h c v).fwu = h.fwu := rfl
@[simp] theorem setCtxState_tray (h : Hw) (c : CtxId) (v : BitVec 3) : (setCtxState h c v).tray = h.tray := rfl
@[simp] theorem setCtxState_pins (h : Hw) (c : CtxId) (v : BitVec 3) : (setCtxState h c v).pins = h.pins := rfl
@[simp] theorem setCtxState_out (h : Hw) (c : CtxId) (v : BitVec 3) : (setCtxState h c v).out = h.out := rfl

/-! ### perfAdd -/

@[simp] theorem perfAdd_now (h : Hw) (c : CtxId) (k n : Nat) : (perfAdd h c k n).now = h.now := rfl
@[simp] theorem perfAdd_free (h : Hw) (c : CtxId) (k n : Nat) : (perfAdd h c k n).free = h.free := rfl
@[simp] theorem perfAdd_regs (h : Hw) (c : CtxId) (k n : Nat) : (perfAdd h c k n).regs = h.regs := rfl
@[simp] theorem perfAdd_easels (h : Hw) (c : CtxId) (k n : Nat) : (perfAdd h c k n).easels = h.easels := rfl
@[simp] theorem perfAdd_mem (h : Hw) (c : CtxId) (k n : Nat) : (perfAdd h c k n).mem = h.mem := rfl
@[simp] theorem perfAdd_sk (h : Hw) (c : CtxId) (k n : Nat) : (perfAdd h c k n).sk = h.sk := rfl
@[simp] theorem perfAdd_memctl (h : Hw) (c : CtxId) (k n : Nat) : (perfAdd h c k n).memctl = h.memctl := rfl
@[simp] theorem perfAdd_sync (h : Hw) (c : CtxId) (k n : Nat) : (perfAdd h c k n).sync = h.sync := rfl
@[simp] theorem perfAdd_reqs (h : Hw) (c : CtxId) (k n : Nat) : (perfAdd h c k n).reqs = h.reqs := rfl
@[simp] theorem perfAdd_glz (h : Hw) (c : CtxId) (k n : Nat) : (perfAdd h c k n).glz = h.glz := rfl
@[simp] theorem perfAdd_ports (h : Hw) (c : CtxId) (k n : Nat) : (perfAdd h c k n).ports = h.ports := rfl
@[simp] theorem perfAdd_rte (h : Hw) (c : CtxId) (k n : Nat) : (perfAdd h c k n).rte = h.rte := rfl
@[simp] theorem perfAdd_ftc (h : Hw) (c : CtxId) (k n : Nat) : (perfAdd h c k n).ftc = h.ftc := rfl
@[simp] theorem perfAdd_col (h : Hw) (c : CtxId) (k n : Nat) : (perfAdd h c k n).col = h.col := rfl
@[simp] theorem perfAdd_hif (h : Hw) (c : CtxId) (k n : Nat) : (perfAdd h c k n).hif = h.hif := rfl
@[simp] theorem perfAdd_evc (h : Hw) (c : CtxId) (k n : Nat) : (perfAdd h c k n).evc = h.evc := rfl
@[simp] theorem perfAdd_sec (h : Hw) (c : CtxId) (k n : Nat) : (perfAdd h c k n).sec = h.sec := rfl
@[simp] theorem perfAdd_flt (h : Hw) (c : CtxId) (k n : Nat) : (perfAdd h c k n).flt = h.flt := rfl
@[simp] theorem perfAdd_pwr (h : Hw) (c : CtxId) (k n : Nat) : (perfAdd h c k n).pwr = h.pwr := rfl
@[simp] theorem perfAdd_thm (h : Hw) (c : CtxId) (k n : Nat) : (perfAdd h c k n).thm = h.thm := rfl
@[simp] theorem perfAdd_sup (h : Hw) (c : CtxId) (k n : Nat) : (perfAdd h c k n).sup = h.sup := rfl
@[simp] theorem perfAdd_bru (h : Hw) (c : CtxId) (k n : Nat) : (perfAdd h c k n).bru = h.bru := rfl
@[simp] theorem perfAdd_fwu (h : Hw) (c : CtxId) (k n : Nat) : (perfAdd h c k n).fwu = h.fwu := rfl
@[simp] theorem perfAdd_tray (h : Hw) (c : CtxId) (k n : Nat) : (perfAdd h c k n).tray = h.tray := rfl
@[simp] theorem perfAdd_pins (h : Hw) (c : CtxId) (k n : Nat) : (perfAdd h c k n).pins = h.pins := rfl
@[simp] theorem perfAdd_out (h : Hw) (c : CtxId) (k n : Nat) : (perfAdd h c k n).out = h.out := rfl

/-! ### advanceTo -/

@[simp] theorem advanceTo_now (h : Hw) (e : EaselId) (pc : Word) : (advanceTo h e pc).now = h.now := rfl
@[simp] theorem advanceTo_free (h : Hw) (e : EaselId) (pc : Word) : (advanceTo h e pc).free = h.free := rfl
@[simp] theorem advanceTo_regs (h : Hw) (e : EaselId) (pc : Word) : (advanceTo h e pc).regs = h.regs := rfl
@[simp] theorem advanceTo_mem (h : Hw) (e : EaselId) (pc : Word) : (advanceTo h e pc).mem = h.mem := rfl
@[simp] theorem advanceTo_sk (h : Hw) (e : EaselId) (pc : Word) : (advanceTo h e pc).sk = h.sk := rfl
@[simp] theorem advanceTo_memctl (h : Hw) (e : EaselId) (pc : Word) : (advanceTo h e pc).memctl = h.memctl := rfl
@[simp] theorem advanceTo_sync (h : Hw) (e : EaselId) (pc : Word) : (advanceTo h e pc).sync = h.sync := rfl
@[simp] theorem advanceTo_reqs (h : Hw) (e : EaselId) (pc : Word) : (advanceTo h e pc).reqs = h.reqs := rfl
@[simp] theorem advanceTo_glz (h : Hw) (e : EaselId) (pc : Word) : (advanceTo h e pc).glz = h.glz := rfl
@[simp] theorem advanceTo_ports (h : Hw) (e : EaselId) (pc : Word) : (advanceTo h e pc).ports = h.ports := rfl
@[simp] theorem advanceTo_rte (h : Hw) (e : EaselId) (pc : Word) : (advanceTo h e pc).rte = h.rte := rfl
@[simp] theorem advanceTo_ftc (h : Hw) (e : EaselId) (pc : Word) : (advanceTo h e pc).ftc = h.ftc := rfl
@[simp] theorem advanceTo_col (h : Hw) (e : EaselId) (pc : Word) : (advanceTo h e pc).col = h.col := rfl
@[simp] theorem advanceTo_hif (h : Hw) (e : EaselId) (pc : Word) : (advanceTo h e pc).hif = h.hif := rfl
@[simp] theorem advanceTo_evc (h : Hw) (e : EaselId) (pc : Word) : (advanceTo h e pc).evc = h.evc := rfl
@[simp] theorem advanceTo_ctxs (h : Hw) (e : EaselId) (pc : Word) : (advanceTo h e pc).ctxs = h.ctxs := rfl
@[simp] theorem advanceTo_sec (h : Hw) (e : EaselId) (pc : Word) : (advanceTo h e pc).sec = h.sec := rfl
@[simp] theorem advanceTo_flt (h : Hw) (e : EaselId) (pc : Word) : (advanceTo h e pc).flt = h.flt := rfl
@[simp] theorem advanceTo_pwr (h : Hw) (e : EaselId) (pc : Word) : (advanceTo h e pc).pwr = h.pwr := rfl
@[simp] theorem advanceTo_thm (h : Hw) (e : EaselId) (pc : Word) : (advanceTo h e pc).thm = h.thm := rfl
@[simp] theorem advanceTo_sup (h : Hw) (e : EaselId) (pc : Word) : (advanceTo h e pc).sup = h.sup := rfl
@[simp] theorem advanceTo_bru (h : Hw) (e : EaselId) (pc : Word) : (advanceTo h e pc).bru = h.bru := rfl
@[simp] theorem advanceTo_fwu (h : Hw) (e : EaselId) (pc : Word) : (advanceTo h e pc).fwu = h.fwu := rfl
@[simp] theorem advanceTo_tray (h : Hw) (e : EaselId) (pc : Word) : (advanceTo h e pc).tray = h.tray := rfl
@[simp] theorem advanceTo_pins (h : Hw) (e : EaselId) (pc : Word) : (advanceTo h e pc).pins = h.pins := rfl
@[simp] theorem advanceTo_out (h : Hw) (e : EaselId) (pc : Word) : (advanceTo h e pc).out = h.out := rfl

/-! ### advance -/

@[simp] theorem advance_now (h : Hw) (e : EaselId) : (advance h e).now = h.now := rfl
@[simp] theorem advance_free (h : Hw) (e : EaselId) : (advance h e).free = h.free := rfl
@[simp] theorem advance_regs (h : Hw) (e : EaselId) : (advance h e).regs = h.regs := rfl
@[simp] theorem advance_mem (h : Hw) (e : EaselId) : (advance h e).mem = h.mem := rfl
@[simp] theorem advance_sk (h : Hw) (e : EaselId) : (advance h e).sk = h.sk := rfl
@[simp] theorem advance_memctl (h : Hw) (e : EaselId) : (advance h e).memctl = h.memctl := rfl
@[simp] theorem advance_sync (h : Hw) (e : EaselId) : (advance h e).sync = h.sync := rfl
@[simp] theorem advance_reqs (h : Hw) (e : EaselId) : (advance h e).reqs = h.reqs := rfl
@[simp] theorem advance_glz (h : Hw) (e : EaselId) : (advance h e).glz = h.glz := rfl
@[simp] theorem advance_ports (h : Hw) (e : EaselId) : (advance h e).ports = h.ports := rfl
@[simp] theorem advance_rte (h : Hw) (e : EaselId) : (advance h e).rte = h.rte := rfl
@[simp] theorem advance_ftc (h : Hw) (e : EaselId) : (advance h e).ftc = h.ftc := rfl
@[simp] theorem advance_col (h : Hw) (e : EaselId) : (advance h e).col = h.col := rfl
@[simp] theorem advance_hif (h : Hw) (e : EaselId) : (advance h e).hif = h.hif := rfl
@[simp] theorem advance_evc (h : Hw) (e : EaselId) : (advance h e).evc = h.evc := rfl
@[simp] theorem advance_ctxs (h : Hw) (e : EaselId) : (advance h e).ctxs = h.ctxs := rfl
@[simp] theorem advance_sec (h : Hw) (e : EaselId) : (advance h e).sec = h.sec := rfl
@[simp] theorem advance_flt (h : Hw) (e : EaselId) : (advance h e).flt = h.flt := rfl
@[simp] theorem advance_pwr (h : Hw) (e : EaselId) : (advance h e).pwr = h.pwr := rfl
@[simp] theorem advance_thm (h : Hw) (e : EaselId) : (advance h e).thm = h.thm := rfl
@[simp] theorem advance_sup (h : Hw) (e : EaselId) : (advance h e).sup = h.sup := rfl
@[simp] theorem advance_bru (h : Hw) (e : EaselId) : (advance h e).bru = h.bru := rfl
@[simp] theorem advance_fwu (h : Hw) (e : EaselId) : (advance h e).fwu = h.fwu := rfl
@[simp] theorem advance_tray (h : Hw) (e : EaselId) : (advance h e).tray = h.tray := rfl
@[simp] theorem advance_pins (h : Hw) (e : EaselId) : (advance h e).pins = h.pins := rfl
@[simp] theorem advance_out (h : Hw) (e : EaselId) : (advance h e).out = h.out := rfl

/-! ### finishWait -/

@[simp] theorem finishWait_now (h : Hw) (e : EaselId) (b : Bool) (f : CoreRegs → CoreRegs) : (finishWait h e b f).now = h.now := rfl
@[simp] theorem finishWait_free (h : Hw) (e : EaselId) (b : Bool) (f : CoreRegs → CoreRegs) : (finishWait h e b f).free = h.free := rfl
@[simp] theorem finishWait_regs (h : Hw) (e : EaselId) (b : Bool) (f : CoreRegs → CoreRegs) : (finishWait h e b f).regs = h.regs := rfl
@[simp] theorem finishWait_mem (h : Hw) (e : EaselId) (b : Bool) (f : CoreRegs → CoreRegs) : (finishWait h e b f).mem = h.mem := rfl
@[simp] theorem finishWait_sk (h : Hw) (e : EaselId) (b : Bool) (f : CoreRegs → CoreRegs) : (finishWait h e b f).sk = h.sk := rfl
@[simp] theorem finishWait_memctl (h : Hw) (e : EaselId) (b : Bool) (f : CoreRegs → CoreRegs) : (finishWait h e b f).memctl = h.memctl := rfl
@[simp] theorem finishWait_sync (h : Hw) (e : EaselId) (b : Bool) (f : CoreRegs → CoreRegs) : (finishWait h e b f).sync = h.sync := rfl
@[simp] theorem finishWait_reqs (h : Hw) (e : EaselId) (b : Bool) (f : CoreRegs → CoreRegs) : (finishWait h e b f).reqs = h.reqs := rfl
@[simp] theorem finishWait_glz (h : Hw) (e : EaselId) (b : Bool) (f : CoreRegs → CoreRegs) : (finishWait h e b f).glz = h.glz := rfl
@[simp] theorem finishWait_ports (h : Hw) (e : EaselId) (b : Bool) (f : CoreRegs → CoreRegs) : (finishWait h e b f).ports = h.ports := rfl
@[simp] theorem finishWait_rte (h : Hw) (e : EaselId) (b : Bool) (f : CoreRegs → CoreRegs) : (finishWait h e b f).rte = h.rte := rfl
@[simp] theorem finishWait_ftc (h : Hw) (e : EaselId) (b : Bool) (f : CoreRegs → CoreRegs) : (finishWait h e b f).ftc = h.ftc := rfl
@[simp] theorem finishWait_col (h : Hw) (e : EaselId) (b : Bool) (f : CoreRegs → CoreRegs) : (finishWait h e b f).col = h.col := rfl
@[simp] theorem finishWait_hif (h : Hw) (e : EaselId) (b : Bool) (f : CoreRegs → CoreRegs) : (finishWait h e b f).hif = h.hif := rfl
@[simp] theorem finishWait_evc (h : Hw) (e : EaselId) (b : Bool) (f : CoreRegs → CoreRegs) : (finishWait h e b f).evc = h.evc := rfl
@[simp] theorem finishWait_ctxs (h : Hw) (e : EaselId) (b : Bool) (f : CoreRegs → CoreRegs) : (finishWait h e b f).ctxs = h.ctxs := rfl
@[simp] theorem finishWait_sec (h : Hw) (e : EaselId) (b : Bool) (f : CoreRegs → CoreRegs) : (finishWait h e b f).sec = h.sec := rfl
@[simp] theorem finishWait_flt (h : Hw) (e : EaselId) (b : Bool) (f : CoreRegs → CoreRegs) : (finishWait h e b f).flt = h.flt := rfl
@[simp] theorem finishWait_pwr (h : Hw) (e : EaselId) (b : Bool) (f : CoreRegs → CoreRegs) : (finishWait h e b f).pwr = h.pwr := rfl
@[simp] theorem finishWait_thm (h : Hw) (e : EaselId) (b : Bool) (f : CoreRegs → CoreRegs) : (finishWait h e b f).thm = h.thm := rfl
@[simp] theorem finishWait_sup (h : Hw) (e : EaselId) (b : Bool) (f : CoreRegs → CoreRegs) : (finishWait h e b f).sup = h.sup := rfl
@[simp] theorem finishWait_bru (h : Hw) (e : EaselId) (b : Bool) (f : CoreRegs → CoreRegs) : (finishWait h e b f).bru = h.bru := rfl
@[simp] theorem finishWait_fwu (h : Hw) (e : EaselId) (b : Bool) (f : CoreRegs → CoreRegs) : (finishWait h e b f).fwu = h.fwu := rfl
@[simp] theorem finishWait_tray (h : Hw) (e : EaselId) (b : Bool) (f : CoreRegs → CoreRegs) : (finishWait h e b f).tray = h.tray := rfl
@[simp] theorem finishWait_pins (h : Hw) (e : EaselId) (b : Bool) (f : CoreRegs → CoreRegs) : (finishWait h e b f).pins = h.pins := rfl
@[simp] theorem finishWait_out (h : Hw) (e : EaselId) (b : Bool) (f : CoreRegs → CoreRegs) : (finishWait h e b f).out = h.out := rfl

/-! ### stopGlaze -/

@[simp] theorem stopGlaze_now (h : Hw) (c : CtxId) : (stopGlaze h c).now = h.now := rfl
@[simp] theorem stopGlaze_free (h : Hw) (c : CtxId) : (stopGlaze h c).free = h.free := rfl
@[simp] theorem stopGlaze_regs (h : Hw) (c : CtxId) : (stopGlaze h c).regs = h.regs := rfl
@[simp] theorem stopGlaze_easels (h : Hw) (c : CtxId) : (stopGlaze h c).easels = h.easels := rfl
@[simp] theorem stopGlaze_mem (h : Hw) (c : CtxId) : (stopGlaze h c).mem = h.mem := rfl
@[simp] theorem stopGlaze_sk (h : Hw) (c : CtxId) : (stopGlaze h c).sk = h.sk := rfl
@[simp] theorem stopGlaze_memctl (h : Hw) (c : CtxId) : (stopGlaze h c).memctl = h.memctl := rfl
@[simp] theorem stopGlaze_sync (h : Hw) (c : CtxId) : (stopGlaze h c).sync = h.sync := rfl
@[simp] theorem stopGlaze_ports (h : Hw) (c : CtxId) : (stopGlaze h c).ports = h.ports := rfl
@[simp] theorem stopGlaze_rte (h : Hw) (c : CtxId) : (stopGlaze h c).rte = h.rte := rfl
@[simp] theorem stopGlaze_ftc (h : Hw) (c : CtxId) : (stopGlaze h c).ftc = h.ftc := rfl
@[simp] theorem stopGlaze_col (h : Hw) (c : CtxId) : (stopGlaze h c).col = h.col := rfl
@[simp] theorem stopGlaze_hif (h : Hw) (c : CtxId) : (stopGlaze h c).hif = h.hif := rfl
@[simp] theorem stopGlaze_evc (h : Hw) (c : CtxId) : (stopGlaze h c).evc = h.evc := rfl
@[simp] theorem stopGlaze_ctxs (h : Hw) (c : CtxId) : (stopGlaze h c).ctxs = h.ctxs := rfl
@[simp] theorem stopGlaze_sec (h : Hw) (c : CtxId) : (stopGlaze h c).sec = h.sec := rfl
@[simp] theorem stopGlaze_flt (h : Hw) (c : CtxId) : (stopGlaze h c).flt = h.flt := rfl
@[simp] theorem stopGlaze_pwr (h : Hw) (c : CtxId) : (stopGlaze h c).pwr = h.pwr := rfl
@[simp] theorem stopGlaze_thm (h : Hw) (c : CtxId) : (stopGlaze h c).thm = h.thm := rfl
@[simp] theorem stopGlaze_sup (h : Hw) (c : CtxId) : (stopGlaze h c).sup = h.sup := rfl
@[simp] theorem stopGlaze_bru (h : Hw) (c : CtxId) : (stopGlaze h c).bru = h.bru := rfl
@[simp] theorem stopGlaze_fwu (h : Hw) (c : CtxId) : (stopGlaze h c).fwu = h.fwu := rfl
@[simp] theorem stopGlaze_tray (h : Hw) (c : CtxId) : (stopGlaze h c).tray = h.tray := rfl
@[simp] theorem stopGlaze_pins (h : Hw) (c : CtxId) : (stopGlaze h c).pins = h.pins := rfl
@[simp] theorem stopGlaze_out (h : Hw) (c : CtxId) : (stopGlaze h c).out = h.out := rfl

/-! ### Reading after writing -/

@[simp] theorem Hw.reg_setReg (h : Hw) (k : Nat) (v : Word) : (h.setReg k v).reg k = v := by
  simp [Hw.reg, Hw.setReg]

theorem Hw.reg_setReg_ne (h : Hw) {k k' : Nat} (v : Word) (hk : k' ≠ k) : (h.setReg k v).reg k' = h.reg k' := by
  simp [Hw.reg, Hw.setReg, SMap.get_put_ne _ _ _ hk]

@[simp] theorem Hw.easel_setEasel (h : Hw) (e : EaselId) (x : Easel) : (h.setEasel e x).easel e = x := by
  simp [Hw.easel, Hw.setEasel]

theorem Hw.easel_setEasel_ne (h : Hw) {e e' : EaselId} (x : Easel) (he : e' ≠ e) :
    (h.setEasel e x).easel e' = h.easel e' := by
  simp only [Hw.easel, Hw.setEasel]
  exact SMap.get_put_ne _ _ _ (fun hv => he (Fin.ext hv))

@[simp] theorem Hw.easel_modEasel (h : Hw) (e : EaselId) (f : Easel → Easel) :
    (h.modEasel e f).easel e = f (h.easel e) := by simp [Hw.modEasel]

theorem Hw.easel_modEasel_ne (h : Hw) {e e' : EaselId} (f : Easel → Easel) (he : e' ≠ e) :
    (h.modEasel e f).easel e' = h.easel e' := Hw.easel_setEasel_ne h _ he

@[simp] theorem Hw.ctx_setCtx (h : Hw) (c : CtxId) (x : Ctx) : (h.setCtx c x).ctx c = x := by
  simp [Hw.ctx, Hw.setCtx]

theorem Hw.ctx_setCtx_ne (h : Hw) {c c' : CtxId} (x : Ctx) (hc : c' ≠ c) :
    (h.setCtx c x).ctx c' = h.ctx c' := by
  simp only [Hw.ctx, Hw.setCtx]
  exact SMap.get_put_ne _ _ _ (fun hv => hc (Fin.ext hv))

@[simp] theorem Hw.ctx_modCtx (h : Hw) (c : CtxId) (f : Ctx → Ctx) : (h.modCtx c f).ctx c = f (h.ctx c) := by
  simp [Hw.modCtx]

theorem Hw.ctx_modCtx_ne (h : Hw) {c c' : CtxId} (f : Ctx → Ctx) (hc : c' ≠ c) :
    (h.modCtx c f).ctx c' = h.ctx c' := Hw.ctx_setCtx_ne h _ hc

/-! ### Core registers -/

/-- s0 reads as 0 whatever is written. -/
@[simp] theorem CoreRegs.get_zero (r : CoreRegs) : r.get 0 = 0 := rfl

theorem CoreRegs.get_put (r : CoreRegs) (i j : BitVec 5) (v : Word) :
    (r.put i v).get j = if j = i ∧ i ≠ 0 then v else r.get j := by
  unfold CoreRegs.put CoreRegs.get
  by_cases hi : i = 0#5
  · simp [hi]
  · by_cases hj : j = i
    · simp [hj, hi]
    · have : j.toNat ≠ i.toNat := fun hv => hj (BitVec.eq_of_toNat_eq hv)
      simp [hi, hj, SMap.get_set, this]

/-- p0 reads as 1 whatever is written. -/
@[simp] theorem CoreRegs.pget_zero (r : CoreRegs) : r.pget 0 = true := rfl

@[simp] theorem Easel.cur_setCur (x : Easel) (r : CoreRegs) : (x.setCur r).cur = r := by
  unfold Easel.setCur Easel.cur
  by_cases h : x.service <;> simp [h]

@[simp] theorem Easel.setCur_service (x : Easel) (r : CoreRegs) : (x.setCur r).service = x.service := by
  unfold Easel.setCur
  by_cases h : x.service <;> simp [h]

@[simp] theorem Easel.setCur_setCur (x : Easel) (r q : CoreRegs) : (x.setCur r).setCur q = x.setCur q := by
  unfold Easel.setCur
  by_cases h : x.service <;> simp [h]

end Sys2Proof.Machine
end

