-- ==== Sys2Proof/Laws/Issue.lean ====
section
/-! SUPPORT. What an instruction that issues does: the guard and the fetch are passed, its effect is taken; what
writing a register and going on leaves, and what a precise fault leaves. -/

namespace Sys2Proof.Machine

/-- A fetch that meets no corrected error counts nothing. -/
theorem fetchTouch_clean {h : Hw} {e : EaselId}
    (ht : (h.easel e).service = true ∨ h.mem.corrected (h.easel e).core.pc.toNat 8 = 0) : fetchTouch h e = h := by
  obtain ht | ht := ht <;> simp [fetchTouch, touchRead, ht]

/-- An instruction that issues with no decoding fault takes its effect. -/
theorem issue_takes {s : State} {e : EaselId} {pneg : Bool} {pred : BitVec 3} (hi : Issues s e pneg pred)
    (w : Word) (body : Hw → Eff) :
    issue s.hw e w pneg pred none body = applyEff s.hw e w (body s.hw) := by
  obtain ⟨⟨hr, hf, ht⟩, hg⟩ := hi
  have hg' : guardTrue (s.hw.easel e) pneg pred = true := by
    simpa [guardTrue, GuardHolds] using hg
  simp [issue, hr, hf, fetchTouch_clean ht, hg']

/-- A decoding fault is raised whatever the guard. -/
theorem issue_faults {s : State} {e : EaselId} (pneg : Bool) (pred : BitVec 3) (hi : AtInstruction s e)
    (w : Word) (cls : BitVec 8) (body : Hw → Eff) :
    issue s.hw e w pneg pred (some cls) body =
      coreFault s.hw e (s.hw.easel e).service cls true (regsOf s e).serial (regsOf s e).pc 0 w := by
  obtain ⟨hr, hf, ht⟩ := hi
  simp [issue, hr, hf, fetchTouch_clean ht, regsOf]

/-- With its guard false an instruction that decodes only lets the core go on. -/
theorem issue_skips {s : State} {e : EaselId} {pneg : Bool} {pred : BitVec 3} (hi : AtInstruction s e)
    (hg : ¬ GuardHolds (s.hw.easel e) pneg pred) (w : Word) (body : Hw → Eff) :
    issue s.hw e w pneg pred none body = advance s.hw e := by
  obtain ⟨hr, hf, ht⟩ := hi
  have hg' : guardTrue (s.hw.easel e) pneg pred = false := by
    simpa [guardTrue, GuardHolds] using hg
  simp [issue, hr, hf, fetchTouch_clean ht, hg']

/-- Changing the registers in force of one easel changes nothing else. -/
theorem onlyRegs_modCur (s : State) (e : EaselId) (f : CoreRegs → CoreRegs) :
    OnlyRegs s { s with hw := s.hw.modCur e f } e := by
  refine ⟨⟨rfl, rfl, fun e' he => ?_⟩, ?_⟩
  · exact Hw.easel_modEasel_ne s.hw _ he
  · simp [regsOf, Hw.modCur]

/-- Two changes of registers in a row. -/
theorem Hw.modCur_modCur (h : Hw) (e : EaselId) (f g : CoreRegs → CoreRegs) :
    ((h.modCur e f).modCur e g).easel e = (h.easel e).setCur (g (f (h.easel e).cur)) := by
  simp [Hw.modCur]

theorem advanceTo_easel (h : Hw) (e : EaselId) (pc : Word) :
    (advanceTo h e pc).easel e =
      (h.easel e).setCur ((h.easel e).cur.advance (h.easel e).service pc) := by
  simp [advanceTo]

theorem advanceTo_easel_ne (h : Hw) {e e' : EaselId} (pc : Word) (he : e' ≠ e) :
    (advanceTo h e pc).easel e' = h.easel e' := Hw.easel_modEasel_ne h _ he

/-- Going on after a change of registers `f`, at `pc`. -/
theorem goes_after (s : State) (e : EaselId) (f : CoreRegs → CoreRegs) (pc : Word) :
    let t : State := { s with hw := advanceTo (s.hw.modCur e f) e pc }
    OnlyRegs s t e ∧ regsOf t e = { f (regsOf s e) with
      pc := pc, serial := if (s.hw.easel e).service then (f (regsOf s e)).serial
        else (f (regsOf s e)).serial + 1 } := by
  refine ⟨⟨⟨rfl, rfl, fun e' he => ?_⟩, ?_⟩, ?_⟩
  · show (advanceTo (s.hw.modCur e f) e pc).easel e' = s.hw.easel e'
    rw [advanceTo_easel_ne _ _ he]
    exact Hw.easel_modEasel_ne s.hw _ he
  · simp [regsOf, advanceTo_easel, Hw.modCur]
  · simp [regsOf, advanceTo_easel, Hw.modCur, CoreRegs.advance]

@[simp] theorem CoreRegs.put_pc (r : CoreRegs) (i : BitVec 5) (v : Word) : (r.put i v).pc = r.pc := by
  unfold CoreRegs.put; split <;> rfl
@[simp] theorem CoreRegs.put_serial (r : CoreRegs) (i : BitVec 5) (v : Word) :
    (r.put i v).serial = r.serial := by unfold CoreRegs.put; split <;> rfl

/-- Writing a scalar register and going on elsewhere. -/
theorem writesAndGoes_setS (s : State) (e : EaselId) (rd : BitVec 5) (v pc : Word) :
    WritesAndGoes s { s with hw := advanceTo (s.hw.setS e rd v) e pc } e rd v pc := by
  obtain ⟨h1, h2⟩ := goes_after s e (fun r => r.put rd v) pc
  refine ⟨h1, ?_, fun i hi => ?_, ?_⟩
  · rw [Hw.setS, h2]
    show ((regsOf s e).put rd v).get rd = _
    rw [CoreRegs.get_put]
    by_cases h : rd = 0#5
    · subst h
      simp
      rfl
    · simp [h]
  · rw [Hw.setS, h2]
    show ((regsOf s e).put rd v).get i = _
    rw [CoreRegs.get_put]
    simp [hi]
  · rw [Hw.setS, h2]
    simp only [serialAfter, CoreRegs.put_serial]
    unfold CoreRegs.put
    split <;> rfl

/-- Writing a scalar register and going on at the next instruction. -/
theorem writesS_setS (s : State) (e : EaselId) (rd : BitVec 5) (v : Word) :
    WritesS s { s with hw := advance (s.hw.setS e rd v) e } e rd v := by
  have h : ((s.hw.setS e rd v).easel e).cur.pc = (regsOf s e).pc := by
    simp [Hw.setS, Hw.modCur, regsOf]
  have := writesAndGoes_setS s e rd v ((regsOf s e).pc + 8)
  rw [advance, h]
  exact this

/-- Going on with no register changed. -/
theorem movesTo_advanceTo (s : State) (e : EaselId) (pc : Word) :
    MovesTo s { s with hw := advanceTo s.hw e pc } e pc := by
  refine ⟨⟨⟨rfl, rfl, fun e' he => advanceTo_easel_ne _ _ he⟩, ?_⟩, ?_⟩
  · simp [regsOf, advanceTo_easel]
  · simp [regsOf, advanceTo_easel, CoreRegs.advance, serialAfter]

end Sys2Proof.Machine
end

