-- ==== Sys2Proof/Laws/Links.lean ====
section
/-! SUPPORT. Laws of flits: fixed-length pieces of byte strings, and that a flit that this module forms passes
its CRC. -/

namespace Sys2Proof.Machine

/-- A piece has the length that is asked for. -/
@[simp] theorem length_sub (b : Bytes) (i n : Nat) : (sub b i n).length = n := by
  simp only [sub, List.length_append, List.length_replicate, List.length_take, List.length_drop]
  omega

/-- A string of its own length is its whole piece. -/
theorem sub_self {b : Bytes} {n : Nat} (h : b.length = n) : sub b 0 n = b := by
  subst h
  simp [sub]

/-- Taking the first bytes once more changes nothing. -/
@[simp] theorem sub_sub (b : Bytes) (i n : Nat) : sub (sub b i n) 0 n = sub b i n := sub_self (length_sub b i n)

/-- A flit with the CRC that its header and data give is good (R302). -/
theorem flitGood_mkFlit (seq ack : BitVec 12) (nack : Bool) (vc credits kind : Nat) (data : Bytes) :
    flitGood (mkFlit seq ack nack vc credits kind data) = true := by
  simp [flitGood, mkFlit]

/-- Any other CRC is refused. -/
theorem flitGood_iff (f : Flit) : flitGood f = true ↔ crc64 (wBytes f.hdr ++ sub f.data 0 240) = f.crc := by
  simp [flitGood]

end Sys2Proof.Machine
end

