-- ==== Sys2Proof/Laws/Mem.lean ====
section
/-! SUPPORT. Laws of the three memories: a byte read after a write, and the canonical form, which every memory
operation keeps. -/

namespace Sys2Proof.Machine

/-! ### Reading after writing -/

/-- Clearing bit `i` of a 64-bit mask clears that bit alone. -/
theorem testBit_clear (m : BitVec 64) {i j : Nat} (hj : j < 64) :
    (m &&& ~~~(1#64 <<< i)).toNat.testBit j = (m.toNat.testBit j && decide (j ≠ i)) := by
  rw [BitVec.testBit_toNat, BitVec.testBit_toNat, BitVec.getLsbD_and, BitVec.getLsbD_not,
    BitVec.getLsbD_shiftLeft]
  simp only [hj, decide_true, Bool.true_and, BitVec.getLsbD_one]
  have : (!(!decide (j < i) && decide (j - i = 0))) = decide (j ≠ i) := by
    by_cases h : j = i
    · simp [h]
    · by_cases h2 : j < i
      · simp [h, h2]
      · have : j - i ≠ 0 := by omega
        simp [h, this]
  rw [← this]
  simp

/-- A slot that has forgotten a byte does not show it. -/
theorem slotByte_forget_same (a : Nat) (s : SketchSlot) : slotByte (slotForget a s) a = none := by
  unfold slotForget slotByte
  have hb : a % 64 < 64 := Nat.mod_lt _ (by decide)
  by_cases h : a / 64 = s.granule
  · simp only [h, if_true, testBit_clear s.mask hb]
    simp
  · simp [h]

theorem slotByte_forget_ne {a a' : Nat} (s : SketchSlot) (h : a' ≠ a) :
    slotByte (slotForget a s) a' = slotByte s a' := by
  unfold slotForget slotByte
  have hb : a % 64 < 64 := Nat.mod_lt _ (by decide)
  have hb' : a' % 64 < 64 := Nat.mod_lt _ (by decide)
  by_cases hg : a / 64 = s.granule
  · by_cases hg' : a' / 64 = s.granule
    · have hne : a' % 64 ≠ a % 64 := by omega
      simp only [hg, hg', if_true, testBit_clear s.mask hb']
      simp [hne]
    · simp [hg, hg']
  · simp [hg]

theorem overlayByte_forget_same (a : Nat) (l : List SketchSlot) :
    overlayByte (l.map (slotForget a)) a = none := by
  induction l with
  | nil => rfl
  | cons s l ih => simp [overlayByte, ih, slotByte_forget_same]

theorem overlayByte_forget_ne {a a' : Nat} (l : List SketchSlot) (h : a' ≠ a) :
    overlayByte (l.map (slotForget a)) a' = overlayByte l a' := by
  induction l with
  | nil => rfl
  | cons s l ih => simp [overlayByte, ih, slotByte_forget_ne s h]

/-- The byte written reads back. -/
@[simp] theorem Mem.byte_setByte_same (m : Mem) (a : Nat) (b : Byte) : (m.setByte a b).byte a = b := by
  simp [Mem.byte, Mem.setByte, overlayByte_forget_same]

/-- Every other byte is as before. -/
theorem Mem.byte_setByte_ne (m : Mem) {a a' : Nat} (b : Byte) (h : a' ≠ a) :
    (m.setByte a b).byte a' = m.byte a' := by
  simp [Mem.byte, Mem.setByte, overlayByte_forget_ne _ h, SMap.get_set, h]

theorem Mem.byte_setByte (m : Mem) (a a' : Nat) (b : Byte) :
    (m.setByte a b).byte a' = if a' = a then b else m.byte a' := by
  by_cases h : a' = a
  · simp [h]
  · simp [h, Mem.byte_setByte_ne]

@[simp] theorem Mem.setByte_ecc (m : Mem) (a : Nat) (b : Byte) : (m.setByte a b).ecc = m.ecc := rfl

/-- A write of bytes from `a` leaves every byte outside them. -/
theorem Mem.byte_putBytes_out (m : Mem) (a0 n a : Nat) (bs : Bytes) (x : Nat)
    (h : x < a ∨ a + bs.length ≤ x) : (m.putBytes a0 n a bs).byte x = m.byte x := by
  induction bs generalizing m a with
  | nil => rfl
  | cons b bs ih =>
    simp only [List.length_cons] at h
    simp only [Mem.putBytes]
    rw [ih _ (a + 1) (by omega)]
    split
    · rfl
    · exact Mem.byte_setByte_ne _ _ (by omega)

@[simp] theorem Mem.putBytes_ecc (m : Mem) (a0 n a : Nat) (bs : Bytes) :
    (m.putBytes a0 n a bs).ecc = m.ecc := by
  induction bs generalizing m a with
  | nil => rfl
  | cons b bs ih =>
    simp only [Mem.putBytes]
    rw [ih]
    split <;> rfl

/-- A write whose words are all correctable or covered puts every byte. -/
theorem Mem.byte_putBytes_in (m : Mem) (a0 n a : Nat) (bs : Bytes) (i : Nat) (hi : i < bs.length)
    (hw : ∀ j < bs.length, (m.bad ((a + j) / 8) && !covers a0 n ((a + j) / 8)) = false) :
    (m.putBytes a0 n a bs).byte (a + i) = bs[i] := by
  induction bs generalizing m a i with
  | nil => simp at hi
  | cons b bs ih =>
    have h0 := hw 0 (by simp)
    simp only [Nat.add_zero] at h0
    simp only [Mem.putBytes, h0]
    cases i with
    | zero =>
      rw [Mem.byte_putBytes_out _ _ _ _ _ _ (by omega)]
      simp
    | succ i =>
      have := ih (m.setByte a b) (a + 1) i (by simpa using hi) (fun j hj => by
        have := hw (j + 1) (by simpa using hj)
        simpa [Mem.bad, Nat.add_assoc, Nat.add_comm 1 j] using this)
      simpa [Nat.add_assoc, Nat.add_comm 1 i] using this

/-- Setting bytes to what they show changes no byte. -/
theorem Mem.byte_foldl_own (m : Mem) (w : Nat) (l : List Nat) (g : Mem) (hg : ∀ x, g.byte x = m.byte x) (x : Nat) :
    (l.foldl (fun g i => g.setByte (8 * w + i) (m.byte (8 * w + i))) g).byte x = m.byte x := by
  induction l generalizing g with
  | nil => exact hg x
  | cons i l ih =>
    apply ih
    intro y
    rw [Mem.byte_setByte]
    split
    · next h => rw [h]
    · exact hg y

/-- What memory shows does not depend on the check bits. -/
@[simp] theorem Mem.byte_ecc (m : Mem) (c : SMap Nat) (x : Nat) : Mem.byte { m with ecc := c } x = m.byte x := rfl

/-- Bringing a varnished word home changes nothing that memory shows. -/
@[simp] theorem Mem.byte_mend (m : Mem) (w x : Nat) : (m.mend w).byte x = m.byte x := by
  unfold Mem.mend
  split
  · exact Mem.byte_foldl_own m w _ m (fun _ => rfl) x
  · rfl

theorem Mem.foldl_setByte_ecc (f : Nat → Nat) (v : Nat → Byte) (l : List Nat) (g : Mem) :
    (l.foldl (fun g i => g.setByte (f i) (v i)) g).ecc = g.ecc := by
  induction l generalizing g with
  | nil => rfl
  | cons i l ih => exact ih _

/-- No word becomes uncorrectable by it. -/
theorem Mem.bad_mend (m : Mem) (w j : Nat) (h : m.bad j = false) : (m.mend w).bad j = false := by
  unfold Mem.mend
  split
  · simp only [Mem.bad, Mem.foldl_setByte_ecc] at h ⊢
    by_cases hj : j = w
    · subst hj; rw [SMap.get_del_same]; rfl
    · rw [SMap.get_del_ne _ _ hj]; exact h
  · exact h

/-- A write leaves every byte outside the bytes written. -/
theorem Mem.byte_write_out (m : Mem) (a : Nat) (bs : Bytes) (x : Nat) (h : x < a ∨ a + bs.length ≤ x) :
    (m.write a bs).byte x = m.byte x := by
  simp only [Mem.write, Mem.byte_ecc]
  rw [Mem.byte_putBytes_out _ a bs.length a bs x h, Mem.byte_mend, Mem.byte_mend]

/-- A write puts its bytes where no uncorrectable word would have to be merged. -/
theorem Mem.byte_write_in (m : Mem) (a : Nat) (bs : Bytes) (i : Nat) (hi : i < bs.length)
    (hw : ∀ j < bs.length, (m.bad ((a + j) / 8) && !covers a bs.length ((a + j) / 8)) = false) :
    (m.write a bs).byte (a + i) = bs[i] := by
  simp only [Mem.write, Mem.byte_ecc]
  refine Mem.byte_putBytes_in _ a bs.length a bs i hi (fun j hj => ?_)
  have h := hw j hj
  simp only [Bool.and_eq_false_iff] at h ⊢
  exact h.imp (fun h => Mem.bad_mend _ _ _ (Mem.bad_mend _ _ _ h)) id

/-! ### The canonical form -/

theorem Mem.setByte_wf (m : Mem) (a : Nat) (b : Byte) (h : m.wf = true) : (m.setByte a b).wf = true := by
  simp only [Mem.wf, Bool.and_eq_true] at h ⊢
  exact ⟨SMap.wf_set 0 a b h.1, h.2⟩

theorem Mem.putBytes_wf (m : Mem) (a0 n a : Nat) (bs : Bytes) (h : m.wf = true) :
    (m.putBytes a0 n a bs).wf = true := by
  induction bs generalizing m a with
  | nil => exact h
  | cons b bs ih =>
    simp only [Mem.putBytes]
    apply ih
    split
    · exact h
    · exact Mem.setByte_wf m a b h

theorem Mem.foldl_setByte_wf (f : Nat → Nat) (v : Nat → Byte) (l : List Nat) (g : Mem) (h : g.wf = true) :
    (l.foldl (fun g i => g.setByte (f i) (v i)) g).wf = true := by
  induction l generalizing g with
  | nil => exact h
  | cons i l ih => exact ih _ (Mem.setByte_wf g _ _ h)

theorem Mem.mend_wf (m : Mem) (w : Nat) (h : m.wf = true) : (m.mend w).wf = true := by
  unfold Mem.mend
  split
  · have h1 := Mem.foldl_setByte_wf (8 * w + ·) (fun i => m.byte (8 * w + i)) (List.range 8) m h
    simp only [Mem.wf, Bool.and_eq_true] at h1 ⊢
    exact ⟨h1.1, SMap.wf_filter 0 _ h1.2⟩
  · exact h

theorem Mem.write_wf (m : Mem) (a : Nat) (bs : Bytes) (h : m.wf = true) : (m.write a bs).wf = true := by
  have h1 := Mem.putBytes_wf _ a bs.length a bs
    (Mem.mend_wf _ ((a + bs.length - 1) / 8) (Mem.mend_wf m (a / 8) h))
  simp only [Mem.wf, Bool.and_eq_true] at h1 ⊢
  exact ⟨h1.1, SMap.wf_filter 0 _ h1.2⟩

theorem Mem.zero_wf (m : Mem) (a n : Nat) (h : m.wf = true) : (m.zero a n).wf = true := by
  simp only [Mem.wf, Bool.and_eq_true] at h ⊢
  exact ⟨SMap.wf_filter 0 _ h.1, SMap.wf_filter 0 _ h.2⟩

theorem Mem.scrubbed_wf (m : Mem) (a n : Nat) (h : m.wf = true) : (m.scrubbed a n).wf = true := by
  simp only [Mem.wf, Bool.and_eq_true] at h ⊢
  exact ⟨h.1, SMap.wf_filter 0 _ h.2⟩

/-- Writing check bits of one word keeps the form. -/
theorem Mem.ecc_set_wf (m : Mem) (w n : Nat) (h : m.wf = true) :
    Mem.wf { m with ecc := SMap.set 0 m.ecc w n } = true := by
  simp only [Mem.wf, Bool.and_eq_true] at h ⊢
  exact ⟨h.1, SMap.wf_set 0 w n h.2⟩

/-- The form does not depend on the slots not yet folded. -/
theorem Mem.unfolded_wf (m : Mem) (l : List SketchSlot) (h : m.wf = true) :
    Mem.wf { m with unfolded := l } = true := h

/-- Zeroed bytes read zero where no varnished slot lies over them. -/
theorem SMap.get_eraseRange {α : Type} (d : α) (m : SMap α) (a b k : Nat) :
    SMap.get d (SMap.eraseRange m a b) k = if a ≤ k ∧ k < b then d else SMap.get d m k := by
  induction m with
  | nil => simp [SMap.eraseRange]
  | cons c m ih =>
    obtain ⟨j, w⟩ := c
    by_cases hj : a ≤ j ∧ j < b
    · have : (decide (j < a) || decide (b ≤ j)) = false := by simp; omega
      simp only [SMap.eraseRange, List.filter_cons, this] at ih ⊢
      by_cases hk : j = k
      · subst hk
        simp [hj] at ih ⊢
        exact ih
      · simpa [SMap.get, hk] using ih
    · have : (decide (j < a) || decide (b ≤ j)) = true := by simp; omega
      simp only [SMap.eraseRange, List.filter_cons, this, if_true, SMap.get] at ih ⊢
      by_cases hk : j = k
      · subst hk
        simp [hj]
      · simpa [hk] using ih

end Sys2Proof.Machine
end

