-- ==== Sys2Proof/Tests/Slice0.lean ====
section
/-! SUPPORT. Tests: ill-formed commands are refused, words decode as Tables 3-5 to 3-8 spell them, single steps
give the results of the manual's rules, and each statement's hypotheses are met by a small state. -/

namespace Sys2Proof.Tests

-- The kernel checks these in turn.
set_option Elab.async false

open Sys2Proof Sys2Proof.Machine

/-! ### Small states -/

/-- A ready module: easels 0, 1, 2 and 52 in force, the host link up, the clocks running. -/
def hw0 : Hw :=
  let z := Hw.reset
  { z with
    now := 1000000000000
    pins := { z.pins with computeOn := true, fault := false }
    bru := { z.bru with phase := 7, ready := true, enabled := [0, 1, 2, 52] }
    memctl := { z.memctl with chUp := BitVec.allOnes 96, trained := 3, zeroed := 3, canvasReady := 3 }
    hif := { z.hif with link := { pm := .l0, gen := 6, width := 16, flit := true }, configured := true }
    sec := { z.sec with ready := true } }

/-- Context 1 of job 7 holds LPDDR6 page 4 and is loaded on easel 0; s1 holds `a`, s2 `b`. -/
def running (a b : Word) : Hw :=
  let h := hw0.setCtx 1 { Ctx.init with state := 3, job := 7, mask := 1 }
  let h1 := { h with ctxs := { h.ctxs with owner := [(4, .ctx 1 true)], loaded := [(0, 1)] } }
  h1.setEasel 0 { Easel.init with
    loaded := some 1, service := false, idled := false, csCtx := 0x70001
    core := { CoreRegs.init with pc := 0x20000000100, s := [(1, a), (2, b)] } }

/-- The same with the core in service mode at 0x40. -/
def serving (a b : Word) : Hw :=
  (running a b).modEasel 0 (fun x => { x with
    service := true, svcCore := { CoreRegs.init with pc := 0x40, s := [(1, a), (2, b)] } })

def st (h : Hw) : State := { hw := h, pending := [] }

/-- The state after a command, which no command refuses. -/
def after (i : Instr) (h : Hw) : Hw :=
  match Machine.exec i (st h) with
  | .next t => t.hw
  | _ => h

/-- Operands rd = s3, rs1 = s1, rs2 = s2. -/
def fA : FmtA := { pneg := false, pred := 0, rd := 3, rs1 := 1, rs2 := 2, rs3 := 0, low := 0 }
def fI (imm : BitVec 38) : FmtI := { pneg := false, pred := 0, rd := 3, rs1 := 1, imm := imm }

/-! ### Scalar core -/

theorem witness_ScalarInstructionsWriteTableResult :
    Issues (st (running 5 3)) 0 fA.pneg fA.pred ∧ (FmtAI.reg fA).legal ∧ fA.rs3 = 0 ∧ fA.low = 0 ∧
      Issues (st (running 5 3)) 0 false 0 ∧ ({ fA with rs2 := 0 } : FmtA).rs2 = 0 ∧
      ({ fI 1 with rs1 := 0 } : FmtI).rs1 = 0 ∧ (fI 0xFFFFFFFF).imm.toNat < 2 ^ 32 := by decide +kernel

theorem test_add_wraps : ((after (.add 0 (.reg fA)) (running 0xFFFFFFFFFFFFFFFF 3)).easel 0).core.get 3 = 2 := by
  decide +kernel
theorem test_sub_immediate : ((after (.sub 0 (.imm (fI 7))) (running 5 3)).easel 0).core.get 3 =
    0xFFFFFFFFFFFFFFFE := by decide +kernel
theorem test_sar_sign : ((after (.sar 0 (.imm (fI 1))) (running 0x8000000000000000 0)).easel 0).core.get 3 =
    0xC000000000000000 := by decide +kernel
theorem test_div_overflow : ((after (.div 0 fA) (running 0x8000000000000000 0xFFFFFFFFFFFFFFFF)).easel 0).core.get 3 =
    0x8000000000000000 := by decide +kernel
theorem test_rem_by_zero : ((after (.rem 0 fA) (running 5 0)).easel 0).core.get 3 = 5 := by decide +kernel
theorem test_clz : ((after (.clz 0 { fA with rs2 := 0 }) (running 1 0)).easel 0).core.get 3 = 63 := by decide +kernel
theorem test_write_s0_discarded : ((after (.add 0 (.reg { fA with rd := 0 })) (running 5 3)).easel 0).core.get 0 = 0 := by
  decide +kernel

theorem witness_ComparesAndPredicateLogicWritePredicates :
    Issues (st (running 5 3)) 0 false 0 ∧ (FmtAI.imm (fI 3)).legal ∧ (FmtAI.imm (fI 3)).rd.toNat < 8 ∧
      fA.rs3 = 0 ∧ fA.low = 0 ∧ ({ fA with rs1 := 0, rs2 := 0 } : FmtA).rs1 = 0 ∧
      ({ fA with rd := 0, rs2 := 0 } : FmtA).rd = 0 := by decide +kernel
theorem test_lt_signed : ((after (.lt 0 (.reg fA)) (running 0xFFFFFFFFFFFFFFFF 3)).easel 0).core.pget 3 = true := by
  decide +kernel
theorem test_ltu_unsigned : ((after (.ltu 0 (.reg fA)) (running 0xFFFFFFFFFFFFFFFF 3)).easel 0).core.pget 3 = false := by
  decide +kernel

/-- rd, rs1 and rs2 of a branch. -/
def fB (off : BitVec 33) : FmtB := { pneg := false, pred := 0, rd := 0, rs1 := 1, rs2 := 2, off := off }

theorem witness_BranchesAndJumpsGoToTheirTarget :
    Issues (st (running 8 3)) 0 false 0 ∧ (fB 1).rd = 0 ∧ ({ fB 1 with rs1 := 0, rs2 := 0 } : FmtB).rs1 = 0 ∧
      ((fI 8).addr (st (running 8 3)) 0).toNat % 8 = 0 ∧ ((fI 1).addr (st (running 8 3)) 0).toNat % 8 ≠ 0 := by
  decide +kernel
theorem test_bne_back : ((after (.bne 0 (fB 0x1FFFFFFFD)) (running 5 3)).easel 0).core.pc = 0x200000000E8 := by
  decide +kernel
theorem test_jalr_misaligned : ((after (.jalr 0 (fI 1)) (running 8 3)).easel 0).csr.fclass = 0x335 := by decide +kernel

/-! ### Loads, stores, control registers -/

/-- s1 names LPDDR6 byte 0x800000 of the own page 4. -/
def loading (b : Word) : Hw :=
  let h := running 0x800000 b
  { h with mem := { h.mem with cells := [(0x800000, 0x80), (0x800001, 0x12)] } }

theorem witness_LocalLoadsReturnMemoryBytes :
    Issues (st (loading 0)) 0 false 0 ∧
      coreDecode (loading 0) ((loading 0).easel 0) ((fI 0).addr (st (loading 0)) 0) = .local 0x800000 ∧
      0x800000 % 8 = 0 ∧ CleanWords (st (loading 0)) 0x800000 8 ∧
      sbHolds ((loading 0).easel 0) ((fI 0).addr (st (loading 0)) 0) 8 = false := by decide +kernel
theorem test_ldb_sign : ((after (.ldb 0 (fI 0)) (loading 0)).easel 0).core.get 3 = 0xFFFFFFFFFFFFFF80 := by decide +kernel
theorem test_ldhu_order : ((after (.ldhu 0 (fI 0)) (loading 0)).easel 0).core.get 3 = 0x1280 := by decide +kernel

theorem witness_LocalStoresWriteOnlyTheirBytes :
    Issues (st (loading 0)) 0 false 0 ∧
      coreDecode (loading 0) ((loading 0).easel 0) ((fI 0x1FFFF8).addr (st (loading 0)) 0) = .local 0x9FFFF8 ∧
      ((loading 0).easel 0).sb.length < 16 ∧ CleanWords (st (loading 0)) 0x9FFFF8 8 ∧
      sbHolds ((loading 0).easel 0) ((fI 0x1FFFF8).addr (st (loading 0)) 0) 8 = false := by decide +kernel
theorem test_sth_bytes : (after (.sth 0 { fI 2 with rd := 2 }) (loading 0xABCD)).mem.read 0x800000 6 =
    [0x80, 0x12, 0xCD, 0xAB, 0, 0] := by decide +kernel

theorem witness_MisalignedAccessFaultsAndMovesNothing :
    Issues (st (loading 0)) 0 false 0 ∧
      coreDecode (loading 0) ((loading 0).easel 0) ((fI 1).addr (st (loading 0)) 0) = .local 0x800001 ∧
      0x800001 % 2 ≠ 0 ∧
      coreDecode (loading 0) ((loading 0).easel 0) ((fI 0x200000).addr (st (loading 0)) 0) = .fault 0x13 := by
  decide +kernel
theorem test_ldw_misaligned : ((after (.ldw 0 (fI 2)) (loading 0)).easel 0).csr.fclass = 0x314 ∧
    ((after (.ldw 0 (fI 2)) (loading 0)).easel 0).csr.faddr = 0x800002 := by decide +kernel

def fC (csr : BitVec 12) : FmtC := { pneg := false, pred := 0, rd := 3, rs1 := 1, csr := csr, low := 0 }

theorem witness_ControlRegisterInstructionsReadAndWrite :
    Issues (st (running 5 3)) 0 false 0 ∧ Issues (st (serving 5 3)) 0 false 0 ∧
      (csrRead (running 5 3) 0 0x10).isSome = true ∧ (csrRead (running 5 3) 0 0x13).isSome = true ∧
      (csrRead (serving 5 3) 0 0x100).isSome = true ∧ (csrRead (running 5 3) 0 1).isSome = true ∧
      (csrRead (running 5 3) 0 0).isSome = true ∧ csrRead (running 5 3) 0 9 = none ∧
      ((running 5 3).easel 0).service = false := by decide +kernel
theorem test_csrw_scratch : csrRead (after (.csrw 0 (fC 0x10)) (running 5 3)) 0 0x10 = some 5 := by decide +kernel
theorem test_csrw_read_only : ((after (.csrw 0 (fC 0x02)) (running 5 3)).easel 0).csr.fclass = 0x333 := by decide +kernel
theorem test_cs_id : csrRead (running 5 3) 207 5 = some (207 + 0xFF00 + 0x10000 + 0x60000 + 7 * 0x80000 + 12 * 0x400000) := by
  decide +kernel

theorem witness_ControlRegistersShowTheEaselState :
    ((running 5 3).easel 0).me.length ≤ 64 ∧ (0x106 : Nat) ≤ 0x106 := by decide +kernel

def fT : FmtT := { pneg := false, pred := 0, rd := 0, rs1 := 1, td := 63, td2 := 0, word := 0, low := 0 }

theorem witness_TileDescriptorInstructionsWriteTheirWords :
    Issues (st (running 5 3)) 0 fT.pneg fT.pred ∧ fT.low = 0 ∧ fT.rd = 0 ∧ fT.td2 = 0 ∧ fT.word = 0 ∧
      ({ fT with rs1 := 0, td2 := 1 } : FmtT).rs1 = 0 := by decide +kernel
theorem test_tdadd : ((after (.tdadd 0 fT) (after (.tdw 0 fT) (running 5 3))).easel 0).core.tdw 63 0 = 10 := by
  decide +kernel

def fS (imm : BitVec 38) : FmtI := { pneg := false, pred := 0, rd := 0, rs1 := 0, imm := imm }

theorem witness_SystemInstructionsTakeTheirEffect :
    Issues (st (running 5 3)) 0 false 0 ∧ (fS 5).rd = 0 ∧ (fS 5).rs1 = 0 ∧ (fS 0).imm = 0 ∧
      ((running 5 3).easel 0).service = false ∧ (fS 5).imm.toNat ≤ 5 ∧ 5 < (fS 0xFFFF).imm.toNat ∧
      (fS 0xFFFF).imm.toNat < 2 ^ 16 := by decide +kernel
theorem test_trap : ((after (.trap 0 (fS 9)) (running 5 3)).easel 0).csr.faddr = 9 := by decide +kernel
theorem test_exit : ((after (.exit 0 (fS 0)) (running 5 3)).easel 0).exited = true := by decide +kernel

theorem witness_PrivilegedInstructionsRunInServiceMode :
    Issues (st (running 0x800000 3)) 0 false 0 ∧ Issues (st (serving 0x800000 3)) 0 false 0 ∧
      ({ fI 0 with rd := 0 } : FmtI).rd = 0 ∧
      coreDecode (serving 0x800000 3) ((serving 0x800000 3).easel 0) 0x800000 = .local 0x800000 ∧
      CleanWords (st (serving 0x800000 3)) 0x800000 saveLen ∧ (serving 0x800000 3).up 0 = true ∧
      coreDecode (serving 0x800004 3) ((serving 0x800004 3).easel 0) 0x800004 = .local 0x800004 ∧ 0x800004 % 8 ≠ 0 ∧
      coreDecode (serving 0x800000 3) ((serving 0x800000 3).easel 0) 0x20000600000 = .fault 0x12 ∧
      (hw0.easel 1).service = true ∧ (hw0.easel 1).idled = true ∧ hw0.up 3 = false ∧
      coreReady (running 5 3) 0 = true ∧ fetchFault (running 5 3) 0 = none := by decide +kernel
theorem test_srvret : ((after (.srvret 0 (fS 0)) (serving 5 3)).easel 0).service = false := by decide +kernel
theorem test_srvsave_refused : ((after (.srvsave 0 { fI 0 with rd := 0 }) (running 0x800000 3)).easel 0).csr.fclass =
    0x332 := by decide +kernel

theorem witness_FalseGuardOnlyMovesOn :
    decodeWord 0 0x0680184400000000 = some (.add 0 (.reg { fA with pneg := true, pred := 2 })) ∧
      AtInstruction (st (running 5 3)) 0 ∧ ((running 5 3).easel 0).service = false ∧
      ¬ GuardHolds ((running 5 3).easel 0) true 0 := by decide +kernel
theorem test_false_guard : ((after (.add 0 (.reg { fA with pneg := true })) (running 5 3)).easel 0).core =
    { ((running 5 3).easel 0).core with pc := 0x20000000108, serial := 1 } := by decide +kernel

/-! ### Words (Tables 3-5 to 3-8) -/

/-- The worked words of chapter 3: ADD s3, s1, s2 under NOT p2; LDD s5, [s4 + 0x40]; ADD s6, s6, -1; BNE s6, s0, -3. -/
theorem test_words_of_chapter_3 :
    decodeWord 9 0x0680184400000000 = some (.add 9 (.reg
      { pneg := true, pred := 2, rd := 3, rs1 := 1, rs2 := 2, rs3 := 0, low := 0 })) ∧
    decodeWord 9 0x3006290000000040 = some (.ldd 9 { pneg := false, pred := 0, rd := 5, rs1 := 4, imm := 0x40 }) ∧
    decodeWord 9 0x080031BFFFFFFFFF = some (.add 9 (.imm
      { pneg := false, pred := 0, rd := 6, rs1 := 6, imm := 0x3FFFFFFFFF })) ∧
    decodeWord 9 0x20040181FFFFFFFD = some (.bne 9
      { pneg := false, pred := 0, rd := 0, rs1 := 6, rs2 := 0, off := 0x1FFFFFFFD }) := by decide +kernel

theorem test_words_undefined : decodeWord 0 0xC000000000000000 = none ∧ decodeWord 0 0 = none := by decide +kernel

theorem witness_WordsAndHeadersReadBackAsEncoded :
    encodeWord (.add 0 (.reg fA)) = some (wordA 0x01 0x00 fA) ∧ (wordA 0x01 0x00 fA) = 0x0400184400000000 ∧
      1023 < 2 ^ 10 ∧ (2 : Nat) ^ 56 - 1 < 2 ^ 56 := by decide +kernel

/-! ### The queue -/

theorem witness_StepRunsTheFrontCommand :
    ({ st hw0 with pending := [.refclkLoss, .bootReady] } : State).pending = .refclkLoss :: [.bootReady] ∧
      (st hw0).pending = [] := by decide +kernel
theorem witness_EveryStepAnswersAndKeepsMemoryCanonical : (loading 0).mem.wf = true := by decide +kernel
theorem test_unsorted_memory_is_no_form : ({ cells := [(5, 1), (4, 1)], ecc := [], path := [], unfolded := [] } : Mem).wf = false ∧
    ({ cells := [(5, 0)], ecc := [], path := [], unfolded := [] } : Mem).wf = false := by decide +kernel

/-! ### Engines -/

/-- A tile of the own Palette: base, rows, columns, stride, format. -/
def tile (b r c n fmt : Nat) : TDesc :=
  { w0 := ofN (0x20000000000 + b), w1 := 0, w2 := ofN (r + c * 2 ^ 16 + n * 2 ^ 32), w3 := ofN fmt }

/-- `h` with these descriptors on easel 0. -/
def withTd (h : Hw) (l : List (BitVec 6 × TDesc)) : Hw :=
  l.foldl (fun h p => h.modCur 0 (fun r =>
    (((r.tdput p.1 0 p.2.w0).tdput p.1 1 p.2.w1).tdput p.1 2 p.2.w2).tdput p.1 3 p.2.w3)) h

def fE : FmtE := { pneg := false, pred := 0, tda := 1, tdb := 2, tdc := 0, rs := 0, sig := false, so := 0, func := 0 }

/-- Two 2 x 2 tiles of FP32 in td1 and td2, one of INT32 row numbers in td3, empty FP8 tiles in td4 and td5. -/
def tiles : Hw := withTd (running 0x600000 0) [(1, tile 0 2 2 8 0x0C), (2, tile 64 2 2 8 0x0C),
  (3, tile 128 1 2 8 0x0E), (4, tile 192 0 0 0 1), (5, tile 256 0 0 0 1)]

def newOf (h : Hw) (op : EngOp) (f : FmtE) (w : Word) (xs : List Word) : QEntry := newEntry h 0 op f w xs

/-- The 64-entry queue of the ME. -/
def fullQ : Hw := tiles.modEasel 0 (fun x =>
  { x with me := List.replicate 64 (newOf tiles .anchor { fE with tda := 0, tdb := 0 } 0 [0]) })

theorem witness_EngineInstructionsEnterTheirQueue :
    Issues (st tiles) 0 fE.pneg fE.pred ∧ fE.so = 0 ∧
      firstFail (mmaChecks 0 (newOf tiles .mma fE (wordE 0x14 0 fE) [0])) = none ∧
      firstFail (accChecks false (fun _ => true) 0 (newOf tiles .accload { fE with tdb := 0 } 0 [0])) = none ∧
      firstFail (accChecks true (fun _ => true) 0 (newOf tiles .accstore { fE with tdb := 0 } 0 [0])) = none ∧
      firstFail (accChecks false convertFmt 0 (newOf tiles .convert { fE with tdb := 0, tda := 4 } 0 [0])) = none ∧
      ancOk 0x600000 = true ∧ (nthW [regsOf (st tiles) 0 |>.get 1] 0) = 0x600000 ∧
      vuDecOk .add { fE with tdc := 2 } = true ∧
      firstFail (vuChecks .add 0 (newOf tiles (.vec .add) { fE with tdc := 2 } 0 [0])) = none ∧
      firstFail (copyChecks 0 (newOf tiles .copy fE 0 [])) = none ∧
      firstFail (indexChecks (·.ta) (·.tb) 0 (newOf tiles .gather { fE with tdc := 3 } 0 [])) = none ∧
      firstFail (indexChecks (·.tb) (·.ta) 0 (newOf tiles .scatter { fE with tdc := 3 } 0 [])) = none ∧
      firstFail (mmaChecks 0 (newOf tiles .mma { fE with tdb := 4 } 0 [0])) = some 0x38 ∧
      Issues (st fullQ) 0 false 0 ∧ ((fullQ.easel 0).queue .me).length = 64 := by decide +kernel
theorem test_mma_bad_descriptor :
    ((after (.mma 0 { fE with tda := 6 }) tiles).easel 0).csr.fclass = 0x336 := by decide +kernel
theorem test_vadd_waits : (after (.vadd 0 { fE with tdc := 2 }) tiles).easel 0 =
    ((tiles.easel 0).setQueue .vu [newOf tiles (.vec .add) { fE with tdc := 2 }
      (wordE 0x15 0 { fE with tdc := 2 }) [0]]).setCur
      { (tiles.easel 0).core with pc := 0x20000000108, serial := 1 } := by decide +kernel

/-- COPY of td2 to td1, and an ANCHOR, each with the same operands ready to start. -/
def queued : Hw :=
  let h := after (.copy 0 fE) (after (.anchor 0 { fE with tda := 0, tdb := 0, rs := 1 }) tiles)
  { h with mem := { h.mem with cells := [(h.mem.cells.length, 1)] } }

/-- The ANCHOR started; the same with keep where the set is in floating mode, which faults. -/
def started (w : Word) : Hw :=
  after (.engineStart 0 .me) (after (.anchor 0 { fE with tda := 0, tdb := 0, rs := 1 }) (running w 0))
def keepFault : Hw :=
  (started 0x2600000).modEasel 0 (fun x => { x with acc := { x.acc with anchors := [(0, 0x1000000)] } })

theorem witness_EnginesStartCompleteAndFault :
    (nextStart (queued.easel 0) .ce).isSome = true ∧ (nextStart (queued.easel 0) .me).isSome = true ∧
      enginesRun queued 0 1 = true ∧
      (∀ i, findEntry (started 0x600000) 0 .me 0 = some i → i.serial = 0 ∧ i.sketch = false ∧ i.fmt.sig = false ∧
        mayComplete (started 0x600000) 0 .me i = true ∧ i.started = true ∧ i.op.isRelease = false ∧
        engFaultOf (started 0x600000) 0 .me i = none ∧ i.ctx = 1) ∧ RunsClean (st (started 0x600000)) 1 ∧
      (findEntry (started 0x600000) 0 .me 0).isSome = true ∧
      ((started 0x600000).easel 0).blocked = none ∧ ((started 0x600000).easel 0).svcBlocked = none ∧
      ((started 0x600000).easel 0).sb = [] ∧ (nextStart (hw0.easel 1) .vu).isNone = true ∧
      (∀ i, findEntry queued 0 .me 0 = some i → mayComplete queued 0 .me i = false) ∧
      (findEntry queued 0 .me 0).isSome = true ∧
      (∀ i, findEntry keepFault 0 .me 0 = some i → i.started = true ∧ i.op.isRelease = false ∧
        engFaultOf keepFault 0 .me i = some (0x38, 0) ∧ i.ctx = 1) ∧
      (findEntry keepFault 0 .me 0).isSome = true ∧
      (keepFault.ctx 1).state = 3 ∧ (keepFault.ctx 1).faults = [] ∧
      (hw0.easel 1).ramp.idleSince = some 0 ∧ 0 + 1000 ≤ hw0.now := by decide +kernel
theorem test_anchor_installs :
    ((after (.engineInstructionComplete 0 .me 0 []) (started 0x600000)).easel 0).acc.anchor 0 = 0x600000 := by
  decide +kernel
theorem test_keep_fault_is_recorded :
    ((after (.engineFault 0 .me 0 0x38 0 []) keepFault).ctx 1).state = 6 := by decide +kernel

theorem witness_AnchoredBlockIgnoresProductOrder :
    [((.fin false 3 0 : Machine.Num), true), (.fin true 5 (-1), false)].Perm [(.fin true 5 (-1), false), (.fin false 3 0, true)] :=
  List.Perm.swap _ _ _
theorem witness_AccumulatorEntriesStayWithinTheirSpan :
    ancFloat 0x080000 = false ∧ ancSpan 0x080000 = 8 ∧ ancFloat 0x600000 = false ∧ ancSpan 0x600000 = 96 ∧
      ancKeep 0x600000 = false := by decide +kernel

/-! ### Sync objects, ordering, sketch mode, glaze -/

def fN (imm : BitVec 38) : FmtI := { fI imm with rd := 2 }
def own5 : ObjId := .easel 1 0 5
/-- Object 5 of easel 0 counts 40, module object 9 of context 1 is a barrier of 3 with 1 arrived, of 2 with exponent 10. -/
def synced (a b : Word) (bar : Word) : Hw :=
  let h := (running a b).setReg 0x200108 (8 + 2 * 2 ^ 16)
  (h.setObj own5 40).setObj (.mod 9) bar
def bar3 : Word := ofN (2 ^ 63 + 3 * 2 ^ 16 + 1)
def bar2 : Word := ofN (2 ^ 63 + 10 * 2 ^ 48 + 7 * 2 ^ 32 + 2 * 2 ^ 16 + 1)
def toMod : Word := ofN (2 * 2 ^ 33 + 9)
def waiting8 : Waiter := { obj := .mod 8, easel := 1, ctx := 1, threshold := 1, consume := false, gen := none }
/-- Die 0 holds as many pending waits as it can; module object 9 is a counter. -/
def crowded : Hw :=
  let h := synced toMod 3 2
  { h with sync := { h.sync with waiters := List.replicate 4096 waiting8 } }

theorem witness_SyncInstructionsCountAndWait :
    Issues (st (synced 5 3 bar3)) 0 (fN 0).pneg (fN 0).pred ∧ nameFault (synced 5 3 bar3) 5 = none ∧
      resolveName (synced 5 3 bar3) 1 0 5 0 = .obj own5 ∧ (synced 5 3 bar3).sync.waiters = [] ∧
      isBarrier ((synced 5 3 bar3).obj own5) = false ∧ wfld ((synced 5 3 bar3).obj own5) 0 48 = 40 ∧
      setOk own5 3 = true ∧ wfld 5 33 2 ≠ 3 ∧ ((synced 5 3 bar3).easel 0).actx = 1 ∧
      wfld (3 : Word) 0 48 ≤ 40 ∧ 40 < wfld (41 : Word) 0 48 ∧
      Issues (st (synced 0x200 3 bar3)) 0 false 0 ∧ nameFault (synced 0x200 3 bar3) 0x200 = some 0x25 ∧
      ((after (.wait 0 (fN 0)) (synced 5 41 bar3)).easel 0).blocked.map (·.what) = some (.sync own5 none) ∧
      ((after (.wait 0 (fN 8)) (synced 5 41 bar3)).easel 0).blocked.isSome = true ∧
      waitRoom (synced 5 3 bar3) own5 = true ∧ Issues (st crowded) 0 false 0 ∧
      resolveName crowded 1 0 toMod 2 = .obj (.mod 9) ∧ nameFault crowded toMod = none ∧
      waitRoom crowded (.mod 9) = false ∧
      isBarrier (crowded.obj (.mod 9)) = false ∧ (crowded.easel 0).loaded = some 1 := by decide +kernel
theorem witness_SyncInstructionsCountAndWait_crowded : ∀ w ∈ crowded.sync.waiters, w.obj ≠ .mod 9 := by
  intro w h
  rw [List.eq_of_mem_replicate (show w ∈ List.replicate 4096 waiting8 from h)]
  decide
theorem test_signal_adds : (after (.signal 0 (fN 0)) (synced 5 3 bar3)).obj own5 = 43 := by decide +kernel
theorem test_wait_consumes : (after (.wait 0 (fN 4)) (synced 5 3 bar3)).obj own5 = 37 := by decide +kernel

/-- A wait on the own object whose time is over. -/
def timedOut : Hw := (synced 5 41 bar3).modEasel 0 (fun x =>
  { x with blocked := some { what := .sync own5 (some 0), serial := 0, pc := 0x20000000100, inst := 0 } })
/-- Easel 0 waits for generation 7 of module object 9, to be released at FTC 2048. -/
def releasing (now : Nat) : Hw :=
  let h := synced toMod 1 bar2
  { h with
    ftc := { h.ftc with count := now }
    sync := { h.sync with
      waiters := [{ obj := .mod 9, easel := 0, ctx := 1, threshold := 0, consume := false, gen := some 7 }]
      releases := [{ obj := 9, gen := 7, time := 2048 }] } }

theorem witness_SyncWaitTimeout : (timedOut.easel 0).blocked =
    some { what := .sync own5 (some 0), serial := 0, pc := 0x20000000100, inst := 0 } := by decide +kernel
theorem witness_BarriersCountArrivalsAndRelease :
    Issues (st (synced toMod 1 bar3)) 0 false 0 ∧ nameFault (synced toMod 1 bar3) toMod = none ∧
      resolveName (synced toMod 1 bar3) 1 0 toMod ((fN 2).imm.setWidth 2) = .obj (.mod 9) ∧
      isBarrier bar3 = true ∧ wfld bar3 0 16 + 1 < wfld bar3 16 16 ∧
      Issues (st (synced toMod 1 bar2)) 0 false 0 ∧
      resolveName (synced toMod 1 bar2) 1 0 toMod ((fN 2).imm.setWidth 2) = .obj (.mod 9) ∧
      isBarrier bar2 = true ∧ wfld bar2 0 16 + 1 = wfld bar2 16 16 ∧ wfld bar2 48 5 = 10 ∧
      ({ (synced toMod 1 bar2).ftc with count := 5 } : Ftc).count % 2 ^ 64 % 2 ^ 10 ≠ 0 ∧
      (releasing 2048).sync.releases.find? (fun r => r.obj == 9) = some { obj := 9, gen := 7, time := 2048 } ∧
      2048 ≤ (releasing 2048).ftcNow ∧ (releasing 2047).ftcNow < 2048 ∧
      ((releasing 2048).easel 0).loaded = some 1 := by decide +kernel
theorem test_last_arrival : wfld ((after (.signal 0 (fN 2))
    { synced toMod 1 bar2 with ftc := { (synced toMod 1 bar2).ftc with count := 5 } }).obj (.mod 9)) 32 16 = 8 := by
  decide +kernel

def fAt : FmtA := { fA with rs3 := 3 }
/-- LPDDR6 byte 0x800000 holds 0x1280; the second state has a sketch slot of context 1 on it. -/
def sketched : Hw :=
  let h := loading 0
  { h with sk := { h.sk with slots := [{ part := 0, ctx := 1, easel := 0, branch := 1, seq := 0, order := 0, place := 0,
                                         granule := 0x800000 / 64, mask := 1, bytes := List.replicate 64 7 }] } }

theorem witness_AtomicsReadModifyWriteLocalMemory :
    Issues (st (loading 3)) 0 fA.pneg fA.pred ∧ fA.low = 0 ∧ fA.rs3 = 0 ∧
      coreDecode (loading 3) ((loading 3).easel 0) (fA.a (st (loading 3)) 0) = .local 0x800000 ∧
      (loading 3).sk.slots = [] ∧ 0x800000 % 16 = 0 ∧ CleanWords (st (loading 3)) 0x800000 16 ∧
      (loading 3).mem.word 0x800000 = 0x1280 ∧ sbHolds ((loading 3).easel 0) 0x800000 16 = false ∧
      -(2 : Int) ^ 61 < signedValue 62 0x1280 + signedValue 62 3 ∧ signedValue 62 0x1280 + signedValue 62 3 < 2 ^ 61 ∧
      coreDecode (running 0x800004 0) ((running 0x800004 0).easel 0) 0x800004 = .local 0x800004 ∧ 0x800004 % 8 ≠ 0 ∧
      Issues (st sketched) 0 false 0 ∧
      coreDecode sketched (sketched.easel 0) 0x800000 = .local 0x800000 ∧
      (∃ g ∈ sketched.sk.slots, g.ctx = (sketched.easel 0).actx ∧ g.granule = 0x800000 / 64) ∧
      Issues (st (running 0x4000000000000010 0)) 0 false 0 ∧
      coreDecode (running 0x4000000000000010 0) ((running 0x4000000000000010 0).easel 0) 0x4000000000000010 =
        .host 16 := by decide +kernel
theorem test_cas_miss : ((after (.cas 0 0 fAt) (loading 3)).mem.word 0x800000) = 0x1280 ∧
    ((after (.cas 0 0 fAt) (loading 3)).easel 0).core.get 3 = 0x1280 := by decide +kernel
theorem test_amin_signed : (after (.amin 0 0 fA) (loading 0xFFFFFFFFFFFFFFFF)).mem.word 0x800000 =
    0xFFFFFFFFFFFFFFFF := by decide +kernel

/-- A store to a peer is outstanding in the store buffer. -/
def storing (cls : BitVec 8) : Hw := (running 0x800000 7).modEasel 0 (fun x => { x with
  sb := [{ kind := .store, addr := 0x8001000000000000, size := 8, data := 1, serial := 4, pc := 0x20000000080, inst := 9,
           ctx := 1, tag := some 3, cls := cls }] })
def flagged : Hw := after (.release 0 (fN 4)) (running 0x800000 7)

theorem witness_OrderingInstructionsWaitAndAct :
    Issues (st (running 0x800000 7)) 0 false 0 ∧ ((running 0x800000 7).easel 0).service = false ∧
      ((running 0x800000 7).easel 0).sb = [] ∧ ((running 0x800000 7).easel 0).svcBlocked = none ∧
      ((storing 0).easel 0).svcBlocked = none ∧ ((storing 0).easel 0).sb.all (fun b => b.tag.isSome) = true ∧
      sbHolds ((running 0x800000 7).easel 0) 0x800000 8 = false ∧ (flagged.easel 0).sb = [] ∧
      (flagged.easel 0).svcBlocked = none ∧ CleanWords (st flagged) 0x800000 8 ∧
      (fN 3).imm.toNat < 4 ∧ (0x800000 : Word).toNat % 8 = 0 ∧ decodeUma (running 0x800000 7) 1 0x800000 = .local 0x800000 ∧
      storesDone ((running 0x800000 7).easel 0) = true ∧ CleanWords (st (running 0x800000 7)) 0x800000 8 ∧
      Issues (st (storing 0)) 0 false 0 ∧ storesDone ((storing 0).easel 0) = false ∧
      (fN 4).imm.toNat / 4 = 1 ∧ (fS 15).rd = 0 ∧ (fS 15).imm.toNat < 16 ∧
      fenceHolds (running 0x800000 7) 0 31 = true ∧ fenceHolds (storing 0) 0 1 = false ∧ (fS 1).imm ≠ 0 ∧
      (∀ i, ((flagged.easel 0).queue .me).head? = some i → i.op = .release false 0 ∧ i.started = false ∧ i.ctx = 1 ∧
        decodeUma flagged i.ctx (nthW i.xs 0) = .local 0x800000) ∧
      ((flagged.easel 0).queue .me).length = 1 ∧ (flagged.easel 0).stopped = false ∧
      (flagged.easel 0).blocked = none := by decide +kernel
theorem test_release_action : (after (.releaseAction 0 .me 0) flagged).mem.word 0x800000 = 7 := by decide +kernel

theorem witness_DeferredStoreFaultsStopTheContext :
    ((storing 0x16).easel 0).sb[0]?.map (·.cls) = some 0x16 ∧ ((storing 0x16).ctx 1).state = 3 ∧
      ((storing 0x16).ctx 1).faults = [] := by decide +kernel
theorem test_deferred_store : ((after (.storeDeferredFault 0 0 0x16) (storing 0x16)).ctx 1).faults.map (·.addr) =
    [0x8001000000000000] := by decide +kernel

/-- Easel 0 waits at the point of VARNISH 1, 4, or of SCRAPE of branch 1, with slots of branches 1 and 2. -/
def atPoint (w : WaitFor) : Hw :=
  let h := sketched.modEasel 0 (fun x => { x with
    clockMhz := 1000, blocked := some { what := w, serial := 0, pc := 0x20000000100, inst := 0 } })
  { h with sk := { h.sk with slots := h.sk.slots ++ h.sk.slots.map (fun g => { g with branch := 2, order := 1 }) } }

theorem witness_SketchInstructionsControlSketchMode :
    Issues (st (running 5 3)) 0 false 0 ∧ (fS 0x1FF).imm.toNat < 2 ^ 24 ∧ (fS 0x1FF).imm.toNat / 512 % 128 = 0 ∧
      ((running 5 3).easel 0).service = false ∧ sketchDrained ((running 5 3).easel 0) = true ∧
      Issues (st (after (.anchor 0 { fE with tda := 0, tdb := 0, rs := 1 })
        (after (.sketch 0 (fS 0x1FF)) (running 0x600000 3)))) 0 false 0 ∧
      sketchDrained ((after (.anchor 0 { fE with tda := 0, tdb := 0, rs := 1 })
        (after (.sketch 0 (fS 0x1FF)) (running 0x600000 3))).easel 0) = false ∧
      ((atPoint (.varnish 1 4 (some 0))).easel 0).blocked.map (·.what) = some (.varnish 1 4 (some 0)) ∧
      pointDue (atPoint (.varnish 1 4 (some 0))) 0 0 = true ∧
      ((atPoint (.scrape 2 (some 0))).easel 0).blocked.map (·.what) = some (.scrape 2 (some 0)) := by decide +kernel
theorem test_varnish_moves_its_branch :
    let h := after (.varnishPoint 0) (atPoint (.varnish 1 4 (some 0)))
    h.mem.unfolded.map (·.branch) = [1] ∧ h.sk.slots.map (·.branch) = [2] := by decide +kernel

theorem witness_FoldingKeepsTheVarnishedImage :
    let h := after (.varnishPoint 0) (atPoint (.varnish 1 4 (some 0)))
    h.mem.ecc = [] ∧ ∀ a ∈ h.mem.unfolded, a.bytes.length = 64 ∧ ∀ b ∈ h.mem.unfolded, a.granule = b.granule →
      a.part = b.part := by decide +kernel

/-- Slot 1 is context 1's; its descriptor at 0x800000 reads 256 bytes at 0x810000 and delivers the first 32 of them
to easel 0 behind gate object 9, which counts 2. -/
def glazing : Hw :=
  let h := (synced 0x800000 0 2).setReg 0x100108 (1 + 2 ^ 6)
  let d := wordsBytes [0x810000, 0, 0, 256, 0, 0, 0x800100, 1]
  let t := wordsBytes [0xFFFFFFFFFFFFFF00, 0, ofN (32 + 32 * 2 ^ 32), ofN (2 ^ 11 + 9 * 2 ^ 12)]
  { h with mem := ((h.mem.write 0x800000 d).write 0x800100 t).write 0x810000 [1, 2, 3] }
def bound : Hw := after (.glzbind 0 (fS 1 |> fun f => { f with rs1 := 1 })) glazing
def streaming : Hw := after (.glazeBind 1) bound
def verified : Hw := after (.glazeBlockVerify 1 false) streaming
def delivered : Hw := after (.glazeGateTake 1) verified

theorem witness_GlazeInstructionsPassReadAndStop :
    Issues (st glazing) 0 false 0 ∧ (fS 63).imm.toNat < 64 ∧ (0x800000 : Word).toNat % 64 = 0 ∧
      Issues (st (running 0x800020 0)) 0 false 0 ∧ (0x800020 : Word).toNat % 64 ≠ 0 ∧
      slotOf glazing (glzSlotOf (fS 1)) = some 1 ∧ (glazing.easel 0).actx = 1 ∧
      (streaming.gslot 1).state = 1 ∧ (glazing.gslot 1).state ≠ 1 ∧ slotOf glazing 63 ≠ some 1 ∧
      (glazing.gslot 63).ctx ≠ 1 ∧ RunsClean (st glazing) 1 := by decide +kernel
theorem test_glzstop_not_allotted : ((after (.glzstop 0 (fS 63)) glazing).ctx 1).faults.map (·.cls) = [0x63] := by
  decide +kernel

def gs : GlazeSlot := streaming.gslot 1
/-- The stream of `bound` before its first entry is looked at. -/
def gs0 : GlazeSlot :=
  let d := bytesWords 8 (bound.mem.read 0x800000 64)
  { GlazeSlot.init with
    state := 1, easel := 0, ctx := 1, desc := d
    ents := bound.mem.read (nthW d 6).toNat (32 * Nat.min 16 (wfld (nthW d 7) 0 16)) }
def gs1 : GlazeSlot := { gs0 with entry := entryBytes bound gs0 0 }

theorem witness_GlazeStreamsBindDeliverAndComplete :
    (∀ b, bound.glz.binds.find? (fun b => b.slot == 1) = some b → slotOf bound 1 = some b.ctx ∧
        (bound.gslot 1).state ≠ 1 ∧ (bound.gslot 1).state ≠ 5 ∧ decodeUma bound b.ctx b.uma = .local 0x800000 ∧
        bindWaits bound b = false ∧ (bound.easel b.easel).blocked = none ∧
        (bound.easel b.easel).svcBlocked = none ∧ NoneDrains (bound.easel b.easel) ∧
        RunsClean (st bound) b.ctx ∧ (bound.easel b.easel).loaded = some b.ctx ∧
        bindFault bound gs0 b.uma = none) ∧
      bound.glz.binds.length = 1 ∧ bound.glz.staging = [] ∧ CleanWords (st bound) 0x800000 64 ∧
      isRemote (gSrc gs0) = false ∧ gEntries gs0 = 1 ∧
      CleanWords (st bound) (gList gs0).toNat (listLen gs0) ∧
      chanDown bound (gList gs0).toNat (listLen gs0) = false ∧
      entryFault bound gs1 = none ∧ (curEntry gs1).gate = true ∧
      slotOf (bound.setReg 0x100108 0) 1 ≠ some 1 ∧ streaming.glz.binds = [] := by decide +kernel
theorem witness_GlazeStreamsBindDeliverAndComplete_block :
    gs.state = 1 ∧ gs.nextBlock < gBlocks gs ∧ isRemote (gSrc gs) = false ∧ gCipher gs = false ∧
      gBalpa gs = false ∧ gs.gated = true ∧ gs.lens.length < 4 ∧
      (∀ r ∈ blockReads gs, chanWaits streaming r.1 r.2 = false) ∧ blockFault streaming gs = none ∧
      (verified.gslot 1).state = 1 ∧ gBalpa (verified.gslot 1) = false ∧ isRemote (gSrc (verified.gslot 1)) = false ∧
      (verified.gslot 1).gated = true ∧ (verified.gslot 1).cur < gEntries (verified.gslot 1) ∧
      (verified.gslot 1).curPos < (curEntry (verified.gslot 1)).elemBytes ∧
      (curEntry (verified.gslot 1)).same = false ∧
      isBarrier (verified.obj (.mod (curEntry (verified.gslot 1)).gateSo)) = false ∧
      0 < wfld (verified.obj (.mod (curEntry (verified.gslot 1)).gateSo)) 0 48 ∧
      deliverFault verified (verified.gslot 1)
        (entryWrites (curEntry (verified.gslot 1)) 0 ((verified.gslot 1).elems.take 32) []) = none ∧
      (curEntry (verified.gslot 1)).elemBytes - (verified.gslot 1).curPos ≤ (verified.gslot 1).elems.length := by
  decide +kernel
theorem witness_GlazeStreamsBindDeliverAndComplete_end :
    (delivered.gslot 1).state = 1 ∧ (delivered.gslot 1).gated = false ∧
      (delivered.gslot 1).cur + 1 = gEntries (delivered.gslot 1) ∧ entryFull (delivered.gslot 1) = true ∧
      (curEntry (delivered.gslot 1)).sig = false ∧ bit (nthW (delivered.gslot 1).desc 7) 37 = false ∧
      performs glazing (.fn 0) (.glz 0) 0x108 = true ∧
      SMap.find glazing.regs.whold (latchKey (.fn 0) (.glz 0)) = none ∧
      bit (glazing.breg (.glz 0) 0x108) 6 = true := by decide +kernel
theorem test_glaze_delivers : delivered.mem.read (palBase 0) 4 = [1, 2, 3, 0] ∧ delivered.obj (.mod 9) = 1 ∧
    ((after (.glazeEntryComplete 1) delivered).gslot 1).state = 2 := by decide +kernel

/-! ### Packets, links, fabric time -/

/-- A packet from `p`. -/
def pk (x : Hdr) (b : Bytes) (p : Option PortId) : QPkt :=
  { pkt := mkPkt x b [], inPort := p, req := none, flits := 1, col := none }
/-- A header to `dst` under key 5. -/
def hd (dst typ len off : Nat) : Hdr :=
  { dst := dst, src := 0, vc := 4, epoch := false, circuit := 0, typ := typ, len := len, mcast := false, axis := false,
    mask := 0, origin := 0, off := off, key := 5, sig := 0, tag := 3, stream := 0, nonce := 0, status := 0 }
/-- Packets before the router and received here; routing version 0 holds module 1 behind port 3; circuit 2 joins port
3 and this module, circuit 3 ports 3 and 4; job 7 sends under key 5; context 1 grants its page; object 9 of it is 40. -/
def fab (inq here : List QPkt) : Hw :=
  let h := ((((synced 0x800000 3 40).setReg 0x401000 (0x13 * 2 ^ 16)).setReg 0x400018 2).setReg 0x408010
    (ofN (0xF3 + 2 ^ 24))).setReg 0x408018 (ofN (0x43 + 2 ^ 24))
  { h with
    rte := { h.rte with inq := inq, localq := here }
    sec := { h.sec with jobKeys := [(0, { id := 5, key := [], job := 7, nonce := 2 ^ 56 - 1, send := true })] } }

def q0 : QPkt := pk (hd 0 0 2 0x800000) [9, 8] (some 3)
def q1 : QPkt := pk (hd 1 0 2 0x800000) [9, 8] (some 3)
def qCirc (id : Nat) : QPkt := pk { hd 0 0 2 0 with circuit := id, vc := 3 } [9, 8] (some 3)
def qTree : QPkt := pk { hd 0 8 2 0 with mcast := true, mask := 0x0F } [9, 8] none
def qNote : QPkt := pk { hd 0 10 16 0 with vc := 6 } (wordsBytes [1, 2]) (some 3)

theorem witness_RouterForwardsByTableTreeAndCircuit :
    (fab [] []).ports = [] ∧ (Port.init).state ≠ 4 ∧
      nextOfVc (fab [q0] []) 0 q0 = true ∧ q0.pkt.hdr.dst = (fab [] []).fa ∧ q0.pkt.hdr.mcast = false ∧
      q1.pkt.hdr.dst ≠ (fab [] []).fa ∧ (fab [] []).version false = some (false, false) ∧
      (fab [] []).version true = some (false, true) ∧ (fab [] []).route false 1 = some 3 ∧
      (fab [] []).route false 2 = none ∧ q1.inPort.isSome = true ∧
      qTree.pkt.hdr.mcast = true ∧ mcastOk (fab [] []) qTree qTree.pkt.hdr = true ∧
      mcastOk (fab [] []) { qTree with inPort := some 10 } qTree.pkt.hdr = false ∧
      (qCirc 2).pkt.hdr.circuit = 2 ∧ (qCirc 2).pkt.hdr.vc = 3 ∧ cState ((fab [] []).circ 2) = 1 ∧
      cOther ((fab [] []).circ 2) (sideOf (some 3)) = some 15 ∧ cOther ((fab [] []).circ 3) (sideOf (some 3)) = some 4 ∧
      cState ((fab [] []).circ 5) = 0 ∧ noticeId qNote qNote.pkt.hdr = some 2 := by decide +kernel
theorem test_route_to_port :
    ((after (.packetRoute 0) (fab [q1] [])).port 3).txq.map (·.pkt.body) = [[9, 8]] := by decide +kernel
theorem test_mcast_copies :
    (List.range 3).map (fun k => ((after (.mcastForward 0) (fab [qTree] [])).port (Fin.ofNat 12 k)).txq.map
      (·.pkt.hdr.mask)) = [[0xA], [4], []] := by decide +kernel

/-- Port 3 is UP and its VC 4 has waited 10 ms with one packet. -/
def stalled (ns : Nat) : Hw :=
  let h := fab [] []
  { h.setPort 3 { h.port 3 with state := 2, txq := [q1], stall := [(4, ns)] } with rte := { h.rte with inq := [q0, q1] } }

theorem witness_RouterWatchesStallsAndOccupancy :
    ((stalled 10000000).port 3).state = 2 ∧ ((stalled 10000000).port 3).txq = [q1] ∧ q1.pkt.hdr.vc = 4 ∧
      (stalled 10000000).rte.inq.filter (waitsIn (stalled 10000000) 3 4) = [q1] ∧ q1.inPort.isSome = true ∧
      10000000 ≤ SMap.get 0 ((stalled 10000000).port 3).stall 4 ∧
      SMap.get 0 ((stalled 9999999).port 3).stall 4 < 10000000 ∧ (fab [] []).ftcNow % 1000000 = 0 ∧
      (after .cmapSample (fab [] [])).rte.cmapNow ≠ [] := by decide +kernel

/-- The packet opens as this. -/
def opened (b : Bytes) : Plain := { idx := 0, key := { id := 5, key := [], job := 7, nonce := 2 ^ 56 - 1, send := true }, body := b }
def here (typ len off : Nat) (b : Bytes) : QPkt := pk (hd 0 typ len off) b none
def granting (q : QPkt) : Hw := fab [] [q]
def qFin (str : BitVec 16) : QPkt := pk { hd 0 1 2 0x800000 with stream := str } [9, 8] none

theorem witness_RemoteRequestsActOnGrantedMemoryAndAnswer :
    SMap.find (granting (here 0 2 0x800000 [9, 8])).sec.jobKeys 0 = some (opened [9, 8]).key ∧
      (opened [9, 8]).key.nonce < 2 ^ 56 ∧
      (openPkt (granting (here 0 2 0x800000 [9, 8])) (here 0 2 0x800000 [9, 8]) (here 0 2 0x800000 [9, 8]).pkt.hdr).2 =
        some (opened [9, 8]) ∧ (here 0 2 0x800000 [9, 8]).pkt.hdr.typ = 0 ∧
      Opens (st (granting (here 0 2 0x800000 [9, 8]))) 0 (here 0 2 0x800000 [9, 8]) 0 (opened [9, 8]) ∧
      Opens (st (granting (qFin 0))) 0 (qFin 0) 1 (opened [9, 8]) ∧
      Opens (st (granting (here 2 16 0x800000 []))) 0 (here 2 16 0x800000 []) 2 (opened []) ∧
      Opens (st (granting (here 4 24 0x800000 (wordsBytes [11, 1, 0])))) 0 (here 4 24 0x800000 (wordsBytes [11, 1, 0])) 4
        (opened (wordsBytes [11, 1, 0])) ∧
      Opens (st (granting (here 6 16 0 (wordsBytes [ofN (9 * 2 ^ 16), 1])))) 0
        (here 6 16 0 (wordsBytes [ofN (9 * 2 ^ 16), 1])) 6 (opened (wordsBytes [ofN (9 * 2 ^ 16), 1])) ∧
      grants (fab [] []) 7 0x800000 2 = true ∧ CleanHere (st (fab [] [])) 0x800000 2 ∧
      grants (fab [] []) 7 0x9FFFFF 2 = false ∧ (qFin 0).pkt.hdr.typ = 1 ∧ (fab [] []).rte.held = [] ∧
      (qFin 4).pkt.hdr.stream = 4 ∧ streamHere (fab [] []) (qFin 4).pkt.hdr = 0 ∧
      0 < streamHere (fab [pk { hd 0 0 2 0x800000 with stream := 4 } [9, 8] none] []) (qFin 4).pkt.hdr ∧
      ((qFin 4), 1, 0).2.2 + 10000000 ≤ hw0.now ∧
      (here 2 16 0x800000 []).pkt.hdr.typ = 2 ∧ (here 2 16 0x800000 []).pkt.hdr.circuit = 0 ∧
      grants (fab [] []) 7 0x800000 16 = true ∧ CleanHere (st (fab [] [])) 0x800000 16 ∧
      wfld (bWord (wordsBytes [11, 1, 0])) 0 4 = 11 ∧ 0x800000 % 16 = 0 ∧
      peerObj (fab [] []) 7 (wfld (bWord (wordsBytes [ofN (9 * 2 ^ 16), 1])) 16 15) = some 9 ∧
      isBarrier ((fab [] []).obj (.mod 9)) = false ∧ (fab [] []).sync.waiters = [] ∧ setOk (.mod 9) 1 = true := by
  decide +kernel
theorem test_remote_write : (after (.remoteWriteReceive 0) (granting (here 0 2 0x800000 [9, 8]))).mem.read 0x800000 3 =
    [9, 8, 0] := by decide +kernel
theorem test_remote_signal : (after (.syncOperationReceive 0)
    (granting (here 6 16 0 (wordsBytes [ofN (9 * 2 ^ 16), 2])))).obj (.mod 9) = 42 := by decide +kernel

/-- Easel 0 waits for what request 3 to module 0 brings. -/
def asking (w : WaitFor) (by_ : ReqBy) (q : QPkt) : Hw :=
  let h := (fab [] [q]).modEasel 0 (fun x => { x with
    blocked := (match by_ with | .core _ => some { what := w, serial := 0, pc := 0x20000000100, inst := 0 } | _ => none)
    sb := [{ kind := .store, addr := 0x8000000000800000, size := 8, data := 1, serial := 0, pc := 0, inst := 0,
             ctx := 1, tag := some 3, cls := 0 }] })
  { h with reqs := [{ tag := 3, by_ := by_, ctx := some 1, addr := 0x8000000000800000, host := false, write := false,
                      deadline := some 1000000000000, north := true, fresh := true }] }
def qRsp (typ : Nat) (b : Bytes) (status : BitVec 8) : QPkt := pk { hd 0 typ b.length 0 with status := status } b none

theorem witness_ResponsesEndOutstandingRequests :
    (openPkt (asking (.load 4 2 true 3) (.core 0) (qRsp 3 [1, 0x80] 0)) (qRsp 3 [1, 0x80] 0) (qRsp 3 [1, 0x80] 0).pkt.hdr).2 =
        some (opened [1, 0x80]) ∧
      Opens (st (asking (.load 4 2 true 3) (.core 0) (qRsp 3 [1, 0x80] 0))) 0 (qRsp 3 [1, 0x80] 0) 3 (opened [1, 0x80]) ∧
      Opens (st (asking (.atom 4 3) (.core 0) (qRsp 5 [] 0))) 0 (qRsp 5 [] 0) 5 (opened []) ∧
      Opens (st (asking (.syncrd 4 3) (.core 0) (qRsp 7 [] 0))) 0 (qRsp 7 [] 0) 7 (opened []) ∧
      OnlyCoreWaits ((asking (.load 4 2 true 3) (.core 0) (qRsp 3 [1, 0x80] 0)).easel 0) ∧
      ((asking (.load 4 2 true 3) (.core 0) (qRsp 3 [1, 0x80] 0)).ctx 1).job = (opened []).key.job ∧
      (qRsp 3 [1, 0x80] 0).pkt.hdr.typ = 3 ∧ (qRsp 3 [1, 0x80] 0).pkt.hdr.status = 0 ∧
      ((answered (asking (.load 4 2 true 3) (.core 0) (qRsp 3 [1, 0x80] 0)) (qRsp 3 [1, 0x80] 0).pkt.hdr).map
        (fun r => (r.tag, r.by_, r.who))) = some (3, ReqBy.core 0, 1) ∧
      ((asking (.load 4 2 true 3) (.core 0) (qRsp 3 [1, 0x80] 0)).easel 0).loaded = some 1 ∧
      ((asking (.load 4 2 true 3) (.core 0) (qRsp 3 [1, 0x80] 0)).easel 0).svcBlocked = none ∧
      ((asking (.atom 4 3) (.core 0) (qRsp 5 [] 0)).easel 0).blocked.map (·.what) = some (.atom 4 3) ∧
      ((asking (.syncrd 4 3) (.core 0) (qRsp 7 [] 0)).easel 0).blocked.map (·.what) = some (.syncrd 4 3) ∧
      ((asking (.load 4 2 true 3) (.storeBuf 0) (qRsp 5 [] 1)).easel 0).blocked = none ∧
      (qRsp 5 [] 1).pkt.hdr.status = 1 ∧
      answered (fab [] [qRsp 3 [] 0]) (qRsp 3 [] 0).pkt.hdr = none ∧
      (peerReq (asking (.load 4 2 true 3) (.storeBuf 0) (qRsp 5 [] 1)) 3).map (·.deadline) = some (some 1000000000000) ∧
      1000000000000 ≤ hw0.now ∧ ({ hw0 with now := 5 } : Hw).now < 1000000000000 := by decide +kernel
theorem test_load_answer :
    ((after (.readResponseReceive 0) (asking (.load 4 2 true 3) (.core 0) (qRsp 3 [1, 0x80] 0))).easel 0).core.get 4 =
      0xFFFFFFFFFFFF8001 := by decide +kernel

/-- Port 3 in a state, with its queue, replay buffer and the time since. -/
def ported (s : BitVec 3) (lanes : BitVec 8) (f : Port → Port) : Hw :=
  let h := fab [] []
  h.setPort 3 (f { h.port 3 with state := s, lanes := lanes, since := 0 })
def upPort : Hw := ported 2 0xFF id
def replaying : Hw := ported 2 0xFF (fun p => { p with
  txNext := 2, replay := [{ seq := 0, data := [1], pkts := [] }, { seq := 1, data := [2], pkts := [] }], replayFrom := some 0 })
/-- A data flit with one packet to this module, the sequence number as given. -/
def dataFlit (seq : BitVec 12) : Flit := mkFlit seq 0xFFF false 7 0 0 (wireBytes (mkPkt (hd 0 0 2 0x800000) [9, 8] []))

theorem witness_FlitsAreCheckedAcknowledgedAndReplayed :
    ((fab [] []).port 3).state ≠ 2 ∧ (upPort.port 3).state = 2 ∧ isSide 3 = false ∧
      fKind (dataFlit 0).hdr = 0 ∧ fSeq (dataFlit 0).hdr = (upPort.port 3).rxExpect ∧
      (∀ k ∈ (absorb 32 [] (sub (dataFlit 0).data 0 240)).1, pktOk k.hdr = true) ∧
      (absorb 32 [] (sub (dataFlit 0).data 0 240)).1.length = 1 ∧ fSeq (dataFlit 1).hdr ≠ (upPort.port 3).rxExpect ∧
      fKind (mkFlit 0 0 true 7 0 1 []).hdr = 1 ∧
      fNack (mkFlit 0 0 true 7 0 1 []).hdr = true ∧
      (replaying.port 3).replayFrom = some 0 ∧
      (replaying.port 3).replay.find? (fun f => f.seq == 0) = some { seq := 0, data := [1], pkts := [] } ∧
      (ported 2 0xFF (fun p => { p with txq := [q1] }) |>.port 3).ready ≠ [] ∧
      (ported 2 0xFF (fun p => { p with txq := [q1] }) |>.port 3).txCur = none ∧
      (ported 2 0xFF (fun p => { p with txq := [q1] }) |>.port 3).ready.length = 1 ∧
      (∃ v ∈ (ported 2 0xFF (fun p => { p with txq := [q1, qNote] }) |>.port 3).ready, 1 ≤ v ∧ v ≤ 5) ∧
      (upPort.port 3).ready = [] ∧ (upPort.port 3).replayFrom = none := by decide +kernel
theorem witness_FlitsGoodAndBad : flitGood (dataFlit 0) = true ∧ flitGood (mkFlit 0 0 true 7 0 1 []) = true ∧
    flitGood { dataFlit 0 with crc := (dataFlit 0).crc + 1 } = false := by
  refine ⟨flitGood_mkFlit .., flitGood_mkFlit .., ?_⟩
  have h := (flitGood_iff _).mp (flitGood_mkFlit 0 0xFFF false 7 0 0 (wireBytes (mkPkt (hd 0 0 2 0x800000) [9, 8] [])))
  simp only [flitGood, dataFlit] at h ⊢
  rw [h]
  simp
theorem test_data_flit_carries_its_packet :
    (absorb 32 [] (sub (dataFlit 0).data 0 240)).1.map (·.body) = [[9, 8]] := by decide +kernel
/-- Two flits await their acknowledgement, and nothing is sent again. -/
def unacked : Hw := ported 2 0xFF (fun p => { p with
  txNext := 2, replay := [{ seq := 0, data := [1], pkts := [] }, { seq := 1, data := [2], pkts := [] }] })
theorem test_nack_replays :
    ((takeNack unacked 3 (mkFlit 0 0 true 7 0 1 []).hdr).port 3).replayFrom = some 0 ∧
      (unacked.port 3).replayFrom = none := by decide +kernel
theorem test_nack_while_replaying :
    ((takeNack replaying 3 (mkFlit 0 0 true 7 0 1 []).hdr).port 3).replayFrom = some 0 := by decide +kernel

theorem witness_PortsTrainDegradeAndGoDown :
    ((ported 1 0 id).port 3).state = 1 ∧ bit ((ported 1 0 id).breg (.err 3) 0x38) 3 = false ∧
      widest 0xFF = some 0xFF ∧ widest (0x3F &&& laneMask (ported 1 0 id) 3) = some 0x0F ∧
      ((ported 1 0 id).port 3).held = [] ∧ ((ported 1 0 id).port 3).since + 2000000000 ≤ (ported 1 0 id).now ∧
      ({ hw0 with now := 5 } : Hw).now < ((ported 1 0 id).port 3).since + 2000000000 ∧
      bit (((ported 4 0 id).setReg (blkBase (.err 3) + 0x38) 4).breg (.err 3) 0x38) 2 = true ∧
      (upPort.port 3).winStart + 1000000 ≤ upPort.now ∧ (0xFF : BitVec 8).getLsbD 7 = true ∧
      (ported 2 0xF0 (fun p => { p with decided := true }) |>.port 3).decided = true ∧
      popc 8 (0x03 : BitVec 8).toNat ≤ 2 ∧ (upPort.port 3).held = [] ∧
      (ported 3 0xFF id |>.port 3).chipTrain = false ∧ 0 + 50000 ≤ (ported 3 0xFF id).now ∧
      (ported 3 0xFF (fun p => { p with chipTrain := true }) |>.port 3).chipTrain = true ∧
      0 + 10000000 ≤ (ported 3 0xFF id).now ∧
      MayWriteReg (st upPort) (.fn 0) (.err 3) 0x38 ∧ bit (upPort.breg (.err 3) 0x38) 1 = false ∧
      MayWriteReg (st (ported 5 0xFF id)) (.cp 0) (.err 3) 0x38 ∧ bit ((ported 5 0xFF id).breg (.err 3) 0x38) 0 = false := by
  decide +kernel
theorem test_degrade_halves : ((after (.laneDegrade 3) (ported 2 0xFF (fun p => { p with
    decided := true, lockLost := 2 }))).port 3).lanes = 0xF0 := by decide +kernel

/-- The FTC follows port 3; or it is the master. -/
def timed (f : Ftc → Ftc) (cfg : Word) : Hw :=
  let h := (ported 2 0xFF id).setReg (blkBase .ftc + 0x18) cfg
  { h with ftc := f h.ftc }
def follow3 : Word := ofN (3 * 2 + 2 ^ 5 + 2 ^ 10 + 3 * 2 ^ 6 + 100 * 2 ^ 16)

theorem witness_FabricTimeFollowsItsParent :
    ftcPort (timed id follow3) = some 3 ∧ ((timed id follow3).port 3).state = 2 ∧
      (((8 : Int) - 4 + ((8 : Int) - 4)) / 2) ≤ 400000 ∧ 400000 < ((800010 : Int) - 4 + ((800010 : Int) - 4)) / 2 ∧
      (timed id follow3).ftc.exchAt + wfld ((timed id follow3).breg .ftc 0x18) 16 10 * 1000 ≤ (timed id follow3).now ∧
      (timed (fun f => { f with holdover := true }) follow3).ftc.holdover = true ∧
      (timed id follow3).ftc.onAlt = false ∧ (timed id follow3).ftc.lostAt + 100000 ≤ (timed id follow3).now ∧
      bit ((timed id follow3).breg .ftc 0x18) 10 = true ∧
      ((timed id follow3).port (Fin.ofNat 12 (wfld ((timed id follow3).breg .ftc 0x18) 6 4))).state = 2 ∧
      bit ((timed id follow3).breg .ftc 0x18) 0 = false ∧ bit ((timed id 1).breg .ftc 0x18) 0 = true ∧
      (timed id 1).ftc.everSynced = false ∧ MayWriteReg (st (timed id 1)) (.fn 0) .ftc 0x20 ∧
      (timed (fun f => { f with everSynced := true }) 1).ftc.everSynced = true ∧
      MayWriteReg (st (timed id 1)) (.fn 0) .ftc 0x30 ∧ (timed id 1).ftcNow ≤ (5 : Word).toNat ∧
      (timed (fun f => { f with roleAt := some 0 }) 1).ftc.roleAt = some 0 ∧ (timed id 1).ftc.synced = false ∧
      0 + 1000000000 ≤ (timed id 1).now ∧ (timed (fun f => { f with snapArmed := true }) 1).ftc.snapArmed = true ∧
      isLp 0x800000 = true ∧ isLp (0x800000 + (wordsBytes (snapWords (timed id 1))).length - 1) = true ∧
      CleanWords (st (timed id 1)) 0x800000 (wordsBytes (snapWords (timed id 1))).length ∧
      bit ((timed id 1).breg .ftc 0x40) 15 = false ∧
      ((timed id 1).setReg (blkBase .ftc + 0x30) 0).breg .ftc 0x30 = 0 := by decide +kernel
theorem test_ftc_set : (after (.ftcSet (.fn 0) 77) (timed id 1)).ftc.count = 77 := by decide +kernel

/-! ### Collectives -/

/-- A broadcast of 16 bytes from 0x800100 to 0x800200 in group 1 with this root. -/
def bc (root : Nat) : List Word :=
  [0x800100, 0x800200, 16, ofN (3 + 0x11 * 2 ^ 6 + root * 2 ^ 12 + 2 ^ 22 + 4 * 2 ^ 28), 0, 0, 0, 0]
def cs0 (root : Nat) : ColSlot :=
  { easel := 0, ctx := 1, serial := 0, pc := 0x20000000100, inst := 0, desc := bc root, running := true, seq := 0,
    sig := 77, acceptAt := 0, src := List.replicate 16 5, want := [], readies := [], grants := [], sent := [], parts := [],
    counts := [], ovfLocal := false, ovfAny := false }
/-- Group 1 of context 1 has modules 0 and 1; the descriptor stands at 0x800000 and easel 0 waits to hand it over. -/
def colls (slots : SMap ColSlot) (d : List Word) (here : List QPkt) : Hw :=
  let h := ((fab [] here).setReg (colOff 0x108) (ofN (2 ^ 16 + 2 ^ 20 + 2 ^ 32))).setReg (colOff 0x10000) 0x10000
  let h1 := h.modEasel 0 (fun x => { x with
    blocked := some { what := .coll 0x800000, serial := 0, pc := 0x20000000100, inst := 0 } })
  { h1 with col := { h1.col with slots := slots }, mem := h1.mem.write 0x800000 (wordsBytes d) }
/-- The root's message to rank 1 is sent. -/
def sent1 : ColSlot := { cs0 0 with
  sent := (collSends (collOf (colls [] (bc 0) []) (bc 0)) (ownVec (collOf (colls [] (bc 0) []) (bc 0))
    (cs0 0).src) []).flatMap (fun p => (List.range ((collOf (colls [] (bc 0) []) (bc 0)).acts.msgPkts p.1)).map p.1.pktKey) }

theorem witness_CollectivesAreAcceptedCompletedAndTimedOut :
    Issues (st (running 0x800000 0)) 0 false 0 ∧ ({ fI 0 with rd := 0 } : FmtI).rd = 0 ∧
      (0x800000 : Word).toNat % 64 = 0 ∧ (0x800008 : Word).toNat % 64 ≠ 0 ∧
      ((colls [(5, cs0 0)] (bc 0) []).easel 0).blocked.map (·.what) = some (.coll 0x800000) ∧
      ((colls [] (bc 0) []).easel 0).stopped = false ∧ ((colls [] (bc 0) []).easel 0).loaded = some 1 ∧
      SMap.find (colls [(5, cs0 0)] (bc 0) []).col.slots 2 = none ∧ fenceHolds (colls [(5, cs0 0)] (bc 0) []) 0 0xF = true ∧
      decodeUma (colls [] (bc 0) []) 1 0x800000 = .local 0x800000 ∧ CleanHere (st (colls [] (bc 0) [])) 0x800000 64 ∧
      bytesWords 8 ((colls [] (bc 0) []).mem.read 0x800000 64) = bc 0 ∧
      acceptFault (colls [] (bc 0) []) 1 (bc 0) = none ∧
      (∃ p ∈ (colls [(5, cs0 0)] (bc 0) []).col.slots, (collOf (colls [] (bc 0) []) p.2.desc).group = 1) ∧
      acceptFault (colls [] (bc 2) []) 1 (bc 2) = some 0x28 ∧ RunsClean (st (colls [] (bc 2) [])) 1 ∧
      collSentAll (colls [(5, sent1)] (bc 0) []) sent1 = true ∧
      slotResult (colls [(5, sent1)] (bc 0) []) sent1 = some (List.replicate 16 5) ∧
      CleanHere (st (colls [] (bc 0) [])) 0x800200 16 ∧
      (∀ b ∈ (collOf (colls [] (bc 0) []) (bc 0)).bufs, chanWaits (colls [(5, sent1)] (bc 0) []) b.1 b.2 = false) ∧ (collOf (colls [] (bc 0) []) (bc 0)).hdr = 0 ∧
      collSentAll (colls [(5, cs0 0)] (bc 0) []) (cs0 0) = false ∧
      tcodeNs (collOf (colls [] (bc 0) []) (bc 0)).tcode = some 8000 ∧ 0 + 8000 ≤ (colls [] (bc 0) []).now ∧
      slotBlank (colls [(5, cs0 1)] (bc 1) []) (cs0 1) = true ∧
      hw0.now < { cs0 1 with acceptAt := hw0.now }.acceptAt + 8000 := by decide +kernel
theorem test_coll_accept_is_numbered : SMap.get 0 (after (.collAccept 0 2) (colls [(5, cs0 0)] (bc 0) [])).col.seqs 1 = 1 := by
  decide +kernel
theorem test_coll_complete : (after (.collComplete 5) (colls [(5, sent1)] (bc 0) [])).mem.read 0x8001FF 3 = [0, 5, 5] := by
  decide +kernel

/-- A control packet of rank 1 for group 1, number 0: its tag and the sender's signature. -/
def qCtl (tag : BitVec 16) (sig : Nat) : QPkt :=
  pk { hd 0 9 16 0 with src := 1, tag := tag }
    (wordsBytes [ofN (groupDigest (colls [] (bc 0) []) 1).toNat, ofN sig]) none
def qData : QPkt := pk { hd 0 8 16 0 with src := 1, sig := 77 } (List.replicate 16 6) none
def found (s : ColSlot) (q : QPkt) : Option (SlotId × ColSlot) :=
  let r := ctlReady q.pkt.hdr (opened q.pkt.body)
  findColl (colls [(5, s)] (bc 0) [q]) r.digest r.seq.toNat r.job
def granted (s : ColSlot) : ColSlot := { s with grants := s.grants ++ [1], readies := s.readies.filter (fun p => p.1 != 1) }

/-- Half of the root's bytes are sent. -/
def half : ColSlot := { cs0 0 with sent := sent1.sent.take 1 }

theorem witness_CollectivePacketsDriveTheHandshake :
    (qCtl 1 77).pkt.hdr.typ = 9 ∧ (qCtl 1 77).pkt.hdr.tag = 1 ∧
      (openPkt (colls [] (bc 0) [qCtl 1 77]) (qCtl 1 77) (qCtl 1 77).pkt.hdr).2 = some (opened (qCtl 1 77).pkt.body) ∧
      found (cs0 0) (qCtl 1 77) = some (5, cs0 0) ∧
      (ctlReady (qCtl 1 77).pkt.hdr (opened (qCtl 1 77).pkt.body)).sig = 77 ∧
      senderRank (colls [] (bc 0) []) (cs0 0) 1 = 1 ∧ rankFa (colls [] (bc 0) []) (cs0 0) 1 = 1 ∧
      collSendFault (colls [] (bc 0) []) (cs0 0) 1 = none ∧
      (ctlReady (qCtl 1 5).pkt.hdr (opened (qCtl 1 5).pkt.body)).sig ≠ (cs0 1).sig ∧
      found (cs0 1) (qCtl 1 5) = some (5, cs0 1) ∧ RunsClean (st (colls [(5, cs0 1)] (bc 0) [])) 1 ∧
      slotBlank (colls [(5, cs0 1)] (bc 0) []) (cs0 1) = true ∧
      findColl (colls [] (bc 0) []) (groupDigest (colls [] (bc 0) []) 1) 0 7 = none ∧
      seqPassed (colls [] (bc 0) []) (groupDigest (colls [] (bc 0) []) 1) 0 7 = false ∧
      (colls [] (bc 0) []).col.held = [] ∧
      seqPassed (after (.collAccept 0 2) (colls [(5, cs0 0)] (bc 0) [])) (groupDigest (colls [] (bc 0) []) 1) 0 7 = true ∧
      (qCtl 2 0).pkt.hdr.tag = 2 ∧ found half (qCtl 2 0) = some (5, half) ∧
      readyMsgs (colls [(5, cs0 1)] (bc 0) []) (granted (cs0 1)) = [] ∧
      (readyMsgs (colls [(5, cs0 0)] (bc 0) []) (granted half)).map (fun m => (m.rank, m.body)) =
        [(1, List.replicate 8 5)] ∧
      (∀ m ∈ readyMsgs (colls [(5, cs0 0)] (bc 0) []) (granted half), m.step < 2 ^ 10 ∧ m.step ≠ 8 ∧ m.vc < 8) ∧
      (qCtl 3 0).pkt.hdr.tag = 3 ∧ qData.pkt.hdr.typ = 8 ∧
      ((slotList (colls [(5, cs0 1)] (bc 0) [])).find? (fun p => p.2.running && p.2.sig == 77 &&
        ((colls [] (bc 0) []).ctx p.2.ctx).job == 7 &&
        (groupMembers (colls [] (bc 0) []) (collOf (colls [] (bc 0) []) p.2.desc).group).contains 1)).map (·.1) = some 5 ∧
      slotList (colls [] (bc 0) []) = [] ∧ ({ cs0 0 with readies := [(1, 0)] }).readies = [(1, 0)] ∧
      0 + 100000 ≤ (colls [] (bc 0) []).now ∧ hw0.now < hw0.now + 100000 := by decide +kernel
theorem test_coll_data_is_kept :
    (SMap.find (after (.collDataReceive 0) (colls [(5, cs0 1)] (bc 0) [qData])).col.slots 5).map (·.parts) =
      some [(1, 0, List.replicate 16 6)] := by decide +kernel

/-! ### Registers, memories -/

/-- THM_CFG written with 85 C, and with 20 C, which no rule allows. -/
def stagedThm (v : Word) : Hw := after (.registerWrite (.fn 0) 0x80018 8 v false) hw0
def thmCfg (t : Nat) : Word := (hw0.reg 0x80018 &&& ~~~0x7F) ||| ofN t
/-- The captured copy of a commit under way. -/
def capturing : Hw := after (.commitGoLock (.fn 0) .thm) (stagedThm (thmCfg 85))
/-- FWU's settings staged and the block locked. -/
def lockedFwu : Hw := (after (.registerWrite (.fn 0) (blkBase .fwu + 0x38) 8 0 false) hw0).modBlk .fwu (fun c => { c with locked := true })

theorem witness_CommitsTakeStagedFieldsTogether :
    MayWriteReg (st (stagedThm (thmCfg 85))) (.fn 0) .thm 8 ∧ ((stagedThm (thmCfg 85)).blk .thm).busy = false ∧
      ((stagedThm (thmCfg 85)).blk .thm).locked = false ∧
      (let h := stagedThm (thmCfg 85)
       blkOk h (applyRegs h (stagedWords h .thm)) .thm (stagedWords h .thm) = true) ∧
      (let h := stagedThm (thmCfg 20)
       blkOk h (applyRegs h (stagedWords h .thm)) .thm (stagedWords h .thm) = false) ∧
      (capturing.blk .thm).busy = true ∧ MayWriteReg (st capturing) (.fn 0) .thm 8 ∧
      SMap.sorted (capturing.blk .thm).captured = true ∧ (lockedFwu.blk .fwu).locked = true ∧
      (lockedFwu.blk .fwu).busy = false ∧ MayWriteReg (st lockedFwu) (.fn 0) .fwu 8 ∧
      changesLocked lockedFwu (stagedWords lockedFwu .fwu) = true := by decide +kernel
theorem test_commit_apply : wfld ((after (.commitApply .thm) capturing).reg 0x80018) 0 7 = 85 ∧
    wfld (capturing.reg 0x80018) 0 7 ≠ 85 := by decide +kernel

theorem witness_RegisterAccessesReadAndWriteTheirFields :
    (bar0Off (.fn 0) 0x80018).bind blockOf = some (.thm, 0x18) ∧ MayWriteReg (st hw0) (.fn 0) .thm 0x18 ∧
      (regAt hw0.pins.variant1800 0x80018).counter = false ∧ (regAt hw0.pins.variant1800 0x80018).w1c = 0 ∧
      SMap.find (SMap.put hw0.regs.whold (latchKey (.fn 0) .thm) (0x18, (5 : BitVec 32))) (latchKey (.fn 0) .thm) =
        some (0x18, 5) ∧
      (bar0Off (.fn 0) (blkBase (.lpm 0) + 0x50)).bind blockOf = some ((.lpm 0), 0x50) ∧
      (regAt hw0.pins.variant1800 (blkBase (.lpm 0) + 0x50)).counter = true ∧
      MayWriteReg (st hw0) (.fn 0) (.lpm 0) 0x50 ∧ formOk 0x80018 2 = false ∧ formOk 0x80014 8 = false := by decide +kernel
theorem witness_RegisterHasNoWriteOfItsOwn : ∀ h w v low, specialWrite h (.fn 0) .thm 0x18 w v low = none :=
  fun _ _ _ _ => rfl
theorem test_counter_clears :
    (after (.counterWriteClear (.fn 0) (blkBase (.lpm 0) + 0x50)) (hw0.setReg (blkBase (.lpm 0) + 0x50) 9)).reg
      (blkBase (.lpm 0) + 0x50) = 0 := by decide +kernel

/-- Canvas stack 0 cooled 10 ms ago, LPDDR6 channel 5 lost training 2 ms ago; Palette 0 holds one bad bit. -/
def memories : Hw :=
  let h := running 0 0
  { h with
    memctl := { h.memctl with coolSince := [(0, h.now - 10000000)], chLost := [(5, h.now - 2000000)], refresh2x := 1 }
    mem := { h.mem with ecc := [(palBase 0 / 8, 1)] } }
def recent : Hw := { memories with now := memories.now - 1 }

theorem witness_MemoriesScrubRefreshAndRetrain :
    memories.mem.wf = true ∧ memories.memctl.selfRefresh = false ∧
      SMap.get 0 memories.mem.ecc ((scrubRange (.palette 0)).1 / 8) + 1 < 3 ∧
      3 ≤ SMap.get 0 memories.mem.ecc ((scrubRange (.palette 0)).1 / 8) + 2 ∧ isPal (scrubRange (.palette 0)).1 = true ∧
      (memories.easel 0).loaded = some 1 ∧ RunsClean (st memories) 1 ∧
      ({ memories.memctl with selfRefresh := true } : MemCtl).selfRefresh = true ∧
      (memories.canvasSensor 31).failed = false ∧ (104 : Int) < 105 ∧ (85 : Int) < 86 ∧ (82 : Int) < 83 ∧
      memories.thm.tripped = false ∧ memories.flt.powerCycle = false ∧
      SMap.find memories.memctl.coolSince 0 = some (memories.now - 10000000) ∧
      memories.now - 10000000 + 10000000 ≤ memories.now ∧ recent.now < memories.now - 10000000 + 10000000 ∧
      SMap.find memories.memctl.chLost 5 = some (memories.now - 2000000) ∧
      memories.now - 2000000 + 2000000 ≤ memories.now ∧ recent.now < memories.now - 2000000 + 2000000 ∧
      SMap.find memories.memctl.chLost 6 = none ∧ memories.memctl.chUp.getLsbD 6 = true ∧
      memories.flt.recoveries = [] ∧ memories.flt.captures = [] ∧ (94 : Nat) < 95 := by decide +kernel
theorem test_scrub_uncorrectable : ((after (.patrolScrubRead (.palette 0) ⟨2, false⟩) memories).ctx 1).faults.map (·.cls) = [1] := by
  decide +kernel
theorem test_canvas_doubles_refresh :
    (after (.canvasTempSample 31 86) memories).memctl.refresh2x = 3 := by decide +kernel

/-! ### Host interface and events -/

/-- A host command with these words. -/
def cmdOf (ws : List Word) : HostCmd := { words := ws, head := 1, seq := 0 }
/-- Function 0's rings are on with 16 entries, the command queue runs with three commands; `l` has been fetched. -/
def hosted (l : List HostCmd) (run : List RunCmd) : Hw :=
  let h := ((((loading 0).setReg 0x30 0x10000).setReg 0x38 (16 + 2 ^ 17)).setReg 0x48 0x20000).setReg 0x50 (16 + 2 ^ 17)
  let h1 := h.setReg 0x200108 (8 + 2 * 2 ^ 16)
  h1.setFn 0 { HifFn.init with
    base := 0x4000, size := 16, running := true, tail := 3, cplTail := 2, evrTail := 2, fetched := l, inProgress := run }
def nop : HostCmd := cmdOf [0x00070000]
def fence : HostCmd := cmdOf [0x00070002]
def signal (i : Word) : HostCmd := cmdOf [0x00070001, i, 5]
def full15 : Hw := (hosted [] []).modFn 0 (fun x => { x with cplTail := 15 })

theorem witness_HostQueuesFetchAndComplete :
    MayWriteReg (st hw0) (.fn 0) (.hif 0) 0x20 ∧ bit (2 ^ 17 + 16 : Word) 17 = true ∧
      bit (hw0.reg (hifOff 0 0x20)) 17 = false ∧ ringError (wfld (2 ^ 17 + 16 : Word) 0 17) (hw0.reg (hifOff 0 0x18)) = 0 ∧
      ringError (wfld (2 ^ 17 + 1 : Word) 0 17) 0 ≠ 0 ∧ ringError 2 0 = 0 ∧ ringError 65536 0 = 0 ∧ ringError 131072 0 ≠ 0 ∧
      (hosted [] []).hostOpen = true ∧ (hosted [] []).fnOn 0 = true ∧ ((hosted [] []).fn 0).running = true ∧
      (15 : BitVec 17).toNat < ((hosted [] []).fn 0).size ∧ ((hosted [] []).fn 0).size ≤ (16 : BitVec 17).toNat ∧
      (hw0.fn 0).running = false ∧ hw0.hostOpen = true ∧ cplOn (hosted [] []) 0 = true ∧
      cplSize (hosted [] []) 0 = 16 ∧ ((hosted [] []).fn 0).cplWait = [] ∧ ringWithin 0 2 2 16 = true ∧
      evrOn (hosted [] []) 0 = true ∧ evrSize (hosted [] []) 0 = 16 ∧
      0 < min 16 (ringUsed ((hosted [] []).fn 0).head ((hosted [] []).fn 0).tail ((hosted [] []).fn 0).size) ∧
      ((hosted [] []).fn 0).fetching = none ∧ (hosted [] []).fwu.paused = false ∧ cplFull (hosted [] []) 0 = false ∧
      cplFull full15 0 = true ∧ ((hosted [] []).fn 0).waiting = [] ∧ formOk 4 4 = true ∧ formOk 2 4 = false := by decide +kernel
theorem witness_HostQueuesRunCommands :
    Fronts (st (hosted [nop] [])) 0 0x00 false [] nop ∧
      Fronts (st (hosted [fence] [])) 0 0x02 false [] fence ∧ ((hosted [fence] []).fn 0).inProgress = [] ∧
      ((hosted [fence] [{ cmd := nop, silent := false }]).fn 0).inProgress ≠ [] ∧
      Fronts (st (hosted [signal 9] [])) 0 0x01 false [0x7FFF, 0xFFFFFFFF] (signal 9) ∧
      fnHoldsObj (hosted [] []) 0 9 = true ∧ isBarrier ((hosted [] []).obj (.mod 9)) = false ∧
      (hosted [] []).sync.waiters = [] ∧ fnHoldsObj (hosted [] []) 0 10 = false := by decide +kernel
theorem test_command_fetch : (after (.commandFetch 0) (hosted [] [])).out =
    [.hostRead (hosted [] []).rte.nextTag 0x4000 192] := by decide +kernel
theorem test_nop_completes : (after (.cmdNop 0) (hosted [nop] [])).out =
    [.hostWrite 0x10020 (wBytes 0x0000000100000007) false, .hostWrite 0x10028 (wBytes 0x8000000000000000) false] := by
  decide +kernel

/-- Event 5 is pending and open, event 3 pending and masked. -/
def eventful : Hw :=
  ((hosted [] []).setReg 0x40200 0x28).setReg 0x40100 8
def recorded (src : BitVec 10) : Hw :=
  let h := hosted [] []
  { h with evc := { h.evc with queue := [{ src := src, count := 0, payload := 7, detail := [], ftc := 0 }] } }

theorem witness_EventsCoalesceArbitrateAndReachTheirRing :
    bit (eventful.reg 0x40200) 5 = true ∧ bit (eventful.reg 0x40100) 5 = false ∧
      (∀ j : Fin 5, (bit (eventful.reg 0x40200) j.val && !bit (eventful.reg 0x40100) j.val) = false) ∧
      eventful.evc.queue = [] ∧ ({ eventful.evc with queue := List.replicate 256 (⟨1, 0, 0, [], 0⟩ : EvRecord) }).queue.length = 256 ∧
      (5 : BitVec 10).toNat / 64 = 0 ∧ eventful.evc.level.getLsbD 0 = false ∧
      (recorded 0x180).evc.queue = [{ src := 0x180, count := 0, payload := 7, detail := [], ftc := 0 }] ∧
      (recorded 0x180).hostUp = true ∧ (recorded 0x180).fwu.paused = false ∧ perCtxSource 0x180 = false ∧
      oneTarget (recorded 0x180) 0x180 7 = 7 ∧ evrOn (recorded 0x180) 7 = false ∧
      oneTarget (recorded 5) 5 7 = 0 ∧ evrOn (recorded 5) 0 = true ∧
      ringUsed ((recorded 5).fn 0).evrHead ((recorded 5).fn 0).evrTail 16 + 1 < 16 := by decide +kernel
theorem test_arbitrate_lowest_open : (after .eventArbitrate eventful).evc.queue.map (·.src) = [5] := by decide +kernel

/-- BAR2 shows page 4 of function 0; a core's load and a command read are outstanding to the host. -/
def windowed : Hw :=
  let h := ((hosted [] []).setReg 0x60 0x800).setReg 0x68 0x9FF
  let h1 := (h.setFn 0 { h.fn 0 with fetching := some (9, 1) }).modEasel 0 (fun x => { x with
    blocked := some { what := .load 4 8 false 8, serial := 0, pc := 0x20000000100, inst := 0 } })
  { h1 with
    hif := { h1.hif with vfEnable := true }
    reqs := [{ tag := 9, by_ := .cmdFetch 0, ctx := none, addr := 0, host := true, write := false, deadline := none, north := true, fresh := true },
      { tag := 8, by_ := .core 0, ctx := some 1, addr := 0, host := true, write := false, deadline := none, north := true, fresh := true }] }

theorem witness_PciePortServesWindowsResetsAndRequests :
    windowed.hostOpen = true ∧ windowed.fnOn 0 = true ∧ bar2Map windowed 0 0 8 = some 0x800000 ∧
      bar2Map windowed 0 0x1FFFF8 8 = some 0x9FFFF8 ∧ 0x9FFFF8 % 0x200000 + 8 ≤ 0x200000 ∧
      bar2Map windowed 0 0x1FFFF9 8 = none ∧ pageConf windowed 0x800000 = false ∧ pageZeroing windowed 0x800000 = false ∧
      rangeDown windowed 0x800000 8 = false ∧ windowed.mem.badRead 0x800000 8 = none ∧
      windowed.mem.badWrite 0x800000 8 = none ∧ windowed.mem.pathBad 0x800000 8 = none ∧
      bar2Here windowed 0 0 8 = true ∧ bar2Waits windowed 0 0 8 = false ∧ (windowed.fn 0).waiting = [] ∧
      bar2Here windowed 0 0x1FFFF9 8 = true ∧ bar2Waits windowed 0 0x1FFFF9 8 = false ∧
      windowed.hostUp = true ∧ windowed.fnOn 2 = true ∧
      (∀ c : CtxId, (windowed.ctx c).conf = false) ∧ windowed.hif.perst = false ∧ windowed.pins.powered = true ∧
      windowed.hif.link ≠ { pm := .down, gen := 0, width := 0, flit := false } ∧ linkLegal { pm := .down, gen := 0, width := 0, flit := false } = true ∧ 2 ≤ windowed.bru.phase.toNat ∧
      (windowed.reqs.find? (fun r => r.tag == 9 && r.host)).map (·.by_) = some (.cmdFetch 0) ∧
      (windowed.fn 0).fetching = some (9, 1) ∧ (windowed.fn 0).fetched = [] ∧
      (∀ c ∈ splitCmds 1 0 1 (wordsBytes [0x00070000, 0, 0, 0, 0, 0, 0, 0]), opKnown c.op = true) ∧
      (windowed.reqs.find? (fun r => r.tag == 8 && r.host)).map (fun r => (r.by_, r.ctx)) = some (.core 0, some 1) ∧
      (windowed.easel 0).loaded = some 1 ∧ OnlyCoreWaits (windowed.easel 0) ∧
      (windowed.easel 0).blocked.map (·.what) = some (.load 4 8 false 8) ∧ windowed.hif.configured = true ∧
      ({ windowed.hif with configured := false } : HostIf).configured = false ∧
      ({ HifFn.init with msixPend := 4 } : HifFn).msixPend.getLsbD 2 = true := by decide +kernel
theorem test_bar2_read : (after (.bar2Read 0 0 2) windowed).out = [.bar2Data 0 [0x80, 0x12]] := by decide +kernel

/-! ### Contexts, keys, captures -/

/-- `h` with function `f`'s completion ring on and `k` alone at the front of its queue. -/
def fronting (h : Hw) (f : FnId) (k : HostCmd) : Hw :=
  ((h.setReg (hifOff f 0x30) 0x10000).setReg (hifOff f 0x38) (16 + 2 ^ 17)).setFn f { HifFn.init with
    base := 0x4000, size := 16, running := true, tail := 3, fetched := [k] }
/-- Command `op` of context `c` with tag 7 and these operands. -/
def cc (op c : Nat) (ws : List Word) : HostCmd := cmdOf (ofN (op + c * 2 ^ 8 + 7 * 2 ^ 16) :: ws)
/-- Context 1 in another state, held by `f`. -/
def inState (st : BitVec 3) : Hw := (loading 0).modCtx 1 (fun x => { x with state := st })

theorem witness_ContextCommandsTakeTheirEffect :
    Fronts (st (fronting (loading 0) 5 (cc 0x10 2 [0]))) 5 0x10 true [0x3FFFFFFF, 0xFFFFFFFF, 0xFFFF007F, 0x7FFFFF]
        (cc 0x10 2 [0]) ∧
      Fronts (st (fronting (loading 0) 0 (cc 0x10 2 [0x10009, 1000, 64]))) 0 0x10 true
        [0x3FFFFFFF, 0xFFFFFFFF, 0xFFFF007F, 0x7FFFFF] (cc 0x10 2 [0x10009, 1000, 64]) ∧
      ((loading 0).ctx 2).state = 0 ∧ ((loading 0).ctx 1).state ≠ 0 ∧ BitVec.ofNat 4 (wfld (0x10009 : Word) 16 4) ≠ 0 ∧
      quantumOk 0 = true ∧ quantumOk 100 = true ∧ quantumOk 99 = false ∧ quantumOk 1000000 = true := by decide +kernel
theorem witness_ContextCommandsOfTheirPages :
    Fronts (st (fronting (loading 0) 0 (cc 0x11 1 [2, 10, 2]))) 0 0x11 true
        [3, 0xFFFFFFFFFFFFFFFF, 0xFFFFFFFFFFFFFFFF] (cc 0x11 1 [2, 10, 2]) ∧
      ((loading 0).ctx 1).live = true ∧ pageFree (loading 0) 10 = true ∧ pageFree (loading 0) 11 = true ∧
      Fronts (st (fronting (loading 0) 0 (cc 0x12 1 [0, 4, 1]))) 0 0x12 true
        [1, 0xFFFFFFFFFFFFFFFF, 0xFFFFFFFFFFFFFFFF] (cc 0x12 1 [0, 4, 1]) ∧ holdsPage (loading 0) 1 4 = true ∧
      Fronts (st (fronting (inState 1) 0 (cc 0x13 1 [0x800000, 16, 64, 64]))) 0 0x13 true
        [0xFFFFFFFFFFFFFFFF, 0xFFFFFFFF, 0x1FFFFF, 0x1FFFFF] (cc 0x13 1 [0x800000, 16, 64, 64]) ∧
      startStatus (inState 1) 0 (cc 0x13 1 [0x800000, 16, 64, 64]) = 0 ∧ wfld (0x800000 : Word) 60 4 = 0 ∧
      isLp 0x800000 = true ∧ (inState 1).mem.badRead 0x800000 16 = none ∧
      (inState 1).mem.pathBad 0x800000 16 = none ∧ chanWaits (inState 1) 0x800000 16 = false ∧
      chanDown (inState 1) 0x800000 16 = false := by decide +kernel
theorem witness_ContextCommandsOfTheirFunction :
    Fronts (st (fronting (inState 2) 0 (cc 0x14 1 []))) 0 0x14 true [] (cc 0x14 1 []) ∧ ((inState 2).ctx 1).fn = 0 ∧
      Fronts (st (fronting (inState 3) 0 (cc 0x14 1 []))) 0 0x14 true [] (cc 0x14 1 []) ∧
      Fronts (st (fronting (inState 4) 0 (cc 0x15 1 []))) 0 0x15 true [] (cc 0x15 1 []) ∧ ((inState 4).ctx 1).held = false ∧
      Fronts (st (fronting (loading 0) 0 (cc 0x17 1 [7, 99]))) 0 0x17 true [7, 0xFFFFFFFFFFFFFFFF] (cc 0x17 1 [7, 99]) ∧
      Fronts (st (fronting (loading 0) 0 (cc 0x18 1 [63]))) 0 0x18 true [0x3F] (cc 0x18 1 [63]) ∧
      ((loading 0).ctx 1).conf = false := by decide +kernel
theorem witness_ContextCommandsThatReport :
    Fronts (st (fronting (loading 0) 0 (cc 0x19 1 [64]))) 0 0x19 true [0xFFFFFFFFFFFFFFFF] (cc 0x19 1 [64]) ∧
      wfld (64 : Word) 0 6 = 0 ∧ Fronts (st (fronting (loading 0) 0 (cc 0x1A 1 []))) 0 0x1A true [] (cc 0x1A 1 []) ∧
      Fronts (st (fronting (loading 0) 0 (cc 0x16 1 []))) 0 0x16 true [] (cc 0x16 1 []) := by decide +kernel
theorem test_ctx_stop : ((after (.ctxStop 0) (fronting (inState 2) 0 (cc 0x14 1 []))).ctx 1).state = 4 := by decide +kernel
theorem test_ctx_create_by_a_vf :
    ((after (.ctxCreate 5) (fronting (loading 0) 5 (cc 0x10 2 [0]))).out.getLast?) =
      some (.hostWrite 0x10008 (wBytes 0x8000000000000000) false) := by decide +kernel

/-- Context 1 in gesso, its page 4 being zeroed. -/
def gesso : Hw :=
  let h := (inState 7).modCtx 1 (fun x => { x with gessoAt := 1000000000000 })
  { h with ctxs := { h.ctxs with owner := [(4, .zeroing)], loaded := [] } }

theorem witness_GessoLeavesNothingOfTheContext :
    (gesso.ctx 1).state = 7 ∧ (gesso.ctx 1).gessoAt ≤ gesso.now ∧
      ({ gesso with now := 999999999999 } : Hw).now < (gesso.ctx 1).gessoAt ∧ gesso.owner 4 = .zeroing ∧
      gesso.memctl.selfRefresh = false ∧ gesso.owner 5 ≠ .zeroing := by decide +kernel
theorem test_gesso_ends : ((after (.gessoStepsEnd 1) gesso).ctx 1).state = 0 := by decide +kernel

/-- Context 2 is runnable on partition 0 with priority 1; context 1 there has run its quantum. -/
def rivals (ran : Nat) : Hw :=
  ((loading 0).modCtx 1 (fun x => { x with quantum := 1000, ranFor := ran })).setCtx 2
    { Ctx.init with state := 2, job := 8, mask := 1, prio := 1 }
/-- Partition 0 is free; or context 1 is to leave it. -/
def emptied : Hw :=
  let h := (rivals 0).modEasel 0 (fun x => { x with loaded := none, service := true, idled := true })
  { h with ctxs := { h.ctxs with loaded := [] } }.modCtx 1 (fun x => { x with state := 4 })
def leaving : Hw := (rivals 0).modCtx 1 (fun x => { x with held := true })
/-- COPY number 0 of the stopped easel 0 awaits data for its own Palette. -/
def copying : Hw :=
  let x : Txn := { src := some 0x8001000000000000, dst := palUma (palBase 0), len := 64 }
  let h := (loading 0).modEasel 0 (fun y => { y with stopped := true, stopNs := 4000, ce := [{ newOf (loading 0) .copy fE 0 [] with
    started := true, txns := [x] }] })
  { h with reqs := [{ tag := 9, by_ := .copy 0 0 0, ctx := some 1, addr := 0x8001000000000000, host := false,
                      write := false, deadline := none, north := true, fresh := true }] }
def exited : Hw :=
  (after (.exit 0 (fS 0)) { loading 0 with bru := { (loading 0).bru with enabled := [0] } })

theorem witness_SchedulerLoadsAndUnloadsContexts :
    SMap.find (rivals 1000000).ctxs.loaded 0 = some 1 ∧ (rivals 1000000).fwu.paused = false ∧
      ((rivals 1000000).ctx 1).quantum ≠ 0 ∧ ((rivals 1000000).ctx 1).state = 3 ∧
      ((rivals 1000000).ctx 1).quantum * 1000 ≤ ((rivals 1000000).ctx 1).ranFor ∧
      (∃ d, mayReplace { (rivals 1000000).ctx 1 with due := true } ((rivals 1000000).ctx d) = true) ∧
      ((rivals 999999).ctx 1).ranFor < ((rivals 999999).ctx 1).quantum * 1000 ∧
      emptied.bru.ready = true ∧ emptied.chipRec = false ∧ emptied.pwr.idle ≠ 3 ∧ loadedOn emptied 1 = [] ∧
      chosen emptied 2 = true ∧ (emptied.ctx 2).mask &&& ~~~1 = 0 ∧ (emptied.ctx 2).saved = [] ∧
      emptied.glz.slots = [] ∧ (∀ e, (savedOf (emptied.ctx 2) e).ce = [] ∧ (savedOf (emptied.ctx 2) e).blocked = none) ∧
      (∀ e ∈ ctxEasels emptied (emptied.ctx 2).mask, NoneDrains (emptied.easel e) ∧ (emptied.easel e).svcBlocked = none) ∧
      (∀ e ∈ ctxEasels leaving (leaving.ctx 1).mask,
        (leaving.easel e).me ++ (leaving.easel e).vu ++ (leaving.easel e).ce = [] ∧ (leaving.easel e).acc.errs = []) ∧
      leaving.mem.ecc = [] ∧ leaving.mem.unfolded = [] ∧ (leaving.ctx 1).state = 3 := by decide +kernel
theorem witness_SchedulerUnloadsAndFinishesContexts :
    loadedOn leaving 1 = [1] ∧ (leaving.ctx 1).mask &&& ~~~1 = 0 ∧
      (leaving.ctx 1).held = true ∧ stopPending leaving 1 = none ∧
      (copying.reqs.find? (fun q => q.tag == 9)).map (·.by_) = some (.copy 0 0 0) ∧
      ((ctxEntry copying 1 0 .ce 0).bind (fun i => i.txns[0]?)).map (·.dst) = some (palUma (palBase 0)) ∧
      decodeUma copying 1 (palUma (palBase 0)) = .local (palBase 0) ∧ isPal (palBase 0) = true ∧
      (copying.easel 0).stopped = true ∧ 4000 ≤ (copying.easel 0).stopNs ∧ copying.resident 1 0 = true ∧
      ((loading 0).easel 0).stopNs < 4000 ∧ (exited.ctx 1).state = 3 ∧ colBusy exited 1 = false ∧ exited.glz.slots = [] ∧
      (ctxEasels exited 1).filter (fun e => exited.up e) = [0] ∧ (exited.easel 0).loaded = some 1 ∧
      (exited.easel 0).exited = true ∧ (exited.easel 0).me = [] ∧ (exited.easel 0).sb = [] ∧
      ((loading 0).easel 0).exited = false := by decide +kernel
theorem test_context_switch_in : ((after (.contextSwitch 1 (some 2)) emptied).easel 0).loaded = some 2 := by decide +kernel
theorem test_exit_completes : ((after (.contextExitComplete 1) exited).ctx 1).state = 5 := by decide +kernel

/-- The core of easel 0 waits in a service with s1, s2 and s3. -/
def calling (n : BitVec 16) (a b c : Word) : Hw :=
  (running a b).modEasel 0 (fun x => { x with
    core := x.core.put 3 c
    blocked := some { what := .svc n, serial := 0, pc := 0x20000000100, inst := 0 } })
def skOn (h : Hw) : Hw := h.setReg (blkBase (.skt 0) + 0x10) 1

theorem witness_ContextServicesAnswerTheirCaller :
    ((calling 1 0 0 0).easel 0).loaded = some 1 ∧ ((calling 1 0 0 0).easel 0).blocked.map (·.what) = some (.svc 1) ∧
      (calling 1 0 0 0).fwu.paused = false ∧ sketchPart (palBase 0) = some 0 ∧
      bit (((calling 1 (ofN (palBase 0)) 4 1).easel 0).core.get 3) 0 = true ∧
      freeRegion (skOn (calling 1 (ofN (palBase 0)) 4 1)) 0 = some 0 ∧
      (fwCommit (skOn (calling 1 (ofN (palBase 0)) 4 1)) (.skt 0) (regionCap 0 0 (ofN (palBase 0))
        (put 4 0 23 ||| put 1 24 6 ||| bitw true 31))).isSome = true ∧
      (modRange (calling 2 32768 0 0) 1).2 = 0 ∧
      (fwCommits (calling 2 32768 0 0).useFree (rangeCommits 1 0 32768)).isSome = true ∧
      (List.range 64).find? (fun g => !bit ((calling 3 0x800000 0 0).reg (colOff (0x100 + 8 * g))) 32) = some 0 ∧
      memberList (calling 3 0x800000 0 0) 1 0x800000 (2 ^ 0) = some [0] ∧ (calling 3 0x800000 0 0).fa = 0 ∧
      decodeUma (calling 3 0x800000 0 0) 1 0x800000 = .local 0x800000 ∧
      (calling 3 0x800000 0 0).mem.corrected 0x800000 2 = 0 ∧
      findMembers (memberRanges (calling 3 0x800000 0 0) none) 1 65 0 = some 0 ∧
      (fwCommit (calling 3 0x800000 0 0) .col (memberWords 0 1 [0] ++ [(colOff 0x100,
        put 0 0 13 ||| put 0 16 4 ||| put 1 20 6 ||| bitw true 32)])).isSome = true ∧ 10 < (11 : Word).toNat := by
  decide +kernel
/-- The whole range is found wherever the search begins. -/
theorem witness_SyncRangeFound : objRange (calling 2 32768 0 0) 32768 = some 0 := by
  have h : synRanges (calling 2 32768 0 0) 0 = [] := by decide +kernel
  have k (n : Nat) : findRange [] 32768 65 n = if 0 < n then none else some n := by simp [findRange]
  rw [objRange, h, k, k]
  generalize (calling 2 32768 0 0).freeWord.toNat % 32768 = n
  cases n <;> rfl
theorem test_notify : ((after (.notify 0) (calling 4 6 0 0)).easel 0).core.pc = 0x20000000108 := by decide +kernel

/-! ### Keys, captures, sessions -/

/-- Context 1 of job 7 holds weight key 5; job 7 has job keys 5 (entry 0, sending) and 6 (entry 1). -/
def keyed : Hw :=
  let h := loading 0
  { h with sec := { h.sec with
      wkeys := [(5, (1, [1, 2]))]
      jobKeys := [(0, { id := 5, key := [], job := 7, nonce := 0, send := true }),
        (1, { id := 6, key := [], job := 7, nonce := 0, send := false })]
      everHeld := [5, 6] } }
/-- The blob of `k` is being read. -/
def blobbing (k : HostCmd) : Hw :=
  let h := (fronting keyed 0 k).modFn 0 (fun x => { x with fetched := [], inProgress := [{ cmd := k, silent := false }] })
  { h with reqs := [{ tag := 9, by_ := .hostCmd 0 0, ctx := none, addr := 0x1000, host := true, write := false,
                      deadline := none, north := true, fresh := true }] }

theorem witness_KeyCommandsMakeMoveAndClearKeys :
    Fronts (st (fronting keyed 0 (cc 0x20 1 []))) 0 0x20 true [] (cc 0x20 1 []) ∧
      keyStatus keyed 0 (cc 0x20 1 []) = 0 ∧
      Fronts (st (fronting keyed 0 (cc 0x21 1 [0x1000]))) 0 0x21 true [0xFFFFFFFFFFFFFFFF] (cc 0x21 1 [0x1000]) ∧
      Fronts (st (fronting keyed 0 (cc 0x23 1 [0x1000, 1]))) 0 0x23 true [0xFFFFFFFFFFFFFFFF, 1] (cc 0x23 1 [0x1000, 1]) ∧
      Fronts (st (fronting keyed 0 (cc 0x22 1 [5]))) 0 0x22 true [0x7F] (cc 0x22 1 [5]) ∧
      wkeyInUse (fronting keyed 0 (cc 0x22 1 [5])) 5 = false := by decide +kernel
theorem witness_KeyCommandsNameTheirKeys :
    SMap.find keyed.sec.wkeys (wfld (5 : Word) 0 7) = some (1, [1, 2]) ∧ SMap.find keyed.sec.wkeys 127 = none ∧
      Fronts (st (fronting keyed 0 (cc 0x24 1 [6]))) 0 0x24 true [0xFFFF] (cc 0x24 1 [6]) ∧
      (namedKey keyed (cc 0x24 1 [6])).map (fun p => (p.1, p.2.send)) = some (1, false) ∧
      namedKey keyed (cc 0x24 1 [7]) = none ∧
      Fronts (st (fronting keyed 0 (cc 0x25 1 [5]))) 0 0x25 true [0xFFFF] (cc 0x25 1 [5]) ∧
      (namedKey keyed (cc 0x25 1 [5])).map (fun p => (p.1, p.2.send)) = some (0, true) ∧
      ((blobbing (cc 0x21 1 [0x1000])).reqs.find? (fun q => q.tag == 9 && q.host)).map (·.by_) = some (.hostCmd 0 0) ∧
      readingCmd (blobbing (cc 0x21 1 [0x1000])) 0 0 = some (cc 0x21 1 [0x1000]) ∧
      keyStatus (blobbing (cc 0x21 1 [0x1000])) 0 (cc 0x21 1 [0x1000]) = 0 ∧
      unwrapBlob (blobbing (cc 0x21 1 [0x1000])) 1 1 [] = none ∧
      (List.range 64).find? (fun e => (SMap.find keyed.sec.jobKeys e).isNone) = some 2 ∧
      (7 : BitVec 16) ∉ keyed.sec.everHeld ∧ (5 : BitVec 16) ∈ keyed.sec.everHeld := by decide +kernel
/-- A blob opens where its header and digest are right and the open primitives give a secret and a key. -/
theorem witness_BlobOpens {h : Hw} {c : CtxId} {typ : Nat} {b ek dk sec key : Bytes}
    (hk : (h.ctx c).kem = some (ek, dk)) (h0 : leNat (sub b 0 1) = 1) (h1 : leNat (sub b 1 1) = typ)
    (h2 : leNat (sub b 2 1) = c.val) (hd : (evidenceDigests h c ek).contains (sub b 8 32) = true)
    (hs : Config.kemDecaps dk (sub b 40 1088) = some sec)
    (ho : gcmOpen (kdf sec (ascii "HX7-KEYWRAP-1" ++ sub b 0 40)) (sub b 1128 12) (sub b 0 40)
      (sub b 1140 32) (sub b 1172 16) = some key) : unwrapBlob h c typ b = some key := by
  simp only [unwrapBlob, hk, h0, h1, h2, hd, hs, ho]
  simp
theorem test_jobkey_send : (after (.jobkeySend 0) (fronting keyed 0 (cc 0x24 1 [6]))).sec.jobKeys.map (·.2.send) =
    [false, true] := by decide +kernel

/-- A finished capture of context 1, 128 bytes at page 20. -/
def cap1 : Capture :=
  { id := 3, level := 0, incomplete := false, palettes := false, fallback := false, dropped := false, damaged := false,
    trigger := 1, ftcStart := 0, ftcEnd := 1, contexts := 2, easel := 0xFF, parts := 1, records := 1,
    offset := 20 * 0x200000, bytes := 128, isOpen := false }
def captured : Hw := { keyed with flt := { keyed.flt with captures := [cap1] } }
def faultedCtx : Hw := captured.modCtx 1 (fun x => { x with state := 6 })

theorem witness_CapturesAndResetsServeTheirFunction :
    Fronts (st (fronting captured 0 (cc 0x30 0 [64, 1]))) 0 0x30 false [0xFFFFFFFFFFFFFFFF, 0xFFFF] (cc 0x30 0 [64, 1]) ∧
      Fronts (st (fronting captured 5 (cc 0x30 0 [64, 1]))) 5 0x30 false [0xFFFFFFFFFFFFFFFF, 0xFFFF] (cc 0x30 0 [64, 1]) ∧
      Fronts (st (fronting captured 0 (cc 0x31 0 [3, 64, 64, 4096]))) 0 0x31 false
        [0xFFFF, 0xFFFFFFFFFFFFFFFF, 0xFFFFFFFFFFFFFFFF, 0xFFFFFFFFFFFFFFFF] (cc 0x31 0 [3, 64, 64, 4096]) ∧
      capOf captured 4 = none ∧ capOf captured 3 = some cap1 ∧ capReader captured 5 cap1 = false ∧
      capReader captured 0 cap1 = true ∧ 64 + 64 ≤ up64 cap1.bytes ∧ captured.mem.badRead (cap1.offset + 64) 64 = none ∧
      captured.mem.pathBad (cap1.offset + 64) 64 = none ∧ chanWaits captured (cap1.offset + 64) 64 = false ∧
      chanDown captured (cap1.offset + 64) 64 = false ∧ cap1.dropped = false ∧
      Fronts (st (fronting captured 0 (cc 0x32 0 [3]))) 0 0x32 false [0xFFFF] (cc 0x32 0 [3]) := by decide +kernel
theorem witness_ResetsServeTheirFunction :
    Fronts (st (fronting captured 0 (cc 0x37 1 [1, 4, 0]))) 0 0x37 true [1, 0xFFFFFFFFFFFFFFFF, 0xFFFFFFFFFFFFFFFF]
        (cc 0x37 1 [1, 4, 0]) ∧ (faultedCtx.ctx 1).state = 6 ∧ (captured.ctx 1).state ≠ 6 ∧ (captured.ctx 1).fn = 0 ∧
      Fronts (st (fronting faultedCtx 0 (cc 0x33 1 []))) 0 0x33 true [] (cc 0x33 1 []) ∧
      Fronts (st (fronting captured 0 (cc 0x34 0 [52]))) 0 0x34 false [0xFF] (cc 0x34 0 [52]) ∧
      captured.up 52 = true ∧ wfld (52 : Word) 0 8 = (52 : EaselId).val ∧ captured.flt.powerCycle = false ∧
      captured.flt.recoveries = [] ∧ captured.flt.engHistory = [] := by decide +kernel
theorem witness_UnitsServeTheirFunction :
    Fronts (st (fronting captured 0 (cc 0x35 0 [3]))) 0 0x35 false [3] (cc 0x35 0 [3]) ∧
      Fronts (st (fronting captured 5 (cc 0x36 0 []))) 5 0x36 false [] (cc 0x36 0 []) ∧
      Fronts (st (fronting captured 0 (cc 0x36 0 []))) 0 0x36 false [] (cc 0x36 0 []) := by decide +kernel
theorem test_ctx_recover : ((after (.ctxRecover 0) (fronting faultedCtx 0 (cc 0x33 1 []))).ctx 1).state = 1 := by
  decide +kernel

/-- Ihlel answers over DOE with a finished session 0 and an unfinished session 1. -/
def ihlel : Hw :=
  let h := keyed.modCtx 1 (fun x => { x with kem := some ([1], [2]) })
  { h with
    hif := { h.hif with vfEnable := true }
    sec := { h.sec with
      versioned := [(tnum .doe, true)], negotiated := [(tnum .doe, true)]
      sessions := [(sessNum .doe 0, { finished := true, secret := [], updates := 0 }),
        (sessNum .doe 1, { finished := false, secret := [7], updates := 0 })]
      ide := [(4, { vf := some 2, key := [], on := true })] } }

theorem witness_SpdmNegotiatesAuthenticatesAndOpensSessions :
    spdmUp ihlel .doe = true ∧ (SMap.find ihlel.sec.versioned (tnum .doe)).isSome = true ∧
      SMap.find ihlel.sec.versioned (tnum .doe) = some true ∧
      (4, 0xF002) ∈ ([(4, 0xF002)] : List (BitVec 8 × BitVec 16)) ∧
      (4, 0xF002) ∉ ([(4, 0xF001)] : List (BitVec 8 × BitVec 16)) ∧
      (SMap.find ihlel.sec.negotiated (tnum .doe)).isSome = true ∧ sessOpen ihlel .doe 0 = true ∧
      SMap.find ihlel.sec.negotiated (tnum .doe) = some true ∧
      (∀ j : Fin 4, j < 2 → SMap.find ihlel.sec.sessions (sessNum .doe j) ≠ none) ∧
      SMap.find ihlel.sec.sessions (sessNum .doe 2) = none ∧
      SMap.find ihlel.sec.sessions (sessNum .doe 1) = some { finished := false, secret := [7], updates := 0 } := by
  decide +kernel
/-- Verify data that are right, and some that are not. -/
theorem witness_VerifyDataRightAndWrong : ∃ v w : Bytes, v = Config.spdmVerify [7] ∧ w ≠ Config.spdmVerify [7] :=
  ⟨_, Config.spdmVerify [7] ++ [0], rfl, by simp⟩
theorem witness_SessionRequestsServeSessionsEvidenceAndInterfaces :
    spdmUp ihlel .doe = true ∧ sessOpen ihlel .doe 0 = true ∧ (ihlel.ctx 1).kem = some ([1], [2]) ∧
      (List.replicate 32 (0 : Byte)).length = 32 ∧ (ihlel.ctx 1).live = true ∧ (ihlel.ctx 2).kem = none ∧
      (SMap.find ihlel.sec.ide 4).map (·.vf) = some (some 2) ∧ ihlel.fnOn 2 = true ∧ ihlel.tdi 2 = 0 ∧
      ((ihlel.setTdi 2 1).tdi 2, (ihlel.setTdi 2 2).tdi 2, (ihlel.setTdi 2 3).tdi 2) = (1, 2, 3) ∧
      sessOpen ihlel .doe 1 = false ∧ spdmUp Hw.reset .doe = false := by decide +kernel
theorem test_tdisp_lock : (after (.tdisp (some 0) 2 .lockInterface) ihlel).tdi 2 = 1 := by decide +kernel
theorem test_ide_stop_errs : (after (.ideKm (some 0) (.setStop 4)) (ihlel.setTdi 2 2)).tdi 2 = 3 := by decide +kernel

/-! ### Power, thermal, supervisors -/

/-- Supervisor 0 writes, supervisor 1 follows synchronised; ten measurements of `m` and one estimate mean of `e` (0.1 W). -/
def powered (m e : Nat) : Hw :=
  let h := (running 0 0).setReg 0x70028 1
  { h with
    pwr := { h.pwr with measWin := List.replicate 10 { p := m, me := 0, f := 64, busy := 1 }, estMean := [e] }
    sup := { h.sup with
      s0 := { Sup.init with started := true, synced := true, writing := true }
      s1 := { Sup.init with started := true, synced := true }
      holder := some 0, renewed := 999999900000 } }

theorem witness_PowerLoopsMeasureAndLimit :
    supWrites (powered 10000 10000) = true ∧ 3000 ≤ (meanSample (powered 10000 10000).pwr.measWin 10).p ∧
      (16384 * 8 ≤ 16384 * 10000 / 10000 * 10) ∧ (16384 * 10000 / 10000 * 100 ≤ 16384 * 125) ∧
      16384 * 125 < 16384 * 10000 / 1000 * 100 ∧ (powered 10000 10000).pwr.gain = 16384 ∧
      (meanSample (powered 3000 1).pwr.measWin 10).p = 3000 ∧ supWrites hw0 = false ∧
      hw0.now < hw0.now + 10000 ∧ bit ((powered 10000 1).reg 0x70028) 0 = true ∧
      (powered 10000 1).pins.variant1800 = false ∧ (powered 10000 1).thm.fallback = false ∧
      clamped (powered 10000 1) = false ∧ junctionAt (powered 10000 1) 90 = false ∧ 64 ≤ fPwr (powered 10000 1) ∧
      (powered 10000 1).thm.junction = [] ∧
      ¬ capInForce (powered 10000 1) 0x70020 < (meanSample (powered 10000 1).pwr.measWin 10).p + 1500 ∧
      capInForce (powered 23000 1) 0x70020 < (meanSample (powered 23000 1).pwr.measWin 10).p + 1500 ∧
      (powered 10000 1).pwr.limLowAt = none ∧ (powered 10000 1).pwr.hotAt = none ∧ junctionAt (powered 10000 1) 86 = false ∧
      bit (hw0.reg 0x70028) 0 = false ∧ ({ hw0.pwr with thrOpen := true }).thrOpen = true ∧ throttled hw0 = false ∧
      hw0.pwr.thrLast + 10000 ≤ hw0.now ∧
      throttled { hw0 with thm := { hw0.thm with fallback := true } } = true ∧
      MayWriteReg (st hw0) (.fn 0) .pwr 0x18 ∧ MayWriteReg (st hw0) (.sup 0) .pwr 0x20 := by decide +kernel
theorem test_cap_clamps : wfld ((after (.pwrCapWrite (.fn 0) true 700) hw0).reg 0x70020) 0 12 = 1200 ∧
    wfld ((after (.pwrCapWrite (.fn 0) false 4000) hw0).reg 0x70018) 0 12 = 2400 := by decide +kernel
theorem test_boost_steps : (after .boostTargetUpdate (powered 10000 1)).pwr.target = 2150 := by decide +kernel

/-- Quiet since time 0, with tolerance `tol`. -/
def quiet (tol : Nat) : Hw :=
  let h := (hw0.setReg 0x70048 (ofN tol)).setReg 0x70050 10
  { h with pwr := { h.pwr with quietSince := some 0 } }

theorem witness_ClampsAndIdleStatesActAndRelease :
    hw0.pwr.pinWarn = false ∧ hw0.bru.enabled ≠ [] ∧ ({ hw0.pwr with pinWarn := true }).pinWarn = true ∧
      hw0.pwr.uvWarn = false ∧ 0 < wfld (hw0.reg 0x70038) 16 16 ∧ wfld (hw0.reg 0x70038) 16 16 ≤ 65535 ∧
      hw0.pwr.droop.getLsbD 1 = false ∧ (∃ e ∈ hw0.bru.enabled, (dieOf e).val = 0) ∧
      (quiet 15000).pwr.quietSince = some 0 ∧ isQuiet (quiet 15000) = true ∧
      0 + wfld ((quiet 15000).reg 0x70050) 0 24 * 1000 ≤ (quiet 15000).now ∧
      deepestIdle (wfld ((quiet 15000).reg 0x70048) 0 32) = 3 ∧ (quiet 15000).pwr.idle < 3 ∧
      deepestIdle (wfld ((quiet 3).reg 0x70048) 0 32) = 1 ∧ isQuiet (running 0 0) = false ∧
      MayWriteReg (st hw0) (.fn 0) .pwr 0x48 ∧ (119 : BitVec 32).toNat < exitBound 2 ∧
      exitBound 2 ≤ (120 : BitVec 32).toNat := by decide +kernel
theorem test_idle_entry : (after .idleEntry (quiet 14999)).pwr.idle = 2 := by decide +kernel

/-- Zone 3 and Canvas sensor 5 read this; leak trace 0 has read wet `n` times. -/
def warm (v : Int) (n : Nat) : Hw :=
  let h := ((powered 1 1).setZone 3 { (powered 1 1).zone 3 with reading := v }).setCanvasSensor 5
    { (powered 1 1).canvasSensor 5 with reading := v }
  { h with thm := { h.thm with candidate := [(0, .wet)], seen := [(0, n)] } }
def modelled : Hw := (warm 20 0).setZone 3 { (warm 20 0).zone 3 with failed := true, model := 110000000 }

theorem witness_ThermalStateIsMeasuredLimitedAndTrips :
    (149 : Int) < 150 ∧ (400 : Int) < 401 ∧ (warm 20 0).thm.inletBad = false ∧ supWrites (warm 20 0) = true ∧
      supWrites hw0 = false ∧ zoneReading (warm 105 0) 3 = 105000000 ∧
      zoneReading (warm 104 0) 3 < 105000000 ∧ zoneReading (warm 20 0) 3 < (85 : Int) * 1000000 ∧
      lpddrHot (warm 20 0) = false ∧ canvasHot (warm 20 0) (3 / 24) = false ∧ canvasHot (warm 104 0) (3 / 24) = true ∧
      (modelled.zone 3).failed = true ∧ 110000000 ≤ (modelled.zone 3).model ∧ ((warm 110 0).zone 3).failed = false ∧
      110 ≤ ((warm 110 0).zone 3).reading ∧ (warm 110 0).thm.tripped = false ∧ (warm 110 0).flt.powerCycle = false ∧
      ((warm 105 0).canvasSensor 5).failed = false ∧ 105 ≤ ((warm 105 0).canvasSensor 5).reading ∧
      ((warm 109 0).zone 3).reading < 110 ∧ (.dry : LeakCode) = (warm 20 0).leakReported 0 ∧
      SMap.find (warm 20 9).thm.candidate 0 = some .wet ∧ SMap.get 0 (warm 20 9).thm.seen 0 < 10 ∧
      10 ≤ SMap.get 0 (warm 20 10).thm.seen 0 ∧ (warm 20 10).pwr.leakWet = false := by decide +kernel
theorem test_fthm_of_a_hot_zone : ((after .thermalLoopUpdate (warm 105 0)).zone 3).fthm = 8 ∧
    ((after .thermalLoopUpdate (warm 104 0)).zone 3).fthm = 60 := by decide +kernel
theorem test_leak_reported : ((after (.leakTraceChange 0) (warm 20 10)).pwr.leakWet,
    (after (.leakTraceChange 0) (warm 20 9)).pwr.leakWet) = (true, false) := by decide +kernel

/-- Supervisor 1 restarts since time `since` with `n` matches; an activation is in stage `stage`. -/
def restarting (since n stage : Nat) : Hw :=
  let h := powered 1 1
  { h with
    sup := { h.sup with s1 := { h.sup.s1 with synced := false, restartAt := some since, matches_ := n }, renewed := 0 }
    fwu := { h.fwu with supStage := stage, step := 5, actSlot := 1 } }

theorem witness_SupervisorsCompareHandOverAndRestart :
    (powered 1 1).sup.holder = some 0 ∧ (powered 1 1).sup.swapPending = false ∧ ((powered 1 1).supOf 1).restartAt = none ∧
      (powered 1 1).sup.diverge < 2 ∧ ({ (powered 1 1).sup with diverge := 2 }).diverge = 2 ∧
      ((restarting 0 99 1).supOf 1).restartAt ≠ none ∧ hw0.sup.holder = none ∧ ((powered 1 1).supOf 0).writing = true ∧
      (powered 1 1).now < (powered 1 1).sup.renewed + 300000 ∧
      (restarting 0 99 1).sup.renewed + 300000 ≤ (restarting 0 99 1).now ∧ ((powered 1 1).supOf 1).started = true ∧
      ((powered 1 1).supOf 1).synced = true ∧ ((restarting 0 99 1).supOf 1).synced = false ∧
      (powered 1 1).flt.powerCycle = false ∧ (powered 1 1).flt.recoveries = [] ∧
      MayWriteReg (st (powered 1 1)) (.fn 0) (.sup 1) 0x18 ∧ swapError (powered 1 1) = 0 ∧
      swapError (restarting 0 99 1) ≠ 0 ∧ MayWriteReg (st (powered 1 1)) (.fn 0) (.sup 1) 0x20 ∧
      (powered 1 1).sup.holder ≠ some 1 ∧ 100 ≤ ((restarting 0 100 1).supOf 1).matches_ ∧
      ((restarting 0 99 1).supOf 1).matches_ < 100 ∧ standby (restarting 0 99 1) = some 1 ∧
      (restarting 0 99 1).fwu.supStage = 1 ∧ (restarting 0 99 2).fwu.supStage = 2 ∧ (restarting 0 99 4).fwu.supStage = 4 ∧
      0 + 10000000 ≤ (restarting 0 99 2).now ∧
      swapError { powered 1 1 with fwu := { (powered 1 1).fwu with supStage := 2 } } = 0 ∧ standby (powered 1 1) = some 1 ∧
      ({ (restarting 0 99 2).sup.s1 with restartAt := none }).restartAt = none := by decide +kernel
theorem test_lease_expires : (after .leaseExpire { powered 1 1 with now := 1000000200000 }).sup.holder = some 1 := by
  decide +kernel

/-! ### Recovery, boot, update, tray -/

/-- An ANCHOR of easel 0 has run for 50 ms; or its easel is stopped; `r` is in progress. -/
def stuck (r : List Recovery) : Hw :=
  let h := (started 0x600000).modEasel 0 (fun x => { x with me := x.me.map (fun i => { i with since := 0 }) })
  { h with flt := { h.flt with recoveries := r } }
def stopped : Hw := (stuck []).modEasel 0 (fun x => { x with stopped := true, stopNs := 100000 })
def recOf (u : RecUnit) (t : Nat) : Recovery := { unit := u, trigger := 9, start := t, cmds := [] }
/-- An open capture of engine level, begun at FTC 0; the FTC stands at `t`. -/
def captureAt (t : Nat) : Hw :=
  { hw0 with
    flt := { hw0.flt with captures := [{ cap1 with level := 1, isOpen := true }] }
    ftc := { hw0.ftc with count := t } }

theorem witness_RecoveriesRunEscalateAndResetTheirUnit :
    (stuck []).flt.powerCycle = false ∧ (watched (stuck []) 0 .me 0).isSome = true ∧ (stuck []).flt.recoveries = [] ∧
      (stuck []).flt.engHistory = [] ∧ RunsClean (st (stuck [])) 1 ∧ watched (started 0x600000) 0 .me 0 = none ∧
      stopped.up 0 = true ∧ (stopped.easel 0).stopped = true ∧ 100000 ≤ (stopped.easel 0).stopNs ∧
      (∃ i ∈ (stopped.easel 0).me ++ (stopped.easel 0).vu ++ (stopped.easel 0).ce, i.started = true) ∧
      ((stuck []).easel 0).stopped = false ∧ ((stuck []).easel 0).stopNs < 100000 ∧ (stuck [recOf .chip 0]).chipRec = true ∧ (stuck []).chipRec = false ∧
      0 + recLimit .chip ≤ (stuck []).now ∧ (stuck []).now < (stuck []).now + recLimit (.engine 0) ∧
      ((captureAt 100000).flt.captures.find? (fun c => c.id == 3 && c.isOpen)).map (·.level) = some 1 ∧
      capBound 1 = some 100000 ∧ 0 + 100000 ≤ (captureAt 100000).ftcNow ∧ (captureAt 99999).ftcNow < 0 + 100000 ∧
      ((stuck []).easel 0).loaded ≠ none ∧ hw0.up 52 = true ∧ (hw0.easel 52).loaded = none ∧
      recovering hw0 (.engine 52) = false ∧ recovering (stuck [recOf (.engine 0) 0]) (.engine 0) = true ∧
      hw0.up 3 = false ∧ recovering (stuck [recOf (.partition 1) 0]) (.partition 1) = true ∧
      Hw.reset.bru.phase ≠ 6 ∧ Hw.reset.bru.phase ≠ 7 ∧ hw0.bru.phase = 7 ∧ hw0.fwu.slot0.state = 3 ∧
      hw0.fwu.slot1.state ≠ 4 ∧ hw0.fwu.slot0.failCount < 2 ∧ hw0.fwu.session = none ∧ hw0.fwu.step = 0 ∧
      hw0.fwu.paused = false := by decide +kernel
theorem test_kat_passes : ((after (.knownAnswerRun 52 true false) hw0).easel 52).katPass = true := by decide +kernel

/-- The bytes of a body whose directory has the four images, and a header of its length and digest. -/
def body0 : Bytes := [1, 2, 3, 4].flatMap (fun t => [t, 0, 0, 0, 0, 1, 0, 0] ++ List.replicate 24 0) ++ List.replicate 128 0
def header0 (digest sig : Bytes) : Bytes :=
  leBytes 4 0x57465848 ++ [1, 0, 0, 0] ++ List.replicate 8 0 ++ leBytes 4 256 ++ leBytes 4 (2 ^ 32 - 1) ++
    List.replicate 8 0 ++ sub digest 0 32 ++ List.replicate 64 0 ++ List.replicate 1312 0 ++ sub sig 0 2420 ++
    List.replicate 236 0
theorem witness_BodyDirectory : body0.length = 256 ∧ (List.range 8).all (dirEntryOk body0) = true ∧
    ([1, 2, 3, 4].all (fun t => ((List.range 8).filter (fun i => leNat (sub body0 (32 * i) 1) == t)).length == 1)) = true := by
  decide +kernel
/-- A stored image passes where its key, signature and digest do, which are open. -/
theorem witness_ImageOk {h : Hw} {i : BitVec 1} {x b : Bytes} (hx : h.slot i = { FwSlot.init with header := x, body := b })
    (h0 : headerError h x = 0) (hb : bodyOk x b = true) : imageOk h i = true := by
  simp [imageOk, hx, h0, hb]
theorem witness_HeaderForm : (header0 [] []).length = 4096 ∧ leNat (sub (header0 [] []) 0 4) = 0x57465848 ∧
    leNat (sub (header0 [] []) 4 1) = 1 ∧ zeroBytes (sub (header0 [] []) 3860 236) = true ∧
    leNat (sub (header0 [] []) 16 4) = 256 := by decide +kernel

/-- A module without power; one whose reference is away, released or not. -/
def unpowered : Hw := { Hw.reset with pins := { Hw.reset.pins with powered := false } }
def noClock (released : Bool) : Hw :=
  { Hw.reset with pins := { Hw.reset.pins with refclk := false }, bru := { Hw.reset.bru with released := released } }
/-- Both slots hold nothing. -/
def blank : Hw := { Hw.reset with fwu := { Hw.reset.fwu with slot0 := FwSlot.init } }
def bootedTrial : Hw :=
  { Hw.reset with
    bru := { Hw.reset.bru with phase := 6, trialBoot := true, bootSlot := 1 }
    fwu := { Hw.reset.fwu with slot1 := { FwSlot.init with state := 4 } } }

theorem witness_SuppliesClocksAndBootBringTheModuleUp :
    unpowered.pins.powered = false ∧ Hw.reset.pins.powered = true ∧ Hw.reset.pins.refclk = true ∧
      (noClock true).bru.released = true ∧ (noClock true).pins.refclk = false ∧ (noClock false).bru.released = false ∧
      1 < hw0.bru.phase.toNat ∧ Hw.reset.bru.released = true ∧ Hw.reset.bru.phase = 0 ∧
      (∀ i : Fin 2, (blank.slot (BitVec.ofFin i)).state = 0) ∧ Hw.reset.fwu.slot0.state = 3 ∧
      Hw.reset.fwu.slot1.state ≠ 4 ∧ Hw.reset.fwu.slot0.failCount < 2 ∧ bootedTrial.bru.phase = 6 ∧
      bootedTrial.bru.trialBoot = true ∧ MayWriteReg (st hw0) (.fn 0) .bru 0x30 ∧ hw0.bru.ready = true ∧
      MayWriteReg (st bootedTrial) (.cp 0) .bru 0x30 ∧ bootedTrial.bru.ready = false := by decide +kernel
theorem test_trial_becomes_active : ((after .bootReady bootedTrial).slot 1).state = 3 := by decide +kernel
/-- A boot in which nothing fails. -/
def goodBoot : BootEnv :=
  { bad14 := [], bad12 := [], canvasBad := none, sup0 := true, sup1 := true, runtimeOk := true, ihlelOk := true,
    sodFail := [], katFail := [], repair := [] }
theorem test_no_slot_recovery : (after (.coldBoot goodBoot) blank).bru.phase = 9 := by decide +kernel

def mh (len : Nat) : SvcHdr := { magic := 0x5848, version := 1, session := 8, seq := 0, len := BitVec.ofNat 32 len, src := 1 }
/-- A session of four bytes, `n` of them received, last heard at `t`; slot 1 VALID in `valid`. -/
def updating (n t : Nat) : Hw :=
  { hw0 with fwu := { hw0.fwu with
      session := some { id := 8, slot := 1, bodyLen := 4, last := t }, received := n } }
def validSlot : Hw := { hw0 with fwu := { hw0.fwu with slot1 := { FwSlot.init with state := 2 } } }
def acting (step : BitVec 3) (paused : Bool) : Hw := { hw0 with fwu := { hw0.fwu with step := step, paused := paused } }

theorem witness_UpdatesFloorsAndActivationsFollowTheirProtocol :
    hw0.pins.powered = true ∧ hw0.bru.phase ≠ 0 ∧ (mh 4096).magic = 0x5848 ∧ (mh 4096).version = 1 ∧
      (mh 4096).len.toNat = 4096 ∧ activating hw0 = false ∧ hw0.fwu.session = none ∧ bit (hw0.reg 0xB0038) 0 = true ∧
      updTarget hw0 = some 1 ∧
      (updating 0 0).fwu.session = some { id := 8, slot := 1, bodyLen := 4, last := 0 } ∧
      ({ mh 4 with session := 9 } : SvcHdr).session ≠ (mh 4).session ∧ (8 : Nat) = 4 + [1, 2, 3, 4].length ∧
      (0 : BitVec 32).toNat = (updating 0 0).fwu.received ∧ ([1, 2, 3, 4] : List Nat).length = min 1024 (4 - 0) ∧
      4 ≤ (updating 4 0).fwu.received ∧ hw0.bru.phase ≠ 9 ∧ (updating 3 0).fwu.received < 4 ∧
      slotIn bootedTrial 4 = some 1 ∧ (updating 0 0).now ≠ 0 ∧ 0 + 10000000000 ≤ (updating 0 0).now ∧
      (updating 0 0).now < 999999999999 + 10000000000 ∧ slotIn hw0 3 = some 0 ∧ hw0.bru.ready = true ∧
      hw0.fwu.runRuntime = 0 ∧ MayWriteReg (st hw0) (.fn 0) .fwu 0x58 ∧ Hw.reset.bru.ready = false ∧
      activateError validSlot 1 0 = 0 ∧ activateError hw0 1 0 = 0x10 ∧ MayWriteReg (st validSlot) (.fn 0) .fwu 0x40 ∧
      (acting 1 false).fwu.step = 1 ∧ quiescent (acting 1 false) = true ∧ (acting 0 false).fwu.step ≠ 1 ∧
      (acting 1 false).fwu.deadline ≤ (acting 1 false).now ∧ (acting 2 true).fwu.paused = true ∧
      (acting 2 false).fwu.paused = false := by decide +kernel
theorem test_upd_abort : ((after (.updAbort (mh 0)) (updating 2 0)).slot 1).state = 5 := by decide +kernel
theorem test_activate_next_boot : ((after (.activate (mh 2) 1 0) validSlot).slot 1).state = 4 := by decide +kernel

/-- FTC at 100 ms with `n` records not acknowledged. -/
def windowAt (n : Nat) : Hw :=
  { hw0 with ftc := { hw0.ftc with count := 100000000 }, tray := { hw0.tray with unacked := n } }

theorem witness_TrayInterfaceAddressesReadsWritesAndRecords :
    hw0.pins.powered = true ∧ hw0.tray.dynAddr = none ∧ (0x30 : BitVec 7).toNat = 0x30 + hw0.rte.pos.toNat % 4 ∧
      (0x33 : BitVec 7).toNat ≠ 0x30 + hw0.rte.pos.toNat % 4 ∧
      ({ hw0.tray with dynAddr := some 9 }).dynAddr ≠ none ∧ (0x1C : BitVec 16).toNat % 8 ≠ 0 ∧
      MayWriteReg (st hw0) .tray .tray 0x18 ∧ (windowAt 63).ftcNow / 100000000 ≠ (windowAt 63).tray.window ∧
      (windowAt 63).tray.unacked < 64 ∧ 64 ≤ (windowAt 64).tray.unacked ∧ hw0.ftcNow / 100000000 = hw0.tray.window ∧
      svcPortUp hw0 = true ∧ icmpType [135] = 135 ∧ icmpType [128] = 128 ∧ unpowered.pins.powered = false := by decide +kernel
theorem test_telemetry_drops : ((after .telemetryRecord (windowAt 64)).tray.unacked,
    wfld ((after .telemetryRecord (windowAt 64)).reg 0xC0030) 32 32) = (64, 1) := by decide +kernel

/-- The header passes where its key, its signature and the silicon revision do, which are open. -/
theorem witness_HeaderPasses {h : Hw} (hk : sha3 (sub (header0 [] []) 128 1312) = Config.otpKeyHash 0)
    (hr : Config.otpKeyRevoked 0 = false)
    (hv : Config.mldsaVerify (sub (header0 [] []) 128 1312) (sub (header0 [] []) 0 1440) (sub (header0 [] []) 1440 2420) =
      true) (hf : h.fwu.floorR = 0) (hi : h.fwu.floorI = 0)
    (hs : (leNat (sub (header0 [] []) 20 4)).testBit Config.siRev.toNat = true) : headerError h (header0 [] []) = 0 := by
  obtain ⟨h0, h1, h2, h3, h4⟩ := witness_HeaderForm
  have h5 : leNat (sub (header0 [] []) 5 1) = 0 := by decide +kernel
  have h6 : (zeroBytes (sub (header0 [] []) 6 2) && zeroBytes (sub (header0 [] []) 24 8) &&
    zeroBytes (sub (header0 [] []) 64 64)) = true := by decide +kernel
  simp [headerError, h0, h1, h2, h3, h4, h5, h6, hk, hr, hv, hf, hi, hs]

/-! ### Ill-formed commands -/

theorem test_ill_formed_packets : Instr.wf (.flitReceive 3 { hdr := 0, data := [1], crc := 0 } false ⟨0, []⟩) = false ∧
    Instr.wf (.flitReceive 3 { hdr := 0, data := List.replicate 240 0, crc := 0 } false ⟨5, List.replicate 5 []⟩) = false ∧
    Instr.wf (.flitReceive 3 { hdr := 0, data := List.replicate 240 0, crc := 0 } false ⟨1, [List.replicate 16 0]⟩) = false ∧
    Instr.wf (.flitReceive 3 { hdr := 0, data := List.replicate 240 0, crc := 0 } false ⟨1, [[7]]⟩) = true := by decide +kernel
theorem test_ill_formed_accesses : Instr.wf (.registerReadLowHalf (.fn 0) 2 4) = false ∧
    Instr.wf (.registerReadLowHalf (.fn 0) 4 8) = false ∧ Instr.wf (.registerReadLowHalf (.fn 0) 0x4000000 4) = false ∧
    Instr.wf (.counterWriteClear (.fn 0) 4) = false ∧ Instr.wf (.registerWrite (.fn 0) 0 9 0 false) = false ∧
    Instr.wf (.bar2Write 0 0 [] false) = false ∧ Instr.wf (.bar2Write 0 0 (List.replicate 4097 0) false) = false ∧
    Instr.wf (.bar2Write 0 0 [1] false) = true := by decide +kernel
theorem test_ill_formed_messages : Instr.wf (.challenge .doe none []) = false ∧
    Instr.wf (.getMeasurements .doe none 0 []) = false ∧ Instr.wf (.getCtxEvidence .doe none 1 []) = false ∧
    Instr.wf (.keyExchange .doe none []) = false ∧ Instr.wf (.updBegin (mh 0) (List.replicate 4097 0)) = false ∧
    Instr.wf (.coldBoot { goodBoot with repair := List.replicate 33 0 }) = false ∧ Instr.wf (.coldBoot goodBoot) = true := by
  decide +kernel
theorem test_ill_formed_values :
    Instr.wf (.sampleSetPublish { junction := [], canvas := [], zonePower := [], inlet := 0, outlet := 0 }) = false ∧
    Instr.wf (.canvasTempSample 0 256) = false ∧ Instr.wf (.engineInstructionComplete 0 .me 0 [⟨49152, 1, 0, 0, 0, 0, 0⟩]) = false ∧
    Instr.wf (.sensorCheck [48]) = false ∧ Instr.wf (.sensorCheck [96]) = false ∧
    Instr.wf (.zeroingPageFree 393216) = false ∧ Instr.wf (.powerMeasure 65536 0) = false ∧
    Instr.wf .refclkLoss = true := by decide +kernel

end Sys2Proof.Tests
end

section
/-! Proofs about the registers: reading after writing, what a write of a register does, and how a requester's access
comes to its register. -/

namespace Sys2Proof.Machine

/-! ### Sparse tables: what is listed after a write -/

section
variable {α : Type}

@[simp] theorem SMap.find_put_same (m : SMap α) (k : Nat) (v : α) : SMap.find (SMap.put m k v) k = some v := by
  induction m with
  | nil => simp [SMap.put, SMap.find]
  | cons c m ih =>
    obtain ⟨j, w⟩ := c
    by_cases hj : j = k
    · simp [SMap.put, SMap.find, hj]
    · by_cases hlt : k < j <;> simp [SMap.put, SMap.find, hj, hlt, ih]

theorem SMap.find_put_ne (m : SMap α) {k k' : Nat} (v : α) (hk : k' ≠ k) :
    SMap.find (SMap.put m k v) k' = SMap.find m k' := by
  induction m with
  | nil => simp [SMap.put, SMap.find, hk.symm]
  | cons c m ih =>
    obtain ⟨j, w⟩ := c
    by_cases hj : j = k
    · subst hj
      simp [SMap.put, SMap.find, hk.symm]
    · by_cases hlt : k < j <;> simp [SMap.put, SMap.find, hj, hlt, hk.symm, ih]

@[simp] theorem SMap.find_del_same (m : SMap α) (k : Nat) : SMap.find (SMap.del m k) k = none := by
  induction m with
  | nil => rfl
  | cons c m ih =>
    obtain ⟨j, w⟩ := c
    by_cases hj : j = k
    · simpa [SMap.del, hj] using ih
    · simpa [SMap.del, SMap.find, hj] using ih

end

/-! ### Fields of a word -/

theorem testBit_wfld (w : Word) (lo len i : Nat) :
    (wfld w lo len).testBit i = (decide (i < len) && w.getLsbD (lo + i)) := by
  simp [wfld, fld, BitVec.getLsbD, Nat.testBit_mod_two_pow, Nat.testBit_shiftRight]

theorem getLsbD_put (v lo len i : Nat) :
    (put v lo len).getLsbD i = (decide (i < 64 ∧ lo ≤ i ∧ i - lo < len) && v.testBit (i - lo)) := by
  simp only [put, BitVec.getLsbD_ofNat, Nat.testBit_shiftLeft, Nat.testBit_mod_two_pow, Bool.decide_and]
  simp [Bool.and_assoc, ge_iff_le]

theorem getLsbD_bitw (b : Bool) (i j : Nat) : (bitw b i).getLsbD j = (decide (j < 64 ∧ j = i) && b) := by
  rw [bitw, BitVec.getLsbD_ofNat, Nat.testBit_shiftLeft]
  cases b
  · simp [b2n]
  · rw [Bool.eq_iff_iff]
    simp [b2n, Nat.testBit_one_eq_true_iff_self_eq_zero]
    omega

theorem bit_eq_getLsbD (w : Word) (i : Nat) : bit w i = w.getLsbD i := rfl

/-- A field reads as it was put where it lies within the word, whatever is put beside it. -/
theorem wfld_put_or (v lo len : Nat) (w : Word) (h : lo + len ≤ 64) (hw : ∀ i < len, w.getLsbD (lo + i) = false) :
    wfld (put v lo len ||| w) lo len = v % 2 ^ len := by
  refine Nat.eq_of_testBit_eq fun i => ?_
  rw [testBit_wfld, BitVec.getLsbD_or, getLsbD_put, Nat.testBit_mod_two_pow]
  by_cases hi : i < len
  · have hlt : lo + i < 64 := by omega
    rw [hw i hi]
    simp [hi, hlt]
  · simp [hi]

theorem wfld_put (v lo len : Nat) (h : lo + len ≤ 64) : wfld (put v lo len) lo len = v % 2 ^ len := by
  simpa using wfld_put_or v lo len 0 h (by simp)

/-! ### Answers of a command -/

/-- A command that is an effect on the hardware answers with that effect. -/
theorem yields_run {i : Instr} {s : State} {g g' : Hw} {P : State → Prop}
    (hx : exec i s = .next { s with hw := g }) (hg : g = g') (hp : P { s with hw := g' }) : Yields i s P :=
  ⟨_, hx, hg ▸ hp⟩

/-- A command whose effect leaves the hardware as it is leaves the state as it is. -/
theorem yields_unchanged {i : Instr} {s : State} {g : Hw} (hx : exec i s = .next { s with hw := g }) (hg : g = s.hw) :
    Yields i s (fun t => t = s) := yields_run hx hg rfl

/-! ### Counters, events, commit states -/

theorem Hw.reg_count (h : Hw) (k n : Nat) :
    (h.count k n).reg k = BitVec.ofNat 64 (min ((h.reg k).toNat + n) (2 ^ 32 - 1)) := by
  simp [Hw.count, sat32]

theorem raiseEv_reg_ne (h : Hw) (src p : Nat) (d : List Word) {k : Nat} (hk : k ≠ 0x40200 + 8 * (src / 64)) :
    (raiseEv h src p d).reg k = h.reg k := Hw.reg_setReg_ne h _ hk

/-- Raising a source makes it pending with its payload (R402). -/
theorem pends_raiseEv (h : Hw) (cmds : List Instr) (src p : Nat) (d : List Word) :
    Pends { hw := raiseEv h src p d, pending := cmds } src p := by
  have hreg : (raiseEv h src p d).reg (0x40200 + 8 * (src / 64)) =
      h.reg (0x40200 + 8 * (src / 64)) ||| bitw true (src % 64) := Hw.reg_setReg h _ _
  refine ⟨?_, by simp [raiseEv]⟩
  have hlt : src % 64 < 64 := Nat.mod_lt _ (by decide)
  rw [hreg, bit_eq_getLsbD, BitVec.getLsbD_or, getLsbD_bitw]
  simp [hlt]

@[simp] theorem Hw.blk_modBlk (h : Hw) (b : BlockId) (f : BlkCommit → BlkCommit) :
    (h.modBlk b f).blk b = f (h.blk b) := by
  simp [Hw.modBlk, Hw.blk, SMap.get_update]

/-! ### The staging copy (R35) -/

/-- A half of the staging copy of word `k`: what has been written, else the active value. -/
def stagedHalf (h : Hw) (k o : Nat) : Nat :=
  ((SMap.find h.regs.staged (k + o)).map (fun w => wfld w 0 32)).getD (wfld (h.reg k) (8 * o) 32)

/-- The hardware after a write has staged a half of word `k`, where the half has fields `m` to stage. -/
def stageHalf (h : Hw) (k : Nat) (m v : Word) (o : Nat) : Hw :=
  if wfld m (8 * o) 32 = 0 then h
  else { h with regs := { h.regs with staged := SMap.put h.regs.staged (k + o) (put (wfld v (8 * o) 32) 0 32) } }

theorem stagedWord_eq (h : Hw) (k : Nat) :
    stagedWord h k = put (stagedHalf h k 0) 0 32 ||| put (stagedHalf h k 4) 32 32 := rfl

theorem stageWrite_eq (h : Hw) (b : BlockId) (k : Nat) (mask v fields : Word) :
    stageWrite h b k mask v fields = if mask &&& fields = 0 then h
      else (stageHalf (stageHalf h k (mask &&& fields) v 0) k (mask &&& fields) v 4).modBlk b
        (fun c => { c with pend := true }) := rfl

/-- Staging a half changes the staging copy alone. -/
theorem stageHalf_frame (h : Hw) (k : Nat) (m v : Word) (o : Nat) :
    ∃ st, stageHalf h k m v o = { h with regs := { h.regs with staged := st } } := by
  unfold stageHalf
  split
  · exact ⟨h.regs.staged, rfl⟩
  · exact ⟨_, rfl⟩

/-- Staging changes the staging copy and the commit states alone. -/
theorem stageWrite_frame (h : Hw) (b : BlockId) (k : Nat) (mask v fields : Word) :
    ∃ st cm, stageWrite h b k mask v fields = { h with regs := { h.regs with staged := st, commit := cm } } := by
  rw [stageWrite_eq]
  split
  · exact ⟨h.regs.staged, h.regs.commit, rfl⟩
  · obtain ⟨st₀, h₀⟩ := stageHalf_frame h k (mask &&& fields) v 0
    obtain ⟨st₄, h₄⟩ := stageHalf_frame (stageHalf h k (mask &&& fields) v 0) k (mask &&& fields) v 4
    rw [h₄, h₀]
    exact ⟨st₄, _, rfl⟩

@[simp] theorem stageWrite_reg (h : Hw) (b : BlockId) (k : Nat) (mask v fields : Word) (k' : Nat) :
    (stageWrite h b k mask v fields).reg k' = h.reg k' := by
  obtain ⟨st, cm, hfr⟩ := stageWrite_frame h b k mask v fields
  rw [hfr]
  rfl

@[simp] theorem stageWrite_mem (h : Hw) (b : BlockId) (k : Nat) (mask v fields : Word) :
    (stageWrite h b k mask v fields).mem = h.mem := by
  obtain ⟨st, cm, hfr⟩ := stageWrite_frame h b k mask v fields
  rw [hfr]

@[simp] theorem stageWrite_easels (h : Hw) (b : BlockId) (k : Nat) (mask v fields : Word) :
    (stageWrite h b k mask v fields).easels = h.easels := by
  obtain ⟨st, cm, hfr⟩ := stageWrite_frame h b k mask v fields
  rw [hfr]

theorem stagedHalf_stageHalf_same (h : Hw) (k : Nat) {m : Word} (v : Word) {o : Nat} (hm : wfld m (8 * o) 32 ≠ 0) :
    stagedHalf (stageHalf h k m v o) k o = wfld v (8 * o) 32 := by
  have hlt : wfld v (8 * o) 32 < 2 ^ 32 := Nat.mod_lt _ (by decide)
  simpa [stagedHalf, stageHalf, hm, wfld_put] using hlt

theorem stagedHalf_stageHalf_ne (h : Hw) (k : Nat) (m v : Word) {o o' : Nat} (ho : o' ≠ o) :
    stagedHalf (stageHalf h k m v o) k o' = stagedHalf h k o' := by
  unfold stageHalf
  split
  · rfl
  · have hk : k + o' ≠ k + o := fun he => ho (Nat.add_left_cancel he)
    simp only [stagedHalf, SMap.find_put_ne _ _ hk]
    rfl

/-- The halves of word `k` that have fields to stage carry the written value. -/
theorem stagedHalf_stageWrite (h : Hw) (b : BlockId) (k : Nat) {mask v fields : Word} {o : Nat} (ho : o = 0 ∨ o = 4)
    (hm : wfld (mask &&& fields) (8 * o) 32 ≠ 0) :
    stagedHalf (stageWrite h b k mask v fields) k o = wfld v (8 * o) 32 := by
  have hne : mask &&& fields ≠ 0 := fun he => hm (by simp [he, wfld, fld])
  rw [stageWrite_eq, if_neg hne]
  change stagedHalf (stageHalf (stageHalf h k _ v 0) k _ v 4) k o = _
  obtain rfl | rfl := ho
  · rw [stagedHalf_stageHalf_ne _ _ _ _ (by decide), stagedHalf_stageHalf_same _ _ _ hm]
  · rw [stagedHalf_stageHalf_same _ _ _ hm]

/-- The staged fields that a write covers take its value (R35). -/
theorem stagedWord_stageWrite (h : Hw) (b : BlockId) (k : Nat) (mask v fields : Word) :
    stagedWord (stageWrite h b k mask v fields) k &&& (mask &&& fields) = v &&& (mask &&& fields) := by
  refine BitVec.eq_of_getLsbD_eq fun i hi => ?_
  simp only [BitVec.getLsbD_and (y := mask &&& fields)]
  cases hm : (mask &&& fields).getLsbD i with
  | false => simp
  | true =>
    have hne {lo : Nat} (hlo : lo ≤ i) (hlt : i < lo + 32) : wfld (mask &&& fields) lo 32 ≠ 0 := fun he => by
      have ht := testBit_wfld (mask &&& fields) lo 32 (i - lo)
      rw [he, Nat.add_sub_cancel' hlo, hm] at ht
      simp at ht
      omega
    simp only [Bool.and_true, stagedWord_eq, BitVec.getLsbD_or, getLsbD_put]
    by_cases hlow : i < 32
    · rw [stagedHalf_stageWrite h b k (Or.inl rfl) (hne (Nat.zero_le i) (by omega)), testBit_wfld]
      simp [hlow, hi]
    · rw [stagedHalf_stageWrite h b k (Or.inr rfl) (hne (lo := 32) (by omega) (by omega)), testBit_wfld]
      have hge : 32 ≤ i := by omega
      have hlt : i - 32 < 32 := by omega
      simp [hlow, hi, hge, hlt]

theorem stageWrite_pend (h : Hw) (b : BlockId) (k : Nat) {mask v fields : Word} (hm : mask &&& fields ≠ 0) :
    ((stageWrite h b k mask v fields).blk b).pend = true := by
  rw [stageWrite_eq, if_neg hm, Hw.blk_modBlk]

/-! ### The register map (Table 13-3) -/

/-- What is found at offset `x`, if anything, is the place of `x` in a block that begins at its base. -/
def PlacedAt (x : Nat) (p : Option (BlockId × Nat)) : Prop := ∀ b o, p = some (b, o) → blkBase b + o = x

theorem placedAt_blockOf (x : Nat) : PlacedAt x (blockOf x) := by
  unfold blockOf
  repeat' refine iteInduction (motive := PlacedAt x) (fun _ => ?_) (fun _ => ?_)
  all_goals (rintro _ _ ⟨⟩ <;> dsimp only [blkBase, Fin.val_ofNat] <;> omega)

theorem regAt_of_blockOf {x o : Nat} {b : BlockId} (v1800 : Bool) (h : blockOf x = some (b, o)) :
    regAt v1800 (blkBase b + o) = regInfo v1800 b o := by
  rw [placedAt_blockOf x b o h, regAt, h]

theorem ite_eq_map_ite {α : Type} {c c' : Prop} [Decidable c] [Decidable c'] {f : α → α} {a b a' b' : Option α}
    (hc : c' ↔ c) (ha : c → a' = a.map f) (hb : ¬c → b' = b.map f) :
    (if c' then a' else b') = (if c then a else b).map f := by
  by_cases h : c
  · rw [if_pos h, if_pos (hc.2 h), ha h]
  · rw [if_neg h, if_neg (mt hc.1 h), hb h]

theorem add_four_div {x n : Nat} (hx : x % 8 = 0) (hn : n % 8 = 0) : (x + 4) / n = x / n := by
  obtain ⟨m, rfl⟩ := Nat.dvd_of_mod_eq_zero hn
  rw [← Nat.div_div_eq_div_mul, ← Nat.div_div_eq_div_mul, show (x + 4) / 8 = x / 8 by omega]

theorem add_four_mod {x n : Nat} (hx : x % 8 = 0) (hn : n % 8 = 0) : (x + 4) % n = x % n + 4 := by
  have h1 := Nat.div_add_mod (x + 4) n
  have h2 := Nat.div_add_mod x n
  rw [add_four_div hx hn] at h1
  omega

/-- The upper half of a register stands 4 bytes behind its lower half, in the same block: every block begins and ends
at a multiple of 8. -/
theorem blockOf_add_four {x : Nat} (hx : x % 8 = 0) :
    blockOf (x + 4) = (blockOf x).map (fun p => (p.1, p.2 + 4)) := by
  unfold blockOf
  repeat' refine ite_eq_map_ite (by omega) (fun _ => ?_) (fun _ => ?_)
  all_goals simp (disch := omega) only [Nat.sub_add_comm, add_four_div, add_four_mod, Option.map_some, Option.map_none]

/-- The offsets of a block whose write does more than hold a value. -/
def ownWrite : BlockId → Nat → Bool
  | .hif _, o => o == 0x20
  | .evc, o => o == 0x10
  | .pwr, o => o == 0x18 || o == 0x20 || o == 0x48
  | .sup _, o => o == 0x18 || o == 0x20
  | .bru, o => o == 0x30
  | .fwu, o => o == 0x40 || o == 0x58
  | .tray, o => o == 0x18 || o == 0x38
  | .ftc, o => o == 0x20 || o == 0x30
  | .glz _, o => inArr o 0x100 8 32
  | .err _, o => o == 0x38
  | .syn _, o => inArr o 0x10000 8 16384 || inArr o 0x30000 8 16384
  | _, _ => false

theorem specialWrite_eq_none {b : BlockId} {o : Nat} (ho : ownWrite b o = false) (h : Hw) (r : Requester) (w v : Word)
    (low : Bool) : specialWrite h r b o w v low = none := by
  cases b <;> simp_all [ownWrite, specialWrite]

theorem inArr_iff {o base stride n : Nat} :
    inArr o base stride n = true ↔ base ≤ o ∧ o < base + stride * n ∧ (o - base) % stride = 0 := by
  simp [inArr, and_assoc]

@[simp] theorem RegInfo.counter_ro : RegInfo.ro.counter = false := rfl
@[simp] theorem RegInfo.counter_plain (rw_ v : Word) : (RegInfo.plain rw_ v).counter = false := rfl
@[simp] theorem RegInfo.counter_stg (m v : Word) : (RegInfo.stg m v).counter = false := rfl
@[simp] theorem RegInfo.counter_stgRs (m v : Word) : (RegInfo.stgRs m v).counter = false := rfl
@[simp] theorem RegInfo.counter_ctr : RegInfo.ctr.counter = true := rfl
@[simp] theorem RegInfo.counter_log : RegInfo.log.counter = false := rfl

/-- A counter is no COMMIT register and has no write of its own: the blocks' tables put counters at other offsets. -/
theorem no_ownWrite_of_counter {v1800 : Bool} {b : BlockId} {o : Nat} (hc : (regInfo v1800 b o).counter = true) :
    o ≠ 8 ∧ ownWrite b o = false := by
  cases b <;>
    simp only [regInfo, hifInfo, evcInfo, pwrInfo, errInfo, rteInfo, colInfo, sktInfo,
      apply_ite RegInfo.counter] at hc <;>
    simp [inArr_iff] at hc <;>
    simp [ownWrite, ← Bool.not_eq_true, inArr_iff] <;> omega

/-! ### A write that reaches its register -/

theorem and_ones (w : Word) : w &&& 0xFFFFFFFFFFFFFFFF = w := BitVec.and_allOnes

theorem ones_and (w : Word) : 0xFFFFFFFFFFFFFFFF &&& w = w := BitVec.allOnes_and

/-- The hardware after a write of the read-write bits `m` of register `k`. -/
def storeRw (h : Hw) (k : Nat) (m v : Word) : Hw :=
  if m = 0 then h else h.setReg k ((h.reg k &&& ~~~m) ||| (v &&& m))

/-- Storing read-write bits changes the active values alone. -/
theorem storeRw_frame (h : Hw) (k : Nat) (m v : Word) :
    ∃ act, storeRw h k m v = { h with regs := { h.regs with act := act } } := by
  unfold storeRw
  split
  · exact ⟨h.regs.act, rfl⟩
  · exact ⟨_, rfl⟩

theorem storeRw_reg (h : Hw) (k : Nat) (m v : Word) :
    (storeRw h k m v).reg k = (h.reg k &&& ~~~m) ||| (v &&& m) := by
  unfold storeRw
  split
  next hm =>
    simpa [hm] using (and_ones _).symm
  next => exact Hw.reg_setReg h k _

theorem storeRw_reg_ne (h : Hw) {k k' : Nat} (m v : Word) (hk : k' ≠ k) : (storeRw h k m v).reg k' = h.reg k' := by
  unfold storeRw
  split
  · rfl
  · exact Hw.reg_setReg_ne h _ hk

@[simp] theorem storeRw_mem (h : Hw) (k : Nat) (m v : Word) : (storeRw h k m v).mem = h.mem := by
  obtain ⟨act, hfr⟩ := storeRw_frame h k m v
  rw [hfr]

@[simp] theorem storeRw_easels (h : Hw) (k : Nat) (m v : Word) : (storeRw h k m v).easels = h.easels := by
  obtain ⟨act, hfr⟩ := storeRw_frame h k m v
  rw [hfr]

/-- The register has no write of its own, is no COMMIT, no counter and no log. -/
def PlainReg (v1800 : Bool) (r : Requester) (b : BlockId) (o : Nat) : Prop :=
  o ≠ 8 ∧ (∀ h w v low, specialWrite h r b o w v low = none) ∧ (regAt v1800 (blkBase b + o)).counter = false ∧
    (regAt v1800 (blkBase b + o)).w1c = 0

/-- Register `k` of block `b` has taken `v`: in its read-write bits at once, in its staged fields in the staging copy,
which waits for its commit; and no other register, no memory and no easel has changed (R9, R35). -/
def TakesWrite (h g : Hw) (b : BlockId) (k : Nat) (v : Word) : Prop :=
  g.reg k = (h.reg k &&& ~~~(regAt h.pins.variant1800 k).rw) ||| (v &&& (regAt h.pins.variant1800 k).rw) ∧
    (∀ k', k' ≠ k → g.reg k' = h.reg k') ∧
    ((regAt h.pins.variant1800 k).staged ≠ 0 →
      ((regAt h.pins.variant1800 k).rwl = false ∨ (h.blk b).locked = false) →
      stagedWord g k &&& (regAt h.pins.variant1800 k).staged = v &&& (regAt h.pins.variant1800 k).staged ∧
        (g.blk b).pend = true) ∧
    g.mem = h.mem ∧ g.easels = h.easels

theorem plainWrite_eq {h : Hw} {b : BlockId} {o : Nat}
    (hc : (regAt h.pins.variant1800 (blkBase b + o)).counter = false)
    (hw : (regAt h.pins.variant1800 (blkBase b + o)).w1c = 0) (v : Word) :
    let i := regAt h.pins.variant1800 (blkBase b + o)
    let g := storeRw h (blkBase b + o) i.rw v
    plainWrite h b o 0xFFFFFFFFFFFFFFFF v =
      if i.rwl && (h.blk b).locked then g
      else stageWrite g b (blkBase b + o) 0xFFFFFFFFFFFFFFFF v i.staged := by
  have hlog : (0 : Word) &&& v = 0 := BitVec.zero_and
  simp only [plainWrite, hc, hw, and_ones, hlog, storeRw, Bool.false_eq_true, if_false, if_true]

theorem takesWrite_plainWrite {h : Hw} {b : BlockId} {o : Nat}
    (hc : (regAt h.pins.variant1800 (blkBase b + o)).counter = false)
    (hw : (regAt h.pins.variant1800 (blkBase b + o)).w1c = 0) (v : Word) :
    TakesWrite h (plainWrite h b o 0xFFFFFFFFFFFFFFFF v) b (blkBase b + o) v := by
  rw [plainWrite_eq hc hw]
  split
  next hl =>
    obtain ⟨hrwl, hlocked⟩ := Bool.and_eq_true_iff.1 hl
    refine ⟨storeRw_reg _ _ _ _, fun k' => storeRw_reg_ne _ _ _, fun _ hfree => ?_, storeRw_mem _ _ _ _,
      storeRw_easels _ _ _ _⟩
    simp [hrwl, hlocked] at hfree
  next =>
    refine ⟨?_, fun k' hk => ?_, fun hst _ => ⟨?_, ?_⟩, by simp, by simp⟩
    · rw [stageWrite_reg, storeRw_reg]
    · rw [stageWrite_reg, storeRw_reg_ne _ _ _ hk]
    · simpa only [ones_and] using stagedWord_stageWrite (storeRw h _ _ v) b (blkBase b + o) 0xFFFFFFFFFFFFFFFF v _
    · exact stageWrite_pend _ _ _ (by rwa [ones_and])

/-- A write of a whole register that has no write of its own. -/
theorem writeReg_plain {h : Hw} {r : Requester} {b : BlockId} {o : Nat} (hm : mayWrite h r b o = true) (ho : o ≠ 8)
    (hs : ∀ h w v low, specialWrite h r b o w v low = none) (mask v : Word) :
    writeReg h r b o mask v = plainWrite h b o mask v := by
  simp [writeReg, hm, ho, hs]

/-- A whole write that is not ignored takes the register's own effect where it has one. -/
theorem writeReg_whole {h : Hw} {r : Requester} {b : BlockId} {o : Nat} (hm : mayWrite h r b o = true) (ho : o ≠ 8)
    (v : Word) : writeReg h r b o 0xFFFFFFFFFFFFFFFF v =
      (specialWrite h r b o v v true).getD (plainWrite h b o 0xFFFFFFFFFFFFFFFF v) := by
  have hclear : ∀ w : Word, w &&& ~~~0xFFFFFFFFFFFFFFFF = 0 := fun w => BitVec.and_zero
  have hor : (0 : Word) ||| v = v := BitVec.zero_or
  have hlow : (wfld 0xFFFFFFFFFFFFFFFF 0 32 != 0) = true := by decide
  simp only [writeReg, hm, ho, hclear, hor, hlow, and_ones, Bool.not_true, Bool.false_eq_true, if_false]
  cases specialWrite h r b o v v true <;> rfl

theorem takesWrite_writeReg {h : Hw} {r : Requester} {b : BlockId} {o : Nat} (hm : mayWrite h r b o = true)
    (hp : PlainReg h.pins.variant1800 r b o) (v : Word) :
    TakesWrite h (writeReg h r b o 0xFFFFFFFFFFFFFFFF v) b (blkBase b + o) v := by
  obtain ⟨ho, hs, hc, hw⟩ := hp
  rw [writeReg_plain hm ho hs]
  exact takesWrite_plainWrite hc hw v

/-- The same where a write-hold latch of the requester has changed, which no register shows. -/
theorem takesWrite_writeReg_held {h : Hw} {r : Requester} {b : BlockId} {o : Nat} (hm : mayWrite h r b o = true)
    (hp : PlainReg h.pins.variant1800 r b o) (w : SMap (Nat × BitVec 32)) (v : Word) :
    TakesWrite h (writeReg { h with regs := { h.regs with whold := w } } r b o 0xFFFFFFFFFFFFFFFF v) b
      (blkBase b + o) v :=
  takesWrite_writeReg (h := { h with regs := { h.regs with whold := w } }) hm hp v

/-- Any write of a counter sets it to 0 (R193). -/
theorem writeReg_counter {h : Hw} {r : Requester} {b : BlockId} {o x : Nat} (hm : mayWrite h r b o = true)
    (hx : blockOf x = some (b, o)) (hc : (regAt h.pins.variant1800 (blkBase b + o)).counter = true) (mask v : Word) :
    writeReg h r b o mask v = h.setReg (blkBase b + o) 0 := by
  obtain ⟨ho, hown⟩ := no_ownWrite_of_counter (regAt_of_blockOf h.pins.variant1800 hx ▸ hc)
  rw [writeReg_plain hm ho (fun h w v low => specialWrite_eq_none hown h r w v low), plainWrite]
  exact if_pos hc

/-! ### From a requester's access to the register (R43, R389) -/

theorem serves_of_performs {h : Hw} {r : Requester} {b : BlockId} {o : Nat} (hp : performs h r b o = true) :
    serves h r b o = true := (Bool.and_eq_true_iff.1 hp).1

theorem arrives_of_serves {h : Hw} {r : Requester} {b : BlockId} {o : Nat} (hs : serves h r b o = true) :
    arrives h r = true := (Bool.and_eq_true_iff.1 hs).1

theorem flushHeld_none {h : Hw} {r : Requester} {b : BlockId}
    (hn : SMap.find h.regs.whold (latchKey r b) = none) : flushHeld h r b = h := by
  simp [flushHeld, hn]

theorem writeWhole_none {h : Hw} {r : Requester} {b : BlockId} (hn : SMap.find h.regs.whold (latchKey r b) = none)
    (o : Nat) (v : Word) : writeWhole h r b o v = writeReg h r b o 0xFFFFFFFFFFFFFFFF v := by
  rw [writeWhole, flushHeld_none hn]

/-- A 64-bit write that reaches its register is performed. -/
theorem regWrite_eq {s : State} {r : Requester} {b : BlockId} {o : Nat} (hm : MayWriteReg s r b o) (v : Word) :
    regWrite s.hw r b o v = writeReg s.hw r b o 0xFFFFFFFFFFFFFFFF v := by
  obtain ⟨hp, -, hn⟩ := hm
  rw [regWrite, if_pos hp, writeWhole_none hn]

/-- The access of a requester none of whose requests waits is performed at once (R261). -/
theorem regTurn_idle {h : Hw} {r : Requester} (hw : ∀ f, r = .fn f → (h.fn f).waiting = []) (q : HostReq)
    (eff : Hw → Hw) : regTurn h r q eff = eff h := by
  cases r with
  | fn f => simp [regTurn, inTurn, hw f rfl]
  | _ => rfl

theorem regSet_reaches {h : Hw} {r : Requester} {b : BlockId} {off o size : Nat}
    (hb : (bar0Off r off).bind blockOf = some (b, o)) (hp : performs h r b (o / 8 * 8) = true)
    (hf : formOk off size = true) (v : Word) :
    regSet h r off size v false = if size = 8 then writeWhole h r b o v
      else if o % 8 = 0 then writeLow h r b o v else writeHigh h r b (o / 8 * 8) v := by
  simp [regSet, arrives_of_serves (serves_of_performs hp), hf, hb, hp]

theorem regGet_reaches {h : Hw} {r : Requester} {b : BlockId} {off o size : Nat}
    (hb : (bar0Off r off).bind blockOf = some (b, o)) (hs : serves h r b (o / 8 * 8) = true)
    (hf : formOk off size = true) (hr : ∀ f, r = .fn f → f ≠ 0 → h.bru.ready = true) :
    regGet h r off size = if size = 8 then readWhole h r b o
      else if o % 8 = 0 then readLow h r b o else readHigh h r b (o / 8 * 8) := by
  obtain ⟨k, hk, hbk⟩ := Option.bind_eq_some_iff.1 hb
  have hready : (isHost r && r != .fn 0 && !h.bru.ready) = false := by
    cases r with
    | fn f =>
      by_cases hf0 : f = 0
      · simp [hf0]
      · simp [hr f rfl hf0]
    | _ => rfl
  simp [regGet, arrives_of_serves hs, hf, hk, hbk, hs, hready]

theorem bar0Off_add_four (r : Requester) {off : Nat} (hoff : off % 8 = 0) :
    bar0Off r (off + 4) = (bar0Off r off).map (· + 4) := by
  cases r with
  | fn f =>
    refine ite_eq_map_ite Iff.rfl (fun _ => ?_) (fun _ => ?_)
    · exact ite_eq_map_ite (by omega) (fun _ => rfl) (fun _ => rfl)
    · refine ite_eq_map_ite (by omega) (fun _ => ?_) (fun _ => rfl)
      simp only [hifOff, Option.map_some, Nat.add_assoc]
  | tray => rfl
  | _ => exact ite_eq_map_ite (by omega) (fun _ => rfl) (fun _ => rfl)

theorem bar0Off_aligned {r : Requester} {off x : Nat} (hoff : off % 8 = 0) (h : bar0Off r off = some x) :
    x % 8 = 0 := by
  cases r <;> simp only [bar0Off, Option.ite_none_right_eq_some, reduceCtorEq] at h
  case fn f =>
    split_ifs at h <;> cases h
    · exact hoff
    · simp only [hifOff]; omega
  all_goals
    obtain ⟨-, h⟩ := h
    cases h
    exact hoff

/-- The upper half of a register lies in the register's block, 4 bytes on. -/
theorem reaches_add_four {r : Requester} {b : BlockId} {off o : Nat} (hoff : off % 8 = 0)
    (hb : (bar0Off r off).bind blockOf = some (b, o)) : (bar0Off r (off + 4)).bind blockOf = some (b, o + 4) := by
  obtain ⟨x, hx, hbx⟩ := Option.bind_eq_some_iff.1 hb
  rw [bar0Off_add_four r hoff, hx]
  change blockOf (x + 4) = _
  rw [blockOf_add_four (bar0Off_aligned hoff hx), hbx]
  rfl

/-- An offset of the requester at which a register begins, both aligned (R389, R391). -/
structure BeginsAt (r : Requester) (off : Nat) (b : BlockId) (o : Nat) : Prop where
  found : (bar0Off r off).bind blockOf = some (b, o)
  reg_aligned : o % 8 = 0
  off_aligned : off % 8 = 0

section
variable {h : Hw} {r : Requester} {off o : Nat} {b : BlockId}

theorem formOk_eight (hoff : off % 8 = 0) : formOk off 8 = true := by simp [formOk, hoff]

theorem formOk_four (hoff : off % 4 = 0) : formOk off 4 = true := by simp [formOk, hoff]

theorem BeginsAt.formOk_whole (ha : BeginsAt r off b o) : formOk off 8 = true := formOk_eight ha.off_aligned

theorem BeginsAt.formOk_low (ha : BeginsAt r off b o) : formOk off 4 = true := by
  have := ha.off_aligned
  exact formOk_four (by omega)

theorem BeginsAt.formOk_high (ha : BeginsAt r off b o) : formOk (off + 4) 4 = true := by
  have := ha.off_aligned
  exact formOk_four (by omega)

theorem BeginsAt.word_offset (ha : BeginsAt r off b o) : o / 8 * 8 = o := by
  have := ha.reg_aligned
  omega

theorem BeginsAt.upper_offset (ha : BeginsAt r off b o) : (o + 4) / 8 * 8 = o ∧ (o + 4) % 8 ≠ 0 := by
  have := ha.reg_aligned
  omega

/-- A write of 8 bytes acts on the whole register. -/
theorem BeginsAt.regSet_whole (ha : BeginsAt r off b o) (hp : performs h r b o = true)
    (hn : SMap.find h.regs.whold (latchKey r b) = none) (v : Word) :
    regSet h r off 8 v false = writeReg h r b o 0xFFFFFFFFFFFFFFFF v := by
  rw [regSet_reaches ha.found (ha.word_offset.symm ▸ hp) ha.formOk_whole, if_pos rfl,
    writeWhole_none hn]

/-- A write of a lower half is held (R43). -/
theorem BeginsAt.regSet_low (ha : BeginsAt r off b o) (hp : performs h r b o = true)
    (hn : SMap.find h.regs.whold (latchKey r b) = none) (v : Word) :
    regSet h r off 4 v false = { h with regs := { h.regs with
      whold := SMap.put h.regs.whold (latchKey r b) (o, BitVec.ofNat 32 (wfld v 0 32)) } } := by
  rw [regSet_reaches ha.found (ha.word_offset.symm ▸ hp) ha.formOk_low, if_neg (by decide),
    if_pos ha.reg_aligned, writeLow, flushHeld_none hn]

/-- A write of an upper half acts with the held lower half as one write of the whole register (R43). -/
theorem BeginsAt.regSet_high (ha : BeginsAt r off b o) (hp : performs h r b o = true) {lo : BitVec 32}
    (hg : SMap.find h.regs.whold (latchKey r b) = some (o, lo)) (hi : Word) :
    regSet h r (off + 4) 4 hi false =
      writeReg { h with regs := { h.regs with whold := SMap.del h.regs.whold (latchKey r b) } } r b o
        0xFFFFFFFFFFFFFFFF (put lo.toNat 0 32 ||| put (wfld hi 0 32) 32 32) := by
  obtain ⟨hw, hu⟩ := ha.upper_offset
  rw [regSet_reaches (reaches_add_four ha.off_aligned ha.found) (hw.symm ▸ hp) ha.formOk_high,
    if_neg (by decide), if_neg hu, hw]
  simp [writeHigh, hg]

/-- A read of a lower half returns it and latches the upper half of what the register then reads (R43). -/
theorem BeginsAt.regGet_low (ha : BeginsAt r off b o) (hs : serves h r b o = true)
    (hr : ∀ f, r = .fn f → f ≠ 0 → h.bru.ready = true) : regGet h r off 4 = readLow h r b o := by
  rw [regGet_reaches ha.found (ha.word_offset.symm ▸ hs) ha.formOk_low hr,
    if_neg (by decide), if_pos ha.reg_aligned]

/-- A read of the upper half that the latch names returns the copy and empties the latch (R43). -/
theorem BeginsAt.regGet_high (ha : BeginsAt r off b o) (hs : serves h r b o = true)
    (hr : ∀ f, r = .fn f → f ≠ 0 → h.bru.ready = true) (hn : SMap.find h.regs.whold (latchKey r b) = none)
    {hi : BitVec 32} (hg : SMap.find h.regs.rhold (latchKey r b) = some (o, hi)) :
    regGet h r (off + 4) 4 =
      { h with regs := { h.regs with rhold := SMap.del h.regs.rhold (latchKey r b) } }.emit
        (.readDone r (put hi.toNat 0 32)) := by
  obtain ⟨hw, hu⟩ := ha.upper_offset
  rw [regGet_reaches (reaches_add_four ha.off_aligned ha.found) (hw.symm ▸ hs) ha.formOk_high
    hr, if_neg (by decide), if_neg hu, hw, readHigh, flushHeld_none hn]
  simp [hg]

/-- A write that R392 does not perform is dropped; the function's is counted and raises event 0x180. -/
theorem regSet_badForm {f : FnId} (ha : arrives h (.fn f) = true) {size : Nat}
    (hf : formOk off size = false) (v : Word) : regSet h (.fn f) off size v false = badAccess h f := by
  simp [regSet, ha, hf, badWrite]

/-! ### The commands that access registers -/

/-- REGISTER_WRITE of a requester none of whose requests waits. -/
theorem yields_registerWrite {t : State} (hw : ∀ f, r = .fn f → (t.hw.fn f).waiting = []) {size : Nat} {v : Word}
    {p : Bool} {P : State → Prop} (hp : P { t with hw := regSet t.hw r off size v p }) :
    Yields (.registerWrite r off size v p) t P :=
  yields_run rfl (regTurn_idle hw _ _) hp

/-- REGISTER_READ_LOW_HALF of a requester none of whose requests waits. -/
theorem yields_registerRead {t : State} (hw : ∀ f, r = .fn f → (t.hw.fn f).waiting = []) {size : Nat}
    {P : State → Prop} (hp : P { t with hw := regGet t.hw r off size }) :
    Yields (.registerReadLowHalf r off size) t P :=
  yields_run rfl (regTurn_idle hw _ _) hp

/-- COUNTER_WRITE_CLEAR sets the counter to 0 (R193). -/
theorem BeginsAt.yields_counterWriteClear (ha : BeginsAt r off b o) {s : State} (hm : MayWriteReg s r b o)
    (hc : (regAt s.hw.pins.variant1800 (blkBase b + o)).counter = true) :
    Yields (.counterWriteClear r off) s (fun t => t = { s with hw := s.hw.setReg (blkBase b + o) 0 }) := by
  obtain ⟨x, -, hx⟩ := Option.bind_eq_some_iff.1 ha.found
  have ⟨_, hmay, _⟩ := hm
  refine yields_run rfl ?_ rfl
  simp only [ha.found, hc, if_true]
  rw [regWrite_eq hm, writeReg_counter hmay hx hc]

/-- A misshapen write of a function is counted and raises event 0x180, and stages and holds nothing (R392). -/
theorem badAccess_raises (cmds : List Instr) (f : FnId) :
    Pends { hw := badAccess h f, pending := cmds } 0x180 f.val ∧
      (badAccess h f).reg (f.val * 0x1000 + 0x78) =
        BitVec.ofNat 64 (min ((h.reg (f.val * 0x1000 + 0x78)).toNat + 1) (2 ^ 32 - 1)) ∧
      (badAccess h f).regs.staged = h.regs.staged ∧ (badAccess h f).regs.whold = h.regs.whold ∧
      (badAccess h f).mem = h.mem := by
  have hne : f.val * 0x1000 + 0x78 ≠ 0x40200 + 8 * (0x180 / 64) := by omega
  exact ⟨pends_raiseEv _ _ _ _ _, (raiseEv_reg_ne _ _ _ _ hne).trans (Hw.reg_count _ _ _), rfl, rfl, rfl⟩

end

end Sys2Proof.Machine

namespace Sys2Proof

open Sys2Proof.Machine

/-- Settles O35: each access is brought to the register that begins at its offset (`BeginsAt`); there a plain write is
`takesWrite_writeReg`, a counter's `writeReg_counter`, and the halves are joined by the latches of R43. -/
theorem registerAccessesReadAndWriteTheirFields : Obligations.RegisterAccessesReadAndWriteTheirFields := by
  intro s r off b o hb ho hoff hm hidle k i plain wrote
  have ha : BeginsAt r off b o := ⟨hb, ho, hoff⟩
  have ⟨hp, hmay, hn⟩ := hm
  have hs := serves_of_performs hp
  refine ⟨fun v hplain => ?_, fun v => ?_, fun lo hi hplain hheld => ?_, fun hc => ?_,
    fun hready => ⟨?_, fun hi hheld => ?_⟩, fun f v off' size hf hform => ?_⟩
  · refine yields_registerWrite hidle ?_
    rw [ha.regSet_whole hp hn]
    exact takesWrite_writeReg hmay hplain v
  · refine yields_registerWrite hidle ?_
    rw [ha.regSet_low hp hn]
    exact ⟨rfl, SMap.find_put_same _ _ _⟩
  · refine yields_registerWrite (by exact hidle) ?_
    rw [ha.regSet_high (by exact hp) hheld]
    exact takesWrite_writeReg_held hmay hplain _ _
  · obtain ⟨t, ht, rfl⟩ := ha.yields_counterWriteClear hm hc
    exact ⟨_, ht, Hw.reg_setReg _ _ _, fun k' hk => Hw.reg_setReg_ne _ _ hk, rfl⟩
  · refine yields_registerRead hidle ?_
    rw [ha.regGet_low hs hready, readLow, flushHeld_none hn]
    exact ⟨rfl, SMap.find_put_same _ _ _, rfl, rfl⟩
  · refine yields_registerRead (by exact hidle) ?_
    rw [ha.regGet_high (by exact hs) (by exact hready) (by exact hn) hheld]
    exact ⟨rfl, SMap.find_del_same _ _, rfl, rfl⟩
  · subst hf
    refine yields_registerWrite hidle ?_
    rw [regSet_badForm (arrives_of_serves hs) hform]
    exact badAccess_raises _ _

end Sys2Proof
end

section
/-! Proofs about reset and about the tray interface: what the module holds at power-on reset, and what I3C, telemetry
and the service port do. -/

namespace Sys2Proof.Machine

/-! ### Reset -/

/-- At reset every event source is masked and none is pending (Table 13-11). -/
theorem evc_reg_reset : ∀ k, k < 16 → Hw.reset.reg (0x40100 + 8 * k) = 0xFFFFFFFFFFFFFFFF ∧
    Hw.reset.reg (0x40200 + 8 * k) = 0 := by decide

/-! ### The tray controller's cap (R456) -/

theorem clampCap_lt (h : Hw) (w : Nat) : clampCap h w < 2 ^ 12 := by
  have hv : variantW h ≤ 2400 := by
    unfold variantW
    split <;> decide
  exact max_lt (by decide) ((min_le_left _ _).trans_lt (hv.trans_lt (by decide)))

/-- The tray controller's write of its cap stores the clamped cap and the enable bit. -/
theorem writeTrayCap_fields (h : Hw) (v : Word) :
    wfld ((writeTrayCap h v).reg 0xC0018) 0 12 = clampCap h (wfld v 0 12) ∧
      bit ((writeTrayCap h v).reg 0xC0018) 12 = bit v 12 := by
  rw [writeTrayCap, Hw.reg_setReg]
  constructor
  · rw [wfld_put_or _ _ _ _ (by decide), Nat.mod_eq_of_lt (clampCap_lt h _)]
    intro i hi
    rw [getLsbD_bitw]
    simp; omega
  · rw [bit_eq_getLsbD, BitVec.getLsbD_or, getLsbD_put, getLsbD_bitw]
    simp

/-! ### Telemetry (R562) -/

/-- Number of the record that follows the newest. -/
def nextTelem (y : Tray) : BitVec 6 := if y.valid then y.newest + 1 else 0

theorem putTelemetry_room {h : Hw} (hr : h.tray.unacked < 64) :
    putTelemetry h = { h with tray := { h.tray with
      telem := SMap.put h.tray.telem (nextTelem h.tray).toNat (telemNow h), newest := nextTelem h.tray, valid := true
      unacked := h.tray.unacked + 1 } } := if_neg (Nat.not_le.2 hr)

theorem putTelemetry_full {h : Hw} (hr : 64 ≤ h.tray.unacked) :
    putTelemetry h = h.setReg 0xC0030 (put (Nat.min (wfld (h.reg 0xC0030) 32 32 + 1) 0xFFFFFFFF) 32 32) := if_pos hr

/-- A dropped record is counted up to 2^32 - 1. -/
theorem putTelemetry_full_count {h : Hw} (hr : 64 ≤ h.tray.unacked) :
    wfld ((putTelemetry h).reg 0xC0030) 32 32 = min (wfld (h.reg 0xC0030) 32 32 + 1) 0xFFFFFFFF := by
  rw [putTelemetry_full hr, Hw.reg_setReg, wfld_put _ _ _ (by decide)]
  exact Nat.mod_eq_of_lt ((min_le_right _ _).trans_lt (by decide))

/-! ### The service port (R563) -/

@[simp] theorem length_leBytes (n v : Nat) : (leBytes n v).length = n := by
  induction n generalizing v with
  | zero => rfl
  | succ n ih => simp [leBytes, ih]

/-! ### The commands of the tray interface -/

section
variable {s : State}

/-- SETDASA with the strapped static address gives a target without a dynamic address the one sent (R559). -/
theorem yields_setdasa {addr : BitVec 7} (dyn : BitVec 7) (hon : s.hw.pins.powered = true)
    (hd : s.hw.tray.dynAddr = none) (hst : addr.toNat = 0x30 + s.hw.rte.pos.toNat % 4) :
    Yields (.setdasa addr dyn) s (fun t =>
      t = { s with hw := { s.hw with tray := { s.hw.tray with dynAddr := some dyn } } }) :=
  yields_run rfl (if_pos (by simp [hon, hd, hst])) rfl

theorem setdasa_unchanged {addr : BitVec 7} (dyn : BitVec 7)
    (hn : s.hw.tray.dynAddr ≠ none ∨ addr.toNat ≠ 0x30 + s.hw.rte.pos.toNat % 4) :
    Yields (.setdasa addr dyn) s (fun t => t = s) := by
  refine yields_unchanged rfl (if_neg ?_)
  simp only [Bool.and_eq_true, Option.isNone_iff_eq_none, beq_iff_eq]
  rintro ⟨⟨-, hd⟩, hst⟩
  exact hn.elim (· hd) (· hst)

/-- ENTDAA gives a target without a dynamic address the one sent (R559). -/
theorem yields_entdaa (dyn : BitVec 7) (hon : s.hw.pins.powered = true) (hd : s.hw.tray.dynAddr = none) :
    Yields (.entdaa dyn) s (fun t =>
      t = { s with hw := { s.hw with tray := { s.hw.tray with dynAddr := some dyn } } }) :=
  yields_run rfl (if_pos (by simp [hon, hd])) rfl

theorem entdaa_unchanged (dyn : BitVec 7) (hn : s.hw.tray.dynAddr ≠ none) :
    Yields (.entdaa dyn) s (fun t => t = s) := by
  refine yields_unchanged rfl (if_neg ?_)
  simp [hn]

/-- I3C_READ answers eight bytes of a register and changes nothing else (R9, R560). -/
theorem yields_i3cRead (off : BitVec 16) (hon : s.hw.pins.powered = true) :
    Yields (.i3cRead off) s (fun t => t = { s with
      hw := s.hw.emit (.i3c (if off.toNat % 8 = 0 then viewReg s.hw false .tray off.toNat else 0)) }) :=
  yields_run rfl (if_neg (by simp [hon])) rfl

/-- I3C_WRITE where a register begins writes it as the tray controller (R560). -/
theorem yields_i3cWrite {off : BitVec 16} {data : Word} (h8 : off.toNat % 8 = 0) :
    Yields (.i3cWrite off data) s (fun t => t = { s with hw := regWrite s.hw .tray .tray off.toNat data }) :=
  yields_run rfl (if_pos h8) rfl

/-- The tray controller's write of its cap stores it with the clamping of R456. -/
theorem yields_i3cWrite_cap (data : Word) (hm : MayWriteReg s .tray .tray 0x18) :
    Yields (.i3cWrite 0x18 data) s (fun t => t = { s with hw := writeTrayCap s.hw data }) := by
  obtain ⟨t, ht, rfl⟩ := yields_i3cWrite (s := s) (off := 0x18) (data := data) rfl
  refine ⟨_, ht, ?_⟩
  have ⟨_, hmay, _⟩ := hm
  have hw : regWrite s.hw .tray .tray 0x18 data = writeTrayCap s.hw data := by
    rw [regWrite_eq hm, writeReg_whole hmay (by decide)]
    rfl
  exact congrArg (fun g => { s with hw := g }) hw

/-- TELEMETRY_RECORD in a new interval writes or drops a record and begins the interval (R562). -/
theorem yields_telemetryRecord (hon : s.hw.pins.powered = true) (hk : s.hw.ftcNow / 100000000 ≠ s.hw.tray.window) :
    Yields .telemetryRecord s (fun t => t = { s with hw :=
      let g := putTelemetry s.hw
      { g with tray := { g.tray with
        window := s.hw.ftcNow / 100000000, fMin := fPwr s.hw, throttled := s.hw.pwr.thrOpen } } }) :=
  yields_run rfl (if_neg (by simp [hon, hk])) rfl

theorem telemetryRecord_unchanged (hn : s.hw.pins.powered = false ∨ s.hw.ftcNow / 100000000 = s.hw.tray.window) :
    Yields .telemetryRecord s (fun t => t = s) := by
  refine yields_unchanged rfl (if_pos ?_)
  simpa using hn

/-- A neighbour solicitation is answered with the service port's MAC address (R563). -/
theorem yields_neighbourDiscovery {msg : Bytes} (hup : svcPortUp s.hw = true) (ht : icmpType msg = 135) :
    Yields (.neighbourDiscovery msg) s (fun t => ∃ c : Bytes, c.length = 2 ∧
      t.hw.out = s.hw.out ++ [.ipv6 ([136, 0] ++ c ++ [0x60, 0, 0, 0] ++ sub msg 8 16 ++ [2, 1] ++
        (leBytes 6 Config.mac.toNat).reverse)]) := by
  refine yields_run rfl (if_neg (by simp [hup, ht])) ⟨leBytes 2 s.hw.freeWord.toNat, length_leBytes _ _, ?_⟩
  simp [Hw.emit, leBytes]

/-- An echo request is answered with its data (R563). -/
theorem yields_icmpv6Echo {msg : Bytes} (hup : svcPortUp s.hw = true) (ht : icmpType msg = 128) :
    Yields (.icmpv6Echo msg) s (fun t => ∃ c : Bytes, c.length = 2 ∧
      t.hw.out = s.hw.out ++ [.ipv6 ([129, 0] ++ c ++ msg.drop 4)]) := by
  refine yields_run rfl (if_neg (by simp [hup, ht])) ⟨leBytes 2 s.hw.freeWord.toNat, length_leBytes _ _, ?_⟩
  simp [Hw.emit, leBytes]

end

end Sys2Proof.Machine

namespace Sys2Proof

open Sys2Proof.Machine

/-- Settles O57: registers read their reset values, and the rest is the literal state. -/
theorem resetHoldsItsValuesAndCanonicalMemory : Obligations.ResetHoldsItsValuesAndCanonicalMemory :=
  ⟨rfl, rfl, rfl, rfl, rfl, fun _ => rfl, fun _ => rfl, rfl, by decide, rfl, rfl, evc_reg_reset⟩

/-- Settles O55: what each command does is its `yields_` lemma; the cap's fields are `writeTrayCap_fields`, the ring's
`putTelemetry_room` and `putTelemetry_full`. -/
theorem trayInterfaceAddressesReadsWritesAndRecords : Obligations.TrayInterfaceAddressesReadsWritesAndRecords := by
  intro s tray on leaves
  refine ⟨fun st dyn => ⟨fun hon hd hst => yields_setdasa dyn hon hd hst, fun hon hd => yields_entdaa dyn hon hd,
      fun hst => setdasa_unchanged dyn (.inr hst),
      fun hd => ⟨setdasa_unchanged dyn (.inl hd), entdaa_unchanged dyn hd⟩⟩,
    fun off data => ⟨fun hon => ?_, fun h8 => yields_unchanged rfl (if_neg h8)⟩, fun data hm => ?_, fun hon => ?_,
    ⟨fun hon hk hr => ?_, fun hon hk hr => ?_, fun hk => telemetryRecord_unchanged (.inr hk)⟩,
    fun hon => yields_run rfl (if_pos hon) rfl, fun msg hup => ⟨yields_neighbourDiscovery hup,
      yields_icmpv6Echo hup, fun ht => yields_unchanged rfl (if_pos (by simp [ht])),
      fun ht => yields_unchanged rfl (if_pos (by simp [ht]))⟩,
    fun hoff => ⟨yields_unchanged rfl (if_neg (by simp [hoff])), yields_unchanged rfl (if_neg (by simp [hoff])),
      telemetryRecord_unchanged (.inl hoff)⟩⟩
  · obtain ⟨t, ht, rfl⟩ := yields_i3cRead off hon
    exact ⟨_, ht, rfl, rfl⟩
  · obtain ⟨t, ht, rfl⟩ := yields_i3cWrite_cap data hm
    obtain ⟨hcap, hbit⟩ := writeTrayCap_fields s.hw data
    exact ⟨_, ht, hcap, hbit, fun k hk => Hw.reg_setReg_ne _ _ hk⟩
  · exact yields_run rfl (if_pos hon) ⟨Hw.reg_count _ _ _, rfl⟩
  · obtain ⟨t, ht, rfl⟩ := yields_telemetryRecord hon hk
    refine ⟨_, ht, ?_⟩
    rw [putTelemetry_room hr]
    exact ⟨SMap.find_put_same _ _ _, rfl, rfl, rfl, rfl, rfl, fun i hi => SMap.find_put_ne _ _ hi⟩
  · obtain ⟨t, ht, rfl⟩ := yields_telemetryRecord hon hk
    refine ⟨_, ht, ?_, ?_, putTelemetry_full_count hr⟩ <;> rw [putTelemetry_full hr] <;> rfl

end Sys2Proof
end

section
/-! Proofs about the staged commit: what a write of COMMIT captures, refuses and drops, and what the apply point makes
active. -/

namespace Sys2Proof.Machine

/-! ### The staging copy and the commit state of a block -/

/-- A block whose staging copy has been emptied has no staged word (R34). -/
theorem stagedWords_of_dropStaged {h g : Hw} {b : BlockId} (hg : g.regs.staged = (dropStaged h b).regs.staged) :
    stagedWords g b = [] := by
  have hnone : g.regs.staged.filter (fun p => (blockOf p.1).map (·.1) == some b) = [] := by
    rw [hg, List.filter_eq_nil_iff]
    intro p hp
    have hne := (List.mem_filter.1 hp).2
    simpa using hne
  rw [stagedWords, hnone]
  rfl

/-- Emptying the staging copy leaves the commit states. -/
@[simp] theorem dropStaged_blk (h : Hw) (b b' : BlockId) : (dropStaged h b).blk b' = h.blk b' := rfl

/-! ### A write of COMMIT (Table 1-9) -/

section
variable {h : Hw} {b : BlockId} {v : Word}

/-- A go of a block that is not busy and whose lock the copy keeps. -/
theorem commitWrite_go (hgo : bit v 0 = true) (hd : bit v 1 = false) (hb : (h.blk b).busy = false)
    (hl : (h.blk b).locked = false) :
    commitWrite h b v = if blkOk h (applyRegs h (stagedWords h b)) b (stagedWords h b) then
        (dropStaged h b).modBlk b (fun c => { c with
          pend := false, busy := true, lockReq := bit v 2, captured := stagedWords h b })
      else h.modBlk b (fun c => { c with pend := false, error := 1 }) := by
  simp [commitWrite, hgo, hd, hb, hl]

theorem commitWrite_busy (hgo : bit v 0 = true) (hd : bit v 1 = false) (hb : (h.blk b).busy = true) :
    commitWrite h b v = h.modBlk b (fun c => { c with error := 2 }) := by
  simp [commitWrite, hgo, hd, hb]

theorem commitWrite_locked (hgo : bit v 0 = true) (hd : bit v 1 = false) (hb : (h.blk b).busy = false)
    (hl : (h.blk b).locked = true) (hc : changesLocked h (stagedWords h b) = true) :
    commitWrite h b v = h.modBlk b (fun c => { c with error := 3 }) := by
  simp [commitWrite, hgo, hd, hb, hl, hc]

theorem commitWrite_discard (hgo : bit v 0 = false) (hd : bit v 1 = true) :
    commitWrite h b v = (dropStaged h b).modBlk b (fun c => { c with pend := false, error := 0 }) := by
  simp [commitWrite, hgo, hd]

end

/-- A write of COMMIT that reaches its register. -/
theorem regWrite_commit {s : State} {r : Requester} {b : BlockId} (hm : MayWriteReg s r b 8) (v : Word) :
    regWrite s.hw r b 8 v = commitWrite s.hw b v := by
  have ⟨_, hmay, _⟩ := hm
  have hlow : (wfld 0xFFFFFFFFFFFFFFFF 0 32 != 0) = true := by decide
  rw [regWrite_eq hm, writeReg]
  simp only [hmay, hlow, and_ones, Bool.not_true, Bool.false_eq_true, if_false, if_true]

/-- COMMIT_GO and COMMIT_GO_LOCK write COMMIT with go set, discard clear and the lock request in bit 2 (Table 1-9). -/
theorem exec_commitGo_of {s : State} {r : Requester} {b : BlockId} {i : Instr} {lock : Bool}
    (hi : (i = .commitGo r b ∧ lock = false) ∨ (i = .commitGoLock r b ∧ lock = true)) (hm : MayWriteReg s r b 8) :
    ∃ v, bit v 0 = true ∧ bit v 1 = false ∧ bit v 2 = lock ∧
      exec i s = .next { s with hw := commitWrite s.hw b v } := by
  obtain ⟨rfl, rfl⟩ | ⟨rfl, rfl⟩ := hi
  · exact ⟨1, by decide, by decide, by decide, by rw [← regWrite_commit hm]; rfl⟩
  · exact ⟨5, by decide, by decide, by decide, by rw [← regWrite_commit hm]; rfl⟩

/-! ### The apply point (R36, R37) -/

/-- Making captured fields active changes the active values alone. -/
theorem applyRegs_frame (h : Hw) (cap : SMap Word) :
    ∃ act, applyRegs h cap = { h with regs := { h.regs with act := act } } := by
  unfold applyRegs
  induction cap generalizing h with
  | nil => exact ⟨h.regs.act, rfl⟩
  | cons p cap ih => exact ih (h.setReg p.1 (mergeStaged h p.1 p.2))

/-- A register that is not captured keeps its value. -/
theorem applyRegs_reg_ne (h : Hw) {cap : SMap Word} {k : Nat} (hk : ∀ p ∈ cap, k ≠ p.1) :
    (applyRegs h cap).reg k = h.reg k := by
  unfold applyRegs
  induction cap generalizing h with
  | nil => rfl
  | cons p cap ih =>
    rw [List.foldl_cons, ih _ (fun q hq => hk q (List.mem_cons_of_mem p hq)),
      Hw.reg_setReg_ne _ _ (hk p List.mem_cons_self)]

theorem mergeStaged_setReg_ne (h : Hw) {k k' : Nat} (w v : Word) (hk : k ≠ k') :
    mergeStaged (h.setReg k' w) k v = mergeStaged h k v := by
  simp [mergeStaged, Hw.reg_setReg_ne h w hk]

/-- Each captured word gives its register its staged fields, and every other register is as it was. -/
theorem applyRegs_reg (h : Hw) {cap : SMap Word} (hs : SMap.sorted cap = true) (k : Nat) :
    (applyRegs h cap).reg k = match SMap.find cap k with
      | some v => mergeStaged h k v
      | none => h.reg k := by
  induction cap generalizing h with
  | nil => rfl
  | cons p cap ih =>
    obtain ⟨j, v⟩ := p
    have hlt := SMap.sorted_lt hs
    change (applyRegs (h.setReg j (mergeStaged h j v)) cap).reg k = _
    by_cases hj : j = k
    · subst hj
      rw [applyRegs_reg_ne _ (fun p hp => (hlt p hp).ne), Hw.reg_setReg]
      simp [SMap.find]
    · have hk : k ≠ j := Ne.symm hj
      rw [ih _ (SMap.sorted_tail hs), Hw.reg_setReg_ne _ _ hk]
      simp only [mergeStaged_setReg_ne _ _ _ hk, SMap.find, if_neg hj]

/-- The blocks whose apply point does no more than make the captured fields active. -/
def PlainApply (b : BlockId) : Prop :=
  b = .evc ∨ b = .thm ∨ b = .fwu ∨ (∃ d, b = .cnv d) ∨ (∃ i, b = .glz i) ∨ (∃ p, b = .skt p)

theorem applyWaits_of_plain {b : BlockId} (hb : PlainApply b) (h : Hw) (cap : SMap Word) :
    applyWaits h b cap = false := by
  obtain rfl | rfl | rfl | ⟨_, rfl⟩ | ⟨_, rfl⟩ | ⟨_, rfl⟩ := hb <;> rfl

theorem blkApply_of_plain {b : BlockId} (hb : PlainApply b) (old new : Hw) (cap : SMap Word) :
    blkApply old new b cap = new := by
  obtain rfl | rfl | rfl | ⟨_, rfl⟩ | ⟨_, rfl⟩ | ⟨_, rfl⟩ := hb <;> rfl

/-- COMMIT_APPLY of a block whose apply point has no other effect. -/
theorem yields_commitApply {s : State} {b : BlockId} (hb : PlainApply b) (hbusy : (s.hw.blk b).busy = true) :
    Yields (.commitApply b) s (fun t => t = { s with
      hw := (applyRegs s.hw (s.hw.blk b).captured).modBlk b (fun c => { c with
        busy := false, locked := c.locked || c.lockReq, lockReq := false, error := 0, seq := c.seq + 1,
        captured := [] }) }) := by
  refine yields_run rfl (if_pos (by simp [hbusy, applyWaits_of_plain hb])) ?_
  rw [applyCaptured, blkApply_of_plain hb]

end Sys2Proof.Machine

namespace Sys2Proof

open Sys2Proof.Machine

/-- Settles O34: a write of COMMIT that reaches its register is `commitWrite`, whose outcomes are said case by case;
the apply point is `applyRegs`, read by `applyRegs_reg`. -/
theorem commitsTakeStagedFieldsTogether : Obligations.CommitsTakeStagedFieldsTogether := by
  intro s b c cap active staged
  refine ⟨fun r hm => ⟨fun i lock hi => ?_, ?_⟩, fun hidle => yields_unchanged rfl (if_neg (by simp [c, hidle])),
    fun hbusy hsort hb => ?_⟩
  · obtain ⟨v, hgo, hd, hlock, hx⟩ := exec_commitGo_of hi hm
    refine ⟨fun hb hl hok => ?_, fun hb hl hok => ?_, fun hb => ?_, fun hb hl hc => ?_⟩
    · refine yields_run hx ((commitWrite_go hgo hd hb hl).trans (if_pos hok)) ?_
      exact ⟨⟨rfl, rfl, rfl⟩, stagedWords_of_dropStaged rfl, by simp, by simp [cap], by simp [hlock], by simp,
        by simp [c]⟩
    · exact yields_run hx ((commitWrite_go hgo hd hb hl).trans (if_neg (by simpa using hok)))
        ⟨⟨rfl, rfl, rfl⟩, rfl, Hw.blk_modBlk _ _ _⟩
    · exact yields_run hx (commitWrite_busy hgo hd hb) ⟨⟨rfl, rfl, rfl⟩, rfl, Hw.blk_modBlk _ _ _⟩
    · exact yields_run hx (commitWrite_locked hgo hd hb hl hc) ⟨⟨rfl, rfl, rfl⟩, rfl, Hw.blk_modBlk _ _ _⟩
  · exact yields_run rfl ((regWrite_commit hm 2).trans (commitWrite_discard (by decide) (by decide)))
      ⟨⟨rfl, rfl, rfl⟩, stagedWords_of_dropStaged rfl, Hw.blk_modBlk _ _ _⟩
  · obtain ⟨t, ht, rfl⟩ := yields_commitApply hb hbusy
    obtain ⟨act, hfr⟩ := applyRegs_frame s.hw c.captured
    refine ⟨_, ht, applyRegs_reg s.hw hsort, ?_, ?_, ?_⟩
    · rw [hfr]
      exact Hw.blk_modBlk _ _ _
    · rw [hfr]
      rfl
    · rw [hfr]
      rfl

end Sys2Proof
end

section
/-! Proofs about supplies, clocks and bring-up: what each phase of a boot changes, said as the fields that it sets over
the hardware that it finds. -/

namespace Sys2Proof.Machine

/-! ### What the steps of a boot change -/

theorem setPortState_frame (h : Hw) (i : PortId) (st : BitVec 3) (lanes : BitVec 8) :
    ∃ regs ports ftc evc, setPortState h i st lanes =
      { h with regs := regs, ports := ports, ftc := ftc, evc := evc } := by
  unfold setPortState ftcLink
  dsimp only
  split_ifs <;> exact ⟨_, _, _, _, rfl⟩

theorem beginTraining_frame (h : Hw) (i : PortId) : ∃ free regs ports ftc evc,
    beginTraining h i = { h with free := free, regs := regs, ports := ports, ftc := ftc, evc := evc } := by
  unfold beginTraining
  dsimp only
  generalize (if bit (h.reg (errOff i 0x20)) 2 then (h.port i).eqSaved else none) = saved
  cases saved.isSome
  · obtain ⟨regs, ports, ftc, evc, hfr⟩ := setPortState_frame (h.useFree.setPort i _) i 1 0
    exact ⟨h.free + 1, regs, ports, ftc, evc, hfr⟩
  · obtain ⟨regs, ports, ftc, evc, hfr⟩ := setPortState_frame (h.setPort i _) i 1 0
    exact ⟨h.free, regs, ports, ftc, evc, hfr⟩

theorem trainPorts_frame (h : Hw) : ∃ free regs ports ftc evc,
    trainPorts h = { h with free := free, regs := regs, ports := ports, ftc := ftc, evc := evc } := by
  unfold trainPorts
  generalize allPorts = l
  induction l generalizing h with
  | nil => exact ⟨_, _, _, _, _, rfl⟩
  | cons i l ih =>
    rw [List.foldl_cons]
    split
    next =>
      obtain ⟨_, _, _, _, _, hfr⟩ := beginTraining_frame h i
      rw [hfr]
      exact ih _
    next => exact ih h

theorem unmaskEvents_frame (h : Hw) : ∃ regs, unmaskEvents h = { h with regs := regs } := by
  unfold unmaskEvents
  generalize List.range 16 = l
  induction l generalizing h with
  | nil => exact ⟨_, rfl⟩
  | cons k l ih => exact ih (h.setReg (0x40100 + 8 * k) 0)

theorem saveSettings_frame (h : Hw) (numbering policy lp144 : Bool) (version : BitVec 16) : ∃ rec0 rec1,
    saveSettings h numbering policy lp144 version = { h with bru := { h.bru with rec0 := rec0, rec1 := rec1 } } := by
  unfold saveSettings
  dsimp only
  split
  · exact ⟨_, _, rfl⟩
  · exact ⟨_, _, rfl⟩

theorem migrate_frame (h : Hw) : ∃ regs evc rec0 rec1,
    migrate h = { h with regs := regs, evc := evc, bru := { h.bru with rec0 := rec0, rec1 := rec1 } } := by
  unfold migrate
  dsimp only
  split
  next r _ =>
    split
    · obtain ⟨_, _, hfr⟩ := saveSettings_frame h r.numbering r.policy r.lp144 (schemaOf (runSlot h).body)
      rw [hfr]
      exact ⟨_, _, _, _, rfl⟩
    · exact ⟨_, _, _, _, rfl⟩
  next => exact ⟨_, _, _, _, rfl⟩

/-- The runtime's start settles what runs, and may rewrite the settings record. -/
theorem startRuntime_frame (h : Hw) (i : BitVec 1) : ∃ regs evc rec0 rec1, startRuntime h i = { h with
    regs := regs, evc := evc, bru := { h.bru with rec0 := rec0, rec1 := rec1 }
    fwu := { h.fwu with
      runRuntime := i, runSup0 := i, runSup1 := i, runUcode := if i = 1 then 0xF else 0, cpSet := false
      ucodePending := 0, supStage := 0, paused := false } } := by
  unfold startRuntime
  generalize hg : ({ h with fwu := _ } : Hw) = g
  obtain ⟨_, _, _, _, hm⟩ := migrate_frame g
  obtain ⟨_, hu⟩ := unmaskEvents_frame (migrate g)
  rw [hu, hm, ← hg]
  exact ⟨_, _, _, _, rfl⟩

theorem readSettings_frame (h : Hw) : ∃ regs evc numbering policy defaulted, readSettings h = { h with
    regs := regs, evc := evc
    bru := { h.bru with numbering := numbering, policy := policy, defaulted := defaulted } } := by
  unfold readSettings
  split
  · exact ⟨_, _, _, _, _, rfl⟩
  · exact ⟨_, _, _, _, _, rfl⟩

theorem lpmApply_frame (h : Hw) : ∃ regs evc, lpmApply h = { h with regs := regs, evc := evc } := by
  unfold lpmApply
  dsimp only
  split
  · exact ⟨_, _, rfl⟩
  · exact ⟨_, _, rfl⟩

/-- Training brings every channel of LPDDR6 up, at one of the two rates. -/
theorem trainLp_frame (h : Hw) (bad14 : List (Fin 96)) : ∃ regs evc rate, trainLp h bad14 = { h with
    regs := regs, evc := evc
    memctl := { h.memctl with
      trained := 3, chUp := BitVec.allOnes 96, chLost := [], selfRefresh := false, rate128 := rate } } := by
  unfold trainLp
  generalize hg : ({ h with memctl := _ } : Hw) = g
  obtain ⟨_, _, hl⟩ := lpmApply_frame g
  dsimp only
  rw [hl, ← hg]
  split
  · exact ⟨_, _, _, rfl⟩
  · exact ⟨_, _, _, rfl⟩
  · exact ⟨_, _, _, rfl⟩

theorem runRepairs_frame (h : Hw) (results : List (BitVec 2)) : ∃ regs evc repair,
    runRepairs h results = { h with regs := regs, evc := evc, bru := { h.bru with repair := repair } } := by
  unfold runRepairs
  dsimp only
  split
  · exact ⟨_, _, _, rfl⟩
  · exact ⟨_, _, _, rfl⟩

theorem foldl_modEasel_frame (f : Hw → EaselId → Easel → Easel) (l : List EaselId) (h : Hw) : ∃ easels,
    l.foldl (fun g e => g.modEasel e (f g e)) h = { h with easels := easels } := by
  induction l generalizing h with
  | nil => exact ⟨_, rfl⟩
  | cons e l ih => exact ih (h.modEasel e (f h e))

theorem setClocks_frame (h : Hw) (mhz : Nat) : ∃ easels,
    setClocks h mhz = { h with easels := easels, pwr := { h.pwr with target := mhz } } := by
  obtain ⟨_, hfr⟩ := foldl_modEasel_frame (fun _ _ x => { x with clockMhz := if h.thm.fallback then 1600 else mhz })
    h.bru.enabled { h with pwr := { h.pwr with target := mhz } }
  exact ⟨_, hfr⟩

/-- Listing easels, where the policy lists them, touches the field list and its event alone. -/
theorem addField_frame (h : Hw) (l : List EaselId) (policy : Bool) : ∃ regs evc field,
    (if policy then addField h l else h) =
      { h with regs := regs, evc := evc, bru := { h.bru with field := field } } := by
  unfold addField
  dsimp only
  split_ifs <;> exact ⟨_, _, _, rfl⟩

theorem katRuns_frame (h : Hw) (l : List EaselId) (pass : EaselId → Bool) : ∃ easels,
    l.foldl (fun g e => katRun g e (pass e)) h = { h with easels := easels } :=
  foldl_modEasel_frame (fun g e x => { x with
    katPass := pass e, katValid := true, katTime := g.ftcNow
    katFails := if pass e then x.katFails else Nat.min 255 (x.katFails + 1) }) l h

/-- The easels that the self-test puts in force: those tested that pass their known-answer run (R523, R524). -/
def passingEasels (h : Hw) (sodFail katFail : List EaselId) : List EaselId :=
  (testedEasels h sodFail).filter (fun e => !katFail.contains e)

theorem mem_allEasels (e : EaselId) : e ∈ allEasels :=
  List.mem_map.2 ⟨e.val, List.mem_range.2 e.isLt, Fin.ext (Nat.mod_eq_of_lt e.isLt)⟩

theorem mem_passingEasels (h : Hw) (sodFail katFail : List EaselId) (e : EaselId) :
    e ∈ passingEasels h sodFail katFail ↔
      (e ∉ h.bru.fused ∧ (h.bru.policy = true → e ∉ h.bru.field ∧ e ∉ sodFail)) ∧ e ∉ katFail := by
  simp only [passingEasels, testedEasels, List.mem_filter, mem_allEasels, true_and, Bool.and_eq_true, Bool.not_eq_true',
    List.contains_eq_mem, decide_eq_false_iff_not, Bool.and_eq_false_iff, Bool.or_eq_false_iff]
  cases h.bru.policy <;> simp

/-- The self-test fixes the enabled set; it touches the easels, the clock target and the lists of BRU_ beside. -/
theorem selfTest_frame (h : Hw) (sodFail katFail : List EaselId) : ∃ regs easels evc target field logmap,
    selfTest h sodFail katFail = { h with
      regs := regs, easels := easels, evc := evc, pwr := { h.pwr with target := target }
      bru := { h.bru with
        enabled := passingEasels h sodFail katFail, fenced := [], field := field, logmap := logmap } } := by
  unfold selfTest
  dsimp only
  obtain ⟨easels, hk⟩ := katRuns_frame h (testedEasels h sodFail)
    ((testedEasels h sodFail).filter (fun e => !katFail.contains e)).contains
  rw [hk]
  generalize hg : ({ h with easels := easels, bru := _ } : Hw) = g
  generalize allEasels.filter _ = failing
  obtain ⟨_, _, _, ha⟩ := addField_frame g failing h.bru.policy
  obtain ⟨_, hc⟩ := setClocks_frame (if h.bru.policy then addField g failing else g) 2100
  rw [hc, ha, ← hg]
  exact ⟨_, _, _, _, _, _, rfl⟩

/-! ### A start that fails (R516, R521) -/

/-- From `h`, bring-up has stopped with this error and unit, and the count of failed starts of slot 0 is `n` more. -/
def BootFails (h g : Hw) (err unit : BitVec 8) (n : BitVec 2) : Prop :=
  g.bru.phase = 8 ∧ g.bru.error = err ∧ g.bru.failUnit = unit ∧ g.bru.ready = h.bru.ready ∧
    g.fwu.slot0.failCount = h.fwu.slot0.failCount + n

/-- An error that the firmware of the slot is not to blame for leaves the slot's count. -/
theorem bootFails_failBoot (h : Hw) {err : BitVec 8} (unit : BitVec 8) (he : ¬(err = 4 ∨ err = 5)) :
    BootFails h (failBoot h err unit) err unit 0 := by
  rw [failBoot, if_neg he]
  exact ⟨rfl, rfl, rfl, rfl, (BitVec.add_zero _).symm⟩

/-- Errors 0x04 and 0x05 count against the slot booted. -/
theorem bootFails_failBoot_counted {h : Hw} {err : BitVec 8} (unit : BitVec 8) (he : err = 4 ∨ err = 5)
    (hs : h.bru.bootSlot = 0) (hc : h.fwu.slot0.failCount < 2) : BootFails h (failBoot h err unit) err unit 1 := by
  have hne : h.fwu.slot0.failCount ≠ 3 := fun h3 => absurd hc (by rw [h3]; decide)
  rw [failBoot, if_pos he]
  refine ⟨rfl, rfl, rfl, rfl, ?_⟩
  simp only [countFail, hs, Hw.modSlot, if_true, if_neg hne]

/-! ### The choice of the slot (R521) -/

theorem state_of_slotIn {h : Hw} {st : BitVec 3} {i : BitVec 1} (hs : slotIn h st = some i) :
    (h.slot i).state = st := by
  unfold slotIn at hs
  split_ifs at hs with h0 h1 <;> cases hs
  · exact h0
  · exact h1

/-- With no slot on trial, none ACTIVE or VALID whose image passes, the ROM boots none. -/
theorem selectSlot_none {h : Hw} (hn : ∀ i : BitVec 1, (h.slot i).state ≠ 4 ∧
    ((h.slot i).state = 3 ∨ (h.slot i).state = 2 → imageOk h i = false)) :
    selectSlot h = { hw := h, slot := none, trial := false, other := false, failed := false } := by
  have hi : ∀ i : BitVec 1, imageOk h i = true → (h.slot i).state ≠ 3 ∧ (h.slot i).state ≠ 2 := by
    intro i hok
    have hbad := (hn i).2
    rw [hok] at hbad
    exact ⟨fun hs => absurd (hbad (.inl hs)) (by decide), fun hs => absurd (hbad (.inr hs)) (by decide)⟩
  have htrial : slotIn h 4 = none :=
    Option.eq_none_iff_forall_ne_some.2 (fun i hs => (hn i).1 (state_of_slotIn hs))
  have hactive : (slotIn h 3).filter (fun i => decide ((h.slot i).failCount < 2) && imageOk h i) = none := by
    rw [Option.filter_eq_none_iff]
    intro i hs hp
    exact (hi i (Bool.and_eq_true_iff.1 hp).2).1 (state_of_slotIn hs)
  have hvalid : ([0, 1] : List (BitVec 1)).find? (fun i => (h.slot i).state == 2 && imageOk h i) = none := by
    rw [List.find?_eq_none]
    intro i _ hp
    obtain ⟨hs, hok⟩ := Bool.and_eq_true_iff.1 hp
    exact (hi i hok).2 (beq_iff_eq.1 hs)
  simp only [selectSlot, htrial, selectSteady, hactive, hvalid]

/-- An ACTIVE slot 0 that has not failed twice and whose image passes is booted where no slot is on trial. -/
theorem selectSlot_active {h : Hw} (h0 : h.fwu.slot0.state = 3) (h1 : h.fwu.slot1.state ≠ 4)
    (hf : h.fwu.slot0.failCount < 2) (hok : imageOk h 0 = true) :
    selectSlot h = { hw := h, slot := some 0, trial := false, other := false, failed := false } := by
  have htrial : slotIn h 4 = none := by rw [slotIn, if_neg (by rw [h0]; decide), if_neg h1]
  have hactive : slotIn h 3 = some 0 := by rw [slotIn, if_pos h0]
  have hgood : (decide ((h.slot 0).failCount < 2) && imageOk h 0) = true :=
    Bool.and_eq_true_iff.2 ⟨decide_eq_true hf, hok⟩
  simp only [selectSlot, htrial, selectSteady, hactive, Option.filter, hgood, if_true]

/-! ### The boot of a slot (R513) -/

/-- The slot from which phase 1 starts is set. -/
def slotChosen (h : Hw) (i : BitVec 1) : Hw := { h with bru := { h.bru with phase := 1, bootSlot := i } }

/-- The Ihlel firmware runs, at the start of phase 2. -/
def ihlelUp (h : Hw) (i : BitVec 1) : Hw :=
  let g := startIhlel (slotChosen h i) i
  { g with bru := { g.bru with phase := 2 }, hif := { g.hif with configured := !g.hif.perst } }

/-- The runtime and the supervisors run, at the end of phase 2. -/
def firmwareUp (h : Hw) (i : BitVec 1) (env : BootEnv) : Hw :=
  startSups (deriveAlias2 (loadSettingsReg (readSettings (startRuntime (ihlelUp h i) i)))) env.sup0 env.sup1

section
variable (h : Hw) (i : BitVec 1) {env : BootEnv}

theorem noSups_of (hs : env.sup0 = true ∨ env.sup1 = true) : ¬((!env.sup0 && !env.sup1) = true) := by
  simpa [imp_iff_not_or] using hs

theorem bootSlotFrom_noIhlel (hi : env.ihlelOk = false) :
    bootSlotFrom h i env = failBoot (slotChosen h i) 5 (i.setWidth 8) := by
  simp [bootSlotFrom, slotChosen, hi]

theorem bootSlotFrom_noSups (hi : env.ihlelOk = true) (hs : ¬(env.sup0 = true ∨ env.sup1 = true)) :
    bootSlotFrom h i env = failBoot (ihlelUp h i) 3 0xFF := by
  simp only [not_or, Bool.not_eq_true] at hs
  simp [bootSlotFrom, ihlelUp, slotChosen, hi, hs]

theorem bootSlotFrom_noRuntime (hi : env.ihlelOk = true) (hs : env.sup0 = true ∨ env.sup1 = true)
    (hr : env.runtimeOk = false) : bootSlotFrom h i env = failBoot (ihlelUp h i) 4 (i.setWidth 8) := by
  rw [bootSlotFrom, if_neg (by simp [hi]), if_neg (noSups_of hs), if_pos (by simp [hr])]
  rfl

theorem bootSlotFrom_memory (hi : env.ihlelOk = true) (hs : env.sup0 = true ∨ env.sup1 = true)
    (hr : env.runtimeOk = true) : bootSlotFrom h i env = bootMemory (firmwareUp h i env) env := by
  rw [bootSlotFrom, if_neg (by simp [hi]), if_neg (noSups_of hs), if_neg (by simp [hr])]
  rfl

end

theorem ihlelUp_frame (h : Hw) (i : BitVec 1) : ∃ sec hif, ihlelUp h i = { h with
    sec := sec, hif := hif, bru := { h.bru with phase := 2, bootSlot := i }, fwu := { h.fwu with runIhlel := i } } :=
  ⟨_, _, rfl⟩

/-- Reading the settings settles the numbering and the policy; the identity is derived beside. -/
theorem settingsLoaded_frame (h : Hw) : ∃ regs evc sec numbering policy defaulted,
    deriveAlias2 (loadSettingsReg (readSettings h)) = { h with
      regs := regs, evc := evc, sec := sec
      bru := { h.bru with numbering := numbering, policy := policy, defaulted := defaulted } } := by
  obtain ⟨_, _, _, _, _, hs⟩ := readSettings_frame h
  rw [hs]
  exact ⟨_, _, _, _, _, _, rfl⟩

/-- What phases 1 and 2 have settled: the slot, what runs from it and who holds the lease; the lists of defects, the
count of the slot and the error stand. -/
theorem firmwareUp_frame (h : Hw) (i : BitVec 1) (env : BootEnv) :
    ∃ regs evc sec hif rec0 rec1 numbering policy defaulted, firmwareUp h i env = { h with
      regs := regs, evc := evc, sec := sec, hif := hif, sup := (startSups h env.sup0 env.sup1).sup
      bru := { h.bru with
        phase := 2, bootSlot := i, rec0 := rec0, rec1 := rec1, numbering := numbering, policy := policy
        defaulted := defaulted }
      fwu := { h.fwu with
        runIhlel := i, runRuntime := i, runSup0 := i, runSup1 := i, runUcode := if i = 1 then 0xF else 0, cpSet := false
        ucodePending := 0, supStage := 0, paused := false } } := by
  obtain ⟨_, _, hi⟩ := ihlelUp_frame h i
  obtain ⟨_, _, _, _, hr⟩ := startRuntime_frame (ihlelUp h i) i
  obtain ⟨_, _, _, _, _, _, hs⟩ := settingsLoaded_frame (startRuntime (ihlelUp h i) i)
  rw [firmwareUp, hs, hr, hi]
  exact ⟨_, _, _, _, _, _, _, _, _, rfl⟩

/-- The lease is the first supervisor's where it starts, else the second's (R475). -/
theorem startSups_holder (h : Hw) {s0 s1 : Bool} (hs : s0 = true ∨ s1 = true) :
    (startSups h s0 s1).sup.holder = some (if s0 then 0 else 1) :=
  if_pos (Bool.or_eq_true_iff.2 hs)

/-- The hardware with the ports in training, LPDDR6 trained and the repairs run, in phase 3. -/
def memoryTrained (h : Hw) (env : BootEnv) : Hw :=
  runRepairs (trainLp (trainPorts (setRateCfg { h with
    bru := { h.bru with phase := 3 }, pins := { h.pins with computeOn := true } })) env.bad14) env.repair

theorem memoryTrained_frame (h : Hw) (env : BootEnv) : ∃ free regs ports ftc evc rate repair,
    memoryTrained h env = { h with
    free := free, regs := regs, ports := ports, ftc := ftc, evc := evc, pins := { h.pins with computeOn := true }
    bru := { h.bru with phase := 3, repair := repair }
    memctl := { h.memctl with
      trained := 3, chUp := BitVec.allOnes 96, chLost := [], selfRefresh := false, rate128 := rate } } := by
  unfold memoryTrained
  generalize hg : setRateCfg _ = g
  obtain ⟨_, _, _, _, _, hp⟩ := trainPorts_frame g
  obtain ⟨_, _, _, hl⟩ := trainLp_frame (trainPorts g) env.bad14
  obtain ⟨_, _, _, hr⟩ := runRepairs_frame (trainLp (trainPorts g) env.bad14) env.repair
  rw [hr, hl, hp, ← hg]
  exact ⟨_, _, _, _, _, _, _, rfl⟩

/-- Where every channel trains at the lower rate, Canvas decides between failure and the self-test. -/
theorem bootMemory_eq (h : Hw) {env : BootEnv} (hb : env.bad12 = []) : bootMemory h env =
    match env.canvasBad with
    | some d => failBoot (memoryTrained h env) 2 (BitVec.ofNat 8 d.val)
    | none =>
      let g := selfTest (zeroAll (memoryTrained h env)) env.sodFail env.katFail
      { g with bru := { g.bru with phase := 6 } } := by
  have hnone : ∀ r : Bool,
      (if r then (sortBy (fun (a b : Fin 96) => decide (a ≤ b)) env.bad12).head? else none) = none := by
    intro r
    rw [hb]
    cases r <;> rfl
  unfold bootMemory
  dsimp only
  rw [hnone]
  cases env.canvasBad <;> rfl

/-- Where Canvas is beyond repair, bring-up stops with error 2. -/
theorem bootFails_canvas (h : Hw) {env : BootEnv} {d : Fin 2} (hb : env.bad12 = []) (hd : env.canvasBad = some d) :
    BootFails h (bootMemory h env) 2 (BitVec.ofNat 8 d.val) 0 := by
  obtain ⟨_, _, _, _, _, _, _, ht⟩ := memoryTrained_frame h env
  rw [bootMemory_eq h hb, hd, ht]
  exact bootFails_failBoot (err := 2) _ _ (by decide)

/-- Where every memory passes, phases 3 to 6 end with memory zero, LPDDR6 up and the passing easels in force. -/
theorem bootMemory_passes (h : Hw) {env : BootEnv} (hb : env.bad12 = []) (hc : env.canvasBad = none) :
    let g := bootMemory h env
    g.bru.phase = 6 ∧ g.bru.error = h.bru.error ∧ g.mem.cells = [] ∧ g.mem.ecc = [] ∧ g.fwu = h.fwu ∧
      g.pins.computeOn = true ∧ g.memctl.chUp = BitVec.allOnes 96 ∧ g.sup = h.sup ∧ g.bru.policy = h.bru.policy ∧
      g.bru.enabled = passingEasels h env.sodFail env.katFail := by
  obtain ⟨_, _, _, _, _, _, _, ht⟩ := memoryTrained_frame h env
  obtain ⟨_, _, _, _, _, _, hs⟩ := selfTest_frame (zeroAll (memoryTrained h env)) env.sodFail env.katFail
  rw [bootMemory_eq h hb, hc]
  dsimp only
  rw [hs, ht]
  exact ⟨rfl, rfl, rfl, rfl, rfl, rfl, rfl, rfl, rfl, rfl⟩

/-! ### The commands of supplies, clocks and boot -/

/-- A boot that begins is counted (R562). -/
def bootCounted (h : Hw) : Hw := { h with tray := { h.tray with boots := h.tray.boots + 1 } }

/-- What follows the choice of a slot: ROM recovery mode where there is none, else its boot. -/
def bootChosen (c : Choice) (env : BootEnv) : Hw :=
  match c.slot with
  | none => choiceEvent c (romRecovery { c.hw with hif := { c.hw.hif with configured := !c.hw.hif.perst } })
  | some i => choiceEvent c (bootSlotFrom { c.hw with bru := { c.hw.bru with error := 0, trialBoot := c.trial } } i env)

section
variable {s : State} {env : BootEnv}

/-- COLD_BOOT of a powered module whose reset is released chooses a slot. -/
theorem exec_coldBoot (hon : s.hw.pins.powered = true) (hr : s.hw.bru.released = true) (hp : s.hw.bru.phase = 0) :
    exec (.coldBoot env) s = .next { s with hw := bootChosen (selectSlot (bootCounted s.hw)) env } := by
  have hgo : ¬((!s.hw.pins.powered || !s.hw.bru.released || decide (1 < s.hw.bru.phase.toNat)) = true) := by
    simp [hon, hr, hp]
  refine congrArg (fun g => Host.Outcome.next { s with hw := g }) ((if_neg hgo).trans ?_)
  rw [if_pos hp]
  rfl

/-- COLD_BOOT with no bootable slot enters ROM recovery mode (R545). -/
theorem bootChosen_recovery {h : Hw} (hn : ∀ i : BitVec 1, (h.slot i).state ≠ 4 ∧
    ((h.slot i).state = 3 ∨ (h.slot i).state = 2 → imageOk h i = false)) :
    bootChosen (selectSlot (bootCounted h)) env =
      romRecovery { bootCounted h with hif := { h.hif with configured := !h.hif.perst } } := by
  rw [selectSlot_none (h := bootCounted h) hn]
  rfl

/-- The hardware as the boot of the ACTIVE slot begins. -/
def bootBegun (h : Hw) : Hw :=
  { bootCounted h with bru := { h.bru with error := 0, trialBoot := false } }

/-- COLD_BOOT of a good ACTIVE slot 0 boots it. -/
theorem bootChosen_active {h : Hw} (h0 : h.fwu.slot0.state = 3) (h1 : h.fwu.slot1.state ≠ 4)
    (hf : h.fwu.slot0.failCount < 2) (hok : imageOk h 0 = true) :
    bootChosen (selectSlot (bootCounted h)) env = bootSlotFrom (bootBegun h) 0 env := by
  rw [selectSlot_active (h := bootCounted h) h0 h1 hf hok]
  rfl

end

/-- What a power cycle keeps: the lists of defects, the floors, the hours and, unless it was being written, the image
of slot 0; the rest is dark (R552). -/
theorem keptDark_slot0 {h : Hw} (hs : h.fwu.slot0.state ≠ 1) : (keptDark h).fwu.slot0 = h.fwu.slot0 := if_neg hs

/-- A trial that booted takes the place of the ACTIVE slot (R521). -/
def trialAdopted (h : Hw) : Hw :=
  if h.bru.trialBoot then
    (h.modSlot (1 - h.bru.bootSlot) (fun x => if x.state = 3 then { x with state := 2 } else x)).modSlot h.bru.bootSlot
      (fun x => { x with state := 3 })
  else h

/-- The module as it becomes ready: phase 7, FAULT# off, the slot booted without failed starts. -/
def readied (h : Hw) : Hw :=
  let g := (trialAdopted h).modSlot h.bru.bootSlot (fun x => { x with failCount := 0 })
  { g with bru := { g.bru with phase := 7, ready := true, trialBoot := false }, pins := { g.pins with fault := false } }

theorem makeReady_eq (h : Hw) : makeReady h =
    raiseEv (readied h) 0x240 (h.bru.bootSlot.toNat + h.bru.enabled.length * 256) [] := by
  have hen : (trialAdopted h).bru.enabled = h.bru.enabled := by
    unfold trialAdopted
    split <;> rfl
  rw [← hen]
  rfl

/-- BOOT_READY at the end of phase 6. -/
def bootedReady (h : Hw) : Hw :=
  let g := makeReady h
  { g with bru := { g.bru with bootNs := h.now - h.bru.porAt } }

theorem slot_bootedReady (h : Hw) (j : BitVec 1) : (bootedReady h).slot j =
    ((trialAdopted h).modSlot h.bru.bootSlot (fun x => { x with failCount := 0 })).slot j := rfl

@[simp] theorem Hw.slot_modSlot (h : Hw) (i : BitVec 1) (f : FwSlot → FwSlot) :
    (h.modSlot i f).slot i = f (h.slot i) := by
  unfold Hw.modSlot Hw.slot
  split <;> rfl

theorem Hw.slot_modSlot_ne (h : Hw) {i j : BitVec 1} (f : FwSlot → FwSlot) (hj : j ≠ i) :
    (h.modSlot i f).slot j = h.slot j := by
  have hone : ∀ k : BitVec 1, k ≠ 0 → k = 1 := by decide
  unfold Hw.modSlot Hw.slot
  by_cases hi : i = 0
  · rw [if_pos hi, if_neg (hi ▸ hj), if_neg (hi ▸ hj)]
  · have hj0 : j = 0 := by_contra (fun h0 => hj ((hone j h0).trans (hone i hi).symm))
    rw [if_neg hi, if_pos hj0, if_pos hj0]

/-- A slot booted has no failed start. -/
theorem bootedReady_failCount (h : Hw) : ((bootedReady h).slot h.bru.bootSlot).failCount = 0 := by
  rw [slot_bootedReady, Hw.slot_modSlot]

/-- A trial that booted is ACTIVE, and the other slot is not. -/
theorem bootedReady_trial {h : Hw} (ht : h.bru.trialBoot = true) : ((bootedReady h).slot h.bru.bootSlot).state = 3 ∧
    ((bootedReady h).slot (1 - h.bru.bootSlot)).state ≠ 3 := by
  have hne : ∀ i : BitVec 1, 1 - i ≠ i := by decide
  rw [slot_bootedReady, slot_bootedReady, trialAdopted, if_pos ht]
  refine ⟨by simp only [Hw.slot_modSlot], ?_⟩
  rw [Hw.slot_modSlot_ne _ _ (hne _), Hw.slot_modSlot_ne _ _ (hne _), Hw.slot_modSlot]
  split
  · exact (by decide : (2 : BitVec 3) ≠ 3)
  · assumption

/-- Without a trial the slot booted keeps its state. -/
theorem bootedReady_steady {h : Hw} (ht : h.bru.trialBoot = false) :
    ((bootedReady h).slot h.bru.bootSlot).state = (h.slot h.bru.bootSlot).state := by
  rw [slot_bootedReady, trialAdopted, if_neg (by simp [ht]), Hw.slot_modSlot]

/-- What is pending does not depend on bring-up. -/
theorem pends_with_bru {h : Hw} {cmds : List Instr} {src p : Nat} (hp : Pends { hw := h, pending := cmds } src p)
    (b : Bru) : Pends { hw := { h with bru := b }, pending := cmds } src p := hp

/-- Event 0x240 names the slot booted and the easels in force (R514). -/
theorem pends_bootedReady (h : Hw) (cmds : List Instr) : Pends { hw := bootedReady h, pending := cmds } 0x240
    (h.bru.bootSlot.toNat + h.bru.enabled.length * 256) := by
  rw [bootedReady, makeReady_eq]
  exact pends_with_bru (pends_raiseEv _ _ _ _ _) _

theorem refclk_away {h : Hw} (hon : h.pins.powered = true) (hclk : h.pins.refclk = false) :
    ¬((h.pins.refclk || !h.pins.powered) = true) := by simp [hon, hclk]

/-- BRU_FIELD_CLEAR that reaches its register takes the index off the list where the module is ready (R528). -/
theorem regWrite_fieldClear {s : State} {r : Requester} (hm : MayWriteReg s r .bru 0x30) (i : BitVec 8) :
    regWrite s.hw r .bru 0x30 (put i.toNat 0 8) = fieldClear s.hw i.toNat := by
  have ⟨_, hmay, _⟩ := hm
  have hi : wfld (put i.toNat 0 8) 0 8 = i.toNat := (wfld_put _ _ _ (by decide)).trans (Nat.mod_eq_of_lt i.isLt)
  rw [regWrite_eq hm, writeReg_whole hmay (by decide)]
  simp [specialWrite, hi]

end Sys2Proof.Machine

namespace Sys2Proof

open Sys2Proof.Machine

/-- Settles O53: a boot is followed phase by phase through the frames of its steps; the other commands set the fields
that they name. -/
theorem suppliesClocksAndBootBringTheModuleUp : Obligations.SuppliesClocksAndBootBringTheModuleUp := by
  intro s bru pins leaves dark
  refine ⟨fun pos rc => ⟨fun hoff => ?_, fun hon => yields_unchanged rfl (if_pos hon)⟩,
    fun high => ⟨fun hon => ?_, fun hoff => yields_unchanged rfl (if_neg (Bool.eq_false_iff.1 hoff))⟩,
    fun hon hclk => ?_, fun hon hclk => ⟨fun hr => ?_, fun hr => ?_⟩,
    fun env => ⟨fun hn => ?_, fun hon hr hp hn => ?_, fun hon hr hp h0 h1 hf hok => ?_⟩,
    fun hp => ?_, fun hp => yields_unchanged rfl (if_neg hp), fun r i hm => ⟨fun hr => ?_, fun hr => ?_⟩⟩
  · refine yields_run rfl (if_neg (Bool.eq_false_iff.1 hoff)) ?_
    exact ⟨⟨rfl, rfl, rfl, rfl, rfl, rfl, rfl, rfl, rfl, rfl, rfl, keptDark_slot0, rfl⟩, rfl, rfl, rfl, rfl, rfl, rfl⟩
  · refine yields_run rfl (if_pos hon) ?_
    exact ⟨⟨rfl, rfl, rfl, rfl, rfl, rfl, rfl, rfl, rfl, rfl, rfl, keptDark_slot0, rfl⟩, rfl⟩
  · exact yields_run rfl (if_pos (Bool.and_eq_true_iff.2 ⟨hclk, hon⟩)) ⟨rfl, pends_raiseEv _ _ _ _ _, rfl, rfl, rfl⟩
  · exact yields_run rfl ((if_neg (refclk_away hon hclk)).trans (if_pos hr)) ⟨rfl, pends_raiseEv _ _ _ _ _, rfl⟩
  · exact yields_run rfl ((if_neg (refclk_away hon hclk)).trans (if_neg (Bool.eq_false_iff.1 hr))) ⟨rfl, rfl, rfl⟩
  · refine yields_unchanged rfl (if_pos ?_)
    simpa [or_assoc] using hn
  · exact yields_run (exec_coldBoot hon hr hp) (bootChosen_recovery hn) ⟨rfl, rfl, rfl, rfl, rfl⟩
  · have boots : ∀ {P : State → Prop}, P { s with hw := bootSlotFrom (bootBegun s.hw) 0 env } →
        Yields (.coldBoot env) s P :=
      yields_run (exec_coldBoot hon hr hp) (bootChosen_active h0 h1 hf hok)
    refine ⟨fun hi => boots ?_, fun hi hs => boots ?_, fun hi hs hrt => boots ?_, fun hi hs hrt hb =>
      ⟨fun d hd => boots ?_, fun hc => boots ?_⟩⟩
    · rw [bootSlotFrom_noIhlel _ _ hi]
      exact bootFails_failBoot_counted (h := slotChosen (bootBegun s.hw) 0) 0 (.inr rfl) rfl hf
    · rw [bootSlotFrom_noSups _ _ hi hs]
      exact bootFails_failBoot (ihlelUp (bootBegun s.hw) 0) 0xFF (by decide)
    · rw [bootSlotFrom_noRuntime _ _ hi hs hrt]
      exact bootFails_failBoot_counted (h := ihlelUp (bootBegun s.hw) 0) 0 (.inl rfl) rfl hf
    · obtain ⟨_, _, _, _, _, _, _, _, _, hup⟩ := firmwareUp_frame (bootBegun s.hw) 0 env
      have hfail := bootFails_canvas (firmwareUp (bootBegun s.hw) 0 env) hb hd
      rw [bootSlotFrom_memory _ _ hi hs hrt]
      rw [hup] at hfail ⊢
      exact hfail
    · obtain ⟨_, _, _, _, _, _, _, _, _, hup⟩ := firmwareUp_frame (bootBegun s.hw) 0 env
      obtain ⟨hphase, herr, hcells, hecc, hfwu, hon', hch, hsup, hpol, hen⟩ :=
        bootMemory_passes (firmwareUp (bootBegun s.hw) 0 env) hb hc
      rw [bootSlotFrom_memory _ _ hi hs hrt]
      refine ⟨hphase, herr.trans ?_, hcells, hecc, ?_, hon', hch, ?_, fun e => ?_⟩
      · rw [hup]; rfl
      · rw [hfwu, hup]
      · rw [hsup, hup]
        exact startSups_holder _ hs
      · rw [hen, hpol, mem_passingEasels, hup]
        rfl
  · exact yields_run rfl (if_pos hp) ⟨rfl, rfl, rfl, pends_bootedReady _ _, bootedReady_failCount _, rfl,
      bootedReady_trial, bootedReady_steady⟩
  · exact yields_run rfl ((regWrite_fieldClear hm i).trans (if_neg (by simpa using hr))) ⟨rfl, rfl⟩
  · exact yields_unchanged rfl ((regWrite_fieldClear hm i).trans (if_pos (by simpa using hr)))

end Sys2Proof
end

section
/-! Proofs about packets: a header is read back as it was written, and an answer stands before the router sealed under
the key of its request. -/

namespace Sys2Proof.Machine

/-! ### Fields of a word made of several -/

theorem wfld_lt (w : Word) (lo len : Nat) : wfld w lo len < 2 ^ len := Nat.mod_lt _ (Nat.two_pow_pos len)

theorem wfld_or (v w : Word) (lo len : Nat) : wfld (v ||| w) lo len = wfld v lo len ||| wfld w lo len := by
  refine Nat.eq_of_testBit_eq fun i => ?_
  simp only [testBit_wfld, Nat.testBit_or, BitVec.getLsbD_or, Bool.and_or_distrib_left]

/-- A field shows nothing of one put beside it. -/
theorem wfld_put_beside (v : Nat) {lo len lo' len' : Nat} (h : lo' + len' ≤ lo ∨ lo + len ≤ lo') :
    wfld (put v lo' len') lo len = 0 := by
  refine Nat.eq_of_testBit_eq fun i => ?_
  rw [testBit_wfld, getLsbD_put]
  simp
  omega

theorem wfld_bitw_beside (b : Bool) {lo len j : Nat} (h : j < lo ∨ lo + len ≤ j) : wfld (bitw b j) lo len = 0 := by
  refine Nat.eq_of_testBit_eq fun i => ?_
  rw [testBit_wfld, getLsbD_bitw]
  simp
  omega

theorem bit_or (v w : Word) (i : Nat) : bit (v ||| w) i = (bit v i || bit w i) := BitVec.getLsbD_or

theorem bit_put_beside (v : Nat) {lo len i : Nat} (h : i < lo ∨ lo + len ≤ i) : bit (put v lo len) i = false := by
  rw [bit_eq_getLsbD, getLsbD_put]
  simp
  omega

theorem bit_bitw (b : Bool) {i : Nat} (h : i < 64) : bit (bitw b i) i = b := by
  rw [bit_eq_getLsbD, getLsbD_bitw]
  simp [h]

theorem bit_bitw_ne (b : Bool) {i j : Nat} (h : j ≠ i) : bit (bitw b i) j = false := by
  rw [bit_eq_getLsbD, getLsbD_bitw]
  simp [h]

/-! ### Headers (Table 10-3) -/

/-- Every field of the header fits in its place. -/
structure Hdr.Fits (y : Hdr) : Prop where
  dst : y.dst < 2 ^ 10
  src : y.src < 2 ^ 10
  vc : y.vc < 2 ^ 3
  circuit : y.circuit < 2 ^ 12
  typ : y.typ < 2 ^ 4
  len : y.len < 2 ^ 12
  mask : y.mask < 2 ^ 8
  origin : y.origin < 2 ^ 2
  off : y.off < 2 ^ 48
  nonce : y.nonce < 2 ^ 56

/-- A packet carries the header with which it was made. -/
theorem hdr_mkPkt {y : Hdr} (hf : y.Fits) (body tag : Bytes) : (mkPkt y body tag).hdr = y := by
  obtain ⟨hdst, hsrc, hvc, hcirc, htyp, hlen, hmask, horig, hoff, hnonce⟩ := hf
  cases y
  simp only [Pkt.hdr, mkPkt, Hdr.w0, Hdr.w1, Hdr.w2, Hdr.w3]
  simp (disch := omega) only [wfld_or, wfld_put, wfld_put_beside, wfld_bitw_beside, bit_or, bit_put_beside, bit_bitw,
    bit_bitw_ne, Nat.zero_or, Nat.or_zero, Bool.or_false, Bool.false_or, Nat.mod_eq_of_lt]
  simp

/-- The header fields of a received packet lie within their bits. -/
theorem hdr_src_lt (p : Pkt) : p.hdr.src < 2 ^ 10 := wfld_lt _ _ _

theorem hdr_len_lt (p : Pkt) : p.hdr.len < 2 ^ 12 := wfld_lt _ _ _

theorem fa_lt (h : Hw) : h.fa < 2 ^ 10 := by
  have hp := h.rte.pos.isLt
  have hr := wfld_lt (h.reg 0x400010) 6 4
  simp only [Hw.fa]
  omega

/-! ### Sealing and answering (R316 to R318) -/

theorem useNonce_frame (h : Hw) (i : Nat) (k : JobKey) : ∃ regs evc, useNonce h i k = { h with
    regs := regs, evc := evc
    sec := { h.sec with jobKeys := SMap.put h.sec.jobKeys i { k with nonce := k.nonce + 1 } } } := by
  unfold useNonce
  dsimp only
  split
  · exact ⟨_, _, rfl⟩
  · exact ⟨_, _, rfl⟩

theorem sealPkt_frame (h : Hw) (i : Nat) (k : JobKey) (y : Hdr) (body : Bytes) : ∃ p regs evc sec,
    sealPkt h i k y body = (p, { h with regs := regs, evc := evc, sec := sec }) := by
  unfold sealPkt
  split
  next => exact ⟨_, _, _, _, rfl⟩
  next =>
    obtain ⟨_, _, hu⟩ := useNonce_frame h i k
    dsimp only
    rw [hu]
    exact ⟨_, _, _, _, rfl⟩

/-- A packet looped back to this module stays plain and consumes no nonce (R29). -/
theorem sealPkt_here {h : Hw} {y : Hdr} (hd : y.dst = h.fa) (hm : y.mcast = false) (hc : y.circuit = 0) (i : Nat)
    (k : JobKey) (body : Bytes) : sealPkt h i k y body = (mkPkt { y with key := k.id } body [], h) :=
  if_pos ⟨hd, hm, hc⟩

/-- A packet for another module is sealed under the key's next nonce (R316). -/
theorem sealPkt_away {h : Hw} {y : Hdr} (hd : y.dst ≠ h.fa) (i : Nat) (k : JobKey) (body : Bytes) :
    sealPkt h i k y body =
      let z := { y with key := k.id, nonce := k.nonce }
      let r := gcmSeal k.key z.nonceBytes z.aad body
      (mkPkt z r.1 r.2, useNonce h i k) :=
  if_neg (fun hh => hd hh.1)

theorem useNonce_key (h : Hw) (i : Nat) (k : JobKey) :
    SMap.find (useNonce h i k).sec.jobKeys i = some { k with nonce := k.nonce + 1 } := by
  obtain ⟨_, _, hu⟩ := useNonce_frame h i k
  rw [hu]
  exact SMap.find_put_same _ _ _

theorem useNonce_inq (h : Hw) (i : Nat) (k : JobKey) : (useNonce h i k).rte.inq = h.rte.inq := by
  obtain ⟨_, _, hu⟩ := useNonce_frame h i k
  rw [hu]

/-- The header of an answer to a request with header `x`, before it is sealed. -/
def answerHdr (h : Hw) (stream : BitVec 16) (x : Hdr) (vc typ len : Nat) (status : BitVec 8) : Hdr :=
  let c := if typ = 3 then x.circuit else 0
  { h.hdrTo x.src (if c = 0 then vc else 3) typ len 0 with
    circuit := c, tag := x.tag, status := status, stream := stream }

/-- An answer under a key with nonces left is sealed and put before the router. -/
theorem answerFor_eq {h : Hw} {k : Plain} {key : JobKey} (hk : SMap.find h.sec.jobKeys k.idx = some key)
    (hn : key.nonce < 2 ^ 56) (stream : BitVec 16) (x : Hdr) (vc typ : Nat) (body : Bytes) (status : BitVec 8) :
    answerFor stream h x k vc typ body status =
      let r := sealPkt h k.idx key (answerHdr h stream x vc typ body.length status) body
      inject r.2 r.1 none := by
  have hs : (key.spent && x.src != h.fa) = false := by simp [JobKey.spent]; omega
  simp only [answerFor, hk, hs]
  rfl

/-- Answering leaves the module but for registers, events, nonces and the packets before the router. -/
theorem answerFor_frame (stream : BitVec 16) (h : Hw) (x : Hdr) (k : Plain) (vc typ : Nat) (body : Bytes)
    (status : BitVec 8) : ∃ regs evc sec inq, answerFor stream h x k vc typ body status =
      { h with regs := regs, evc := evc, sec := sec, rte := { h.rte with inq := inq } } := by
  unfold answerFor
  split
  next => exact ⟨_, _, _, _, rfl⟩
  next key _ =>
    split
    next => exact ⟨_, _, _, _, rfl⟩
    next =>
      obtain ⟨_, _, _, _, hs⟩ := sealPkt_frame h k.idx key (answerHdr h stream x vc typ body.length status) body
      change ∃ regs evc sec inq, (let r := sealPkt h k.idx key (answerHdr h stream x vc typ body.length status) body
        inject r.2 r.1 none) = _
      rw [hs]
      exact ⟨_, _, _, _, rfl⟩

/-- An answer that the module, which has served the request since state `s` as far as `h`, can give: the key is known
and has nonces left, and the fields fit. -/
structure Answerable (s : State) (h : Hw) (x : Hdr) (k : Plain) (vc typ : Nat) (body : Bytes) : Prop where
  may : MayAnswer s k
  inq : h.rte.inq = s.hw.rte.inq
  fa : h.fa = s.hw.fa
  keys : h.sec.jobKeys = s.hw.sec.jobKeys
  src_lt : x.src < 2 ^ 10
  vc_lt : vc < 8
  typ_lt : typ < 16
  len_lt : body.length < 2 ^ 12
  circuit : typ = 3 → x.circuit = 0

section
variable {s : State} {h : Hw} {x : Hdr} {k : Plain} {vc typ : Nat} {body : Bytes}

theorem Answerable.hdr (ha : Answerable s h x k vc typ body) (stream : BitVec 16) (status : BitVec 8) :
    answerHdr h stream x vc typ body.length status =
      { h.hdrTo x.src vc typ body.length 0 with tag := x.tag, status := status, stream := stream } := by
  have hc : (if typ = 3 then x.circuit else 0) = 0 := by
    split
    next ht => exact ha.circuit ht
    next => rfl
  simp only [answerHdr, hc, if_true]
  rfl

/-- The header with which the answer leaves. -/
def sealedHdr (h : Hw) (x : Hdr) (vc typ len : Nat) (stream : BitVec 16) (status : BitVec 8) (id : BitVec 16)
    (nonce : Nat) : Hdr :=
  { h.hdrTo x.src vc typ len 0 with tag := x.tag, status := status, stream := stream, key := id, nonce := nonce }

theorem Answerable.fits (ha : Answerable s h x k vc typ body) (stream : BitVec 16) (status : BitVec 8) (id : BitVec 16)
    {nonce : Nat} (hn : nonce < 2 ^ 56) : (sealedHdr h x vc typ body.length stream status id nonce).Fits :=
  ⟨ha.src_lt, fa_lt h, ha.vc_lt, Nat.two_pow_pos _, ha.typ_lt, ha.len_lt, Nat.two_pow_pos _, Nat.two_pow_pos _,
    Nat.two_pow_pos _, hn⟩

/-- A packet with the answer's header, plain or sealed as its destination asks, is the answer. -/
theorem Answerable.responds_of (ha : Answerable s h x k vc typ body) {t : State} {p : Pkt} {stream : BitVec 16}
    {status : BitVec 8} {key : JobKey} {nonce : Nat} (hk : SMap.find s.hw.sec.jobKeys k.idx = some key)
    (hin : t.hw.rte.inq = s.hw.rte.inq ++ [{ pkt := p, inPort := none, req := none, flits := 0, col := none }])
    (hhdr : p.hdr = sealedHdr h x vc typ body.length stream status key.id nonce)
    (hhere : x.src = s.hw.fa → p.body = body)
    (haway : x.src ≠ s.hw.fa → nonce = key.nonce ∧ (p.body, p.tag) = gcmSeal key.key p.hdr.nonceBytes p.hdr.aad body ∧
      (SMap.find t.hw.sec.jobKeys k.idx).map (·.nonce) = some (key.nonce + 1)) :
    Responds s t x k vc typ body status := by
  refine ⟨_, hin, rfl, ?_⟩
  dsimp only
  refine ⟨?_, ?_, ?_, ?_, ?_, ?_, ?_, hhere, fun key' hk' => ?_⟩
  case refine_8 =>
    obtain rfl := Option.some.inj (hk'.symm.trans hk)
    refine ⟨by rw [hhdr]; rfl, fun hne => ?_⟩
    obtain ⟨hnonce, hsealed⟩ := haway hne
    exact ⟨by rw [hhdr]; exact hnonce, hsealed⟩
  all_goals rw [hhdr]
  case refine_2 => exact ha.fa
  all_goals rfl

/-- Sealing gives the answer its header: with no nonce where it stays here, with the key's next one else. -/
theorem Answerable.sealed_here (ha : Answerable s h x k vc typ body) (hd : x.src = h.fa) (key : JobKey)
    (stream : BitVec 16) (status : BitVec 8) :
    sealPkt h k.idx key (answerHdr h stream x vc typ body.length status) body =
      (mkPkt (sealedHdr h x vc typ body.length stream status key.id 0) body [], h) := by
  rw [ha.hdr, sealPkt_here hd rfl rfl]
  rfl

theorem Answerable.sealed_away (ha : Answerable s h x k vc typ body) (hd : x.src ≠ h.fa) (key : JobKey)
    (stream : BitVec 16) (status : BitVec 8) :
    sealPkt h k.idx key (answerHdr h stream x vc typ body.length status) body =
      let z := sealedHdr h x vc typ body.length stream status key.id key.nonce
      let r := gcmSeal key.key z.nonceBytes z.aad body
      (mkPkt z r.1 r.2, useNonce h k.idx key) := by
  rw [ha.hdr, sealPkt_away hd]
  rfl

/-- The answer stands before the router (R317). -/
theorem Answerable.responds (ha : Answerable s h x k vc typ body) (stream : BitVec 16) (status : BitVec 8)
    (cmds : List Instr) :
    Responds s { hw := answerFor stream h x k vc typ body status, pending := cmds } x k vc typ body status := by
  obtain ⟨key, hk, hn⟩ := ha.may
  rw [answerFor_eq (ha.keys ▸ hk) hn]
  by_cases hd : x.src = h.fa
  · rw [ha.sealed_here hd]
    exact ha.responds_of hk (congrArg (· ++ _) ha.inq)
      (hdr_mkPkt (ha.fits stream status key.id (Nat.two_pow_pos _)) _ _)
      (fun _ => rfl) (fun hne => absurd (hd.trans ha.fa) hne)
  · have hhdr := hdr_mkPkt (ha.fits stream status key.id hn)
    rw [ha.sealed_away hd]
    refine ha.responds_of hk (congrArg (· ++ _) ((useNonce_inq h k.idx key).trans ha.inq)) (hhdr _ _)
      (fun hhere => absurd (hhere.trans ha.fa.symm) hd) (fun _ => ⟨rfl, ?_,
        congrArg (Option.map JobKey.nonce) (useNonce_key h k.idx key)⟩)
    dsimp only
    rw [hhdr]
    rfl

end

/-! ### Taking a packet received here (R319) -/

/-- The hardware once packet `i` received here has been taken. -/
def localTaken (h : Hw) (i : Nat) : Hw := { h with rte := { h.rte with localq := h.rte.localq.eraseIdx i } }

/-- A packet opens as it does wherever the keys are the same, and then changes nothing. -/
theorem openPkt_opens {h g : Hw} {q : QPkt} {x : Hdr} {k : Plain} (hk : (openPkt h q x).2 = some k)
    (hg : g.sec.jobKeys = h.sec.jobKeys) : openPkt g q x = (g, some k) := by
  unfold openPkt at hk ⊢
  rw [hg]
  split at hk
  next => cases hk
  next =>
    split at hk
    next => cases hk; rfl
    next =>
      split at hk
      next => cases hk; rfl
      next => split at hk <;> cases hk

/-- A packet whose turn has come and that opens is served. -/
theorem takeLocal_opens {s : State} {i typ : Nat} {q : QPkt} {k : Plain} (ho : Opens s i q typ k) {ok : Hdr → Bool}
    (hok : ok q.pkt.hdr = true) (f : Hw → QPkt → Hdr → Plain → Hw) :
    takeLocal s.hw i ok f = f (localTaken s.hw i) q q.pkt.hdr k := by
  obtain ⟨hq, -, hnext, -, hopen⟩ := ho
  have hr := openPkt_opens (g := localTaken s.hw i) hopen rfl
  simp only [takeLocal, hq, hok, hnext, Bool.and_self, if_true]
  change (match (openPkt (localTaken s.hw i) q q.pkt.hdr).2 with
    | some p => f (openPkt (localTaken s.hw i) q q.pkt.hdr).1 q q.pkt.hdr p
    | none => (openPkt (localTaken s.hw i) q q.pkt.hdr).1) = _
  rw [hr]

end Sys2Proof.Machine
end

section
/-! Proofs about memory that a peer's request meets: bytes without errors read back as written, and a clean access finds
nothing to report. -/

namespace Sys2Proof.Machine

theorem SMap.mem_of_get_ne {α : Type} {d : α} {m : SMap α} {k : Nat} (h : SMap.get d m k ≠ d) :
    (k, SMap.get d m k) ∈ m := by
  induction m with
  | nil => exact absurd rfl h
  | cons c m ih =>
    obtain ⟨j, w⟩ := c
    by_cases hj : j = k
    · simp [SMap.get, hj]
    · simp only [SMap.get, if_neg hj] at h ⊢
      exact List.mem_cons_of_mem _ (ih h)

/-! ### Words that slots replace (R237) -/

/-- A write of a byte outside word `w` leaves whether a slot replaces the whole of `w`. -/
theorem Mem.hides_setByte (m : Mem) {a w : Nat} (b : Byte) (ha : a / 8 ≠ w) :
    (m.setByte a b).hides w = m.hides w := by
  simp only [Mem.hides, Mem.setByte, List.any_map]
  congr 1
  funext s
  by_cases hg : a / 64 = s.granule
  · by_cases hw : s.granule = w / 8
    · have hmask : (s.mask &&& ~~~(1#64 <<< (a % 64))).toNat >>> (8 * (w % 8)) % 2 ^ 8 =
          s.mask.toNat >>> (8 * (w % 8)) % 2 ^ 8 := by
        refine Nat.eq_of_testBit_eq fun k => ?_
        simp only [Nat.testBit_mod_two_pow, Nat.testBit_shiftRight]
        by_cases hk : k < 8
        · rw [testBit_clear _ (by omega)]
          have hne : 8 * (w % 8) + k ≠ a % 64 := by omega
          simp [hne]
        · simp [hk]
      simp only [Function.comp, slotForget, if_pos hg]
      rw [show (256 : Nat) = 2 ^ 8 from rfl, hmask]
    · have hne : (s.granule == w / 8) = false := beq_false_of_ne hw
      simp only [Function.comp, slotForget, if_pos hg, hne, Bool.false_and]
  · simp [slotForget, hg]

theorem Mem.hides_foldl (m : Mem) {v w : Nat} (hv : v ≠ w) (f : Nat → Byte) (l : List Nat)
    (hl : ∀ i ∈ l, i < 8) :
    (l.foldl (fun g i => g.setByte (8 * v + i) (f i)) m).hides w = m.hides w := by
  induction l generalizing m with
  | nil => rfl
  | cons i l ih =>
    have hi := hl i List.mem_cons_self
    rw [List.foldl_cons, ih _ (fun j hj => hl j (List.mem_cons_of_mem i hj)), Mem.hides_setByte _ _ (by omega)]

/-- Bringing a word home leaves what hides the others. -/
theorem Mem.hides_mend (m : Mem) {v w : Nat} (hv : v ≠ w) : (m.mend v).hides w = m.hides w := by
  unfold Mem.mend
  split
  · exact Mem.hides_foldl m hv (fun i => m.byte (8 * v + i)) (List.range 8) (fun i hi => List.mem_range.1 hi)
  · rfl

/-- An uncorrectable word that a slot replaces is good once it has been brought home. -/
theorem Mem.bad_mend_self {m : Mem} {w : Nat} (h : m.bad w = true → m.hides w = true) : (m.mend w).bad w = false := by
  unfold Mem.mend
  by_cases hb : m.bad w = true
  · rw [if_pos (by rw [hb, h hb]; rfl)]
    simp only [Mem.bad, SMap.get_del_same]
    rfl
  · rw [if_neg (by simp [hb])]
    exact Bool.eq_false_iff.2 hb

/-! ### Accesses that meet no uncorrectable word -/

theorem Mem.ecc_of_badRead {m : Mem} {a n : Nat} (h : m.badRead a n = none) :
    m.ecc.find? (fun c => decide (3 ≤ c.2 ∧ a < 8 * c.1 + 8 ∧ 8 * c.1 < a + n) && !m.hides c.1) = none := by
  unfold Mem.badRead at h
  split at h
  next => cases h
  next hf => exact hf

/-- An uncorrectable word that a good read touches is replaced by a slot. -/
theorem Mem.hides_of_badRead {m : Mem} {a n w : Nat} (h : m.badRead a n = none) (hw : a < 8 * w + 8 ∧ 8 * w < a + n)
    (hb : m.bad w = true) : m.hides w = true := by
  have h3 : 3 ≤ SMap.get 0 m.ecc w := of_decide_eq_true hb
  have hmem : (w, SMap.get 0 m.ecc w) ∈ m.ecc := SMap.mem_of_get_ne (by omega)
  have hno := List.find?_eq_none.1 (Mem.ecc_of_badRead h) _ hmem
  simpa [h3, hw] using hno

/-- Where a read is good a write is. -/
theorem Mem.badWrite_of_badRead {m : Mem} {a n : Nat} (h : m.badRead a n = none) : m.badWrite a n = none := by
  rw [Mem.badWrite, Option.map_eq_none_iff, List.find?_eq_none]
  intro c hc hp
  obtain ⟨hp, hh⟩ := Bool.and_eq_true_iff.1 hp
  obtain ⟨hp, -⟩ := Bool.and_eq_true_iff.1 hp
  exact List.find?_eq_none.1 (Mem.ecc_of_badRead h) c hc (Bool.and_eq_true_iff.2 ⟨hp, hh⟩)

/-- A write that meets no uncorrectable word puts each of its bytes. -/
theorem Mem.byte_write_clean {m : Mem} {a : Nat} {bs : Bytes} (h : m.badRead a bs.length = none) {i : Nat}
    (hi : i < bs.length) : (m.write a bs).byte (a + i) = bs[i] := by
  simp only [Mem.write, Mem.byte_ecc]
  refine Mem.byte_putBytes_in _ a bs.length a bs i hi (fun j hj => ?_)
  have hfirst : (m.mend (a / 8)).bad (a / 8) = false :=
    Mem.bad_mend_self (Mem.hides_of_badRead h (by omega))
  by_cases hc : covers a bs.length ((a + j) / 8) = true
  · simp [hc]
  · have hedge : (a + j) / 8 = a / 8 ∨ (a + j) / 8 = (a + bs.length - 1) / 8 := by
      simp only [covers, decide_eq_true_eq] at hc
      omega
    rw [Bool.and_eq_false_iff]
    left
    by_cases hw : (a + j) / 8 = a / 8
    · rw [hw]
      exact Mem.bad_mend _ _ _ hfirst
    · obtain hw' := hedge.resolve_left hw
      rw [hw'] at hw ⊢
      refine Mem.bad_mend_self (fun hb => ?_)
      rw [Mem.hides_mend _ (Ne.symm hw)]
      refine Mem.hides_of_badRead h (by omega) (by_contra fun hn => ?_)
      rw [Mem.bad_mend _ _ _ (Bool.eq_false_iff.2 hn)] at hb
      cases hb

@[simp] theorem Mem.length_read (m : Mem) (a n : Nat) : (m.read a n).length = n := by
  induction n generalizing a with
  | zero => rfl
  | succ n ih => simp [Mem.read, ih]

theorem Mem.read_eq {m : Mem} {a : Nat} {bs : Bytes} (h : ∀ i, (hi : i < bs.length) → m.byte (a + i) = bs[i]) :
    m.read a bs.length = bs := by
  induction bs generalizing a with
  | nil => rfl
  | cons b bs ih =>
    have h0 : m.byte a = b := h 0 (Nat.zero_lt_succ _)
    have hs : m.read (a + 1) bs.length = bs := ih (fun i hi => by
      have := h (i + 1) (Nat.succ_lt_succ hi)
      simpa [Nat.add_assoc, Nat.add_comm 1 i] using this)
    simp [Mem.read, h0, hs]

/-! ### Accesses that find nothing to correct (R160, R161) -/

/-- The pool words that part of an access touches are among those of the whole. -/
theorem Mem.poolWords_part (m : Mem) {a n a' n' : Nat} (h0 : a ≤ a') (h1 : a' + n' ≤ a + n) {w : Nat}
    (hw : w ∈ m.poolWords a' n') : w ∈ m.poolWords a n := by
  simp only [Mem.poolWords, List.mem_flatMap, List.mem_filter, decide_eq_true_eq, slotWords, List.mem_map,
    List.any_eq_true, Bool.and_eq_true] at hw ⊢
  obtain ⟨s, ⟨hs, hlo, hhi⟩, k, ⟨hk, i, hi, ⟨hal, hau⟩, hsb⟩, hoff⟩ := hw
  exact ⟨s, ⟨hs, (Nat.div_le_div_right h0).trans hlo, by omega⟩, k, ⟨hk, i, hi, ⟨by omega, by omega⟩, hsb⟩, hoff⟩

/-- Where the whole of an access finds no corrected error, no part of it does. -/
theorem Mem.corrected_part {m : Mem} {a n a' n' : Nat} (h0 : a ≤ a') (h1 : a' + n' ≤ a + n)
    (h : m.corrected a n = 0) : m.corrected a' n' = 0 := by
  simp only [Mem.corrected, Mem.correctedAt, List.length_map, List.length_eq_zero_iff, List.filter_eq_nil_iff] at h ⊢
  intro c hc hp
  refine h c hc ?_
  simp only [Bool.and_eq_true, Bool.or_eq_true, decide_eq_true_eq, List.contains_iff_mem] at hp ⊢
  obtain ⟨hcount, hin⟩ := hp
  exact ⟨hcount, hin.imp (fun hin => by omega) (Mem.poolWords_part m h0 h1)⟩

theorem touchRead_clean {h : Hw} {a n : Nat} (hc : h.mem.corrected a n = 0) : touchRead h a n = h := if_pos hc

/-- A write that meets no corrected error only writes. -/
theorem writeLocal_clean {h : Hw} {off : Nat} {b : Bytes} (hb : 0 < b.length) (hc : h.mem.corrected off b.length = 0) :
    writeLocal h off b = { h with mem := h.mem.write off b } := by
  have hmerge : touchMerge h off b.length = h := by
    have hlow : touchRead h off 1 = h := touchRead_clean (Mem.corrected_part (Nat.le_refl _) (by omega) hc)
    have hhigh : touchRead h (off + b.length - 1) 1 = h :=
      touchRead_clean (Mem.corrected_part (by omega) (by omega) hc)
    simp only [touchMerge, hlow, hhigh, ite_self]
  rw [writeLocal, hmerge]

/-- An access of a peer that is granted and clean is not refused. -/
theorem peerFault_clean {h : Hw} {job : BitVec 16} {off n : Nat} (hg : grants h job off n = true)
    (hd : chanDown h off n = false) (hr : h.mem.badRead off n = none) (hp : h.mem.pathBad off n = none) (write : Bool) :
    peerFault h job off n write = none := by
  have hw : (if write then h.mem.badWrite off n else h.mem.badRead off n) = none := by
    cases write
    · exact hr
    · exact Mem.badWrite_of_badRead hr
  simp [peerFault, hg, hd, hw, peerPath, hp]

/-- One outside the grant is refused with status 1, and nothing is touched (R30). -/
theorem peerFault_outside {h : Hw} {job : BitVec 16} {off n : Nat} (hg : grants h job off n = false) (write : Bool) :
    peerFault h job off n write = some (1, h) := by
  rw [peerFault, if_pos (by rw [hg]; rfl)]

end Sys2Proof.Machine
end

section
/-! Proofs about the requests of peers: how a taken write is served and answered, and how a final transaction is
held. -/

namespace Sys2Proof

/-- A command that leaves more than is asked answers with what is asked. -/
theorem Yields.imp {c : Instr} {s : Machine.State} {P Q : Machine.State → Prop} (h : Yields c s P)
    (hpq : ∀ t, P t → Q t) : Yields c s Q := by
  obtain ⟨t, hx, hp⟩ := h
  exact ⟨t, hx, hpq t hp⟩

end Sys2Proof

namespace Sys2Proof.Machine

/-! ### An answer and what it leaves -/

/-- The answer stands before the router, and the packets received here, memory, easels and objects are as they were
before it. -/
theorem Answerable.answered {s : State} {h : Hw} {x : Hdr} {k : Plain} {vc typ : Nat} {body : Bytes}
    (ha : Answerable s h x k vc typ body) (stream : BitVec 16) (status : BitVec 8) (cmds : List Instr) :
    let g := answerFor stream h x k vc typ body status
    Responds s { hw := g, pending := cmds } x k vc typ body status ∧
      g.rte.localq = h.rte.localq ∧ g.mem = h.mem ∧ g.easels = h.easels ∧ g.sync = h.sync := by
  refine ⟨ha.responds stream status cmds, ?_⟩
  obtain ⟨_, _, _, _, hfr⟩ := answerFor_frame stream h x k vc typ body status
  rw [hfr]
  exact ⟨rfl, rfl, rfl, rfl⟩

/-- `g` is the hardware of `h` once packet `i` received here has been taken, but for what it holds of streams. -/
structure Taken (h g : Hw) (i : Nat) : Prop where
  localq : g.rte.localq = h.rte.localq.eraseIdx i
  inq : g.rte.inq = h.rte.inq
  fa : g.fa = h.fa
  keys : g.sec.jobKeys = h.sec.jobKeys
  mem : g.mem = h.mem
  easels : g.easels = h.easels
  sync : g.sync = h.sync
  grants : ∀ job a n, grants g job a n = grants h job a n
  chanDown : ∀ a n, chanDown g a n = chanDown h a n

theorem taken_localTaken (h : Hw) (i : Nat) : Taken h (localTaken h i) i :=
  ⟨rfl, rfl, rfl, rfl, rfl, rfl, rfl, fun _ _ _ => rfl, fun _ _ => rfl⟩

/-- A command that serves a taken request, changing no more than memory and objects, and answers it. -/
theorem Taken.yields {s : State} {g h : Hw} {i : Nat} {p : Pkt} {k : Plain} {c : Instr} {mem : Mem} {sync : SyncUnit}
    {vc typ : Nat} {body : Bytes} {stream : BitVec 16} {status : BitVec 8} (ht : Taken s.hw g i) (hmay : MayAnswer s k)
    (hx : exec c s = .next { s with hw := h })
    (hh : h = answerFor stream { g with mem := mem, sync := sync } p.hdr k vc typ body status)
    (hvc : vc < 8 := by decide) (htyp : typ < 16 := by decide) (hlen : body.length < 2 ^ 12 := by decide)
    (hc : typ = 3 → p.hdr.circuit = 0 := by simp) :
    Yields c s (fun t => t.hw.rte.localq = s.hw.rte.localq.eraseIdx i ∧ Responds s t p.hdr k vc typ body status ∧
      t.hw.mem = mem ∧ t.hw.easels = s.hw.easels ∧ t.hw.sync = sync) := by
  have ha : Answerable s { g with mem := mem, sync := sync } p.hdr k vc typ body :=
    ⟨hmay, ht.inq, ht.fa, ht.keys, hdr_src_lt p, hvc, htyp, hlen, hc⟩
  obtain ⟨hresp, hloc, hmem, heas, hsync⟩ := ha.answered stream status s.pending
  exact yields_run hx hh ⟨hloc.trans ht.localq, hresp, hmem, heas.trans ht.easels, hsync⟩

/-- An access of a peer is granted, and finds no error, nothing to correct and no channel down (R160 to R164). -/
structure Reaches (h : Hw) (job : BitVec 16) (off n : Nat) : Prop where
  grants : grants h job off n = true
  up : chanDown h off n = false
  corrected : h.mem.corrected off n = 0
  bad : h.mem.badRead off n = none
  path : h.mem.pathBad off n = none

theorem Taken.reaches {s : State} {g : Hw} {i : Nat} (ht : Taken s.hw g i) {job : BitVec 16} {off n : Nat}
    (hg : Machine.grants s.hw job off n = true) (hclean : CleanHere s off n) : Reaches g job off n := by
  obtain ⟨⟨hc, hr, hp, -⟩, hd⟩ := hclean
  rw [← ht.mem] at hc hr hp
  exact ⟨(ht.grants _ _ _).trans hg, (ht.chanDown _ _).trans hd, hc, hr, hp⟩

theorem Reaches.peerFault {h : Hw} {job : BitVec 16} {off n : Nat} (hr : Reaches h job off n) (write : Bool) :
    peerFault h job off n write = none := peerFault_clean hr.grants hr.up hr.bad hr.path write

/-! ### Writes (R30, R163) -/

/-- What a command makes of a write received here as packet `i`: granted and clean, its bytes and no other are stored;
outside the grant no byte changes; and it is answered. -/
def PerformsWrite (s : State) (i : Nat) (x : Hdr) (k : Plain) (c : Instr) : Prop :=
  (0 < k.body.length → grants s.hw k.key.job x.off k.body.length = true → CleanHere s x.off k.body.length →
    Yields c s (fun t => t.hw.rte.localq = s.hw.rte.localq.eraseIdx i ∧ Responds s t x k 5 5 [] 0 ∧
      (∀ j, (hj : j < k.body.length) → t.hw.mem.byte (x.off + j) = k.body[j]) ∧
      (∀ a, a < x.off ∨ x.off + k.body.length ≤ a → t.hw.mem.byte a = s.hw.mem.byte a) ∧
      t.hw.easels = s.hw.easels)) ∧
  (0 < k.body.length → grants s.hw k.key.job x.off k.body.length = false →
    Yields c s (fun t => t.hw.rte.localq = s.hw.rte.localq.eraseIdx i ∧ Responds s t x k 5 5 [] 1 ∧
      (∀ a, t.hw.mem.byte a = s.hw.mem.byte a) ∧ t.hw.easels = s.hw.easels))

theorem remoteWrite_granted {h : Hw} {x : Hdr} {k : Plain} (hb : 0 < k.body.length)
    (hr : Reaches h k.key.job x.off k.body.length) (tracked : Bool) : remoteWrite h x k tracked =
      answerFor (if tracked then x.stream else 0) { h with mem := h.mem.write x.off k.body } x k 5 5 [] 0 := by
  have hne : k.body.length ≠ 0 := Nat.pos_iff_ne_zero.1 hb
  simp only [remoteWrite, if_neg hne, hr.peerFault, writeLocal_clean hb hr.corrected]

theorem remoteWrite_outside {h : Hw} {x : Hdr} {k : Plain} (hb : 0 < k.body.length)
    (hg : grants h k.key.job x.off k.body.length = false) (tracked : Bool) :
    remoteWrite h x k tracked = answerFor (if tracked then x.stream else 0) h x k 5 5 [] 1 := by
  have hne : k.body.length ≠ 0 := Nat.pos_iff_ne_zero.1 hb
  simp only [remoteWrite, if_neg hne, peerFault_outside hg]

/-- A command that performs the write of a taken packet. -/
theorem performsWrite_of {s : State} {g : Hw} {i : Nat} {p : Pkt} {k : Plain} {c : Instr} {tracked : Bool}
    (ht : Taken s.hw g i) (hmay : MayAnswer s k)
    (hx : exec c s = .next { s with hw := remoteWrite g p.hdr k tracked }) : PerformsWrite s i p.hdr k c := by
  refine ⟨fun hb hg hclean => ?_, fun hb hg => ?_⟩
  · have hr := ht.reaches hg hclean
    refine (ht.yields hmay hx (remoteWrite_granted hb hr tracked)).imp ?_
    rintro t ⟨hloc, hresp, hmem, heas, -⟩
    refine ⟨hloc, hresp, fun j hj => ?_, fun a ha => ?_, heas⟩
    · rw [hmem, Mem.byte_write_clean hr.bad hj]
    · rw [hmem, Mem.byte_write_out _ _ _ _ ha, ht.mem]
  · refine (ht.yields hmay hx (remoteWrite_outside hb ((ht.grants _ _ _).trans hg) tracked)).imp ?_
    rintro t ⟨hloc, hresp, hmem, heas, -⟩
    exact ⟨hloc, hresp, fun a => by rw [hmem, ht.mem], heas⟩

/-- A request of this type, which waits for no channel, is taken. -/
theorem opens_ok {s : State} {i typ : Nat} {q : QPkt} {k : Plain} (ho : Opens s i q typ k) :
    (q.pkt.hdr.typ == typ && !peerWaits s.hw q.pkt.hdr) = true := by
  obtain ⟨-, htyp, -, hwait, -⟩ := ho
  simp [htyp, hwait]

/-- A write of no stream is performed as it is taken. -/
theorem exec_remoteWrite {s : State} {i : Nat} {q : QPkt} {k : Plain} (ho : Opens s i q 0 k)
    (hs : q.pkt.hdr.stream = 0) :
    exec (.remoteWriteReceive i) s = .next { s with hw := remoteWrite (localTaken s.hw i) q.pkt.hdr k false } := by
  refine congrArg (fun g => Host.Outcome.next { s with hw := g })
    ((takeLocal_opens ho (ok := fun x => x.typ == 0 && !peerWaits s.hw x) (opens_ok ho) receiveWrite).trans ?_)
  simp only [receiveWrite, openStream, streamStep, if_pos hs]

/-! ### Final transactions (R249 to R251) -/

/-- Transactions of its stream that a final transaction misses as it arrives. -/
def finalMisses (h : Hw) (q : QPkt) : Nat :=
  if q.pkt.hdr.stream = 0 then 0 else streamHere h q.pkt.hdr + streamFar h q q.pkt.hdr

/-- The hardware with final transaction `i` taken and its stream open. -/
def finalTaken (h : Hw) (i : Nat) (q : QPkt) : Hw :=
  (openStream { h.useFree with rte := { h.rte with localq := dropNth h.rte.localq i } } q q.pkt.hdr).1

/-- The same with the transaction held. -/
def finalHeld (h : Hw) (i : Nat) (q : QPkt) : Hw :=
  let g := finalTaken h i q
  { g with rte := { g.rte with held := g.rte.held ++ [(q, finalMisses h q, g.now)] } }

theorem finalTaken_frame (h : Hw) (i : Nat) (q : QPkt) : ∃ seen, finalTaken h i q = { h with
    free := h.free + 1, rte := { h.rte with localq := h.rte.localq.eraseIdx i, seen := seen } } := by
  unfold finalTaken openStream
  split_ifs <;> exact ⟨_, rfl⟩

theorem finalHeld_frame (h : Hw) (i : Nat) (q : QPkt) : ∃ seen, finalHeld h i q = { h with
    free := h.free + 1
    rte := { h.rte with
      localq := h.rte.localq.eraseIdx i, seen := seen, held := h.rte.held ++ [(q, finalMisses h q, h.now)] } } := by
  obtain ⟨_, hfr⟩ := finalTaken_frame h i q
  rw [finalHeld, hfr]
  exact ⟨_, rfl⟩

/-- A final transaction received here is held, and goes on where nothing of its stream is missing. -/
theorem exec_remoteWriteFinal {s : State} {i : Nat} {q : QPkt} {k : Plain} (ho : Opens s i q 1 k) :
    exec (.remoteWriteFinalReceive i) s = .next { s with hw := releaseHeld (finalHeld s.hw i q) } := by
  obtain ⟨hq, htyp, -, hwait, -⟩ := ho
  refine congrArg (fun g => Host.Outcome.next { s with hw := g }) ?_
  simp only [hq, htyp, hwait]
  rfl

/-- A stream whose transactions come by the loop-back misses those that are here. -/
theorem finalMisses_loopBack {h : Hw} {q : QPkt} (hin : q.inPort = none) (hs : q.pkt.hdr.stream ≠ 0) :
    finalMisses h q = streamHere h q.pkt.hdr := by
  rw [finalMisses, if_neg hs]
  simp [streamFar, hin]

/-- What is held stays while each misses something. -/
theorem releaseHeld_missing {h : Hw} (hm : ∀ t ∈ h.rte.held, t.2.1 ≠ 0) : releaseHeld h = h := by
  have hn : h.rte.held.find? (fun t => t.2.1 == 0) = none := List.find?_eq_none.2 (fun t ht => by simpa using hm t ht)
  rw [releaseHeld, hn]

/-- A final transaction that misses nothing, where the others held miss something, is performed. -/
theorem releaseHeld_finalHeld {s : State} {i : Nat} {q : QPkt} {k : Plain} (ho : Opens s i q 1 k)
    (hm : ∀ t ∈ s.hw.rte.held, t.2.1 ≠ 0) (h0 : finalMisses s.hw q = 0) :
    ∃ g tracked, Taken s.hw g i ∧ releaseHeld (finalHeld s.hw i q) = remoteWrite g q.pkt.hdr k tracked := by
  obtain ⟨-, -, -, -, hopen⟩ := ho
  obtain ⟨_, hfr⟩ := finalHeld_frame s.hw i q
  have hf : (finalHeld s.hw i q).rte.held.find? (fun t => t.2.1 == 0) = some (q, 0, s.hw.now) := by
    have hn : s.hw.rte.held.find? (fun t => t.2.1 == 0) = none :=
      List.find?_eq_none.2 (fun t ht => by simpa using hm t ht)
    rw [hfr, h0, List.find?_append, hn]
    rfl
  rw [releaseHeld, hf]
  dsimp only
  generalize hg : ({ finalHeld s.hw i q with rte := _ } : Hw) = g
  have ht : Taken s.hw g i := by
    rw [← hg, hfr]
    exact ⟨rfl, rfl, rfl, rfl, rfl, rfl, rfl, fun _ _ _ => rfl, fun _ _ => rfl⟩
  rw [openPkt_opens hopen ht.keys]
  exact ⟨g, _, ht, rfl⟩

/-- What is missing from a stream keeps its final transaction held, and nothing is answered (R249). -/
theorem yields_finalHeld {s : State} {i : Nat} {q : QPkt} {k : Plain} (ho : Opens s i q 1 k)
    (hm : ∀ t ∈ s.hw.rte.held, t.2.1 ≠ 0) (h0 : finalMisses s.hw q ≠ 0) :
    Yields (.remoteWriteFinalReceive i) s (fun t => t.hw.rte.localq = s.hw.rte.localq.eraseIdx i ∧
      t.hw.rte.held = s.hw.rte.held ++ [(q, finalMisses s.hw q, s.hw.now)] ∧
      t.hw.rte.inq = s.hw.rte.inq ∧ t.hw.mem = s.hw.mem) := by
  obtain ⟨_, hfr⟩ := finalHeld_frame s.hw i q
  have hall : ∀ t ∈ (finalHeld s.hw i q).rte.held, t.2.1 ≠ 0 := by
    rw [hfr]
    intro t ht
    obtain ht | ht := List.mem_append.1 ht
    · exact hm t ht
    · obtain rfl := List.mem_singleton.1 ht
      exact h0
  exact yields_run (exec_remoteWriteFinal ho) ((releaseHeld_missing hall).trans hfr) ⟨rfl, rfl, rfl, rfl⟩

/-- A final transaction that misses nothing is performed as a write of no stream is (R249, R250). -/
theorem performsWrite_final {s : State} {i : Nat} {q : QPkt} {k : Plain} (hmay : MayAnswer s k) (ho : Opens s i q 1 k)
    (hm : ∀ t ∈ s.hw.rte.held, t.2.1 ≠ 0) (h0 : finalMisses s.hw q = 0) :
    PerformsWrite s i q.pkt.hdr k (.remoteWriteFinalReceive i) := by
  obtain ⟨g, tracked, ht, hr⟩ := releaseHeld_finalHeld ho hm h0
  exact performsWrite_of (tracked := tracked) ht hmay (hr ▸ exec_remoteWriteFinal ho)

/-- The hardware with held final transaction `i`, which is `t`, let go and its stream closed. -/
def heldDropped (h : Hw) (i : Nat) (t : QPkt × Nat × Nat) : Hw :=
  { h with rte := { h.rte with held := h.rte.held.eraseIdx i, seen := SMap.del h.rte.seen (streamKey t.1.pkt.hdr) } }

/-- A final transaction held for 10 ms is discarded with event 0x0C4, and nothing is answered (R251). -/
theorem exec_finalStreamAbandon {s : State} {i : Nat} {t : QPkt × Nat × Nat} (ht : s.hw.rte.held[i]? = some t)
    (hw : t.2.2 + 10000000 ≤ s.hw.now) : exec (.finalStreamAbandon i) s = .next { s with
      hw := raiseEv (heldDropped s.hw i t) 0x0C4 (t.1.pkt.hdr.src + t.1.pkt.hdr.stream.toNat * 65536) [] } := by
  refine congrArg (fun g => Host.Outcome.next { s with hw := g }) ?_
  simp only [ht, if_neg (Nat.not_lt.2 hw)]
  rfl

end Sys2Proof.Machine
end

section
/-! Proofs about the reads, atomics and sync operations of peers. -/

namespace Sys2Proof.Machine

/-! ### Reads (R30, R162) -/

section
variable {s : State} {i : Nat} {q : QPkt} {k : Plain}

theorem exec_remoteRead (ho : Opens s i q 2 k) : exec (.remoteReadRequestReceive i) s = .next { s with
    hw := remoteRead (localTaken s.hw i) q.pkt.hdr k } := by
  refine congrArg (fun g => Host.Outcome.next { s with hw := g }) ?_
  exact takeLocal_opens ho (ok := fun x => x.typ == 2 && !peerWaits s.hw x) (opens_ok ho)
    (fun h _ x k => remoteRead h x k)

theorem remoteRead_granted {h : Hw} {x : Hdr} (hr : Reaches h k.key.job x.off x.len) :
    remoteRead h x k = answerFor 0 h x k 5 3 (h.mem.read x.off x.len) 0 := by
  simp only [remoteRead, hr.peerFault, touchRead_clean hr.corrected]
  rfl

theorem remoteRead_outside {h : Hw} {x : Hdr} (hg : grants h k.key.job x.off x.len = false) :
    remoteRead h x k = answerFor 0 h x k 5 3 [] 1 := by
  simp only [remoteRead, peerFault_outside hg]
  rfl

/-- A granted, clean read is answered with the bytes it asks for. -/
theorem yields_remoteRead_granted (hmay : MayAnswer s k) (ho : Opens s i q 2 k) (hcirc : q.pkt.hdr.circuit = 0)
    (hg : grants s.hw k.key.job q.pkt.hdr.off q.pkt.hdr.len = true) (hclean : CleanHere s q.pkt.hdr.off q.pkt.hdr.len) :
    Yields (.remoteReadRequestReceive i) s (fun t => t.hw.rte.localq = s.hw.rte.localq.eraseIdx i ∧
      (∀ a, t.hw.mem.byte a = s.hw.mem.byte a) ∧
      Responds s t q.pkt.hdr k 5 3 (s.hw.mem.read q.pkt.hdr.off q.pkt.hdr.len) 0) := by
  have ht := taken_localTaken s.hw i
  have hlen : (s.hw.mem.read q.pkt.hdr.off q.pkt.hdr.len).length < 2 ^ 12 := by
    rw [Mem.length_read]
    exact hdr_len_lt q.pkt
  refine (ht.yields hmay (exec_remoteRead ho) (remoteRead_granted (ht.reaches hg hclean)) (hlen := hlen)
    (hc := fun _ => hcirc)).imp ?_
  rintro t ⟨hloc, hresp, hmem, -, -⟩
  exact ⟨hloc, fun a => congrArg (Mem.byte · a) hmem, hresp⟩

/-- A read outside the grant is answered with status 1. -/
theorem yields_remoteRead_outside (hmay : MayAnswer s k) (ho : Opens s i q 2 k) (hcirc : q.pkt.hdr.circuit = 0)
    (hg : grants s.hw k.key.job q.pkt.hdr.off q.pkt.hdr.len = false) :
    Yields (.remoteReadRequestReceive i) s (fun t => t.hw.rte.localq = s.hw.rte.localq.eraseIdx i ∧
      (∀ a, t.hw.mem.byte a = s.hw.mem.byte a) ∧ Responds s t q.pkt.hdr k 5 3 [] 1) := by
  have ht := taken_localTaken s.hw i
  have hout := remoteRead_outside (x := q.pkt.hdr) ((ht.grants _ _ _).trans hg)
  refine (ht.yields hmay (exec_remoteRead ho) hout (hc := fun _ => hcirc)).imp ?_
  rintro t ⟨hloc, hresp, hmem, -, -⟩
  exact ⟨hloc, fun a => congrArg (Mem.byte · a) hmem, hresp⟩

/-! ### Atomics (R290) -/

theorem exec_remoteAtomic (ho : Opens s i q 4 k) : exec (.atomicRequestReceive i) s = .next { s with
    hw := remoteAtomic (localTaken s.hw i) q.pkt.hdr k } := by
  refine congrArg (fun g => Host.Outcome.next { s with hw := g }) ?_
  exact takeLocal_opens ho (ok := fun x => x.typ == 4 && !peerWaits s.hw x) (opens_ok ho)
    (fun h _ x k => remoteAtomic h x k)

/-- The value that a request's operation leaves at its target. -/
def peerAtomNew (h : Hw) (x : Hdr) (k : Plain) : Nat :=
  let op := wfld (bWord k.body) 0 4
  atomNew op (leNat (h.mem.read x.off (atomSize op))) (bWord (k.body.drop 8)) (bWord (k.body.drop 16))

theorem remoteAtomic_granted {h : Hw} {x : Hdr} {n : Nat} (hn : atomSize (wfld (bWord k.body) 0 4) = n)
    (hop : wfld (bWord k.body) 0 4 < 12) (hal : x.off % n = 0) (hr : Reaches h k.key.job x.off n) :
    remoteAtomic h x k = answerFor 0 { h with mem := h.mem.write x.off (leBytes n (peerAtomNew h x k)) } x k 5 5
      (wBytes (BitVec.ofNat 64 (leNat (h.mem.read x.off n)))) 0 := by
  subst hn
  have hno : ¬ (x.off % atomSize (wfld (bWord k.body) 0 4) != 0 || decide (0xB < wfld (bWord k.body) 0 4)) = true := by
    simp [hal]
    omega
  simp only [remoteAtomic, if_neg hno, hr.peerFault, atomPerform, touchRead_clean hr.corrected]
  rfl

/-- What a clean write of `n` bytes leaves there. -/
theorem Mem.read_write_clean {m : Mem} {a : Nat} {bs : Bytes} (h : m.badRead a bs.length = none) :
    (m.write a bs).read a bs.length = bs := Mem.read_eq (fun _ hi => Mem.byte_write_clean h hi)

/-- A granted, clean, aligned atomic replaces the target and is answered with its old word. -/
theorem yields_remoteAtomic {n : Nat} (hmay : MayAnswer s k) (ho : Opens s i q 4 k)
    (hn : atomSize (wfld (bWord k.body) 0 4) = n) (hop : wfld (bWord k.body) 0 4 < 12) (hal : q.pkt.hdr.off % n = 0)
    (hclean : CleanHere s q.pkt.hdr.off n) (hg : grants s.hw k.key.job q.pkt.hdr.off n = true) :
    Yields (.atomicRequestReceive i) s (fun t => t.hw.rte.localq = s.hw.rte.localq.eraseIdx i ∧
      Responds s t q.pkt.hdr k 5 5 (wBytes (BitVec.ofNat 64 (leNat (s.hw.mem.read q.pkt.hdr.off n)))) 0 ∧
      t.hw.mem.read q.pkt.hdr.off n = leBytes n (peerAtomNew s.hw q.pkt.hdr k) ∧
      (∀ a, a < q.pkt.hdr.off ∨ q.pkt.hdr.off + n ≤ a → t.hw.mem.byte a = s.hw.mem.byte a)) := by
  have ht := taken_localTaken s.hw i
  have hr := ht.reaches hg hclean
  refine (ht.yields hmay (exec_remoteAtomic ho) (remoteAtomic_granted hn hop hal hr)
    (hlen := by simp [wBytes])).imp ?_
  rintro t ⟨hloc, hresp, hmem, -, -⟩
  have hlen : (leBytes n (peerAtomNew s.hw q.pkt.hdr k)).length = n := length_leBytes _ _
  have hbad : s.hw.mem.badRead q.pkt.hdr.off (leBytes n (peerAtomNew s.hw q.pkt.hdr k)).length = none :=
    hlen.symm ▸ hr.bad
  refine ⟨hloc, hresp, ?_, fun a ha => ?_⟩
  · have hread := Mem.read_write_clean hbad
    rw [hlen] at hread
    exact (congrArg (Mem.read · _ n) hmem).trans hread
  · exact (congrArg (Mem.byte · a) hmem).trans (Mem.byte_write_out _ _ _ _ (hlen.symm ▸ ha))

end

end Sys2Proof.Machine
end

section
/-! Proofs about the sync operations of peers: what they make of an object for which nothing waits. -/

namespace Sys2Proof.Machine

/-! ### Setting a field of a word -/

theorem getLsbD_setFld (w : Word) (lo len v i : Nat) : (setFld w lo len v).getLsbD i =
    if i < 64 ∧ lo ≤ i ∧ i - lo < len then v.testBit (i - lo) else w.getLsbD i := by
  simp only [setFld, BitVec.getLsbD_or, BitVec.getLsbD_and, BitVec.getLsbD_not, getLsbD_put,
    Nat.testBit_two_pow_sub_one]
  by_cases hi : i < 64
  · by_cases hf : lo ≤ i ∧ i - lo < len
    · simp [hi, hf]
    · simp [hi, hf]
  · simp [hi, BitVec.getLsbD_of_ge w i (Nat.not_lt.1 hi)]

theorem wfld_setFld_same (w : Word) {lo len : Nat} (v : Nat) (h : lo + len ≤ 64) :
    wfld (setFld w lo len v) lo len = v % 2 ^ len := by
  refine Nat.eq_of_testBit_eq fun i => ?_
  rw [testBit_wfld, getLsbD_setFld, Nat.testBit_mod_two_pow]
  by_cases hi : i < len
  · have hin : lo + i < 64 := by omega
    simp [hi, hin]
  · simp [hi]

/-- A field set to what it holds leaves the word. -/
theorem setFld_wfld (w : Word) (lo len : Nat) : setFld w lo len (wfld w lo len) = w := by
  refine BitVec.eq_of_getLsbD_eq fun i _ => ?_
  rw [getLsbD_setFld]
  split
  next hi => simp [testBit_wfld, hi.2.1, hi.2.2]
  next => rfl

/-! ### Objects -/

theorem Hw.obj_congr {g h : Hw} (hs : g.sync = h.sync) (o : ObjId) : g.obj o = h.obj o := by
  cases o with
  | easel c e i => exact congrArg (fun y => SMap.get 0 y.easelObj (easelObjKey c e i)) hs
  | mod i => exact congrArg (fun y => SMap.get 0 y.modObj i.val) hs

theorem Hw.obj_setObj_mod (h : Hw) (i : Fin 32768) (w : Word) (o : ObjId) :
    (h.setObj (.mod i) w).obj o = if o = .mod i then w else h.obj o := by
  cases o with
  | easel c e j => simp [Hw.setObj, Hw.obj]
  | mod j =>
    refine (SMap.get_set 0 h.sync.modObj i.val j.val w).trans ?_
    simp [Hw.obj, Fin.ext_iff]

/-- Hardware `g` is `h` but for the completed barriers and for module-scope object `i`, which is set to `w`. -/
structure SetsObj (h g : Hw) (i : Fin 32768) (w : Word) : Prop where
  frame : g = { h with sync := g.sync }
  waiters : g.sync.waiters = h.sync.waiters
  obj : ∀ o, g.obj o = if o = .mod i then w else h.obj o

section
variable {h g g' : Hw} {i : Fin 32768} {v w : Word}

theorem SetsObj.same (h : Hw) (i : Fin 32768) : SetsObj h h i (h.obj (.mod i)) := by
  refine ⟨rfl, rfl, fun o => ?_⟩
  split
  next ho => rw [ho]
  next => rfl

theorem SetsObj.setObj (hs : SetsObj h g i v) (w : Word) : SetsObj h (g.setObj (.mod i) w) i w := by
  refine ⟨?_, hs.waiters, fun o => ?_⟩
  · rw [hs.frame]
    rfl
  · rw [Hw.obj_setObj_mod, hs.obj]
    split <;> rfl

theorem setsObj_dropReleases (h : Hw) (i : Fin 32768) (p : Fin 32768 → Bool) :
    SetsObj h (dropReleases h p) i (h.obj (.mod i)) := by
  refine ⟨rfl, rfl, fun o => ?_⟩
  have ho : (dropReleases h p).obj o = h.obj o := by cases o <;> rfl
  exact ho.trans ((SetsObj.same h i).obj o)

/-- Where no waiter is to be released nothing happens. -/
theorem releaseWhere_none {p : Waiter → Bool} (hp : ∀ y ∈ h.sync.waiters, p y = false) :
    releaseWhere h p = h := by
  have hk : h.sync.waiters.filter (fun y => !p y) = h.sync.waiters :=
    List.filter_eq_self.2 (fun y hy => by simp [hp y hy])
  have hr : h.sync.waiters.filter p = [] := List.filter_eq_nil_iff.2 (fun y hy => by simp [hp y hy])
  simp only [releaseWhere, hk, hr, List.foldl_nil]

/-- The waiters of an object for which nothing waits: none. -/
theorem not_waits {o : ObjId} {l : List Waiter} (hno : ∀ y ∈ l, y.obj ≠ o) (p : Waiter → Bool) :
    ∀ y ∈ l, (y.obj == o && p y) = false := fun y hy => by simp [hno y hy]

/-- Serving an object for which nothing waits consumes none of its count. -/
theorem serve_none {o : ObjId} (hno : ∀ y ∈ h.sync.waiters, y.obj ≠ o) :
    serve h o = if isBarrier (h.obj o) then h else h.setObj o (h.obj o) := by
  have hlive : h.sync.waiters.filter (fun x => x.obj == o && x.gen.isNone) = [] :=
    List.filter_eq_nil_iff.2 (fun y hy => by simp [hno y hy])
  have hwait : ∀ w, (h.setObj o w).sync.waiters = h.sync.waiters := by cases o <;> exact fun _ => rfl
  simp only [serve, hlive, List.filter_nil, serveConsuming, setFld_wfld]
  split
  next => rfl
  next =>
    refine releaseWhere_none fun y hy => ?_
    simp [hno y (hwait _ ▸ hy)]

theorem SetsObj.serve (hs : SetsObj h g i w) (hno : ∀ y ∈ h.sync.waiters, y.obj ≠ .mod i) :
    SetsObj h (serve g (.mod i)) i w := by
  have hw : g.obj (.mod i) = w := (hs.obj _).trans (if_pos rfl)
  rw [serve_none (hs.waiters.symm ▸ hno), hw]
  split
  next => exact hs
  next => exact hs.setObj w

/-- SIGNAL adds its amount to a counter that it does not overflow (R274, R275). -/
theorem setsObj_signalObj {amount : Nat} (hno : ∀ y ∈ h.sync.waiters, y.obj ≠ .mod i)
    (hb : isBarrier (h.obj (.mod i)) = false) (hlt : wfld (h.obj (.mod i)) 0 48 + amount < 2 ^ 48) (who : FaultRec) :
    ∃ w, SetsObj h (signalObj h (.mod i) amount who) i w ∧ wfld w 0 48 = wfld (h.obj (.mod i)) 0 48 + amount := by
  by_cases h0 : amount = 0
  · refine ⟨h.obj (.mod i), ?_, by rw [h0]; rfl⟩
    simp only [signalObj, hb, Bool.false_eq_true, if_false, if_pos h0]
    exact SetsObj.same h i
  · refine ⟨setFld (h.obj (.mod i)) 0 48 (wfld (h.obj (.mod i)) 0 48 + amount), ?_, ?_⟩
    · simp only [signalObj, hb, Bool.false_eq_true, if_false, if_neg h0, if_neg (Nat.not_le.2 hlt)]
      exact ((SetsObj.same h i).setObj _).serve hno
    · rw [wfld_setFld_same _ _ (by decide), Nat.mod_eq_of_lt hlt]

/-- SYNCSET gives the object its word (R282). -/
theorem setsObj_syncSet (hno : ∀ y ∈ h.sync.waiters, y.obj ≠ .mod i) (v : Word) :
    SetsObj h (syncSet h (.mod i) v) i v := by
  have hd := setsObj_dropReleases h i (fun j => ObjId.mod j == ObjId.mod i)
  have hr : releaseWhere (dropReleases h (fun j => ObjId.mod j == ObjId.mod i))
      (fun x => x.obj == ObjId.mod i && x.gen.isSome) = dropReleases h (fun j => ObjId.mod j == ObjId.mod i) :=
    releaseWhere_none (not_waits (hd.waiters.symm ▸ hno) _)
  simp only [syncSet, hr, ite_self]
  exact (hd.setObj v).serve hno

end

/-! ### A peer's operation (R271) -/

section
variable {s : State} {j : Nat} {q : QPkt} {k : Plain} {i : Fin 32768}

theorem exec_remoteSync (ho : Opens s j q 6 k) : exec (.syncOperationReceive j) s = .next { s with
    hw := remoteSync (localTaken s.hw j) q q.pkt.hdr k } := by
  refine congrArg (fun g => Host.Outcome.next { s with hw := g }) ?_
  exact takeLocal_opens ho (ok := fun x => x.typ == 6) (beq_iff_eq.2 ho.2.1) remoteSync

/-- A command that makes object `i` the word `w` and answers the peer. -/
theorem yields_remoteSync {w : Word} {g : Hw} {body : Bytes} (hmay : MayAnswer s k) (ho : Opens s j q 6 k)
    (hs : SetsObj (localTaken s.hw j) g i w)
    (hx : remoteSync (localTaken s.hw j) q q.pkt.hdr k = answerFor 0 g q.pkt.hdr k 0 7 body 0)
    (hlen : body.length < 2 ^ 12) : Yields (.syncOperationReceive j) s (fun t =>
      t.hw.rte.localq = s.hw.rte.localq.eraseIdx j ∧ Responds s t q.pkt.hdr k 0 7 body 0 ∧
      t.hw.obj (.mod i) = w ∧ (∀ o, o ≠ .mod i → t.hw.obj o = s.hw.obj o) ∧ t.hw.mem = s.hw.mem) := by
  have ht := taken_localTaken s.hw j
  rw [hs.frame] at hx
  refine (ht.yields hmay (exec_remoteSync ho) (mem := s.hw.mem) hx (hlen := hlen)).imp ?_
  rintro t ⟨hloc, hresp, hmem, -, hsync⟩
  have hobj : ∀ o, t.hw.obj o = if o = .mod i then w else s.hw.obj o := fun o =>
    ((Hw.obj_congr hsync o).trans (hs.obj o)).trans
      (congrArg (fun v => if o = .mod i then w else v) (Hw.obj_congr rfl o))
  exact ⟨hloc, hresp, (hobj _).trans (if_pos rfl), fun o ho => (hobj o).trans (if_neg ho), hmem⟩

/-- A peer's SIGNAL. -/
theorem remoteSync_signal {h : Hw} {x : Hdr} (hp : peerObj h k.key.job (wfld (bWord k.body) 16 15) = some i)
    (hop : wfld (bWord k.body) 0 2 = 0) : remoteSync h q x k = answerFor 0 (signalObj h (.mod i)
      ((bWord (k.body.drop 8)).toNat % 2 ^ 32) (routerRec h q.at x 0)) x k 0 7 [] 0 := by
  simp only [remoteSync, hp, hop]
  rfl

/-- A peer's SYNCRD. -/
theorem remoteSync_read {h : Hw} {x : Hdr} (hp : peerObj h k.key.job (wfld (bWord k.body) 16 15) = some i)
    (hop : wfld (bWord k.body) 0 2 = 1) :
    remoteSync h q x k = answerFor 0 h x k 0 7 (wBytes (h.obj (.mod i))) 0 := by
  simp only [remoteSync, hp, hop]
  rfl

/-- A peer's SYNCSET of a word that R282 allows. -/
theorem remoteSync_set {h : Hw} {x : Hdr} (hp : peerObj h k.key.job (wfld (bWord k.body) 16 15) = some i)
    (hop : wfld (bWord k.body) 0 2 = 2) (hok : setOk (.mod i) (bWord (k.body.drop 8)) = true) :
    remoteSync h q x k = answerFor 0 (syncSet h (.mod i) (bWord (k.body.drop 8))) x k 0 7 [] 0 := by
  simp only [remoteSync, hp, hop, hok, if_true]
  rfl

end

end Sys2Proof.Machine

namespace Sys2Proof
open Sys2Proof.Machine

/-- Settles O27: a request that opens is served as its operation, the grant and the errors of its bytes say, and
answered; a final transaction waits for its stream. -/
theorem remoteRequestsActOnGrantedMemoryAndAnswer : Obligations.RemoteRequestsActOnGrantedMemoryAndAnswer := by
  unfold Obligations.RemoteRequestsActOnGrantedMemoryAndAnswer
  intro s i q k hmay x gone memKept writes
  refine ⟨?write, ?final, ?abandon, ?read, ?atomic, ?sync⟩
  case write =>
    exact fun ho hs => performsWrite_of (taken_localTaken s.hw i) hmay (exec_remoteWrite ho hs)
  case final =>
    refine fun ho hm => ⟨fun h0 => performsWrite_final hmay ho hm ?_, fun hs hin hpos => ?_⟩
    · by_cases hs : q.pkt.hdr.stream = 0
      · exact if_pos hs
      · obtain ⟨hin, h0⟩ := h0.resolve_left hs
        exact (finalMisses_loopBack hin hs).trans h0
    · have hmiss := finalMisses_loopBack (h := s.hw) hin hs
      exact hmiss ▸ yields_finalHeld ho hm (hmiss.trans_ne hpos.ne')
  case abandon =>
    rintro t ht rfl hold
    exact ⟨_, exec_finalStreamAbandon ht hold, rfl, pends_raiseEv _ _ _ _ _, rfl, rfl⟩
  case read =>
    exact fun ho hc => ⟨yields_remoteRead_granted hmay ho hc, yields_remoteRead_outside hmay ho hc⟩
  case atomic =>
    exact fun ho hop hal hclean hg => yields_remoteAtomic hmay ho rfl hop hal hclean hg
  case sync =>
    refine fun o ho hp hno => ⟨fun hop hb hlt => ?_, fun hop => ?_, fun hop hok => ?_⟩
    · obtain ⟨w, hs, hw⟩ :=
        setsObj_signalObj (h := localTaken s.hw i) hno hb hlt (routerRec (localTaken s.hw i) q.at x 0)
      refine (yields_remoteSync hmay ho hs (remoteSync_signal hp hop) (by decide)).imp ?_
      rintro t ⟨hloc, hresp, hobj, hothers, hmem⟩
      exact ⟨hloc, hresp, ⟨hothers, hmem⟩, hobj ▸ hw⟩
    · refine (yields_remoteSync hmay ho (SetsObj.same _ o) (remoteSync_read hp hop) (by simp [wBytes])).imp ?_
      rintro t ⟨hloc, hresp, hobj, hothers, hmem⟩
      exact ⟨hloc, hresp, hobj, hothers, hmem⟩
    · have hs := setsObj_syncSet (h := localTaken s.hw i) hno (bWord (k.body.drop 8))
      refine (yields_remoteSync hmay ho hs (remoteSync_set hp hop hok) (by decide)).imp ?_
      rintro t ⟨hloc, hresp, hobj, hothers, hmem⟩
      exact ⟨hloc, hresp, hobj, hothers, hmem⟩

end Sys2Proof
end

section
/-! Proofs about anchored arithmetic: the accumulation of a block depends neither on the order of its products nor on
that of the blocks (R56, R60, R62). -/

namespace Sys2Proof.Machine

/-! ### Two's complement readings -/

theorem sgn_eq_toInt (n v : Nat) : sgn n v = (BitVec.ofNat n v).toInt := by
  rw [BitVec.toInt_eq_msb_cond, BitVec.msb_eq_decide]
  cases n with
  | zero => simp [sgn, Nat.mod_one]
  | succ n => simp [sgn]

theorem AccEntry.int_eq_toInt (x : AccEntry) : x.int = x.v.toInt := by
  rw [AccEntry.int, sgn_eq_toInt, BitVec.ofNat_toNat, BitVec.setWidth_eq]

theorem ofNat_wrapInt (n : Nat) (v : Int) : BitVec.ofNat n (wrapInt n v) = BitVec.ofInt n v := by
  rw [wrapInt, ← BitVec.toNat_ofInt, BitVec.ofNat_toNat, BitVec.setWidth_eq]

theorem wrap128_eq_bmod (v : Int) : wrap128 v = v.bmod (2 ^ 128) := by
  rw [wrap128, sgn_eq_toInt, ofNat_wrapInt, BitVec.toInt_ofInt]

/-- Wrapping to 128 bits in between does not change a wrapped sum (R62). -/
theorem wrap128_add (v t : Int) : wrap128 (wrap128 v + t) = wrap128 (v + t) := by
  simp only [wrap128_eq_bmod, Int.bmod_add_bmod]

/-! ### Tags and sums over the products of a block (R56, R60) -/

theorem combineTag_right_comm (a b c : BitVec 2) :
    combineTag (combineTag a b) c = combineTag (combineTag a c) b := by
  revert a b c
  decide

theorem blockTag_perm {ps qs : List (Num × Bool)} (h : ps.Perm qs) : blockTag ps = blockTag qs := by
  have ht : (ps.map (fun p => tagOf p.1)).Perm (qs.map (fun p => tagOf p.1)) := h.map _
  have hfold := ht.foldl_eq' (f := combineTag) (fun a _ b _ c => combineTag_right_comm c a b) 0
  simp only [blockTag, hfold, h.any_eq, ht.contains_eq]

theorem maxLog_cons (x : Num) (xs : List Num) :
    maxLog (x :: xs) = Option.merge max (numLog x) (maxLog xs) := by
  rw [maxLog]
  cases numLog x <;> cases maxLog xs <;> rfl

theorem maxLog_perm {xs ys : List Num} (h : xs.Perm ys) : maxLog xs = maxLog ys := by
  induction h with
  | nil => rfl
  | cons x _ ih => rw [maxLog_cons, maxLog_cons, ih]
  | swap x y l =>
    simp only [maxLog_cons]
    ac_rfl
  | trans _ _ ih₁ ih₂ => exact ih₁.trans ih₂

theorem blockUnit_perm (ca cb : Nat) (s : Option Int) {xs ys : List Num} (h : xs.Perm ys) :
    blockUnit ca cb s xs = blockUnit ca cb s ys := by
  simp only [blockUnit, maxLog_perm h]

theorem blockSum_perm (t : Int) {xs ys : List Num} (h : xs.Perm ys) : blockSum t xs = blockSum t ys :=
  (h.map _).foldl_eq' (fun a _ b _ c => add_right_comm c a b) 0

theorem anchoredTerm_perm (L lim : Int) (ca cb : Nat) (s : Option Int) {xs ys : List Num} (h : xs.Perm ys) :
    anchoredTerm L lim ca cb s xs = anchoredTerm L lim ca cb s ys := by
  simp only [anchoredTerm, blockUnit_perm ca cb s h, blockSum_perm _ h]

end Sys2Proof.Machine

namespace Sys2Proof

open Sys2Proof.Machine

/-- Settles O14: a permutation changes neither the tag of a block nor its term, each being a fold of a commutative
operation over the products; and two blocks add their terms modulo 2^128 and combine their tags in either order. -/
theorem anchoredBlockIgnoresProductOrder : Obligations.AnchoredBlockIgnoresProductOrder := by
  refine ⟨fun L lim ca cb sc ps qs a h => ?_, fun L lim ca cb s1 s2 ps qs a => ⟨?_, ?_, ?_⟩⟩
  · simp only [anchoredBlock, blockTag_perm h, anchoredTerm_perm L lim ca cb sc (h.map _)]
  · simp only [anchoredBlock, wrap128_add, add_right_comm]
  · exact combineTag_right_comm _ _ _
  · exact Bool.or_right_comm _ _ _

end Sys2Proof
end

section
/-! Proofs about accumulator entries: what MMA, ACCLOAD and ANCHOR write lies within the span of the set, and what ANCHOR
clears (R58 to R60, R130, R134). -/

namespace Sys2Proof.Machine

/-! ### Entries within their span (R59, R60) -/

/-- The value of an entry stands within the span of anchor word `w`. -/
def WithinSpan (w : Word) (y : AccEntry) : Prop := -ancLim w ≤ y.int ∧ y.int ≤ ancLim w

/-- What an entry takes is kept whole where 128 bits hold it. -/
theorem int_mkEntry {v : Int} (tag : BitVec 2) (hlo : -2 ^ 127 ≤ v) (hhi : v < 2 ^ 127) : (mkEntry v tag).int = v := by
  rw [AccEntry.int_eq_toInt]
  exact BitVec.toInt_ofInt_eq_self (by decide) hlo hhi

@[simp] theorem int_mkEntry_zero (tag : BitVec 2) : (mkEntry 0 tag).int = 0 := int_mkEntry tag (by decide) (by decide)

theorem ancLim_eq (w : Word) : ancLim w = 2 ^ (ancSpan w - 1) - 1 := by
  simp [ancLim]

theorem ancLim_nonneg (w : Word) : 0 ≤ ancLim w := by
  have := Nat.one_le_two_pow (n := ancSpan w - 1)
  unfold ancLim
  omega

theorem ancLim_lt {w : Word} (hs : ancSpan w ≤ 96) : ancLim w < 2 ^ 127 := by
  have : (2 : Nat) ^ (ancSpan w - 1) ≤ 2 ^ 127 := Nat.pow_le_pow_right (by decide) (by omega)
  unfold ancLim
  omega

/-- A saturated value lies within the limit (R62). -/
theorem satTo_bounds {lim : Int} (hlim : 0 ≤ lim) (v : Int) : -lim ≤ (satTo lim v).1 ∧ (satTo lim v).1 ≤ lim := by
  unfold satTo
  split
  · exact ⟨by omega, le_refl _⟩
  · split
    · exact ⟨le_refl _, by omega⟩
    · exact ⟨by omega, by omega⟩

section
variable {w : Word}

theorem withinSpan_zero (tag : BitVec 2) : WithinSpan w (mkEntry 0 tag) := by
  have := ancLim_nonneg w
  rw [WithinSpan, int_mkEntry_zero]
  omega

theorem withinSpan_satTo (hs : ancSpan w ≤ 96) (v : Int) (tag : BitVec 2) :
    WithinSpan w (mkEntry (satTo (ancLim w) v).1 tag) := by
  have hlt := ancLim_lt hs
  obtain ⟨hlo, hhi⟩ := satTo_bounds (ancLim_nonneg w) v
  rw [WithinSpan, int_mkEntry tag (by omega) (by omega)]
  exact ⟨hlo, hhi⟩

/-- An entry that is zero where its tag is not finite, and saturated where it is (R60). -/
theorem withinSpan_tagged (hs : ancSpan w ≤ 96) (v : Int) (tag : BitVec 2) :
    WithinSpan w (mkEntry (if tag = 0 then (satTo (ancLim w) v).1 else 0) tag) ∧
      (tag ≠ 0 → (mkEntry (if tag = 0 then (satTo (ancLim w) v).1 else 0) tag).int = 0) := by
  by_cases ht : tag = 0
  · simp only [if_pos ht]
    exact ⟨withinSpan_satTo hs v tag, fun hne => absurd ht hne⟩
  · simp only [if_neg ht]
    exact ⟨withinSpan_zero tag, fun _ => int_mkEntry_zero tag⟩

theorem anchoredEnd_v (lim : Int) (a : Acc) : (anchoredEnd lim a).v = if a.tag = 0 then (satTo lim a.v).1 else 0 := by
  rw [anchoredEnd, ite_not, apply_ite Acc.v]

@[simp] theorem anchoredEnd_tag (lim : Int) (a : Acc) : (anchoredEnd lim a).tag = a.tag := by
  rw [anchoredEnd, ite_not, apply_ite Acc.tag, ite_self]

/-- The end of an MMA in anchored mode (R62). -/
theorem mmaEntry_last (hf : ancFloat w = false) (hs : ancSpan w ≤ 96) (ca cb : Nat)
    (bs : List (Option Int × List (Num × Bool))) (x : AccEntry) :
    WithinSpan w (mmaEntry w ca cb bs x true).1 ∧
      ((mmaEntry w ca cb bs x true).1.tag ≠ 0 → (mmaEntry w ca cb bs x true).1.int = 0) := by
  simp only [mmaEntry, hf, Bool.false_eq_true, if_false, if_true, anchoredEnd_v, anchoredEnd_tag]
  exact withinSpan_tagged hs _ _

/-- ACCLOAD in anchored mode (R130). -/
theorem accloadEntry_anchored (hf : ancFloat w = false) (hs : ancSpan w ≤ 96) (code : Nat) (add : Bool) (v : Nat)
    (x : AccEntry) : WithinSpan w (accloadEntry w code add v x).1 ∧
      ((accloadEntry w code add v x).1.tag ≠ 0 → (accloadEntry w code add v x).1.int = 0) := by
  simp only [accloadEntry, hf, Bool.false_eq_true, if_false]
  exact withinSpan_tagged hs _ _

/-- An entry under a new anchor word keeps its tag (R58). -/
theorem reexpress_anchored (hf : ancFloat w = false) (hs : ancSpan w ≤ 96) (old : Word) (x : AccEntry) :
    WithinSpan w (reexpress old w x).1 ∧ (reexpress old w x).1.tag = x.tag := by
  simp only [reexpress, hf, Bool.false_eq_true, if_false]
  exact ⟨withinSpan_satTo hs _ _, rfl⟩

end

/-! ### ANCHOR clears its set (R58, R134) -/

section
variable {α : Type}

theorem SMap.get_filter (d : α) (m : SMap α) (p : Nat → Bool) (k : Nat) :
    SMap.get d (m.filter (fun c => p c.1)) k = if p k then SMap.get d m k else d := by
  induction m with
  | nil => simp
  | cons c m ih =>
    obtain ⟨j, v⟩ := c
    by_cases hj : j = k
    · cases hp : p k <;> simp_all [SMap.get]
    · cases hp : p j <;> simp_all [SMap.get]

theorem SMap.find_filter (m : SMap α) (p : Nat → Bool) (k : Nat) :
    SMap.find (m.filter (fun c => p c.1)) k = if p k then SMap.find m k else none := by
  induction m with
  | nil => simp [SMap.find]
  | cons c m ih =>
    obtain ⟨j, v⟩ := c
    by_cases hj : j = k
    · cases hp : p k <;> simp_all [SMap.find]
    · cases hp : p j <;> simp_all [SMap.find]

end

/-- Key `k` is that of an entry of the set. -/
def inSet (set k : Nat) : Bool := decide (set * 12288 ≤ k ∧ k < (set + 1) * 12288)

theorem inSet_accKey {set k r c : Nat} (hr : r < 96) (hc : c < 128) : inSet set (accKey k r c) = decide (k = set) := by
  unfold inSet accKey
  exact decide_eq_decide.2 (by omega)

/-- ANCHOR with keep = 0 removes the entries of its set, with their errors, and installs the word. -/
theorem anchorRun_clears {i : QEntry} {a : AccSets} (hk : ancKeep (nthW i.xs 0) = false) :
    (anchorRun i a).acc =
      { cells := a.cells.filter (fun p => !inSet i.set p.1)
        anchors := SMap.set 0 a.anchors i.set (nthW i.xs 0)
        errs := a.errs.filter (fun p => !inSet i.set p.1) } := by
  simp only [anchorRun, hk, Bool.false_eq_true, if_false]
  rfl

theorem anchorRun_clears_entry {i : QEntry} {a : AccSets} (hk : ancKeep (nthW i.xs 0) = false) (k : Nat) {r c : Nat}
    (hr : r < 96) (hc : c < 128) :
    (anchorRun i a).acc.entry k r c = if k = i.set then AccEntry.zero else a.entry k r c := by
  simp only [anchorRun_clears hk, AccSets.entry, AccSets.read, SMap.get_filter _ _ (fun j => !inSet i.set j),
    SMap.find_filter _ (fun j => !inSet i.set j), inSet_accKey hr hc]
  by_cases h : k = i.set <;> simp [h]

theorem anchorRun_clears_anchor {i : QEntry} {a : AccSets} (hk : ancKeep (nthW i.xs 0) = false) (k : Nat) :
    (anchorRun i a).acc.anchor k = if k = i.set then nthW i.xs 0 else a.anchor k := by
  rw [anchorRun_clears hk]
  exact SMap.get_set 0 a.anchors i.set k _

end Sys2Proof.Machine

namespace Sys2Proof

open Sys2Proof.Machine

/-- Settles O15: what MMA, ACCLOAD and ANCHOR write is saturated to the span, or zero where the tag is not finite
(`withinSpan_tagged`); ANCHOR with keep = 0 removes the keys of its set alone. -/
theorem accumulatorEntriesStayWithinTheirSpan : Obligations.AccumulatorEntriesStayWithinTheirSpan := by
  refine ⟨fun w old x ca cb v add bs hf _ hs => ?_, fun i a hk => ⟨fun r c hr hc => ?_, ?_, fun k _ hne => ⟨?_, ?_⟩⟩⟩
  · rw [← ancLim_eq]
    obtain ⟨hm, hm0⟩ := mmaEntry_last hf hs ca cb bs x
    obtain ⟨hl, hl0⟩ := accloadEntry_anchored hf hs ca add v x
    obtain ⟨hr, ht⟩ := reexpress_anchored hf hs old x
    exact ⟨hm, hm0, hl, hl0, hr, ht⟩
  · rw [anchorRun_clears_entry hk i.set hr hc, if_pos rfl]
  · rw [anchorRun_clears_anchor hk, if_pos rfl]
  · rw [anchorRun_clears_anchor hk, if_neg hne]
  · exact fun r c hr hc => (anchorRun_clears_entry hk k hr hc).trans (if_neg hne)

end Sys2Proof
end

section
/-! Proofs about the completion of an engine instruction: a memory that lists the bit errors of one word twice shows
other bytes after the instruction's writes than after the writes alone. -/

namespace Sys2Proof.Machine

/-- An instruction that may complete, with no new errors in accumulator storage, completes. -/
theorem exec_engineInstructionComplete {s : State} {e : EaselId} {q : Engine} {n : Word} {i : QEntry}
    (hf : findEntry s.hw e q n = some i) (hm : mayComplete s.hw e q i = true) :
    exec (.engineInstructionComplete e q n []) s = .next { s with hw := completeEngine s.hw e q i } := by
  have hspoil : (if q = .me then spoilAcc s.hw e [] else s.hw) = s.hw := ite_self s.hw
  change Host.Outcome.next { s with hw := _ } = _
  simp only [hspoil, hf, hm, if_true]

/-- ACCSTORE of two FP32 elements, one below the other, into the first word of easel 0's Palette window. -/
def storeColumn : QEntry :=
  { op := .accstore
    fmt := { pneg := false, pred := 0, tda := 0, tdb := 0, tdc := 0, rs := 0, sig := false, so := 0, func := 0 }
    ta := { w0 := 0x20000000000, w1 := 0, w2 := put 2 0 16 ||| put 1 16 16 ||| put 4 32 32, w3 := 0x0D }
    tb := { w0 := 0, w1 := 0, w2 := 0, w3 := 0 }
    tc := { w0 := 0, w1 := 0, w2 := 0, w3 := 0 }
    xs := [0], arith := 0, sbm := 0, sketch := false, seq := 0, serial := 0, pc := 0, inst := 0, ctx := 1
    started := true, since := 0, sqr := 0, txns := [], got := [], acked := [], bad := [], prog := 0, flags := 0
    slow := 0, order := 0, tracked := none }

/-- A varnished slot, not yet folded, that replaces that word with zeros (R237). -/
def slotOverWord : SketchSlot :=
  { part := 0, place := 0, ctx := 1, easel := 0, branch := 0, seq := 0, order := 0
    granule := 0x20000000000 / 64, mask := 0xFF, bytes := List.replicate 64 0 }

/-- The word is listed with one bit error and again with three.  Reading it counts it as correctable and scrubs both. -/
def twiceListed : Mem :=
  { cells := [], ecc := [(0x20000000000 / 8, 1), (0x20000000000 / 8, 3)], path := [], unfolded := [slotOverWord] }

/-- The instruction executes on easel 0; both elements that it stores are 1. -/
def storing : State :=
  { hw := { Hw.reset with
      mem := twiceListed
      easels := [(0, { Easel.init with
        me := [storeColumn]
        acc := { AccSets.init with cells := [(accKey 0 0 0, mkEntry 1 0), (accKey 0 1 0, mkEntry 1 0)] } })] }
    pending := [] }

theorem storing_mayComplete : mayComplete storing.hw 0 .me storeColumn = true := by decide

/-- The merge of the first row corrects the word, so the second row is written too (R165). -/
theorem storing_completes :
    (completeEngine storing.hw 0 .me storeColumn).mem.byte 0x20000000006 = 0x80 := by decide

/-- Of the bare writes the first removes the one listed error and the slot's bytes: the word is uncorrectable then and
takes no part of the second (R163). -/
theorem storing_writes :
    ((engEffect storing.hw 0 storeColumn (engLeft storeColumn)).ws.foldl
      (fun m w => m.write w.1 w.2) storing.hw.mem).byte 0x20000000006 = 0 := by decide

end Sys2Proof.Machine

namespace Sys2Proof

open Sys2Proof.Machine

/-- Refutes O13: its third clause says that memory is left with the instruction's writes, of every state.  In `storing`,
whose memory lists one word's errors twice and so is not canonical (`MemInv` fails), the merge of the first write scrubs
the second listing, which the writes alone keep: one byte differs. -/
theorem not_enginesStartCompleteAndFault : ¬ Obligations.EnginesStartCompleteAndFault := by
  intro h
  obtain ⟨-, -, hcomplete, -⟩ := h storing 0 .me storeColumn
  obtain ⟨heffect, -⟩ := hcomplete [] rfl
  obtain ⟨t, ht, -, -, -, hmem, -⟩ := heffect (by decide) rfl rfl rfl rfl rfl storing_mayComplete
  obtain rfl := Host.Outcome.next.inj ((exec_engineInstructionComplete rfl storing_mayComplete).symm.trans ht)
  have hbyte := (storing_completes.symm.trans (hmem 0x20000000006)).trans storing_writes
  exact absurd hbyte (by decide)

end Sys2Proof
end

section
/-! Proofs about the instructions of an easel core that issue: what completes, jumps or faults, and what a scalar
instruction computes. -/

namespace Sys2Proof.Machine

/-! ### What an instruction that issues comes to -/

section
variable {s : State} {e : EaselId} {i : Instr} {w : Word} {pneg : Bool} {pred : BitVec 3} {dec : Option (BitVec 8)}
  {body : Hw → Eff} {P : State → Prop}

@[simp] theorem resv_of {b : Bool} (h : b = true) : resv b = none := by simp [resv, h]

/-- A command that issues an instruction which decodes takes the instruction's effect. -/
theorem yields_issue (hi : Issues s e pneg pred)
    (hx : exec i s = .next { s with hw := issue s.hw e w pneg pred dec body }) (hd : dec = none)
    (hp : P { s with hw := applyEff s.hw e w (body s.hw) }) : Yields i s P := by
  subst hd
  exact yields_run hx (issue_takes hi w body) hp

/-- An instruction whose effect is to write a scalar register. -/
theorem yields_setS {rd : BitVec 5} {v v' : Word} (hi : Issues s e pneg pred)
    (hx : exec i s = .next { s with hw := issue s.hw e w pneg pred dec body }) (hd : dec = none)
    (hb : body s.hw = .done (s.hw.setS e rd v)) (hv : v = v') : Yields i s (fun t => WritesS s t e rd v') := by
  refine yields_issue hi hx hd ?_
  rw [hb, hv]
  exact writesS_setS s e rd v'

/-- An instruction whose effect is to write a scalar register and to go elsewhere. -/
theorem yields_setS_jump {rd : BitVec 5} {v pc : Word} (hi : Issues s e pneg pred)
    (hx : exec i s = .next { s with hw := issue s.hw e w pneg pred dec body }) (hd : dec = none)
    (hb : body s.hw = .jump (s.hw.setS e rd v) pc) : Yields i s (fun t => WritesAndGoes s t e rd v pc) := by
  refine yields_issue hi hx hd ?_
  rw [hb]
  exact writesAndGoes_setS s e rd v pc

/-- An instruction that only goes on. -/
theorem yields_done (hi : Issues s e pneg pred)
    (hx : exec i s = .next { s with hw := issue s.hw e w pneg pred dec body }) (hd : dec = none)
    (hb : body s.hw = .done s.hw) : Yields i s (fun t => MovesTo s t e ((regsOf s e).pc + 8)) := by
  refine yields_issue hi hx hd ?_
  rw [hb]
  exact movesTo_advanceTo s e _

/-- An instruction that only goes elsewhere. -/
theorem yields_jump {pc : Word} (hi : Issues s e pneg pred)
    (hx : exec i s = .next { s with hw := issue s.hw e w pneg pred dec body }) (hd : dec = none)
    (hb : body s.hw = .jump s.hw pc) : Yields i s (fun t => MovesTo s t e pc) := by
  refine yields_issue hi hx hd ?_
  rw [hb]
  exact movesTo_advanceTo s e pc

/-- A change of registers that leaves pc and serial counter to the issue: registers after it. -/
theorem yields_modCur {g : CoreRegs → CoreRegs} (hi : Issues s e pneg pred)
    (hx : exec i s = .next { s with hw := issue s.hw e w pneg pred dec body }) (hd : dec = none)
    (hb : body s.hw = .done (s.hw.modCur e g)) (hpc : (g (regsOf s e)).pc = (regsOf s e).pc)
    (hserial : (g (regsOf s e)).serial = (regsOf s e).serial) :
    Yields i s (fun t => OnlyRegs s t e ∧ regsOf t e = { g (regsOf s e) with
      pc := (regsOf s e).pc + 8, serial := serialAfter s e }) := by
  have hcur : ((s.hw.modCur e g).easel e).cur = g (regsOf s e) := by simp [Hw.modCur, regsOf]
  refine yields_issue hi hx hd ?_
  rw [hb]
  simp only [applyEff, advance, hcur, hpc, serialAfter, ← hserial]
  exact goes_after s e g _

end

/-! ### Scalar instructions -/

section
variable {s : State} {e : EaselId} {i : Instr} {minor : BitVec 6} {v : Word}

theorem plainA_of {f : FmtA} (h3 : f.rs3 = 0) (hl : f.low = 0) : plainA f = true := by simp [plainA, h3, hl]

theorem yields_scalarAI {f : FmtAI} {op : Word → Word → Word} (hi : Issues s e f.pneg f.pred) (hl : f.legal)
    (hx : exec i s = run s (scalarAI minor op e f)) (hv : op (f.a s e) (f.b s e) = v) :
    Yields i s (fun t => WritesS s t e f.rd v) := by
  cases f with
  | reg f =>
    simp only [run, scalarAI] at hx
    exact yields_setS hi hx (resv_of (plainA_of hl.1 hl.2)) rfl hv
  | imm f =>
    simp only [run, scalarAI] at hx
    exact yields_setS hi hx rfl rfl hv

theorem yields_scalarA1 {f : FmtA} {op : Word → Word} (hi : Issues s e f.pneg f.pred) (h3 : f.rs3 = 0)
    (hl : f.low = 0) (h2 : f.rs2 = 0) (hx : exec i s = run s (scalarA1 minor op e f)) (hv : op (f.a s e) = v) :
    Yields i s (fun t => WritesS s t e f.rd v) :=
  yields_setS hi hx (resv_of (by simp [plainA_of h3 hl, h2])) rfl hv

theorem yields_scalarM {f : FmtA} {op : Word → Word → Word} (hi : Issues s e f.pneg f.pred) (h3 : f.rs3 = 0)
    (hl : f.low = 0) (hx : exec i s = run s (scalarM minor op e f)) (hv : op (f.a s e) (f.b s e) = v) :
    Yields i s (fun t => WritesS s t e f.rd v) :=
  yields_setS hi hx (resv_of (plainA_of h3 hl)) rfl hv

end

/-! ### Results of Table 3-8 -/

theorem aluAdd_eq (a b : Word) : aluAdd a b = BitVec.ofNat 64 (a.toNat + b.toNat) := by
  simp [aluAdd, BitVec.ofNat_add]

theorem aluSub_eq (a b : Word) : aluSub a b = BitVec.ofInt 64 (a.toInt - b.toInt) := by
  apply BitVec.eq_of_toInt_eq
  rw [aluSub, BitVec.toInt_sub, BitVec.toInt_ofInt]

theorem aluShl_eq (a b : Word) : aluShl a b = BitVec.ofNat 64 (a.toNat * 2 ^ (b.toNat % 64)) := by
  apply BitVec.eq_of_toNat_eq
  simp [aluShl, Nat.shiftLeft_eq]

theorem aluShr_eq (a b : Word) : aluShr a b = BitVec.ofNat 64 (a.toNat / 2 ^ (b.toNat % 64)) := by
  apply BitVec.eq_of_toNat_eq
  have hlt : a.toNat / 2 ^ (b.toNat % 64) < 2 ^ 64 := (Nat.div_le_self _ _).trans_lt a.isLt
  rw [BitVec.toNat_ofNat, Nat.mod_eq_of_lt hlt]
  simp [aluShr, Nat.shiftRight_eq_div_pow]

theorem aluSar_eq (a b : Word) : aluSar a b = BitVec.ofInt 64 (a.toInt / 2 ^ (b.toNat % 64)) := by
  apply BitVec.eq_of_toInt_eq
  have h : (a.sshiftRight (b.toNat % 64)).toInt = a.toInt / 2 ^ (b.toNat % 64) := by
    simp [BitVec.toInt_sshiftRight, Int.shiftRight_eq_div_pow]
  rw [aluSar, ← h, BitVec.ofInt_toInt]

theorem aluRor_eq (a b : Word) : aluRor a b =
    a >>> (b.toNat % 64) ||| a <<< (64 - b.toNat % 64) := by
  simp [aluRor, BitVec.rotateRight_def]

theorem aluMin_eq (a b : Word) : aluMin a b = if a.toInt ≤ b.toInt then a else b := by
  simp only [aluMin, BitVec.slt, decide_eq_true_eq]
  split_ifs with h1 h2 h2
  · rfl
  · omega
  · exact (BitVec.eq_of_toInt_eq (by omega)).symm
  · rfl

theorem aluMax_eq (a b : Word) : aluMax a b = if a.toInt ≤ b.toInt then b else a := by
  simp only [aluMax, BitVec.slt, decide_eq_true_eq]
  split_ifs with h1 h2 h2
  · rfl
  · omega
  · exact BitVec.eq_of_toInt_eq (by omega)
  · rfl

theorem aluMinu_eq (a b : Word) : aluMinu a b = if a.toNat ≤ b.toNat then a else b := by
  simp only [aluMinu, BitVec.lt_def]
  split_ifs with h1 h2 h2
  · rfl
  · omega
  · exact (BitVec.eq_of_toNat_eq (by omega)).symm
  · rfl

theorem aluMaxu_eq (a b : Word) : aluMaxu a b = if a.toNat ≤ b.toNat then b else a := by
  simp only [aluMaxu, BitVec.lt_def]
  split_ifs with h1 h2 h2
  · rfl
  · omega
  · exact BitVec.eq_of_toNat_eq (by omega)
  · rfl

theorem aluMul_eq (a b : Word) : aluMul a b = BitVec.ofNat 64 (a.toNat * b.toNat) := by
  simp [aluMul, BitVec.ofNat_mul]

theorem aluMadd_eq (a b c : Word) : aluMadd a b c = BitVec.ofNat 64 (a.toNat * b.toNat + c.toNat) := by
  simp [aluMadd, BitVec.ofNat_mul, BitVec.ofNat_add]

/-- R89: the quotient that does not fit is the dividend again. -/
theorem aluDiv_eq (a b : Word) : aluDiv a b = if b = 0 then BitVec.ofInt 64 (-1)
    else if a.toInt = -2 ^ 63 ∧ b.toInt = -1 then a else BitVec.ofInt 64 (a.toInt.tdiv b.toInt) := by
  unfold aluDiv
  split_ifs with h0 ho
  · rfl
  · rw [← BitVec.ofInt_toInt (x := a), ho.1, ho.2]
    rfl
  · rfl

theorem aluRem_eq (a b : Word) : aluRem a b = if b = 0 then a
    else if a.toInt = -2 ^ 63 ∧ b.toInt = -1 then 0
    else BitVec.ofInt 64 (a.toInt - b.toInt * a.toInt.tdiv b.toInt) := by
  unfold aluRem
  split_ifs with h0 ho
  · rfl
  · rw [ho.1, ho.2]
    rfl
  · rw [Int.tmod_def]

/-- MOVHI puts its immediate over the low half. -/
theorem aluMovhi_eq (a : Word) (imm : BitVec 38) (h : imm.toNat < 2 ^ 32) :
    aluMovhi a imm = imm.setWidth 32 ++ a.setWidth 32 := by
  apply BitVec.eq_of_toNat_eq
  have ha : a.toNat &&& 4294967295 = a.toNat % 2 ^ 32 := Nat.and_two_pow_sub_one_eq_mod a.toNat 32
  have himm : imm.toNat % 4294967296 = imm.toNat := Nat.mod_eq_of_lt h
  have hw : imm.toNat * 4294967296 % 18446744073709551616 = imm.toNat * 4294967296 := by
    apply Nat.mod_eq_of_lt
    omega
  simp only [aluMovhi, BitVec.toNat_or, BitVec.toNat_and, BitVec.toNat_append, BitVec.toNat_setWidth,
    BitVec.toNat_ofNat]
  rw [show BitVec.toNat (4294967295 : Word) = 4294967295 from rfl, ha]
  simp [himm, hw, Nat.shiftLeft_eq, Nat.lor_comm]

/-! ### Counts of bits -/

/-- The leading zeros of `n` bits: so many bits from the top are clear, and the next one is set. -/
theorem leadZ_spec (n v : Nat) : leadZ n v ≤ n ∧ (∀ k < leadZ n v, v.testBit (n - 1 - k) = false) ∧
    (leadZ n v < n → v.testBit (n - 1 - leadZ n v) = true) := by
  induction n with
  | zero => simp [leadZ]
  | succ n ih =>
    obtain ⟨hle, hclear, hset⟩ := ih
    by_cases hb : v.testBit n = true
    · simp [leadZ, hb]
    · have hl : leadZ (n + 1) v = leadZ n v + 1 := by simp [leadZ, hb, Nat.add_comm]
      rw [hl]
      refine ⟨by omega, fun k hk => ?_, fun h => ?_⟩
      · cases k with
        | zero => simpa using hb
        | succ k =>
          rw [show n + 1 - 1 - (k + 1) = n - 1 - k by omega]
          exact hclear k (by omega)
      · rw [show n + 1 - 1 - (leadZ n v + 1) = n - 1 - leadZ n v by omega]
        exact hset (by omega)

/-- The trailing zeros of `n` bits: so many low bits are clear, and the next one is set. -/
theorem trailZ_spec (n v : Nat) : trailZ n v ≤ n ∧ (∀ k < trailZ n v, v.testBit k = false) ∧
    (trailZ n v < n → v.testBit (trailZ n v) = true) := by
  induction n generalizing v with
  | zero => simp [trailZ]
  | succ n ih =>
    obtain ⟨hle, hclear, hset⟩ := ih (v / 2)
    by_cases hb : v % 2 = 1
    · simp [trailZ, hb]
    · have hl : trailZ (n + 1) v = trailZ n (v / 2) + 1 := by simp [trailZ, hb, Nat.add_comm]
      rw [hl]
      refine ⟨by omega, fun k hk => ?_, fun h => ?_⟩
      · cases k with
        | zero => simpa using hb
        | succ k => simpa [Nat.testBit_succ] using hclear k (by omega)
      · rw [Nat.testBit_succ]
        exact hset (by omega)

/-- The one bits of `n` bits, counted one by one. -/
theorem popc_eq (n v : Nat) : popc n v = (List.range n).countP (fun k => v.testBit k) := by
  induction n generalizing v with
  | zero => rfl
  | succ n ih =>
    rw [popc, ih, List.range_succ_eq_map, List.countP_cons, List.countP_map, Nat.add_comm]
    congr 1
    · exact List.countP_congr (fun k _ => by simp [Nat.testBit_succ])
    · by_cases hb : v % 2 = 1
      · simp [hb]
      · simp [hb]
        omega

theorem aluPopc_eq (a : Word) :
    aluPopc a = BitVec.ofNat 64 ((List.range 64).countP (fun k => a.getLsbD k)) :=
  congrArg (BitVec.ofNat 64) (popc_eq 64 a.toNat)

end Sys2Proof.Machine

namespace Sys2Proof

open Sys2Proof.Machine

/-- Settles O1: every instruction of Table 3-8 writes what its function of the operands gives (`yields_scalarAI`,
`yields_scalarA1`, `yields_scalarM`), and that is the table's result. -/
theorem scalarInstructionsWriteTableResult : Obligations.ScalarInstructionsWriteTableResult := by
  intro s e
  refine ⟨fun f hi hl => ⟨?_, ?_, ?_, ?_, ?_, ?_, ?_, ?_, ?_, ?_, ?_, ?_, ?_, ?_⟩,
    fun f hi h3 hl => ⟨fun h2 => ⟨?clz, ?ctz, ?popc⟩, ?_, ?_, ?_, ?_, ?_, ?divu, ?_⟩, fun f hi hl => ⟨?madd, fun h3 => ?sel⟩,
    fun f hi => ⟨fun h1 => ?movi, fun himm => ?movhi⟩⟩
  case clz =>
    obtain ⟨hle, hclear, hset⟩ := leadZ_spec 64 (f.a s e).toNat
    exact (yields_scalarA1 hi h3 hl h2 rfl rfl).imp (fun t ht => ⟨_, hle, ht, hclear, hset⟩)
  case ctz =>
    obtain ⟨hle, hclear, hset⟩ := trailZ_spec 64 (f.a s e).toNat
    exact (yields_scalarA1 hi h3 hl h2 rfl rfl).imp (fun t ht => ⟨_, hle, ht, hclear, hset⟩)
  case popc => exact yields_scalarA1 hi h3 hl h2 rfl (aluPopc_eq _)
  case madd => exact yields_setS hi rfl (resv_of (by simp [hl])) rfl (aluMadd_eq _ _ _)
  case sel => exact yields_setS hi rfl (resv_of (by simp [predReg, h3, hl])) rfl rfl
  case movi => exact yields_setS hi rfl (resv_of (by simp [h1])) rfl rfl
  case movhi =>
    have hd : resv (decide (f.imm.toNat < 2 ^ 32)) = none := resv_of (decide_eq_true himm)
    exact yields_setS hi rfl hd rfl (aluMovhi_eq _ _ himm)
  · exact yields_scalarAI hi hl rfl (aluAdd_eq _ _)
  · exact yields_scalarAI hi hl rfl (aluSub_eq _ _)
  · exact yields_scalarAI hi hl rfl rfl
  · exact yields_scalarAI hi hl rfl rfl
  · exact yields_scalarAI hi hl rfl rfl
  · exact yields_scalarAI hi hl rfl rfl
  · exact yields_scalarAI hi hl rfl (aluShl_eq _ _)
  · exact yields_scalarAI hi hl rfl (aluShr_eq _ _)
  · exact yields_scalarAI hi hl rfl (aluSar_eq _ _)
  · exact yields_scalarAI hi hl rfl (aluRor_eq _ _)
  · exact yields_scalarAI hi hl rfl (aluMin_eq _ _)
  · exact yields_scalarAI hi hl rfl (aluMax_eq _ _)
  · exact yields_scalarAI hi hl rfl (aluMinu_eq _ _)
  · exact yields_scalarAI hi hl rfl (aluMaxu_eq _ _)
  · exact yields_scalarM hi h3 hl rfl (aluMul_eq _ _)
  · exact yields_scalarM hi h3 hl rfl rfl
  · exact yields_scalarM hi h3 hl rfl rfl
  · exact yields_scalarM hi h3 hl rfl (aluDiv_eq _ _)
  · exact yields_scalarM hi h3 hl rfl (aluRem_eq _ _)
  case divu => exact yields_scalarM hi h3 hl rfl rfl
  · exact yields_scalarM hi h3 hl rfl rfl

end Sys2Proof
end

section
/-! Proofs about the instructions that write predicates, and about branches and jumps. -/

namespace Sys2Proof.Machine

/-! ### Predicates -/

section
variable {s : State} {e : EaselId} {i : Instr} {w : Word} {pneg : Bool} {pred : BitVec 3} {dec : Option (BitVec 8)}
  {body : Hw → Eff} {minor : BitVec 6}

/-- Writing one bit of the predicate byte. -/
theorem getLsbD_writeBit (p : BitVec 8) {i j : Nat} (b : Bool) (hj : j < 8) :
    (p &&& ~~~(1#8 <<< i) ||| (if b then 1#8 <<< i else 0)).getLsbD j = if j = i then b else p.getLsbD j := by
  have hone : (1#8 <<< i).getLsbD j = decide (j = i) := by
    rw [BitVec.getLsbD_shiftLeft, BitVec.getLsbD_one, Bool.eq_iff_iff]
    simp [hj]
    omega
  have hbit : (if b then 1#8 <<< i else 0).getLsbD j = (b && decide (j = i)) := by cases b <;> simp [hone]
  rw [BitVec.getLsbD_or, BitVec.getLsbD_and, BitVec.getLsbD_not, hone, hbit]
  by_cases h : j = i <;> simp [h, hj]

theorem CoreRegs.pget_of_ne (r : CoreRegs) {i : BitVec 3} (hi : i ≠ 0#3) : r.pget i = r.p.getLsbD i.toNat := by
  simp [CoreRegs.pget, hi]

theorem CoreRegs.pget_pput (r : CoreRegs) (i j : BitVec 3) (b : Bool) :
    (r.pput i b).pget j = if j = i ∧ i ≠ 0#3 then b else r.pget j := by
  by_cases hi : i = 0#3
  · simp [CoreRegs.pput, hi]
  by_cases hj0 : j = 0#3
  · simp [hj0, CoreRegs.pget, Ne.symm hi]
  have hp : (r.pput i b).p = r.p &&& ~~~(1#8 <<< i.toNat) ||| (if b then 1#8 <<< i.toNat else 0) :=
    congrArg CoreRegs.p (if_neg hi)
  have hlt : j.toNat < 8 := j.isLt
  rw [CoreRegs.pget_of_ne _ hj0, CoreRegs.pget_of_ne _ hj0, hp, getLsbD_writeBit _ _ hlt]
  simp [hi, BitVec.toNat_inj]

theorem CoreRegs.pput_pc (r : CoreRegs) (i : BitVec 3) (b : Bool) : (r.pput i b).pc = r.pc := by
  unfold CoreRegs.pput
  split <;> rfl

theorem CoreRegs.pput_serial (r : CoreRegs) (i : BitVec 3) (b : Bool) : (r.pput i b).serial = r.serial := by
  unfold CoreRegs.pput
  split <;> rfl

/-- An instruction whose effect is to write a predicate register. -/
theorem yields_setP {rd : BitVec 5} {b b' : Bool} (hi : Issues s e pneg pred)
    (hx : exec i s = .next { s with hw := issue s.hw e w pneg pred dec body }) (hd : dec = none)
    (hb : body s.hw = .done (s.hw.setP e rd b)) (hv : b = b') :
    Yields i s (fun t => WritesP s t e (rd.setWidth 3) b') := by
  subst hv
  refine (yields_modCur hi hx hd hb (CoreRegs.pput_pc _ _ _) (CoreRegs.pput_serial _ _ _)).imp ?_
  rintro t ⟨honly, hr⟩
  have hget (j : BitVec 3) : (regsOf t e).pget j = ((regsOf s e).pput (rd.setWidth 3) b).pget j := by rw [hr]; rfl
  refine ⟨honly, ?_, fun j hj => ?_, ?_⟩
  · rw [hget, CoreRegs.pget_pput]
    by_cases h0 : rd.setWidth 3 = 0#3
    · simp only [h0]
      rfl
    · rw [if_pos ⟨rfl, h0⟩]
      exact (if_neg h0).symm
  · rw [hget, CoreRegs.pget_pput, if_neg (fun h => hj h.1)]
  · rw [hr]
    unfold CoreRegs.pput
    split <;> rfl

theorem yields_compareAI {f : FmtAI} {op : Word → Word → Bool} {b : Bool} (hi : Issues s e f.pneg f.pred)
    (hl : f.legal) (hrd : f.rd.toNat < 8) (hx : exec i s = run s (compareAI minor op e f))
    (hv : op (f.a s e) (f.b s e) = b) : Yields i s (fun t => WritesP s t e (f.rd.setWidth 3) b) := by
  cases f with
  | reg f =>
    have hrd' : predReg f.rd = true := decide_eq_true hrd
    simp only [run, compareAI] at hx
    exact yields_setP hi hx (resv_of (by simp [plainA_of hl.1 hl.2, hrd'])) rfl hv
  | imm f =>
    simp only [run, compareAI] at hx
    exact yields_setP hi hx (resv_of (decide_eq_true hrd)) rfl hv

theorem yields_predLogic {f : FmtA} {op : Bool → Bool → Bool} {b : Bool} (hi : Issues s e f.pneg f.pred)
    (h3 : f.rs3 = 0) (hl : f.low = 0) (hx : exec i s = run s (predLogic minor op e f))
    (hv : op ((regsOf s e).pr f.rs1) ((regsOf s e).pr f.rs2) = b) :
    Yields i s (fun t => WritesP s t e (f.rd.setWidth 3) b) :=
  yields_setP hi hx (resv_of (plainA_of h3 hl)) rfl hv

end

theorem cmpGe_eq (a b : Word) : cmpGe a b = decide (b.toInt ≤ a.toInt) := by
  rw [cmpGe, BitVec.slt, ← decide_not, decide_eq_decide, not_lt]

theorem cmpGeu_eq (a b : Word) : cmpGeu a b = decide (b.toNat ≤ a.toNat) := by
  rw [cmpGeu, BitVec.ult, ← decide_not, decide_eq_decide, not_lt]

/-- PGET's word: the eight predicates, p0 being 1. -/
theorem getLsbD_predicates (r : CoreRegs) (i : BitVec 3) :
    ((r.p ||| 1).setWidth 64).getLsbD i.toNat = r.pget i := by
  have hlt : i.toNat < 8 := i.isLt
  by_cases h0 : i = 0#3
  · simp [h0, CoreRegs.pget]
  · have hne : i.toNat ≠ 0 := fun h => h0 (BitVec.eq_of_toNat_eq h)
    have hlt64 : i.toNat < 64 := by omega
    rw [CoreRegs.pget_of_ne r h0]
    simp [hlt64, hne]

/-- PSET's predicates: bits 1 to 7 of the word, p0 staying 1. -/
theorem pget_loaded (r : CoreRegs) (v : Word) (i : BitVec 3) :
    CoreRegs.pget { r with p := v.setWidth 8 ||| 1 } i = if i = 0 then true else v.getLsbD i.toNat := by
  have hlt : i.toNat < 8 := i.isLt
  by_cases h0 : i = 0#3
  · simp [h0, CoreRegs.pget]
  · have hne : i.toNat ≠ 0 := fun h => h0 (BitVec.eq_of_toNat_eq h)
    rw [CoreRegs.pget_of_ne _ h0]
    refine Eq.trans ?_ (if_neg h0).symm
    simp [hlt, hne]

/-! ### Branches and jumps -/

/-- R92: the target counts off33 in instructions from the branch itself. -/
theorem branchTo_eq (pc : Word) (off : BitVec 33) : branchTo pc off = BitVec.ofInt 64 (pc.toInt + off.toInt * 8) := by
  have hoff : off.signExtend 64 <<< 3 = BitVec.ofInt 64 (off.toInt * 8) := by
    rw [BitVec.shiftLeft_eq_mul_twoPow, show BitVec.twoPow 64 3 = BitVec.ofInt 64 8 from rfl, BitVec.ofInt_mul]
    rfl
  rw [branchTo, hoff, BitVec.ofInt_add, BitVec.ofInt_toInt]

section
variable {s : State} {e : EaselId} {i : Instr} {minor : BitVec 6}

/-- A branch goes to its target when its condition holds and on otherwise. -/
theorem yields_branch {f : FmtB} {unused : FmtB → Bool} {taken : Word → Word → Bool} {b : Bool}
    (hi : Issues s e f.pneg f.pred) (hrd : f.rd = 0) (hu : unused f = true)
    (hx : exec i s = run s (branch minor unused taken e f))
    (hb : taken ((regsOf s e).get f.rs1) ((regsOf s e).get f.rs2) = b) :
    Yields i s (fun t => MovesTo s t e
      (if b then BitVec.ofInt 64 ((regsOf s e).pc.toInt + f.off.toInt * 8) else (regsOf s e).pc + 8)) := by
  have hd : resv (f.rd == 0 && unused f) = none := resv_of (by simp [hrd, hu])
  have hb' : taken ((s.hw.easel e).cur.get f.rs1) ((s.hw.easel e).cur.get f.rs2) = b := hb
  rw [← branchTo_eq]
  cases b with
  | true => exact yields_jump hi hx hd (if_pos hb')
  | false => exact yields_done hi hx hd (if_neg (by simp [hb']))

end

end Sys2Proof.Machine

namespace Sys2Proof

open Sys2Proof.Machine

/-- Settles O2: a compare writes its condition (`yields_compareAI`), predicate logic its value (`yields_predLogic`), and
PGET and PSET move the eight predicates as bits. -/
theorem comparesAndPredicateLogicWritePredicates : Obligations.ComparesAndPredicateLogicWritePredicates := by
  intro s e
  refine ⟨fun f hi hl hrd => ⟨?_, ?_, ?_, ?_, ?_, ?_, ?_⟩,
    fun f hi h3 hl => ⟨?_, ?_, ?_, ?_, fun h2 => ?pnot, fun h1 h2 => ?pget, fun hrd h2 => ?pset⟩⟩
  case pnot => exact yields_setP hi rfl (resv_of (by simp [plainA_of h3 hl, h2])) rfl rfl
  case pget =>
    refine (yields_setS hi rfl (resv_of (by simp [plainA_of h3 hl, h1, h2])) rfl rfl).imp
      (fun t ht => ⟨_, ht, getLsbD_predicates (regsOf s e), ?_⟩)
    rw [BitVec.toNat_setWidth]
    exact (Nat.mod_le _ _).trans_lt ((regsOf s e).p ||| 1).isLt
  case pset =>
    refine (yields_modCur hi rfl (resv_of (by simp [plainA_of h3 hl, hrd, h2])) rfl rfl rfl).imp ?_
    rintro t ⟨honly, hr⟩
    refine ⟨honly, fun i => ?_, by rw [hr]⟩
    rw [hr]
    exact pget_loaded (regsOf s e) (f.a s e) i
  · exact yields_compareAI hi hl hrd rfl rfl
  · exact yields_compareAI hi hl hrd rfl (by simp [cmpNe, bne, beq_eq_decide])
  · exact yields_compareAI hi hl hrd rfl rfl
  · exact yields_compareAI hi hl hrd rfl (cmpGe_eq _ _)
  · exact yields_compareAI hi hl hrd rfl rfl
  · exact yields_compareAI hi hl hrd rfl (cmpGeu_eq _ _)
  · exact yields_compareAI hi hl hrd rfl (by simp [cmpTest, bne, beq_eq_decide])
  · exact yields_predLogic hi h3 hl rfl rfl
  · exact yields_predLogic hi h3 hl rfl rfl
  · exact yields_predLogic hi h3 hl rfl rfl
  · exact yields_predLogic hi h3 hl rfl rfl

end Sys2Proof
end

section
/-! Proofs about faults: what recording a fault leaves of easels and memory, and what a precise fault of a core
shows. -/

namespace Sys2Proof.Machine

/-! ### Recording a fault -/

/-- What a table holds once the entries that satisfy a condition have been changed. -/
theorem SMap.get_map_if {α : Type} {d : α} {q : α → Prop} [DecidablePred q] {f : α → α} (m : SMap α) (k : Nat)
    (hd : ¬ q d) :
    SMap.get d (m.map (fun p => if q p.2 then (p.1, f p.2) else p)) k =
      if q (SMap.get d m k) then f (SMap.get d m k) else SMap.get d m k := by
  induction m with
  | nil => simp [hd]
  | cons p m ih =>
    obtain ⟨j, x⟩ := p
    by_cases hj : j = k
    · by_cases hc : q x <;> simp [SMap.get, hj, hc]
    · by_cases hc : q x <;> simpa [SMap.get, hj, hc] using ih

theorem Hw.easel_modLoaded (h : Hw) (c : CtxId) (f : Easel → Easel) (e : EaselId) :
    (h.modLoaded c f).easel e = if (h.easel e).loaded = some c then f (h.easel e) else h.easel e := by
  exact SMap.get_map_if (q := fun x => x.loaded = some c) h.easels e.val (d := Easel.init) nofun

@[simp] theorem logFault_easels (h : Hw) (r : FaultRec) : (logFault h r).easels = h.easels := by
  unfold logFault logAcc logPath logMemError
  split_ifs <;> rfl

@[simp] theorem logFault_mem (h : Hw) (r : FaultRec) : (logFault h r).mem = h.mem := by
  unfold logFault logAcc logPath logMemError
  split_ifs <;> rfl

@[simp] theorem logFault_ctxs (h : Hw) (r : FaultRec) : (logFault h r).ctxs = h.ctxs := by
  unfold logFault logAcc logPath logMemError
  split_ifs <;> rfl

@[simp] theorem openCapture_mem (h : Hw) (level : BitVec 3) (trigger : BitVec 8) (ctxs : Word) (easel : BitVec 8)
    (parts : BitVec 4) : (openCapture h level trigger ctxs easel parts).mem = h.mem := rfl

@[simp] theorem openCapture_easels (h : Hw) (level : BitVec 3) (trigger : BitVec 8) (ctxs : Word) (easel : BitVec 8)
    (parts : BitVec 4) : (openCapture h level trigger ctxs easel parts).easels = h.easels := rfl

@[simp] theorem stopFaulted_mem (h : Hw) (c : CtxId) (r : FaultRec) : (stopFaulted h c r).mem = h.mem := by
  simp [stopFaulted]

@[simp] theorem displacePrimary_mem (h : Hw) (c : CtxId) (r : FaultRec) : (displacePrimary h c r).mem = h.mem := by
  simp [displacePrimary]

@[simp] theorem displacePrimary_easels (h : Hw) (c : CtxId) (r : FaultRec) :
    (displacePrimary h c r).easels = h.easels := by
  simp [displacePrimary]

@[simp] theorem recordNoCtx_mem (h : Hw) (r : FaultRec) : (recordNoCtx h r).mem = h.mem := rfl

@[simp] theorem recordNoCtx_easels (h : Hw) (r : FaultRec) : (recordNoCtx h r).easels = h.easels := rfl

@[simp] theorem recordPrimary_mem (h : Hw) (c : CtxId) (r : FaultRec) : (recordPrimary h c r).mem = h.mem := by
  simp [recordPrimary, apply_ite Hw.mem]

@[simp] theorem recordPrimary_easels (h : Hw) (c : CtxId) (r : FaultRec) :
    (recordPrimary h c r).easels = (stopFaulted h c r).easels := by
  simp [recordPrimary, apply_ite Hw.easels]

theorem recordPrimary_easel (h : Hw) (c : CtxId) (r : FaultRec) (e : EaselId) :
    (recordPrimary h c r).easel e =
      if (h.easel e).loaded = some c then { h.easel e with stopped := true } else h.easel e := by
  have hrec : (recordPrimary h c r).easel e =
      ((h.modCtx c (fun x => { x with faults := [{ r with primary := true, number := 0, job := (h.ctx c).job }] })).modLoaded
        c (fun x => { x with stopped := true })).easel e := by simp [Hw.easel, stopFaulted]
  rw [hrec, Hw.easel_modLoaded]
  rfl

/-- Recording a fault leaves memory as it is. -/
@[simp] theorem recordFault_mem (h : Hw) (r : FaultRec) : (recordFault h r).mem = h.mem := by
  unfold recordFault
  cases r.ctx with
  | none => simp
  | some c => cases hf : ((logFault h r).ctx c).faults <;> simp [hf, apply_ite Hw.mem]

/-- Recording a fault changes no easel but by stopping those on which the fault's context is loaded. -/
theorem recordFault_easel (h : Hw) (r : FaultRec) (e : EaselId) :
    (recordFault h r).easel e = h.easel e ∨ (recordFault h r).easel e = { h.easel e with stopped := true } := by
  have hlog : (logFault h r).easel e = h.easel e := by simp [Hw.easel]
  unfold recordFault
  cases r.ctx with
  | none => exact .inl hlog
  | some c =>
    have hperf : (perfAdd (logFault h r) c 13 1).easel e = h.easel e := hlog
    dsimp only
    by_cases hz : ((logFault h r).ctx c).state = 0 ∨ ((logFault h r).ctx c).state = 7
    · rw [if_pos hz]
      exact .inl hlog
    · rw [if_neg hz]
      cases hf : ((logFault h r).ctx c).faults with
      | nil =>
        dsimp only
        rw [recordPrimary_easel, hperf]
        split
        · exact .inr rfl
        · exact .inl rfl
      | cons p l =>
        refine .inl (Eq.trans ?_ hlog)
        simp [Hw.easel, apply_ite Hw.easels]

/-- The first fault of a context that may show faults is its primary one. -/
theorem recordFault_primary {h : Hw} {r : FaultRec} {c : CtxId} (hr : r.ctx = some c) (h0 : (h.ctx c).state ≠ 0)
    (h7 : (h.ctx c).state ≠ 7) (hf : (h.ctx c).faults = []) :
    recordFault h r = recordPrimary (perfAdd (logFault h r) c 13 1) c r := by
  have hctx : (logFault h r).ctx c = h.ctx c := by simp [Hw.ctx]
  unfold recordFault
  simp only [hr, hctx, h0, h7, hf, or_self, if_false]

/-! ### Precise faults -/

@[simp] theorem countNoRoute_easels (h : Hw) (cls : BitVec 8) : (countNoRoute h cls).easels = h.easels := by
  unfold countNoRoute
  split <;> rfl

@[simp] theorem countNoRoute_mem (h : Hw) (cls : BitVec 8) : (countNoRoute h cls).mem = h.mem := by
  unfold countNoRoute
  split <;> rfl

@[simp] theorem coreFault_mem (h : Hw) (e : EaselId) (svc : Bool) (cls : BitVec 8) (precise : Bool)
    (serial pc addr inst : Word) : (coreFault h e svc cls precise serial pc addr inst).mem = h.mem := by
  rw [coreFault, recordFault_mem]
  rfl

/-- The class word of the cs_f registers (Table 3-2): bit 8 marks a precise fault, bit 9 a valid one. -/
theorem faultClassWord (cls : BitVec 8) (precise : Bool) :
    put cls.toNat 0 8 ||| bitw precise 8 ||| bitw true 9 = (cls.setWidth 64 ||| if precise then 0x300 else 0x200) := by
  have hcls : put cls.toNat 0 8 = cls.setWidth 64 := by
    apply BitVec.eq_of_toNat_eq
    have hlt' : cls.toNat % 256 = cls.toNat := Nat.mod_eq_of_lt cls.isLt
    simp [put, hlt']
  cases precise <;> rw [hcls, BitVec.or_assoc] <;> rfl

/-- What a core's fault leaves of its easel: the cs_f registers show the fault, and the core waits for nothing and
issues nothing for the mode that faulted. -/
def Easel.faulted (x : Easel) (svc : Bool) (cls : BitVec 8) (precise : Bool) (serial pc addr inst : Word) : Easel :=
  let y := { x with csr := x.csr.record cls precise serial pc addr inst }
  if svc then { y with idled := true, svcBlocked := none } else { y with stopped := true, blocked := none }

theorem coreFault_easel (h : Hw) (e : EaselId) (svc : Bool) (cls : BitVec 8) (precise : Bool)
    (serial pc addr inst : Word) : ∃ b, (svc = true ∨ b = true) ∧
    (coreFault h e svc cls precise serial pc addr inst).easel e =
      { (h.easel e).faulted svc cls precise serial pc addr inst with stopped := b } := by
  have hmod : (h.modEasel e (fun y => y.faulted svc cls precise serial pc addr inst)).easel e =
      (h.easel e).faulted svc cls precise serial pc addr inst := Hw.easel_modEasel _ _ _
  have hstop : svc = true ∨ ((h.easel e).faulted svc cls precise serial pc addr inst).stopped = true := by
    cases svc
    · exact .inr rfl
    · exact .inl rfl
  rcases recordFault_easel (h.modEasel e (fun y => y.faulted svc cls precise serial pc addr inst)) _ e with hx | hx
  · rw [hmod] at hx
    exact ⟨_, hstop, hx⟩
  · rw [hmod] at hx
    exact ⟨true, .inr rfl, hx⟩

/-- A core whose mode in force has faulted shows the precise fault and issues nothing more. -/
theorem coreFault_faultsPrecisely {s : State} {e : EaselId} {h : Hw} (he : h.easel e = s.hw.easel e) (cls : BitVec 8)
    (addr inst : Word) :
    FaultsPrecisely s { s with
      hw := coreFault h e (s.hw.easel e).service cls true (regsOf s e).serial (regsOf s e).pc addr inst }
      e cls addr inst := by
  obtain ⟨b, hb, hx⟩ :=
    coreFault_easel h e (s.hw.easel e).service cls true (regsOf s e).serial (regsOf s e).pc addr inst
  rw [he] at hx
  generalize coreFault h e (s.hw.easel e).service cls true (regsOf s e).serial (regsOf s e).pc addr inst = g at hx
  cases hs : (s.hw.easel e).service <;> rw [hs] at hx hb <;>
    simp_all [FaultsPrecisely, coreReady, regsOf, Easel.faulted, Easel.cur, FaultCsr.record, faultClassWord]

section
variable {s : State} {e : EaselId} {i : Instr} {w : Word} {pneg : Bool} {pred : BitVec 3} {dec : Option (BitVec 8)}
  {body : Hw → Eff}

theorem applyEff_fault_faultsPrecisely (s : State) (e : EaselId) (w : Word) (cls : BitVec 8) (addr : Word) :
    FaultsPrecisely s { s with hw := applyEff s.hw e w (.fault cls addr) } e cls addr w :=
  coreFault_faultsPrecisely (by simp [Hw.easel]) cls addr w

/-- An instruction whose effect is a precise fault. -/
theorem yields_fault {cls : BitVec 8} {addr : Word} (hi : Issues s e pneg pred)
    (hx : exec i s = .next { s with hw := issue s.hw e w pneg pred dec body }) (hd : dec = none)
    (hb : body s.hw = .fault cls addr) :
    Yields i s (fun t => FaultsPrecisely s t e cls addr w ∧ t.hw.mem = s.hw.mem) := by
  refine yields_issue hi hx hd ?_
  rw [hb]
  exact ⟨applyEff_fault_faultsPrecisely s e w cls addr, by simp [applyEff]⟩

/-- An instruction that does not decode. -/
theorem yields_undecoded {cls : BitVec 8} (hi : Issues s e pneg pred)
    (hx : exec i s = .next { s with hw := issue s.hw e w pneg pred dec body }) (hd : dec = some cls) :
    Yields i s (fun t => FaultsPrecisely s t e cls 0 w ∧ t.hw.mem = s.hw.mem) := by
  subst hd
  refine yields_run hx (issue_faults pneg pred hi.1 w cls body) ?_
  exact ⟨coreFault_faultsPrecisely rfl cls 0 w, coreFault_mem ..⟩

end

end Sys2Proof.Machine

namespace Sys2Proof

open Sys2Proof.Machine

/-- Settles O3: each branch goes where `yields_branch` says; CALL and JALR write and jump, or JALR faults. -/
theorem branchesAndJumpsGoToTheirTarget : Obligations.BranchesAndJumpsGoToTheirTarget := by
  intro s e
  refine ⟨fun f hi => ⟨fun hrd => ⟨fun h1 h2 => ?b, fun h2 => ⟨?bz, ?bnz⟩, ?beq, ?bne, ?blt, ?bge, ?bltu, ?bgeu⟩,
    fun h1 h2 => ?call⟩, fun f hi => ⟨fun hal => ?jump, fun hmis => ?misaligned⟩⟩
  case b => exact yields_branch hi hrd (by simp [h1, h2]) rfl rfl
  case bz => exact yields_branch hi hrd (by simp [h2]) rfl rfl
  case bnz => exact yields_branch hi hrd (by simp [h2]) rfl (by simp [bne, beq_eq_decide])
  case beq => exact yields_branch hi hrd rfl rfl rfl
  case bne => exact yields_branch hi hrd rfl rfl (by simp [bne, beq_eq_decide])
  case blt => exact yields_branch hi hrd rfl rfl rfl
  case bge => exact yields_branch hi hrd rfl rfl (cmpGe_eq _ _)
  case bltu => exact yields_branch hi hrd rfl rfl rfl
  case bgeu => exact yields_branch hi hrd rfl rfl (cmpGeu_eq _ _)
  case call =>
    rw [← branchTo_eq]
    exact yields_setS_jump hi rfl (resv_of (by simp [h1, h2])) rfl
  case jump => exact yields_setS_jump hi rfl rfl (if_neg (not_not.mpr hal))
  case misaligned => exact (yields_fault hi rfl rfl (if_pos hmis)).imp (fun t ht => ht.1)

end Sys2Proof
end

section
/-! Proofs about loads and stores of local memory. -/

namespace Sys2Proof.Machine

section
variable {s : State} {e : EaselId} {i : Instr} {minor : BitVec 6} {f : FmtI} {off n : Nat} {cls : BitVec 8}

theorem alignFirst_eq (cls : BitVec 8) (a n : Nat) :
    alignFirst cls a n = if cls = 0x06 ∧ a % n ≠ 0 then 0x14 else cls := rfl

/-- R98: a load from a local offset that is not a multiple of its size. -/
theorem yields_load_misaligned {signed : Bool} (hi : Issues s e f.pneg f.pred)
    (hx : exec i s = run s (loadI minor n signed e f)) (hd : coreDecode s.hw (s.hw.easel e) (f.addr s e) = .local off)
    (hmis : off % n ≠ 0) :
    Yields i s (fun t => FaultsPrecisely s t e 0x14 (f.addr s e) (wordI 0x0C minor f) ∧
      ∀ a, t.hw.mem.byte a = s.hw.mem.byte a) := by
  refine (yields_fault hi hx rfl ?_).imp (fun t ht => ⟨ht.1, fun a => by rw [ht.2]⟩)
  have heff : loadEff e f.rd (f.addr s e) n signed s.hw = .fault 0x14 (f.addr s e) := by
    simp only [loadEff, hd, if_pos hmis]
  exact heff

/-- R113: a load whose address the decoding refuses. -/
theorem yields_load_refused {signed : Bool} (hi : Issues s e f.pneg f.pred)
    (hx : exec i s = run s (loadI minor n signed e f)) (hd : coreDecode s.hw (s.hw.easel e) (f.addr s e) = .fault cls) :
    Yields i s (fun t => FaultsPrecisely s t e (alignFirst cls (f.addr s e).toNat n) (f.addr s e) (wordI 0x0C minor f) ∧
      ∀ a, t.hw.mem.byte a = s.hw.mem.byte a) := by
  refine (yields_fault hi hx rfl ?_).imp (fun t ht => ⟨ht.1, fun a => by rw [ht.2]⟩)
  have heff : loadEff e f.rd (f.addr s e) n signed s.hw =
      .fault (alignFirst cls (f.addr s e).toNat n) (f.addr s e) := by
    simp only [loadEff, hd]
  exact heff

/-- R98: a store to a local offset that is not a multiple of its size. -/
theorem yields_store_misaligned (hi : Issues s e f.pneg f.pred)
    (hx : exec i s = run s (storeI minor n e f)) (hd : coreDecode s.hw (s.hw.easel e) (f.addr s e) = .local off)
    (hmis : off % n ≠ 0) :
    Yields i s (fun t => FaultsPrecisely s t e 0x14 (f.addr s e) (wordI 0x0D minor f) ∧
      ∀ a, t.hw.mem.byte a = s.hw.mem.byte a) := by
  simp only [run, storeI] at hx
  refine (yields_fault hi hx rfl ?_).imp (fun t ht => ⟨ht.1, fun a => by rw [ht.2]⟩)
  have heff (w v : Word) : storeEff e w (f.addr s e) v n s.hw = .fault 0x14 (f.addr s e) := by
    simp only [storeEff, hd, if_pos hmis]
  exact heff _ _

/-- R113: a store whose address the decoding refuses. -/
theorem yields_store_refused (hi : Issues s e f.pneg f.pred)
    (hx : exec i s = run s (storeI minor n e f)) (hd : coreDecode s.hw (s.hw.easel e) (f.addr s e) = .fault cls) :
    Yields i s (fun t => FaultsPrecisely s t e (alignFirst cls (f.addr s e).toNat n) (f.addr s e) (wordI 0x0D minor f) ∧
      ∀ a, t.hw.mem.byte a = s.hw.mem.byte a) := by
  simp only [run, storeI] at hx
  refine (yields_fault hi hx rfl ?_).imp (fun t ht => ⟨ht.1, fun a => by rw [ht.2]⟩)
  have heff (w v : Word) : storeEff e w (f.addr s e) v n s.hw =
      .fault (alignFirst cls (f.addr s e).toNat n) (f.addr s e) := by
    simp only [storeEff, hd]
  exact heff _ _

end

end Sys2Proof.Machine

namespace Sys2Proof

open Sys2Proof.Machine

/-- Settles O6: both faults are taken where the address is decoded, before anything moves. -/
theorem misalignedAccessFaultsAndMovesNothing : Obligations.MisalignedAccessFaultsAndMovesNothing := by
  intro s e f off cls hi
  refine ⟨⟨?_, ?_, ?_, ?_, ?_, ?_, ?_, ?_⟩, ⟨?_, ?_, ?_, ?_, ?_, ?_, ?_, ?_, ?_, ?_, ?_⟩⟩
  iterate 5 exact yields_load_misaligned hi rfl
  iterate 3 exact yields_store_misaligned hi rfl
  iterate 7 exact yields_load_refused hi rfl
  iterate 4 exact yields_store_refused hi rfl

end Sys2Proof
end

section
/-! Proofs about control registers: CSRR of a scratch register whose table of values lists a zero. -/

namespace Sys2Proof.Machine

/-- Easel 0 runs firmware, and its table of scratch registers lists register 0 as holding 0. -/
def zeroListed : State :=
  { hw := { Hw.reset with
      bru := { Hw.reset.bru with enabled := [0] }
      pins := { Hw.reset.pins with computeOn := true }
      easels := [(0, { Easel.init with
        idled := false, svcCore := { CoreRegs.init with scratch := [(0, 0)] } })] }
    pending := [] }

/-- CSRR of cs_scratch0 to s0. -/
def readScratch : FmtC := { pneg := false, pred := 0, rd := 0, rs1 := 0, csr := 0x010, low := 0 }

theorem zeroListed_issues : Issues zeroListed 0 readScratch.pneg readScratch.pred := by decide +kernel

theorem zeroListed_reads : csrRead zeroListed.hw 0 0x010 = some 0 := by decide +kernel

/-- CSRR stores the value read again, and storing 0 lists nothing. -/
theorem zeroListed_scratch :
    ((csrOp 0x00 false (fun _ old _ => old) (fun f => f.rs1 == 0) 0 readScratch zeroListed.hw).easel 0).cur.scratch = [] := by
  decide +kernel

end Sys2Proof.Machine

namespace Sys2Proof

open Sys2Proof.Machine

/-- Refutes O7: CSRR writes back the value that it reads, which changes the table of scratch registers where that lists
a zero (`zeroListed`), while the statement has CSRR change nothing but s[rd], of every state. -/
theorem not_controlRegisterInstructionsReadAndWrite : ¬ Obligations.ControlRegisterInstructionsReadAndWrite := by
  intro h
  obtain ⟨-, -, hread, -⟩ := h zeroListed 0 readScratch zeroListed_issues rfl
  obtain ⟨hcsrr, -⟩ := hread 0 zeroListed_reads (.inl (by decide))
  obtain ⟨t, ht, -, -, -, hrest⟩ := hcsrr rfl
  obtain rfl := Host.Outcome.next.inj ht
  have hscratch : (regsOf _ 0).scratch = [(0, 0)] := congrArg CoreRegs.scratch hrest
  exact absurd (zeroListed_scratch.symm.trans hscratch) (by decide)

end Sys2Proof
end

section
/-! Proofs about tile descriptors and system instructions. -/

namespace Sys2Proof.Machine

/-! ### Tile descriptors -/

/-- Word `k` of descriptor `d` lies at a place of its own. -/
theorem tdPlace_inj (d d' : BitVec 6) (k k' : BitVec 2) :
    d.toNat * 4 + k.toNat = d'.toNat * 4 + k'.toNat ↔ d = d' ∧ k = k' := by
  have hk : k.toNat < 4 := k.isLt
  have hk' : k'.toNat < 4 := k'.isLt
  rw [← BitVec.toNat_inj, ← BitVec.toNat_inj]
  omega

theorem CoreRegs.tdw_tdput (r : CoreRegs) (t d : BitVec 6) (j k : BitVec 2) (v : Word) :
    (r.tdput t j v).tdw d k = if d = t ∧ k = j then v else r.tdw d k := by
  simp only [CoreRegs.tdput, CoreRegs.tdw, SMap.get_set, tdPlace_inj]

theorem CoreRegs.tdw_tdall (r : CoreRegs) (t d : BitVec 6) (x : TDesc) (k : BitVec 2) :
    (r.tdall t x).tdw d k =
      if d = t then (if k = 0 then x.w0 else if k = 1 then x.w1 else if k = 2 then x.w2 else x.w3) else r.tdw d k := by
  simp only [CoreRegs.tdall, CoreRegs.tdw_tdput]
  by_cases hd : d = t
  · have hk : k = 0 ∨ k = 1 ∨ k = 2 ∨ k = 3 := by
      revert k
      decide
    rcases hk with rfl | rfl | rfl | rfl <;> simp [hd]
  · simp [hd]

theorem CoreRegs.tdall_others (r : CoreRegs) (t : BitVec 6) (x : TDesc) : { r.tdall t x with td := r.td } = r := by
  simp only [CoreRegs.tdall, CoreRegs.tdput]

theorem CoreRegs.tdw_tdesc (r : CoreRegs) (t : BitVec 6) (k : BitVec 2) :
    (if k = 0 then (r.tdesc t).w0 else if k = 1 then (r.tdesc t).w1 else if k = 2 then (r.tdesc t).w2
      else (r.tdesc t).w3) = r.tdw t k := by
  have hk : k = 0 ∨ k = 1 ∨ k = 2 ∨ k = 3 := by
    revert k
    decide
  rcases hk with rfl | rfl | rfl | rfl <;> rfl

section
variable {s : State} {e : EaselId} {i : Instr} {minor : BitVec 6} {ok : FmtT → Bool} {f : FmtT}

/-- A tile descriptor instruction that changes only descriptor words. -/
theorem yields_tdOp {eff : FmtT → CoreRegs → CoreRegs} {words : BitVec 6 → BitVec 2 → Word}
    (hi : Issues s e f.pneg f.pred) (hl : f.low = 0) (hok : ok f = true) (hx : exec i s = run s (tdOp minor ok eff e f))
    (hothers : { eff f (regsOf s e) with td := (regsOf s e).td } = regsOf s e)
    (hwords : ∀ d k, (eff f (regsOf s e)).tdw d k = words d k) :
    Yields i s (fun t => OnlyRegs s t e ∧ (∀ d k, (regsOf t e).tdw d k = words d k) ∧
      { regsOf t e with td := (regsOf s e).td } =
        { regsOf s e with pc := (regsOf s e).pc + 8, serial := serialAfter s e }) := by
  have hpc : (eff f (regsOf s e)).pc = (regsOf s e).pc := (congrArg CoreRegs.pc hothers :)
  have hserial : (eff f (regsOf s e)).serial = (regsOf s e).serial := (congrArg CoreRegs.serial hothers :)
  refine (yields_modCur hi hx (resv_of (by simp [hl, hok])) rfl hpc hserial).imp ?_
  rintro t ⟨honly, hr⟩
  refine ⟨honly, fun d k => ?_, ?_⟩
  · rw [hr]
    exact hwords d k
  · rw [hr]
    exact congrArg (fun r : CoreRegs => { r with pc := (regsOf s e).pc + 8, serial := serialAfter s e }) hothers

end

/-! ### System instructions -/

section
variable {s : State} {e : EaselId} {i : Instr} {minor : BitVec 6} {used : Nat} {eff : Hw → Eff} {f : FmtI}

theorem sysOp_decodes (hrd : f.rd = 0) (hr1 : f.rs1 = 0) (himm : f.imm.toNat < 2 ^ used) :
    resv (f.rd == 0 && f.rs1 == 0 && decide (f.imm.toNat < 2 ^ used)) = none :=
  resv_of (by simp [hrd, hr1, himm])

/-- R107: EXIT in context mode. -/
theorem exit_easel (h : Hw) (hs : (h.easel e).service = false) :
    (advance (h.modEasel e (fun x => if x.service then x else { x with exited := true })) e).easel e =
      { h.easel e with
        exited := true
        core := { (h.easel e).core with pc := (h.easel e).core.pc + 8, serial := (h.easel e).core.serial + 1 } } := by
  simp [advance, advanceTo_easel, Easel.setCur, Easel.cur, CoreRegs.advance, hs]

/-- A core that waits keeps its registers. -/
theorem applyEff_block_context (w : Word) (what : WaitFor) (hs : (s.hw.easel e).service = false) :
    (applyEff s.hw e w (.block s.hw what)).easel e =
      { s.hw.easel e with blocked := some { what := what, serial := (s.hw.easel e).core.serial
                                            pc := (s.hw.easel e).core.pc, inst := w } } := by
  simp [applyEff, hs, Easel.cur]

theorem onlyEasel_modEasel (s : State) (e : EaselId) (g : Easel → Easel) :
    OnlyEasel s { s with hw := s.hw.modEasel e g } e := ⟨rfl, rfl, fun _ he => Hw.easel_modEasel_ne _ _ he⟩

end

end Sys2Proof.Machine

namespace Sys2Proof

open Sys2Proof.Machine

/-- Settles O9: each instruction but TDR changes words of one descriptor (`yields_tdOp`). -/
theorem tileDescriptorInstructionsWriteTheirWords : Obligations.TileDescriptorInstructionsWriteTheirWords := by
  intro s e f hi hl
  refine ⟨fun hrd ht2 => ⟨?tdw, fun hw => ?tdadd⟩, fun h1 ht2 => ?tdr, fun hrd h1 hw => ⟨?tdmov, fun ht2 => ?tdclr⟩⟩
  case tdw =>
    refine yields_tdOp (eff := fun f r => r.tdput f.td f.word (r.get f.rs1)) hi hl (by simp [hrd, ht2]) rfl rfl
      fun d k => ?_
    rw [CoreRegs.tdw_tdput]
    by_cases hd : d = f.td <;> by_cases hk : k = f.word <;> simp [hd, hk]
  case tdadd =>
    refine yields_tdOp hi hl (by simp [hrd, ht2, hw]) rfl rfl fun d k => ?_
    rw [CoreRegs.tdw_tdput]
    by_cases hd : d = f.td <;> by_cases hk : k = 0#2 <;> simp [hd, hk]
  case tdr => exact yields_setS hi rfl (resv_of (by simp [hl, h1, ht2])) rfl rfl
  case tdmov =>
    have hok : (f.rd == 0 && f.rs1 == 0 && f.word == 0) = true := by simp [hrd, h1, hw]
    refine yields_tdOp (eff := fun f r => r.tdall f.td (r.tdesc f.td2)) hi hl hok rfl (CoreRegs.tdall_others ..)
      fun d k => ?_
    rw [CoreRegs.tdw_tdall, CoreRegs.tdw_tdesc]
    rfl
  case tdclr =>
    have hok : (f.rd == 0 && f.rs1 == 0 && f.td2 == 0 && f.word == 0) = true := by simp [hrd, h1, hw, ht2]
    refine yields_tdOp (eff := fun f r => r.tdall f.td { w0 := 0, w1 := 0, w2 := 0, w3 := 0 }) hi hl hok rfl
      (CoreRegs.tdall_others ..) fun d k => ?_
    simp [CoreRegs.tdw_tdall]

/-- Settles O10: each instruction decodes (`sysOp_decodes`) and takes its effect. -/
theorem systemInstructionsTakeTheirEffect : Obligations.SystemInstructionsTakeTheirEffect := by
  intro s e f hi hrd hr1
  refine ⟨fun himm => ?_, fun hlt hs => ⟨fun hknown => ?svc, fun hunknown => ?unknown⟩, fun hlt => ?trap⟩
  · have hd : resv (f.rd == 0 && f.rs1 == 0 && decide (f.imm.toNat < 2 ^ 0)) = none :=
      sysOp_decodes hrd hr1 (by simp [himm])
    refine ⟨yields_done hi rfl hd rfl, yields_done hi rfl hd rfl, fun hs => yields_issue hi rfl hd ?_⟩
    have he := exit_easel (e := e) s.hw hs
    have hcur : regsOf s e = (s.hw.easel e).core := by simp [regsOf, Easel.cur, hs]
    refine ⟨⟨rfl, rfl, fun e' he' => ?_⟩, ?_, ?_⟩
    · exact (advanceTo_easel_ne _ _ he').trans (Hw.easel_modEasel_ne _ _ he')
    · rw [hcur]
      exact he
    · simp only [applyEff, coreReady, he]
      simp [hs]
  case svc =>
    have hserv : knownService f.imm.toNat = true := decide_eq_true hknown
    refine yields_issue hi rfl (sysOp_decodes hrd hr1 hlt) ?_
    simp only [hs, hserv, Bool.false_eq_true, if_false, if_true]
    have he := applyEff_block_context (s := s) (e := e) (wordI 0x3C 0x02 f) (.svc (BitVec.ofNat 16 f.imm.toNat)) hs
    refine ⟨onlyEasel_modEasel s e _, ?_, ?_, ?_⟩
    · rw [regsOf, he]
      simp [regsOf, Easel.cur, hs]
    · rw [coreReady, he]
      simp [hs]
    · rw [he]
      rfl
  case unknown =>
    have hserv : knownService f.imm.toNat = false := decide_eq_false (by omega)
    refine yields_issue hi rfl (sysOp_decodes hrd hr1 hlt) ?_
    simp only [hs, hserv, Bool.false_eq_true, if_false]
    have he : regsOf { s with hw := advance (s.hw.useFree.modCur e fun r => (r.put 1 s.hw.freeWord).put 2 1) e } e =
        (((regsOf s e).put 1 s.hw.freeWord).put 2 1).advance (s.hw.easel e).service ((regsOf s e).pc + 8) := by
      have heasel : s.hw.useFree.easel e = s.hw.easel e := rfl
      simp [regsOf, advance, advanceTo_easel, Hw.modCur, heasel]
    have hget (k : BitVec 5) :
        ((((regsOf s e).put 1 s.hw.freeWord).put 2 1).advance (s.hw.easel e).service ((regsOf s e).pc + 8)).get k =
          (((regsOf s e).put 1 s.hw.freeWord).put 2 1).get k := rfl
    refine ⟨?_, ?_, ?_, fun k hk1 hk2 => ?_, rfl⟩
    · refine (congrArg (CoreRegs.get · 2) he).trans ?_
      rw [hget, CoreRegs.get_put]
      rfl
    · exact congrArg CoreRegs.pc he
    · refine (congrArg CoreRegs.serial he).trans ?_
      simp [CoreRegs.advance, hs]
    · refine (congrArg (CoreRegs.get · k) he).trans ?_
      rw [hget, CoreRegs.get_put, CoreRegs.get_put, if_neg (fun h => hk2 h.1), if_neg (fun h => hk1 h.1)]
  case trap => exact (yields_fault hi rfl (sysOp_decodes hrd hr1 hlt) rfl).imp (fun t ht => ht.1)

end Sys2Proof
end

section
/-! Proofs about loads of local memory that meet no error, and a store to a memory that lists the bit errors of one
word twice. -/

namespace Sys2Proof.Machine

/-! ### Loads -/

/-- The loaded value, as the statement words it. -/
theorem extendLoad_read (m : Mem) (off n : Nat) (signed : Bool) : extendLoad n signed (m.read off n) =
    if signed then BitVec.ofInt 64 (signedValue (8 * n) (leNat (m.read off n)))
    else BitVec.ofNat 64 (leNat (m.read off n)) := by
  have htake : (m.read off n).take n = m.read off n := List.take_of_length_le (by rw [Mem.length_read])
  simp only [extendLoad, htake, signedValue, sgn_eq_toInt]

/-- A load that meets no error, no channel in retraining and no store of the core writes the bytes read. -/
theorem yields_load {s : State} {e : EaselId} {i : Instr} {minor : BitVec 6} {f : FmtI} {off n : Nat} {signed : Bool}
    (hi : Issues s e f.pneg f.pred) (hx : exec i s = run s (loadI minor n signed e f))
    (hd : coreDecode s.hw (s.hw.easel e) (f.addr s e) = .local off) (hal : off % n = 0) (hc : CleanWords s off n)
    (hsb : sbHolds (s.hw.easel e) (f.addr s e) n = false) :
    Yields i s (fun t => WritesS s t e f.rd
      (if signed then BitVec.ofInt 64 (signedValue (8 * n) (leNat (s.hw.mem.read off n)))
       else BitVec.ofNat 64 (leNat (s.hw.mem.read off n)))) := by
  obtain ⟨hcorr, hbad, hpath, hchan⟩ := hc
  refine yields_setS hi hx rfl ?_ (extendLoad_read s.hw.mem off n signed)
  have htouch : touchRead s.hw off n = s.hw := if_pos hcorr
  have heff : loadEff e f.rd (f.addr s e) n signed s.hw =
      .done (s.hw.setS e f.rd (extendLoad n signed (s.hw.mem.read off n))) := by
    simp only [loadEff, hd, hal, ne_eq, not_true_eq_false, if_false, hchan, hsb, Bool.or_self, Bool.false_eq_true,
      readEff, hbad, hpath, htouch]
  exact heff

/-! ### A store to a word listed twice -/

/-- Firmware on easel 0 stores to the first word of the easel's Palette window, which memory lists first with no error
and again with three, and which a varnished slot replaces. -/
def hiddenTwice : State :=
  { hw := { Hw.reset with
      bru := { Hw.reset.bru with enabled := [0] }
      pins := { Hw.reset.pins with computeOn := true }
      mem := { cells := [], ecc := [(0x20000000000 / 8, 0), (0x20000000000 / 8, 3)], path := []
               unfolded := [slotOverWord] }
      easels := [(0, { Easel.init with
        idled := false, svcCore := { CoreRegs.init with s := [(1, 0x20000000000)] } })] }
    pending := [] }

/-- A store of s0 at s1. -/
def storeZero : FmtI := { pneg := false, pred := 0, rd := 0, rs1 := 1, imm := 0 }

theorem hiddenTwice_issues : Issues hiddenTwice 0 storeZero.pneg storeZero.pred := by decide +kernel

theorem hiddenTwice_decodes :
    coreDecode hiddenTwice.hw (hiddenTwice.hw.easel 0) (storeZero.addr hiddenTwice 0) = .local 0x20000000000 := by
  decide +kernel

theorem hiddenTwice_clean : CleanWords hiddenTwice 0x20000000000 1 := by decide +kernel

/-- The store removes the listing without error, and the word is uncorrectable then (R163). -/
theorem hiddenTwice_bad :
    (storeI 0x00 1 0 storeZero hiddenTwice.hw).mem.bad (0x20000000000 / 8) = true := by decide +kernel

end Sys2Proof.Machine

namespace Sys2Proof

open Sys2Proof.Machine

/-- Settles O4: every load is `yields_load` at its size. -/
theorem localLoadsReturnMemoryBytes : Obligations.LocalLoadsReturnMemoryBytes := by
  intro s e f off hi hd
  refine ⟨?_, ?_, ?_, ?_, ?_, ?_, ?_⟩ <;> exact fun hal hc hsb => yields_load hi rfl hd hal hc hsb

/-- Refutes O5: it has no word become uncorrectable, of every state.  In `hiddenTwice`, whose memory is not canonical
(`MemInv` fails), the byte store leaves the second listing of its word, which then counts. -/
theorem not_localStoresWriteOnlyTheirBytes : ¬ Obligations.LocalStoresWriteOnlyTheirBytes := by
  intro h
  obtain ⟨hstb, -⟩ := h hiddenTwice 0 storeZero _ hiddenTwice_issues hiddenTwice_decodes (by decide)
  obtain ⟨t, ht, -, -, hbad, -⟩ := hstb rfl hiddenTwice_clean (by decide +kernel)
  obtain rfl := Host.Outcome.next.inj ht
  exact absurd (hbad _ hiddenTwice_bad) (by decide)

end Sys2Proof
end

section
/-! Proofs about deferred faults of stores: what recording a fault does to contexts. -/

namespace Sys2Proof.Machine

/-! ### Contexts when a fault is recorded -/

theorem Hw.ctx_of_ctxs {h g : Hw} (hc : g.ctxs = h.ctxs) (c : CtxId) : g.ctx c = h.ctx c := by
  rw [Hw.ctx, hc, Hw.ctx]

/-- The record that becomes a context's primary one. -/
def primaryRec (h : Hw) (c : CtxId) (r : FaultRec) : FaultRec :=
  { r with primary := true, number := 0, job := (h.ctx c).job }

/-- What a primary fault changes of the contexts: its context's record and state. -/
theorem recordPrimary_ctxs (h : Hw) (c : CtxId) (r : FaultRec) : (recordPrimary h c r).ctxs =
    ((h.modCtx c (fun x => { x with faults := [primaryRec h c r] })).modCtx c (fun x => { x with state := 6 })).ctxs := by
  have hopen : (recordPrimary h c r).ctxs = (stopFaulted h c r).ctxs := by
    unfold recordPrimary
    dsimp only
    exact (apply_ite Hw.ctxs ..).trans (ite_self _)
  have hctx (g : Hw) : (stopGlaze (g.modLoaded c (fun x => { x with stopped := true })) c).ctx c = g.ctx c :=
    Hw.ctx_of_ctxs (by rw [stopGlaze_ctxs, Hw.modLoaded_ctxs]) c
  rw [hopen, stopFaulted, raiseCtx_ctxs, setCtxState, raiseCtx_ctxs]
  simp only [Hw.modCtx, Hw.setCtx, hctx, stopGlaze_ctxs, Hw.modLoaded_ctxs]
  rfl

theorem recordPrimary_ctx_same (h : Hw) (c : CtxId) (r : FaultRec) :
    (recordPrimary h c r).ctx c = { h.ctx c with state := 6, faults := [primaryRec h c r] } := by
  rw [Hw.ctx_of_ctxs (recordPrimary_ctxs h c r), Hw.ctx_modCtx, Hw.ctx_modCtx]

theorem recordPrimary_ctx_ne (h : Hw) {c c' : CtxId} (r : FaultRec) (hc : c' ≠ c) :
    (recordPrimary h c r).ctx c' = h.ctx c' := by
  rw [Hw.ctx_of_ctxs (recordPrimary_ctxs h c r), Hw.ctx_modCtx_ne _ _ hc, Hw.ctx_modCtx_ne _ _ hc]

theorem displacePrimary_ctx_ne (h : Hw) {c c' : CtxId} (r : FaultRec) (hc : c' ≠ c) :
    (displacePrimary h c r).ctx c' = h.ctx c' := by
  unfold displacePrimary
  exact (Hw.ctx_of_ctxs (by rw [raiseCtx_ctxs]) c').trans (Hw.ctx_modCtx_ne _ _ hc)

/-- A fault changes no context but its own. -/
theorem recordFault_ctx_ne (h : Hw) {r : FaultRec} {c' : CtxId} (hc : r.ctx ≠ some c') :
    (recordFault h r).ctx c' = h.ctx c' := by
  have hlog : (logFault h r).ctx c' = h.ctx c' := Hw.ctx_of_ctxs (logFault_ctxs h r) c'
  unfold recordFault
  cases hr : r.ctx with
  | none => exact hlog
  | some c =>
    have hne : c' ≠ c := fun h => hc (by rw [hr, h])
    have hperf : (perfAdd (logFault h r) c 13 1).ctx c' = h.ctx c' := hlog
    dsimp only
    by_cases hz : ((logFault h r).ctx c).state = 0 ∨ ((logFault h r).ctx c).state = 7
    · rw [if_pos hz]
      exact hlog
    · rw [if_neg hz]
      cases hf : ((logFault h r).ctx c).faults with
      | nil => exact (recordPrimary_ctx_ne _ r hne).trans hperf
      | cons p l =>
        dsimp only
        split_ifs
        · exact (displacePrimary_ctx_ne _ r hne).trans hperf
        · exact (Hw.ctx_modCtx_ne _ _ hne).trans hperf
        · exact (Hw.ctx_modCtx_ne _ _ hne).trans hperf

/-! ### Uncorrectable words -/

@[simp] theorem logMemError_easels (h : Hw) (off : Nat) (cls : BitVec 8) : (logMemError h off cls).easels = h.easels := by
  unfold logMemError
  dsimp only
  split_ifs <;> rfl

@[simp] theorem logMemError_ctxs (h : Hw) (off : Nat) (cls : BitVec 8) : (logMemError h off cls).ctxs = h.ctxs := by
  unfold logMemError
  dsimp only
  split_ifs <;> rfl

@[simp] theorem logMemError_mem (h : Hw) (off : Nat) (cls : BitVec 8) : (logMemError h off cls).mem = h.mem := by
  unfold logMemError
  dsimp only
  split_ifs <;> rfl

@[simp] theorem countMemError_easels (h : Hw) (off n : Nat) (ue : Bool) :
    (countMemError h off n ue).easels = h.easels := by
  unfold countMemError
  dsimp only
  split_ifs <;> rfl

@[simp] theorem countMemError_ctxs (h : Hw) (off n : Nat) (ue : Bool) : (countMemError h off n ue).ctxs = h.ctxs := by
  unfold countMemError
  dsimp only
  split_ifs <;> rfl

@[simp] theorem countMemError_mem (h : Hw) (off n : Nat) (ue : Bool) : (countMemError h off n ue).mem = h.mem := by
  unfold countMemError
  dsimp only
  split_ifs <;> rfl

/-- An uncorrectable word that a context's own access met leaves that context to the access. -/
theorem reportUe_ctx (h : Hw) (off : Nat) (c : CtxId) : (reportUe h off (some c)).ctx c = h.ctx c := by
  have hlog : (logMemError (countMemError h off 1 true) off (memClass off)).ctx c = h.ctx c :=
    Hw.ctx_of_ctxs (by simp) c
  unfold reportUe
  dsimp only
  cases wordOwner h off with
  | none => exact hlog
  | some c' =>
    dsimp only
    split_ifs with hc
    · exact hlog
    · exact (recordFault_ctx_ne _ (fun h => hc h.symm)).trans hlog

theorem reportUe_easel (h : Hw) (off : Nat) (reader : Option CtxId) (e : EaselId) :
    (reportUe h off reader).easel e = h.easel e ∨ (reportUe h off reader).easel e = { h.easel e with stopped := true } := by
  have hlog : (logMemError (countMemError h off 1 true) off (memClass off)).easel e = h.easel e := by simp [Hw.easel]
  unfold reportUe
  dsimp only
  cases wordOwner h off with
  | none => exact .inl hlog
  | some c' =>
    dsimp only
    split_ifs
    · exact .inl hlog
    · rw [← hlog]
      exact recordFault_easel _ _ e

/-! ### The deferred fault of a store -/

theorem reportMerge_ctx (h : Hw) (b : SbEntry) : (reportMerge h b).ctx b.ctx = h.ctx b.ctx := by
  unfold reportMerge
  split_ifs
  · exact reportUe_ctx h _ _
  · rfl

theorem reportMerge_easel (h : Hw) (b : SbEntry) (e : EaselId) :
    ∃ z, (reportMerge h b).easel e = { h.easel e with stopped := z } := by
  unfold reportMerge
  split_ifs
  · rcases reportUe_easel h (b.addr.toNat / 8 * 8) (some b.ctx) e with he | he
    · exact ⟨_, he⟩
    · exact ⟨_, he⟩
  · exact ⟨_, rfl⟩

/-- The record of a deferred fault: not precise, and naming the store (R101). -/
def deferredRec (h : Hw) (e : EaselId) (b : SbEntry) (cls : BitVec 8) : FaultRec :=
  { FaultRec.blank h.ftcNow cls 0 with
    ctx := some b.ctx, easel := BitVec.ofNat 8 e.val, serial := b.serial, pc := b.pc, addr := b.addr, inst := b.inst }

/-- The cs_f registers show the deferred fault where the store's context is, loaded or saved. -/
def showDeferred (h : Hw) (e : EaselId) (b : SbEntry) (cls : BitVec 8) : Hw :=
  if (h.easel e).loaded = some b.ctx then
    h.modEasel e (fun x => { x with csr := x.csr.record cls false b.serial b.pc b.addr b.inst, stopped := true })
  else h.modSaved b.ctx e (fun v => { v with csr := v.csr.record cls false b.serial b.pc b.addr b.inst })

theorem deferredFault_eq (h : Hw) (e : EaselId) (b : SbEntry) (cls : BitVec 8) :
    deferredFault h e b cls = recordFault (showDeferred h e b cls) (deferredRec h e b cls) := rfl

theorem showDeferred_ctx (h : Hw) (e : EaselId) (b : SbEntry) (cls : BitVec 8) :
    ∃ sv, (showDeferred h e b cls).ctx b.ctx = { h.ctx b.ctx with saved := sv } := by
  unfold showDeferred
  split_ifs
  · exact ⟨_, rfl⟩
  · exact ⟨_, Hw.ctx_modCtx _ _ _⟩

theorem showDeferred_easel (h : Hw) (e : EaselId) (b : SbEntry) (cls : BitVec 8) :
    (showDeferred h e b cls).easel e =
      if (h.easel e).loaded = some b.ctx then
        { h.easel e with csr := (h.easel e).csr.record cls false b.serial b.pc b.addr b.inst, stopped := true }
      else h.easel e := by
  unfold showDeferred
  split_ifs
  · exact Hw.easel_modEasel _ _ _
  · rfl

/-- A deferred fault of a running context without a fault: its primary record, and the context's easels stop. -/
theorem deferredFault_primary {h : Hw} {e : EaselId} {b : SbEntry} {cls : BitVec 8} (hs : (h.ctx b.ctx).state = 3)
    (hf : (h.ctx b.ctx).faults = []) :
    ((deferredFault h e b cls).ctx b.ctx).state = 6 ∧
    (∃ r, ((deferredFault h e b cls).ctx b.ctx).faults = [r] ∧ r.cls = cls ∧ r.primary = true ∧ r.precise = false ∧
      r.serial = b.serial ∧ r.pc = b.pc ∧ r.addr = b.addr ∧ r.inst = b.inst ∧ r.easel.toNat = e.val % 256 ∧
      r.agent = 0) := by
  obtain ⟨sv, hshow⟩ := showDeferred_ctx h e b cls
  have hrec : recordFault (showDeferred h e b cls) (deferredRec h e b cls) = _ :=
    recordFault_primary (c := b.ctx) rfl (by rw [hshow]; simp [hs]) (by rw [hshow]; simp [hs]) (by rw [hshow]; exact hf)
  rw [deferredFault_eq, hrec, recordPrimary_ctx_same]
  exact ⟨rfl, _, rfl, rfl, rfl, rfl, rfl, rfl, rfl, rfl, BitVec.toNat_ofNat .., rfl⟩

/-- What a deferred fault leaves of its easel. -/
theorem deferredFault_easel (h : Hw) (e : EaselId) (b : SbEntry) (cls : BitVec 8) :
    ∃ z, (deferredFault h e b cls).easel e = { (showDeferred h e b cls).easel e with stopped := z } ∧
      (((showDeferred h e b cls).easel e).stopped = true → z = true) := by
  rcases recordFault_easel (showDeferred h e b cls) (deferredRec h e b cls) e with he | he
  · exact ⟨_, he, id⟩
  · exact ⟨true, he, fun _ => rfl⟩

end Sys2Proof.Machine

namespace Sys2Proof

open Sys2Proof.Machine

/-- Settles O20: the entry leaves the store buffer, and its fault is recorded as `deferredFault_primary` and
`showDeferred_easel` say. -/
theorem deferredStoreFaultsStopTheContext : Obligations.DeferredStoreFaultsStopTheContext := by
  intro s e n b hb
  refine ⟨fun c hc => yields_unchanged rfl ?_, fun hcls hrun hclean => ?_⟩
  · have hno : ¬ (b.cls = c ∧ c ≠ 0) := by
      rintro ⟨rfl, h0⟩
      exact hc.elim (fun h => h rfl) h0
    dsimp only
    rw [hb]
    exact if_neg hno
  set g : Hw := (reportMerge s.hw b).modEasel e (fun x => { x with sb := dropNth x.sb n }) with hg
  have hctx : g.ctx b.ctx = s.hw.ctx b.ctx := reportMerge_ctx s.hw b
  obtain ⟨z, hmerge⟩ := reportMerge_easel s.hw b e
  have hge : g.easel e = { s.hw.easel e with sb := (s.hw.easel e).sb.eraseIdx n, stopped := z } := by
    rw [hg, Hw.easel_modEasel, hmerge]
    rfl
  obtain ⟨hstate, hrec⟩ := deferredFault_primary (h := g) (e := e) (b := b) (cls := b.cls)
    (by rw [hctx, hrun]) (by rw [hctx, hclean])
  obtain ⟨z', he, hstop⟩ := deferredFault_easel g e b b.cls
  rw [showDeferred_easel, hge] at he hstop
  refine yields_run rfl (g' := deferredFault g e b b.cls) ?_ ?_
  · dsimp only
    rw [hb]
    exact if_pos ⟨rfl, hcls⟩
  refine ⟨?_, hstate, hrec, fun hl => ?_, ?_⟩
  · rw [he]
    dsimp only
    split_ifs <;> rfl
  · rw [he]
    simp only [hl, if_true] at hstop ⊢
    exact ⟨hstop trivial, faultClassWord b.cls false⟩
  · simp only [regsOf]
    rw [he]
    dsimp only
    split_ifs <;> rfl

end Sys2Proof
end

section
/-! Proofs about the issue of engine instructions: an instruction enters its queue, waits for room or faults. -/

namespace Sys2Proof.Machine

theorem Easel.setQueue_service (x : Easel) (q : Engine) (l : List QEntry) : (x.setQueue q l).service = x.service := by
  cases q <;> rfl

theorem Easel.setQueue_cur (x : Easel) (q : Engine) (l : List QEntry) : (x.setQueue q l).cur = x.cur := by
  cases q <;> rfl

theorem Hw.easel_of_easels {h g : Hw} (he : g.easels = h.easels) (e : EaselId) : g.easel e = h.easel e := by
  rw [Hw.easel, he, Hw.easel]

theorem enqueue_easels {h : Hw} {e : EaselId} {q : Engine} {i : QEntry} (ho : i.order = h.sk.issued) :
    (enqueue h e q i).easels = (h.modEasel e (fun x => x.setQueue q (x.queue q ++ [i]))).easels := by
  simp only [enqueue, ← ho]

/-- The effect of a wait on the easel whose core waits. -/
def Easel.blockedOn (x : Easel) (b : Blocked) : Easel :=
  if x.service then { x with svcBlocked := some b } else { x with blocked := some b }

theorem Easel.blockedOn_cur (x : Easel) (b : Blocked) : (x.blockedOn b).cur = x.cur := by
  cases hs : x.service <;> simp [Easel.blockedOn, Easel.cur, hs]

theorem Easel.blockedOn_queue (x : Easel) (b : Blocked) (q : Engine) : (x.blockedOn b).queue q = x.queue q := by
  unfold Easel.blockedOn
  cases q <;> split_ifs <;> rfl

theorem Easel.faulted_queues (x : Easel) (svc : Bool) (cls : BitVec 8) (precise : Bool) (serial pc addr inst : Word) :
    let y := x.faulted svc cls precise serial pc addr inst
    y.me = x.me ∧ y.vu = x.vu ∧ y.ce = x.ce := by
  cases svc <;> exact ⟨rfl, rfl, rfl⟩

section
variable {s : State} {e : EaselId} {i : Instr} {w : Word} {pneg : Bool} {pred : BitVec 3} {dec : Option (BitVec 8)}
  {body : Hw → Eff}

/-- An instruction that issues takes the effect that its body comes to. -/
theorem yields_eff {eff : Eff} {P : State → Prop} (hi : Issues s e pneg pred)
    (hx : exec i s = .next { s with hw := issue s.hw e w pneg pred dec body }) (hd : dec = none)
    (hb : body s.hw = eff) (hp : P { s with hw := applyEff s.hw e w eff }) : Yields i s P :=
  yields_issue hi hx hd (hb ▸ hp)

/-- An instruction whose effect is to wait. -/
theorem yields_block {what : WaitFor} (hi : Issues s e pneg pred)
    (hx : exec i s = .next { s with hw := issue s.hw e w pneg pred dec body }) (hd : dec = none)
    (hb : body s.hw = .block s.hw what) :
    Yields i s (fun t => OnlyEasel s t e ∧ coreReady t.hw e = false ∧ ∃ b, b.what = what ∧
      t.hw.easel e = (s.hw.easel e).blockedOn b) := by
  refine yields_issue hi hx hd ?_
  rw [hb]
  have he : (applyEff s.hw e w (.block s.hw what)).easel e = (s.hw.easel e).blockedOn
      { what := what, serial := (s.hw.easel e).cur.serial, pc := (s.hw.easel e).cur.pc, inst := w } :=
    Hw.easel_modEasel ..
  refine ⟨onlyEasel_modEasel s e _, ?_, _, rfl, he⟩
  rw [coreReady, he]
  cases hs : (s.hw.easel e).service <;> simp [Easel.blockedOn, hs]

/-- A precise fault leaves the engine queues of its easel. -/
theorem yields_fault_queues {cls : BitVec 8} {addr : Word} (hi : Issues s e pneg pred)
    (hx : exec i s = .next { s with hw := issue s.hw e w pneg pred dec body }) (hd : dec = none)
    (hb : body s.hw = .fault cls addr) :
    Yields i s (fun t => FaultsPrecisely s t e cls addr w ∧ (t.hw.easel e).me = (s.hw.easel e).me ∧
      (t.hw.easel e).vu = (s.hw.easel e).vu ∧ (t.hw.easel e).ce = (s.hw.easel e).ce) := by
  refine yields_issue hi hx hd ?_
  rw [hb]
  obtain ⟨b, -, he⟩ := coreFault_easel (countNoRoute s.hw cls) e (s.hw.easel e).service cls true
    (s.hw.easel e).cur.serial (s.hw.easel e).cur.pc addr w
  have hcount : (countNoRoute s.hw cls).easel e = s.hw.easel e := by simp [Hw.easel]
  refine ⟨applyEff_fault_faultsPrecisely s e w cls addr, ?_⟩
  simp only [applyEff]
  rw [he, hcount]
  exact Easel.faulted_queues ..

/-- What an engine instruction comes to (R111, R119, R124). -/
theorem yields_engIssue {f : FmtE} {major minor : BitVec 6} {q : Engine} {op : EngOp} {decOk : Bool}
    {regs : CoreRegs → List Word} {checks : EaselId → QEntry → List (Bool × BitVec 8)} {xs : List Word}
    (hi : Issues s e f.pneg f.pred) (hso : f.sig = true ∨ f.so = 0)
    (hx : exec i s = run s (engIssue major minor q op decOk regs checks e f)) (hdec : decOk = true)
    (hw : wordE major minor f = w) (hxs : regs (regsOf s e) = xs) :
    (firstFail (checks e (newEntry s.hw e op f w xs)) = none → ((s.hw.easel e).queue q).length < 64 →
      Yields i s (fun t => t.pending = s.pending ∧
        { t.hw with easels := s.hw.easels, sk := s.hw.sk } = s.hw ∧
        t.hw.sk = { s.hw.sk with issued := s.hw.sk.issued + 1 } ∧
        (∀ e', e' ≠ e → t.hw.easel e' = s.hw.easel e') ∧ t.hw.easel e =
        ((s.hw.easel e).setQueue q ((s.hw.easel e).queue q ++ [newEntry s.hw e op f w xs])).setCur
          { regsOf s e with pc := (regsOf s e).pc + 8, serial := serialAfter s e })) ∧
    (firstFail (checks e (newEntry s.hw e op f w xs)) = none → 64 ≤ ((s.hw.easel e).queue q).length →
      Yields i s (fun t => OnlyEasel s t e ∧ regsOf t e = regsOf s e ∧
        (t.hw.easel e).queue q = (s.hw.easel e).queue q ∧ coreReady t.hw e = false ∧
        ((if (s.hw.easel e).service then (t.hw.easel e).svcBlocked else (t.hw.easel e).blocked).map (·.what)) =
          some (.queueRoom q (newEntry s.hw e op f w xs)))) ∧
    (∀ c, firstFail (checks e (newEntry s.hw e op f w xs)) = some c →
      Yields i s (fun t => FaultsPrecisely s t e c 0 w ∧ (t.hw.easel e).me = (s.hw.easel e).me ∧
        (t.hw.easel e).vu = (s.hw.easel e).vu ∧ (t.hw.easel e).ce = (s.hw.easel e).ce)) := by
  subst hw hxs
  have hd : resv (decOk && (f.sig || f.so == 0)) = none :=
    resv_of (by rcases hso with h | h <;> simp [hdec, h])
  simp only [run, engIssue] at hx
  set new := newEntry s.hw e op f (wordE major minor f) (regs (regsOf s e)) with hnew
  refine ⟨fun hok hroom => ?queued, fun hok hfull => ?held, fun c hc => ?fault⟩
  case fault =>
    refine yields_fault_queues hi hx hd ?_
    have hc' : firstFail (checks e (newEntry s.hw e op f (wordE major minor f) (regs (s.hw.easel e).cur))) = some c := hc
    simp only [hc']
  case held =>
    have hok' : firstFail (checks e (newEntry s.hw e op f (wordE major minor f) (regs (s.hw.easel e).cur))) = none := hok
    refine (yields_block (what := .queueRoom q new) hi hx hd ?_).imp ?_
    · simp only [hok', enqueueEff, if_pos hfull]
      rfl
    rintro t ⟨honly, hready, b, hb, he⟩
    refine ⟨honly, ?_, ?_, hready, ?_⟩
    · rw [regsOf, he, Easel.blockedOn_cur]
      rfl
    · rw [he, Easel.blockedOn_queue]
    · rw [he]
      cases hs : (s.hw.easel e).service <;> simp [Easel.blockedOn, hs, hb]
  case queued =>
    have hok' : firstFail (checks e (newEntry s.hw e op f (wordE major minor f) (regs (s.hw.easel e).cur))) = none := hok
    refine yields_eff (eff := .done (enqueue s.hw e q new)) hi hx hd ?_ ?_
    · simp only [hok', enqueueEff, if_neg (Nat.not_le.mpr hroom)]
      rfl
    refine ⟨rfl, rfl, rfl, fun e' he' => ?_, ?_⟩
    · exact (advanceTo_easel_ne _ _ he').trans ((Hw.easel_of_easels (enqueue_easels rfl) _).trans (Hw.easel_modEasel_ne _ _ he'))
    · refine (advanceTo_easel ..).trans ?_
      rw [Hw.easel_of_easels (enqueue_easels (i := new) rfl), Hw.easel_modEasel]
      simp only [Easel.setQueue_cur, Easel.setQueue_service]
      rfl

end

end Sys2Proof.Machine

namespace Sys2Proof

open Sys2Proof.Machine

/-- Settles O12: each of the 34 instructions is issued as `yields_engIssue` says, once its reserved fields are zero. -/
theorem engineInstructionsEnterTheirQueue : Obligations.EngineInstructionsEnterTheirQueue := by
  intro s e f hi hso
  refine ⟨fun hc hf => ?mma, fun hb hc hf => ?accload, fun hb hc hf => ⟨?accstore, ?convert⟩,
    fun ha hb hc hf => ?anchor, ?vector, fun hc hf => ?copy, fun hrs hf => ⟨?gather, ?scatter⟩⟩
  case mma => exact yields_engIssue (i := .mma e f) hi hso rfl (by simp [hc, funcBelow, hf]) rfl rfl
  case accload => exact yields_engIssue (i := .accload e f) hi hso rfl (by simp [hb, hc, funcBelow, hf]) rfl rfl
  case accstore => exact yields_engIssue (i := .accstore e f) hi hso rfl (by simp [hb, hc, funcBelow, hf]) rfl rfl
  case convert => exact yields_engIssue (i := .convert e f) hi hso rfl (by simp [hb, hc, funcBelow, hf]) rfl rfl
  case anchor => exact yields_engIssue (i := .anchor e f) hi hso rfl (by simp [ha, hb, hc, funcBelow, hf]) rfl rfl
  case vector =>
    simp only [List.forall_mem_cons, List.not_mem_nil, false_implies, implies_true, and_true]
    refine ⟨?_, ?_, ?_, ?_, ?_, ?_, ?_, ?_, ?_, ?_, ?_, ?_, ?_, ?_, ?_, ?_, ?_, ?_, ?_, ?_, ?_, ?_, ?_, ?_, ?_, ?_⟩ <;>
      exact fun hd => yields_engIssue hi hso rfl hd rfl rfl
  case copy => exact yields_engIssue (i := .copy e f) hi hso rfl (by simp [hc, funcBelow, hf]) rfl rfl
  case gather => exact yields_engIssue (i := .gather e f) hi hso rfl (by simp [hrs, funcBelow, hf]) rfl rfl
  case scatter => exact yields_engIssue (i := .scatter e f) hi hso rfl (by simp [hrs, funcBelow, hf]) rfl rfl

end Sys2Proof
end

section
/-! Proofs about responses: what a freed transaction slot lets go on, and how the answer of a request ends it. -/

namespace Sys2Proof.Machine

/-! ### Nothing else of the easel waits -/

theorem foldl_eq_self {α β : Type} {f : β → α → β} {b : β} (l : List α) (h : ∀ a ∈ l, f b a = b) : l.foldl f b = b := by
  induction l with
  | nil => rfl
  | cons a l ih =>
    rw [List.foldl_cons, h a (by simp)]
    exact ih (fun a ha => h a (by simp [ha]))

theorem drainStores_none {h : Hw} {e : EaselId} (hd : NoneDrains (h.easel e)) : drainStores h e = h := by
  refine foldl_eq_self _ fun b hb => ?_
  have hno : (b.kind == .store && b.tag.isNone && b.cls == 0) = false := by
    by_contra hyes
    simp only [Bool.not_eq_false, Bool.and_eq_true, beq_iff_eq, Option.isNone_iff_eq_none] at hyes
    exact hd b hb hyes.1.1 hyes.1.2 hyes.2
  simp only [drainEntry, hno, Bool.not_false, Bool.true_or, if_true]

/-- A freed slot changes nothing where neither mode of the core waits and nothing of the easel goes on. -/
theorem settle_none {h : Hw} {e : EaselId} (hs : (h.easel e).svcBlocked = none) (hd : NoneDrains (h.easel e))
    (hb : (h.easel e).blocked = none) : settle h e = h := by
  have hsvc : settleSvc h e = h := by simp only [settleSvc, hs]
  rw [settle, drainStores_none hd, hsvc, settleCtx]
  simp only [hb]
  split_ifs <;> rfl

theorem roomFreed_none {h : Hw} {e : EaselId} {by_ : ReqBy} (he : by_.easel = some e) (hw : OnlyCoreWaits (h.easel e))
    (hb : (h.easel e).blocked = none) : roomFreed h by_ = h := by
  obtain ⟨hs, hd, hce⟩ := hw
  have hfilter : (h.easel e).ce.filter (fun i => i.started && !i.op.isRelease) = [] := by
    refine List.filter_eq_nil_iff.mpr fun i hi => ?_
    cases hst : i.started
    · simp
    · simp [hce i hi hst]
  simp only [roomFreed, he, settle_none hs hd hb, pumpCe, hfilter, List.foldl_nil, ite_self]

/-! ### A core's request is answered -/

theorem dropReq_easel (h : Hw) (t : BitVec 16) (e : EaselId) : (dropReq h t).easel e = h.easel e := rfl

theorem ctxBlocked_loaded {h : Hw} {c : CtxId} {e : EaselId} (hl : (h.easel e).loaded = some c) :
    h.ctxBlocked c e = (h.easel e).blocked := by
  simp [Hw.ctxBlocked, Hw.resident, hl]

/-- The answer of the request on which a loaded context's core waits: its instruction completes, and nothing else goes
on. -/
theorem answerData_core {h : Hw} {r : Request} {e : EaselId} {b : Blocked} (body : Bytes) (hby : r.by_ = .core e)
    (hl : (h.easel e).loaded = r.ctx) (hctx : r.ctx.isSome = true) (ho : OnlyCoreWaits (h.easel e))
    (hb : (h.easel e).blocked = some b) (htag : b.what.tag = some r.tag) :
    answerData h r body = finishWait (dropReq h r.tag) e false (b.what.take body) := by
  obtain ⟨c, hc⟩ := Option.isSome_iff_exists.mp hctx
  have hwho : r.who = c := by rw [Request.who, hc]; rfl
  have hl' : ((dropReq h r.tag).easel e).loaded = some r.who := by rw [dropReq_easel, hl, hc, hwho]
  have hsvc : svcWait (dropReq h r.tag) e r.tag = none := by simp only [svcWait, dropReq_easel, ho.1]
  have hwait : ctxWait (dropReq h r.tag) r.who e r.tag = some b := by
    simp only [ctxWait, ctxBlocked_loaded hl', dropReq_easel, hb, htag, if_true]
  have hres : (dropReq h r.tag).resident r.who e = true := by simp [Hw.resident, hl']
  have hcore : coreAnswer (dropReq h r.tag) e r body = finishWait (dropReq h r.tag) e false (b.what.take body) := by
    simp only [coreAnswer, hsvc, hwait, finishCtx, hres, if_true]
  have hfin : (finishWait (dropReq h r.tag) e false (b.what.take body)).easel e =
      { h.easel e with core := (b.what.take body (h.easel e).core).advance false ((h.easel e).core.pc + 8)
                       blocked := none } := Hw.easel_modEasel ..
  simp only [answerData, hby, hcore]
  exact roomFreed_none rfl (by rw [hfin]; exact ho) (by rw [hfin])

/-! ### Taking a response -/

section
variable {s : State} {i : Nat} {q : QPkt} {k : Plain} {r : Request} {typ : Nat}

theorem takeResponse_late {f : Hw → Request → Hw} (ha : answered s.hw q.pkt.hdr = none) :
    takeResponse (localTaken s.hw i) q q.pkt.hdr k f =
      (localTaken s.hw i).count (synOff (portNorth q.at) 0x28) 1 := by
  have ha' : answered (localTaken s.hw i) q.pkt.hdr = none := ha
  simp only [takeResponse, ha']

theorem takeResponse_ok {f : Hw → Request → Hw} (ha : answered s.hw q.pkt.hdr = some r)
    (hjob : (s.hw.ctx r.who).job = k.key.job) (hst : q.pkt.hdr.status = 0) :
    takeResponse (localTaken s.hw i) q q.pkt.hdr k f = f (localTaken s.hw i) r := by
  have ha' : answered (localTaken s.hw i) q.pkt.hdr = some r := ha
  have hjob' : ((localTaken s.hw i).ctx r.who).job = k.key.job := hjob
  simp only [takeResponse, ha', hjob', hst, ne_eq, not_true_eq_false, if_false, if_true]

theorem takeResponse_refused {f : Hw → Request → Hw} (ha : answered s.hw q.pkt.hdr = some r)
    (hjob : (s.hw.ctx r.who).job = k.key.job) (hst : q.pkt.hdr.status = 1) :
    takeResponse (localTaken s.hw i) q q.pkt.hdr k f = requestFailed (localTaken s.hw i) r 0x17 := by
  have ha' : answered (localTaken s.hw i) q.pkt.hdr = some r := ha
  have hjob' : ((localTaken s.hw i).ctx r.who).job = k.key.job := hjob
  have hne : ¬ (1 : BitVec 8) = 0 := by decide
  simp only [takeResponse, ha', hjob', hst, ne_eq, not_true_eq_false, if_false, hne, statusClass, if_true]

theorem yields_readResponse {P : State → Prop} (ho : Opens s i q 3 k) (ha : answered s.hw q.pkt.hdr = some r)
    (hjob : (s.hw.ctx r.who).job = k.key.job) (hst : q.pkt.hdr.status = 0)
    (hp : P { s with hw := answerData (localTaken s.hw i) r k.body }) : Yields (.readResponseReceive i) s P :=
  yields_run rfl ((takeLocal_opens ho (by simp [ho.2.1]) _).trans (takeResponse_ok ha hjob hst)) hp

theorem yields_readResponse_late {P : State → Prop} (ho : Opens s i q 3 k) (ha : answered s.hw q.pkt.hdr = none)
    (hp : P { s with hw := (localTaken s.hw i).count (synOff (portNorth q.at) 0x28) 1 }) :
    Yields (.readResponseReceive i) s P :=
  yields_run rfl ((takeLocal_opens ho (by simp [ho.2.1]) _).trans (takeResponse_late ha)) hp

theorem yields_writeResponse_core {P : State → Prop} {e : EaselId} (ho : Opens s i q 5 k)
    (ha : answered s.hw q.pkt.hdr = some r) (hjob : (s.hw.ctx r.who).job = k.key.job) (hst : q.pkt.hdr.status = 0)
    (hby : r.by_ = .core e) (hp : P { s with hw := answerData (localTaken s.hw i) r k.body }) :
    Yields (.writeResponseReceive i) s P :=
  yields_run rfl (((takeLocal_opens ho (by simp [ho.2.1]) _).trans (takeResponse_ok ha hjob hst)).trans
    (by simp only [hby])) hp

theorem yields_syncResponse_core {P : State → Prop} {e : EaselId} (ho : Opens s i q 7 k)
    (ha : answered s.hw q.pkt.hdr = some r) (hjob : (s.hw.ctx r.who).job = k.key.job) (hst : q.pkt.hdr.status = 0)
    (hby : r.by_ = .core e) (hp : P { s with hw := answerData (localTaken s.hw i) r k.body }) :
    Yields (.syncResponseReceive i) s P :=
  yields_run rfl (((takeLocal_opens ho (by simp [ho.2.1]) _).trans (takeResponse_ok ha hjob hst)).trans
    (by simp only [hby])) hp

theorem yields_writeResponse_store {P : State → Prop} {e : EaselId} (ho : Opens s i q 5 k)
    (ha : answered s.hw q.pkt.hdr = some r) (hjob : (s.hw.ctx r.who).job = k.key.job) (hst : q.pkt.hdr.status = 0)
    (hby : r.by_ = .storeBuf e) (hp : ∀ tracked, P { s with hw := answerDone (localTaken s.hw i) r tracked }) :
    Yields (.writeResponseReceive i) s P :=
  yields_run rfl (((takeLocal_opens ho (by simp [ho.2.1]) _).trans (takeResponse_ok ha hjob hst)).trans
    (by simp only [hby])) (hp (q.pkt.hdr.stream != 0))

theorem yields_writeResponse_refused {P : State → Prop} (ho : Opens s i q 5 k)
    (ha : answered s.hw q.pkt.hdr = some r) (hjob : (s.hw.ctx r.who).job = k.key.job) (hst : q.pkt.hdr.status = 1)
    (hp : P { s with hw := requestFailed (localTaken s.hw i) r 0x17 }) : Yields (.writeResponseReceive i) s P :=
  yields_run rfl ((takeLocal_opens ho (by simp [ho.2.1]) _).trans (takeResponse_refused ha hjob hst)) hp

/-- What a core that is answered gets, and what stays as it was. -/
theorem answerData_gets {cmds : List Instr} {e : EaselId} {w : WaitFor} {rd : BitVec 5} {v : Word} (body : Bytes)
    (hby : r.by_ = .core e) (hl : (s.hw.easel e).loaded = r.ctx) (hctx : r.ctx.isSome = true)
    (ho : OnlyCoreWaits (s.hw.easel e)) (hw : (s.hw.easel e).blocked.map (·.what) = some w)
    (htag : w.tag = some r.tag) (htake : ∀ c : CoreRegs, w.take body c = c.put rd v) :
    let t : State := { hw := answerData (localTaken s.hw i) r body, pending := cmds }
    t.hw.rte.localq = s.hw.rte.localq.eraseIdx i ∧ t.hw.reqs = s.hw.reqs.filter (fun y => y.tag != r.tag) ∧
      t.hw.mem = s.hw.mem ∧ (t.hw.easel e).blocked = none ∧
      (t.hw.easel e).core.get rd = (if rd = 0 then 0 else v) ∧
      (∀ j, j ≠ rd → (t.hw.easel e).core.get j = (s.hw.easel e).core.get j) ∧
      { (t.hw.easel e).core with s := (s.hw.easel e).core.s } =
        { (s.hw.easel e).core with pc := (s.hw.easel e).core.pc + 8, serial := (s.hw.easel e).core.serial + 1 } ∧
      ∀ e', e' ≠ e → t.hw.easel e' = s.hw.easel e' := by
  obtain ⟨b, hb, rfl⟩ := Option.map_eq_some_iff.mp hw
  have heq := answerData_core (h := localTaken s.hw i) body hby hl hctx ho hb htag
  have he : (answerData (localTaken s.hw i) r body).easel e = { s.hw.easel e with
      core := ((s.hw.easel e).core.put rd v).advance false ((s.hw.easel e).core.pc + 8), blocked := none } := by
    rw [heq, ← htake]
    exact Hw.easel_modEasel ..
  have hget (j : BitVec 5) : (((s.hw.easel e).core.put rd v).advance false ((s.hw.easel e).core.pc + 8)).get j =
      ((s.hw.easel e).core.put rd v).get j := rfl
  refine ⟨by rw [heq]; rfl, by rw [heq]; rfl, by rw [heq]; rfl, by rw [he], ?_, fun j hj => ?_, ?_, fun e' he' => ?_⟩
  · rw [he, hget, CoreRegs.get_put]
    by_cases h0 : rd = 0#5
    · subst h0
      rfl
    · rw [if_pos ⟨rfl, h0⟩]
      exact (if_neg h0).symm
  · rw [he, hget, CoreRegs.get_put, if_neg (fun h => hj h.1)]
  · rw [he]
    unfold CoreRegs.put
    split <;> rfl
  · rw [heq]
    exact Hw.easel_modEasel_ne _ _ he'

end

/-! ### Posted stores -/

/-- The store's entry leaves the buffer, and nothing else goes on. -/
theorem answerDone_store {h : Hw} {r : Request} {e : EaselId} (tracked : Bool) (hby : r.by_ = .storeBuf e)
    (hb : (h.easel e).blocked = none) (ho : OnlyCoreWaits (h.easel e)) :
    answerDone h r tracked =
      (dropReq h r.tag).modEasel e (fun x => { x with sb := x.sb.filter (fun b => b.tag != some r.tag) }) := by
  have he : ((dropReq h r.tag).modEasel e
      (fun x => { x with sb := x.sb.filter (fun b => b.tag != some r.tag) })).easel e =
      { h.easel e with sb := (h.easel e).sb.filter (fun b => b.tag != some r.tag) } := Hw.easel_modEasel ..
  obtain ⟨hsvc, hdrain, hce⟩ := ho
  have hdrain' : NoneDrains { h.easel e with sb := (h.easel e).sb.filter (fun b => b.tag != some r.tag) } :=
    fun b hb => hdrain b (List.mem_of_mem_filter hb)
  simp only [answerDone, hby, sbDone]
  rw [settle_none (by rw [he]; exact hsvc) (by rw [he]; exact hdrain') (by rw [he]; exact hb)]
  exact roomFreed_none rfl (by rw [he]; exact ⟨hsvc, hdrain', hce⟩) (by rw [he]; exact hb)

/-- The store's entry stays with its failure, and nothing else goes on. -/
theorem requestFailed_store {h : Hw} {r : Request} {e : EaselId} {cls : BitVec 8} (hcls : cls ≠ 0)
    (hby : r.by_ = .storeBuf e) (hb : (h.easel e).blocked = none) (ho : OnlyCoreWaits (h.easel e)) :
    requestFailed h r cls = sbFailed (dropReq h r.tag) e r.tag cls := by
  have he : (sbFailed (dropReq h r.tag) e r.tag cls).easel e = { h.easel e with
      sb := (h.easel e).sb.map (fun b => if b.tag = some r.tag then { b with tag := none, cls := cls } else b) } :=
    Hw.easel_modEasel ..
  obtain ⟨hsvc, hdrain, hce⟩ := ho
  have hdrain' : NoneDrains { h.easel e with
      sb := (h.easel e).sb.map (fun b => if b.tag = some r.tag then { b with tag := none, cls := cls } else b) } := by
    intro b hb
    obtain ⟨b0, hb0, rfl⟩ := List.mem_map.mp hb
    split_ifs
    · exact fun _ _ => hcls
    · exact hdrain b0 hb0
  simp only [requestFailed, hby]
  exact roomFreed_none rfl (by rw [he]; exact ⟨hsvc, hdrain', hce⟩) (by rw [he]; exact hb)

end Sys2Proof.Machine

namespace Sys2Proof

open Sys2Proof.Machine

/-- Settles O28: a response that opens is taken, and what its request's end lets go on is nothing else
(`answerData_gets`, `answerDone_store`, `requestFailed_store`). -/
theorem responsesEndOutstandingRequests : Obligations.ResponsesEndOutstandingRequests := by
  refine ⟨fun s i q k => ⟨fun r ha hjob => ⟨fun ho e rd size signed => ?load, fun ho e rd => ?atom,
    fun ho e rd => ?syncrd, fun ho e hby hb hcw => ⟨fun hst => ?acked, fun hst => ?refused⟩⟩, fun ha ho => ?late⟩,
    fun s r e hpeer hby => ⟨fun d hdl hd hb hcw => ?timeout, fun hd => ?early⟩⟩
  case load =>
    intro hby hst hl hctx hcw hw
    exact yields_readResponse ho ha hjob hst (answerData_gets k.body hby hl hctx hcw hw rfl fun _ => rfl)
  case atom =>
    intro hby hst hl hctx hcw hw
    exact yields_writeResponse_core ho ha hjob hst hby (answerData_gets k.body hby hl hctx hcw hw rfl fun _ => rfl)
  case syncrd =>
    intro hby hst hl hctx hcw hw
    exact yields_syncResponse_core ho ha hjob hst hby (answerData_gets k.body hby hl hctx hcw hw rfl fun _ => rfl)
  case acked =>
    refine yields_writeResponse_store ho ha hjob hst hby fun tracked => ?_
    rw [answerDone_store (h := localTaken s.hw i) tracked hby hb hcw]
    exact ⟨rfl, rfl, by rw [Hw.easel_modEasel]; rfl, by rw [Hw.easel_modEasel]; rfl, rfl⟩
  case refused =>
    refine yields_writeResponse_refused ho ha hjob hst ?_
    rw [requestFailed_store (h := localTaken s.hw i) (by decide) hby hb hcw, sbFailed]
    exact ⟨rfl, rfl, by rw [Hw.easel_modEasel]; rfl, by rw [Hw.easel_modEasel]; rfl, rfl⟩
  case late =>
    exact yields_readResponse_late ho ha ⟨rfl, Hw.reg_count .., rfl, rfl, rfl⟩
  case timeout =>
    have hdue : r.deadline.any (fun d => decide (d ≤ s.hw.now)) = true := by simp [hdl, hd]
    refine yields_run rfl (g' := requestFailed (s.hw.count (synOff r.north 0x20) 1) r 0x23) ?_ ?_
    · simp only [hpeer, hdue, if_true]
    rw [requestFailed_store (h := s.hw.count (synOff r.north 0x20) 1) (by decide) hby hb hcw, sbFailed]
    exact ⟨rfl, Hw.reg_count s.hw (synOff r.north 0x20) 1, by rw [Hw.easel_modEasel]; rfl, rfl⟩
  case early =>
    have hdue : r.deadline.any (fun d => decide (d ≤ s.hw.now)) = false := by
      cases hdl : r.deadline with
      | none => rfl
      | some d => simpa using hd d hdl
    refine yields_unchanged rfl ?_
    simp only [hpeer, hdue, Bool.false_eq_true, if_false]

end Sys2Proof
end

section
/-! The canonical form of the memories: tables, memories, and the ways operations are put together. The files
below say of each operation of the model, in the order of its definition, that it leaves the memories as they are
(`_mem`) or keeps them canonical (`_wf`). -/
namespace Sys2Proof.Machine

@[simp] theorem SMap.wf_nil {α : Type} [DecidableEq α] (d : α) : SMap.wf d ([] : SMap α) = true := rfl

@[simp] theorem SMap.wf_del {α : Type} [DecidableEq α] (d : α) {m : SMap α} (k : Nat) (h : SMap.wf d m) :
    SMap.wf d (SMap.del m k) := SMap.wf_filter d _ h

@[simp] theorem SMap.wf_eraseRange {α : Type} [DecidableEq α] (d : α) {m : SMap α} (a b : Nat)
    (h : SMap.wf d m) : SMap.wf d (SMap.eraseRange m a b) := SMap.wf_filter d _ h

/-- Listing a value that is not the default keeps the canonical form. -/
theorem SMap.wf_put {α : Type} [DecidableEq α] {d : α} {m : SMap α} (k : Nat) {v : α} (hv : v ≠ d)
    (h : SMap.wf d m) : SMap.wf d (SMap.put m k v) := by
  simpa [SMap.set, hv] using SMap.wf_set d k v h

theorem SMap.wf_foldl {α β : Type} [DecidableEq α] (d : α) (f : SMap α → β → SMap α)
    (hf : ∀ m b, SMap.wf d m → SMap.wf d (f m b)) (l : List β) {m : SMap α} (h : SMap.wf d m) :
    SMap.wf d (l.foldl f m) := by
  induction l generalizing m with
  | nil => exact h
  | cons b l ih => exact ih (hf m b h)

@[simp] theorem Mem.wf_mk (cells : List Host.Cell) (ecc : SMap Nat) (path : List Nat) (l : List SketchSlot) :
    Mem.wf ⟨cells, ecc, path, l⟩ = (SMap.wf 0#8 cells && SMap.wf 0 ecc) := rfl

@[simp] theorem Mem.cells_wf {m : Mem} (h : m.wf) : SMap.wf 0#8 m.cells := by
  simp only [Mem.wf, Bool.and_eq_true] at h
  exact h.1

@[simp] theorem Mem.eccs_wf {m : Mem} (h : m.wf) : SMap.wf 0 m.ecc := by
  simp only [Mem.wf, Bool.and_eq_true] at h
  exact h.2

@[simp] theorem Mem.wf_pathMet {m : Mem} (a n : Nat) (h : m.wf) : (m.pathMet a n).wf := h

@[simp] theorem Mem.wf_write {m : Mem} (a : Nat) (bs : Bytes) (h : m.wf) : (m.write a bs).wf :=
  Mem.write_wf m a bs h

@[simp] theorem Mem.wf_zero {m : Mem} (a n : Nat) (h : m.wf) : (m.zero a n).wf := Mem.zero_wf m a n h

@[simp] theorem Mem.wf_scrubbed {m : Mem} (a n : Nat) (h : m.wf) : (m.scrubbed a n).wf :=
  Mem.scrubbed_wf m a n h

@[simp] theorem loadPalette_wf {m : Mem} (e : EaselId) (v : Saved) (h : m.wf) : (loadPalette m e v).wf := by
  have hz := Mem.wf_zero (palBase e.val) 0x200000 h
  simp only [loadPalette, Mem.wf_mk, Bool.and_eq_true]
  exact ⟨SMap.wf_foldl 0 _ (fun _ _ hm => SMap.wf_set 0 _ _ hm) _ (Mem.cells_wf hz),
    SMap.wf_foldl 0 _ (fun _ _ hm => SMap.wf_put _ (by decide) hm) _ (Mem.eccs_wf hz)⟩

/-- The memories of the outcome of an instruction are canonical. -/
def Eff.Canon : Eff → Prop
  | .fault _ _ => True
  | .faultIn h _ _ | .done h | .jump h _ | .place h | .block h _ => h.mem.wf

@[simp] theorem Eff.canon_fault (cls : BitVec 8) (a : Word) : (Eff.fault cls a).Canon := trivial
@[simp] theorem Eff.canon_faultIn (h : Hw) (cls : BitVec 8) (a : Word) :
    (Eff.faultIn h cls a).Canon ↔ h.mem.wf := by simp only [Eff.Canon]
@[simp] theorem Eff.canon_done (h : Hw) : (Eff.done h).Canon ↔ h.mem.wf := by simp only [Eff.Canon]
@[simp] theorem Eff.canon_jump (h : Hw) (pc : Word) : (Eff.jump h pc).Canon ↔ h.mem.wf := by simp only [Eff.Canon]
@[simp] theorem Eff.canon_place (h : Hw) : (Eff.place h).Canon ↔ h.mem.wf := by simp only [Eff.Canon]
@[simp] theorem Eff.canon_block (h : Hw) (w : WaitFor) : (Eff.block h w).Canon ↔ h.mem.wf := by simp only [Eff.Canon]

@[simp] theorem Eff.canon_ite (p : Prop) [Decidable p] (a b : Eff) :
    (if p then a else b).Canon = if p then a.Canon else b.Canon := by
  split <;> rfl

@[simp] theorem Hw.mem_ite (p : Prop) [Decidable p] (a b : Hw) :
    (if p then a else b).mem = if p then a.mem else b.mem := by
  split <;> rfl

@[simp] theorem Mem.wf_ite (p : Prop) [Decidable p] (a b : Mem) :
    (if p then a else b).wf = if p then a.wf else b.wf := by
  split <;> rfl

/-- Both branches of a choice are canonical. -/
theorem ite_wf {p : Prop} [Decidable p] {a b : Hw} (ha : a.mem.wf) (hb : b.mem.wf) :
    (if p then a else b).mem.wf := by
  split
  · exact ha
  · exact hb

@[simp] theorem foldl_mem {α : Type} (f : Hw → α → Hw) (hf : ∀ g a, (f g a).mem = g.mem) (l : List α) (h : Hw) :
    (l.foldl f h).mem = h.mem := by
  induction l generalizing h with
  | nil => rfl
  | cons a l ih => exact (ih _).trans (hf h a)

@[simp] theorem foldl_wf {α : Type} (f : Hw → α → Hw) (hf : ∀ g a, g.mem.wf → (f g a).mem.wf) (l : List α)
    (h : Hw) (hc : h.mem.wf) : (l.foldl f h).mem.wf := by
  induction l generalizing h with
  | nil => exact hc
  | cons a l ih => exact ih _ (hf h a hc)

end Sys2Proof.Machine
end

section
/-! The canonical form: records, issuing and sending -/

namespace Sys2Proof.Machine

variable {h : Hw}

@[simp] theorem logCnv_mem (d : Fin 2) (off : Nat) (own : Option CtxId) (cls : BitVec 8) :
    (logCnv h d off own cls).mem = h.mem := by simp [logCnv]

@[simp] theorem logPath_mem (d : Fin 2) (off : Nat) : (logPath h d off).mem = h.mem := by simp [logPath]

@[simp] theorem logAcc_mem (e : EaselId) (cls : BitVec 8) : (logAcc h e cls).mem = h.mem := by simp [logAcc]

@[simp] theorem touchRead_wf (hc : h.mem.wf) (a n : Nat) : (touchRead h a n).mem.wf := by simp [touchRead, hc]

@[simp] theorem endReads_mem (p : SlotId → Bool) : (endReads h p).mem = h.mem := by simp [endReads]

@[simp] theorem reportUe_mem (off : Nat) (reader : Option CtxId) : (reportUe h off reader).mem = h.mem := by
  unfold reportUe
  split <;> simp

@[simp] theorem waitFault_mem (e : EaselId) (b : Blocked) (cls : BitVec 8) (addr : Word) :
    (waitFault h e b cls addr).mem = h.mem := by simp [waitFault]

@[simp] theorem fetchTouch_wf (hc : h.mem.wf) (e : EaselId) : (fetchTouch h e).mem.wf := by
  simp [fetchTouch, hc]

@[simp] theorem applyEff_wf (hc : h.mem.wf) (e : EaselId) (inst : Word) {eff : Eff} (hf : eff.Canon) :
    (applyEff h e inst eff).mem.wf := by
  cases eff <;> simp_all [applyEff]

@[simp] theorem issue_wf (hc : h.mem.wf) (e : EaselId) (inst : Word) (pneg : Bool) (pred : BitVec 3)
    (dec : Option (BitVec 8)) {body : Hw → Eff} (hb : ∀ g, g.mem.wf → (body g).Canon) :
    (issue h e inst pneg pred dec body).mem.wf := by
  unfold issue
  split
  · exact hc
  · have ht := fetchTouch_wf hc e
    split
    · simp [hc]
    · split
      · simp [ht]
      · simp [ht, hb _ ht]

@[simp] theorem useNonce_mem (i : Nat) (k : JobKey) : (useNonce h i k).mem = h.mem := by simp [useNonce]

@[simp] theorem sealPkt_mem (i : Nat) (k : JobKey) (x : Hdr) (body : Bytes) :
    (sealPkt h i k x body).2.mem = h.mem := by
  unfold sealPkt
  split <;> simp

@[simp] theorem inject_mem (p : Pkt) (req : Option (BitVec 16)) : (inject h p req).mem = h.mem := by
  simp [inject]

@[simp] theorem Hw.setPort_mem (i : PortId) (p : Port) : (h.setPort i p).mem = h.mem := by simp [Hw.setPort]

@[simp] theorem addReq_mem (who : ReqBy) (ctx : Option CtxId) (addr : Word) (host write north : Bool) :
    (addReq h who ctx addr host write north).mem = h.mem := by simp [addReq]

@[simp] theorem reqSent_mem (t : BitVec 16) : (reqSent h t).mem = h.mem := by simp [reqSent]

@[simp] theorem sendReq_mem (who : ReqBy) (c : CtxId) (addr : Word) (write : Bool) (x : Hdr) (body : Bytes)
    : (sendReq h who c addr write x body).mem = h.mem := by
  unfold sendReq
  split <;> simp

@[simp] theorem sendRead_mem (who : ReqBy) (c : CtxId) (addr : Word) (dst off n : Nat) :
    (sendRead h who c addr dst off n).mem = h.mem := by simp [sendRead]

@[simp] theorem sendWrite_mem (who : ReqBy) (c : CtxId) (addr : Word) (dst off : Nat) (b : Bytes) :
    (sendWrite h who c addr dst off b).mem = h.mem := by simp [sendWrite]

@[simp] theorem dropReq_mem (t : BitVec 16) : (dropReq h t).mem = h.mem := by simp [dropReq]

@[simp] theorem Hw.setFn_mem (f : FnId) (x : HifFn) : (h.setFn f x).mem = h.mem := by simp [Hw.setFn]

@[simp] theorem Hw.modFn_mem (f : FnId) (g : HifFn → HifFn) : (h.modFn f g).mem = h.mem := by simp [Hw.modFn]

@[simp] theorem hostRead_mem (who : ReqBy) (ctx : Option CtxId) (addr : Word) (bus n : Nat) :
    (hostRead h who ctx addr bus n).mem = h.mem := by simp [hostRead]

@[simp] theorem hostWriteCtx_mem (c : CtxId) (bus : Nat) (b : Bytes) :
    (hostWriteCtx h c bus b).mem = h.mem := by simp [hostWriteCtx]

end Sys2Proof.Machine
end

section
/-! The canonical form: loads and stores, control registers, synchronization, atomics -/

namespace Sys2Proof.Machine

variable {h : Hw}

@[simp] theorem branch_wf (hc : h.mem.wf) (minor : BitVec 6) (unused : FmtB → Bool)
    (taken : Word → Word → Bool) (e : EaselId) (f : FmtB) : (branch minor unused taken e f h).mem.wf := by
  simp [branch, hc]

@[simp] theorem readEff_wf (hc : h.mem.wf) (x : Easel) (a : Word) (off n : Nat) (good : Eff)
    (hg : good.Canon) : (readEff h x a off n good).Canon := by
  unfold readEff
  (repeat' split) <;> simp [hc, hg]

@[simp] theorem loadEff_wf (hc : h.mem.wf) (e : EaselId) (rd : BitVec 5) (a : Word) (size : Nat)
    (signed : Bool) : (loadEff e rd a size signed h).Canon := by
  unfold loadEff
  dsimp only
  (repeat' split) <;> simp [hc]

@[simp] theorem loadI_wf (hc : h.mem.wf) (minor : BitVec 6) (size : Nat) (signed : Bool) (e : EaselId)
    (f : FmtI) : (loadI minor size signed e f h).mem.wf := by simp +contextual [loadI, hc]

@[simp] theorem Hw.pushSb_mem (e : EaselId) (s : SbEntry) : (h.pushSb e s).mem = h.mem := by simp [Hw.pushSb]

@[simp] theorem staleReads_mem (e : EaselId) (p : Nat → Bool) : (staleReads h e p).mem = h.mem := by
  simp [staleReads]

@[simp] theorem dropLines_mem (e : EaselId) (a : Word) (n : Nat) : (dropLines h e a n).mem = h.mem := by
  simp [dropLines]

@[simp] theorem storeLocal_wf (hc : h.mem.wf) (e : EaselId) (a : Word) (off size : Nat) (v inst : Word) :
    (storeLocal h e a off size v inst).mem.wf := by
  unfold storeLocal
  (repeat' split) <;> simp [hc]

@[simp] theorem storeEff_wf (hc : h.mem.wf) (e : EaselId) (inst a v : Word) (size : Nat) :
    (storeEff e inst a v size h).Canon := by
  unfold storeEff
  dsimp only
  (repeat' split) <;> simp [hc]

@[simp] theorem drainEntry_wf (hc : h.mem.wf) (e : EaselId) (s : SbEntry) : (drainEntry h e s).mem.wf := by
  unfold drainEntry
  dsimp only
  (repeat' split) <;> simp [hc]

@[simp] theorem drainStores_wf (hc : h.mem.wf) (e : EaselId) : (drainStores h e).mem.wf := by
  simp +contextual [drainStores, hc]

@[simp] theorem storeI_wf (hc : h.mem.wf) (minor : BitVec 6) (size : Nat) (e : EaselId) (f : FmtI) :
    (storeI minor size e f h).mem.wf := by simp +contextual [storeI, hc]

@[simp] theorem Hw.modSaved_mem (c : CtxId) (e : EaselId) (f : Saved → Saved) :
    (h.modSaved c e f).mem = h.mem := by simp [Hw.modSaved]

@[simp] theorem deferredFault_mem (e : EaselId) (s : SbEntry) (cls : BitVec 8) :
    (deferredFault h e s cls).mem = h.mem := by simp [deferredFault]

@[simp] theorem reportMerge_mem (s : SbEntry) : (reportMerge h s).mem = h.mem := by simp [reportMerge]

@[simp] theorem csrOp_wf (hc : h.mem.wf) (minor : BitVec 6) (needRw : Bool) (new : Nat → Word → Word → Word)
    (ok : FmtC → Bool) (e : EaselId) (f : FmtC) : (csrOp minor needRw new ok e f h).mem.wf := by
  simp +contextual [csrOp, hc]

@[simp] theorem tdOp_wf (hc : h.mem.wf) (minor : BitVec 6) (ok : FmtT → Bool)
    (eff : FmtT → CoreRegs → CoreRegs) (e : EaselId) (f : FmtT) : (tdOp minor ok eff e f h).mem.wf := by
  simp [tdOp, hc]

@[simp] theorem sysOp_wf (hc : h.mem.wf) (minor : BitVec 6) (used : Nat) (eff : Hw → Eff) (e : EaselId)
    (f : FmtI) (heff : ∀ g, g.mem.wf → (eff g).Canon) : (sysOp minor used eff e f h).mem.wf := by
  simp +contextual [sysOp, heff, hc]

@[simp] theorem srvOp_wf (hc : h.mem.wf) (minor : BitVec 6) (usesRs1 : Bool) (eff : Hw → Eff) (e : EaselId)
    (f : FmtI) (heff : ∀ g, g.mem.wf → (eff g).Canon) : (srvOp minor usesRs1 eff e f h).mem.wf := by
  simp +contextual [srvOp, heff, hc]

@[simp] theorem srvMove_wf (hc : h.mem.wf) (e : EaselId) (save : Bool) (a : Word) :
    (srvMove e save a h).Canon := by
  unfold srvMove
  (repeat' split) <;> simp [hc]

@[simp] theorem Hw.setObj_mem (o : ObjId) (w : Word) : (h.setObj o w).mem = h.mem := by
  unfold Hw.setObj
  split <;> simp

@[simp] theorem wake_mem (w : Waiter) : (wake h w).mem = h.mem := by simp [wake]

@[simp] theorem releaseWhere_mem (p : Waiter → Bool) : (releaseWhere h p).mem = h.mem := by
  simp [releaseWhere]

@[simp] theorem serve_mem (o : ObjId) : (serve h o).mem = h.mem := by simp [serve]

@[simp] theorem arrive_mem (i : Fin 32768) : (arrive h i).2.mem = h.mem := by
  unfold arrive
  dsimp only
  split <;> simp

@[simp] theorem releaseDue_mem (i : Fin 32768) : (releaseDue h i).mem = h.mem := by
  unfold releaseDue
  split <;> simp

@[simp] theorem overflowFault_mem (o : ObjId) (who : FaultRec) : (overflowFault h o who).mem = h.mem := by
  unfold overflowFault
  split <;> simp

@[simp] theorem signalObj_mem (o : ObjId) (amount : Nat) (who : FaultRec) :
    (signalObj h o amount who).mem = h.mem := by
  unfold signalObj
  split <;> simp

@[simp] theorem dropReleases_mem (p : Fin 32768 → Bool) : (dropReleases h p).mem = h.mem := by
  simp [dropReleases]

@[simp] theorem clearObjs_mem (p : Fin 32768 → Bool) : (clearObjs h p).mem = h.mem := by simp [clearObjs]

@[simp] theorem syncSet_mem (o : ObjId) (w : Word) : (syncSet h o w).mem = h.mem := by simp [syncSet]

@[simp] theorem sendSync_mem (who : ReqBy) (c : CtxId) (name : Word) (fa op index : Nat) (v : Word) :
    (sendSync h who c name fa op index v).mem = h.mem := by simp [sendSync]

@[simp] theorem postSync_mem (e : EaselId) (inst name : Word) (scope : BitVec 2) (op : Nat) (v : Word)
    (kind : SbKind) : (postSync h e inst name scope op v kind).mem = h.mem := by
  unfold postSync
  dsimp only
  (repeat' split) <;> simp

@[simp] theorem postEff_wf (hc : h.mem.wf) (e : EaselId) (inst name v : Word) (scope : BitVec 2) (op : Nat)
    : (postEff e inst name v scope op h).Canon := by simp [postEff, hc]

@[simp] theorem syncrdEff_wf (hc : h.mem.wf) (e : EaselId) (rd : BitVec 5) (n : Word) (scope : BitVec 2) :
    (syncrdEff e rd n scope h).Canon := by
  unfold syncrdEff
  dsimp only
  (repeat' split) <;> simp [hc]

@[simp] theorem addWaiter_mem (w : Waiter) : (addWaiter h w).mem = h.mem := by simp [addWaiter]

@[simp] theorem enterWait_mem (o : ObjId) (e : EaselId) (c : CtxId) (n : Nat) (consume : Bool) :
    (enterWait h o e c n consume).mem = h.mem := by
  unfold enterWait
  split <;> simp

@[simp] theorem waitEff_wf (hc : h.mem.wf) (o : ObjId) (n : Nat) (consume : Bool) (left : Option Nat) :
    (waitEff o n consume left h).Canon := by simp [waitEff, hc]

@[simp] theorem waitArrives_wf (hc : h.mem.wf) (h0 : Hw) (e : EaselId) (n : Nat) (consume : Bool) :
    (waitArrives h0 h e n consume).mem.wf := by
  unfold waitArrives
  split <;> simp [hc]

@[simp] theorem dropWaiters_mem (p : Waiter → Bool) : (dropWaiters h p).mem = h.mem := by simp [dropWaiters]

@[simp] theorem atomPerform_wf (hc : h.mem.wf) (op off : Nat) (b c : Word) :
    (atomPerform h op off b c).2.mem.wf := by simp [atomPerform, hc]

@[simp] theorem atomEff_wf (hc : h.mem.wf) (e : EaselId) (op : Nat) (rd : BitVec 5) (a b c : Word) :
    (atomEff e op rd a b c h).Canon := by
  unfold atomEff
  dsimp only
  (repeat' split) <;> simp [hc]

@[simp] theorem atomI_wf (hc : h.mem.wf) (op : BitVec 4) (e : EaselId) (scope : BitVec 2) (f : FmtA) :
    (atomI op e scope f h).mem.wf := by simp +contextual [atomI, hc]

end Sys2Proof.Machine
end

section
/-! The canonical form: operands and engines -/

namespace Sys2Proof.Machine

variable {h : Hw}

@[simp] theorem touchView_wf (hc : h.mem.wf) (v : View) (off n : Nat) : (touchView h v off n).mem.wf := by
  simp +contextual [touchView, hc]

@[simp] theorem touchTile_wf (hc : h.mem.wf) (v : View) (d : TDesc) : (touchTile h v d).mem.wf := by
  simp +contextual [touchTile, hc]

@[simp] theorem putSlot_wf (hc : h.mem.wf) (s : SketchSlot) : (putSlot h s).mem.wf := by simp [putSlot, hc]

@[simp] theorem takeSlots_wf (hc : h.mem.wf) (l : List SketchSlot) : (takeSlots h l).mem.wf := by
  induction l generalizing h with
  | nil => exact hc
  | cons s l ih =>
    unfold takeSlots
    split
    · exact ih (by simp [hc])
    · exact hc

@[simp] theorem touchMerge_wf (hc : h.mem.wf) (off n : Nat) : (touchMerge h off n).mem.wf := by
  simp [touchMerge, hc]

@[simp] theorem writeLocal_wf (hc : h.mem.wf) (off : Nat) (b : Bytes) : (writeLocal h off b).mem.wf := by
  simp [writeLocal, hc]

@[simp] theorem applyWrites_wf (hc : h.mem.wf) (ws : List Wr) : (applyWrites h ws).mem.wf := by
  simp +contextual [applyWrites, hc]

@[simp] theorem setFlags_mem (e : EaselId) (flags : Word) : (setFlags h e flags).mem = h.mem := by
  simp [setFlags]

@[simp] theorem clearSetFlags_mem (e : EaselId) (set : Nat) : (clearSetFlags h e set).mem = h.mem := by
  simp [clearSetFlags]

@[simp] theorem keepLine_mem (e : EaselId) (c : CtxId) (a : Word) (b : Bytes) :
    (keepLine h e c a b).mem = h.mem := by simp [keepLine]

theorem readSource_wf (hc : h.mem.wf) (e : EaselId) (q : QEntry) (t : Txn) :
    ∀ p, readSource h e q t = some p → p.2.mem.wf := by
  unfold readSource
  dsimp only
  (repeat' split) <;> simp [hc]

@[simp] theorem countCe_mem (c : CtxId) (t : Target) (n : Nat) : (countCe h c t n).mem = h.mem := by
  unfold countCe
  split <;> simp

@[simp] theorem modEntry_mem (e : EaselId) (q : Engine) (serial : Word) (f : QEntry → QEntry) :
    (modEntry h e q serial f).mem = h.mem := by simp [modEntry]

@[simp] theorem dropEntry_mem (e : EaselId) (q : Engine) (serial : Word) :
    (dropEntry h e q serial).mem = h.mem := by simp [dropEntry]

@[simp] theorem enqueue_mem (e : EaselId) (q : Engine) (i : QEntry) : (enqueue h e q i).mem = h.mem := by
  simp [enqueue]

@[simp] theorem enqueueEff_wf (hc : h.mem.wf) (e : EaselId) (q : Engine) (i : QEntry) :
    (enqueueEff e q i h).Canon := by simp [enqueueEff, hc]

@[simp] theorem engIssue_wf (hc : h.mem.wf) (major minor : BitVec 6) (q : Engine) (op : EngOp) (decOk : Bool)
    (regs : CoreRegs → List Word) (checks : EaselId → QEntry → List (Bool × BitVec 8)) (e : EaselId) (f : FmtE) :
    (engIssue major minor q op decOk regs checks e f h).mem.wf := by
  refine issue_wf hc _ _ _ _ _ fun g hg => ?_
  dsimp only
  split <;> simp [hg]

@[simp] theorem vuIssue_wf (hc : h.mem.wf) (op : VOp) (e : EaselId) (f : FmtE) :
    (vuIssue op e f h).mem.wf := by simp [vuIssue, hc]

@[simp] theorem postFlag_wf (hc : h.mem.wf) (e : EaselId) (inst a v : Word) :
    (postFlag h e inst a v).mem.wf := by
  unfold postFlag
  dsimp only
  (repeat' split) <;> simp [hc]

theorem heldBody_canon {e : EaselId} {b : Blocked} {body : Hw → Eff} (hb : heldBody e b = some body)
    (hc : h.mem.wf) : (body h).Canon := by
  unfold heldBody at hb
  split at hb
  case h_9 => simp at hb
  all_goals
    obtain rfl := Option.some.inj hb
    simp [hc]

@[simp] theorem retry_wf (hc : h.mem.wf) (e : EaselId) (svc : Bool) (b : Blocked) {body : Hw → Eff}
    (hb : ∀ g, g.mem.wf → (body g).Canon) : (retry h e svc b body).mem.wf := by
  have hr (g : Hw) (hg : g.mem.wf) : (applyEff g e b.inst (body g)).mem.wf := applyEff_wf hg e _ (hb g hg)
  unfold retry
  dsimp only
  split <;> simp [hr, hc]

@[simp] theorem settleSvc_wf (hc : h.mem.wf) (e : EaselId) : (settleSvc h e).mem.wf := by
  unfold settleSvc
  split
  · exact hc
  · split
    · next hb => exact retry_wf hc _ _ _ fun _ => heldBody_canon hb
    · exact hc

@[simp] theorem settleCtx_wf (hc : h.mem.wf) (e : EaselId) : (settleCtx h e).mem.wf := by
  unfold settleCtx
  dsimp only
  split
  · exact hc
  split
  · exact hc
  split
  case h_6 =>
    split
    · next hb => exact retry_wf hc _ _ _ fun _ => heldBody_canon hb
    · exact hc
  all_goals simp [hc]

@[simp] theorem settle_wf (hc : h.mem.wf) (e : EaselId) : (settle h e).mem.wf :=
  settleCtx_wf (settleSvc_wf (drainStores_wf hc e) e) e

@[simp] theorem beginMma_mem (e : EaselId) : (beginMma h e).mem = h.mem := by simp [beginMma]

@[simp] theorem sendTxn_mem (e : EaselId) (i : QEntry) (idx : Nat) (t : Txn) (fa off : Nat) (b : Bytes) :
    (sendTxn h e i idx t fa off b).mem = h.mem := by simp [sendTxn]

@[simp] theorem markBad_mem (e : EaselId) (i : QEntry) (idx : Nat) (c : BitVec 8) :
    (markBad h e i idx c).mem = h.mem := by simp [markBad]

@[simp] theorem forwardTxn_mem (e : EaselId) (i : QEntry) (idx : Nat) (t : Txn) (b : Bytes) :
    (forwardTxn h e i idx t b).mem = h.mem := by
  unfold forwardTxn
  (repeat' split) <;> simp

@[simp] theorem startTxn_wf (hc : h.mem.wf) (e : EaselId) (i : QEntry) (idx : Nat) (t : Txn) :
    (startTxn h e i idx t).mem.wf := by
  have hr := readSource_wf hc e i t
  unfold startTxn
  split
  · split <;> simp [hc]
  split
  · exact hc
  split
  · next h2 => 
    have := hr _ h2
    split
    · split
      · split <;> simp [this, hc]
      · exact hc
    · split <;> simp [this, hc]
  · split
    · split
      · exact hc
      · split <;> simp [hc]
    · exact hc

@[simp] theorem sendLacking_wf (hc : h.mem.wf) (e : EaselId) (serial : Word) (k : Nat) :
    (sendLacking h e serial k).mem.wf := by
  unfold sendLacking
  (repeat' split) <;> simp [hc]

@[simp] theorem pumpEntry_wf (hc : h.mem.wf) (e : EaselId) (i : QEntry) : (pumpEntry h e i).mem.wf := by
  simp +contextual [pumpEntry, hc]

@[simp] theorem pumpCe_wf (hc : h.mem.wf) (e : EaselId) : (pumpCe h e).mem.wf := by
  simp +contextual [pumpCe, hc]

@[simp] theorem touchIndices_wf (hc : h.mem.wf) (e : EaselId) (i : QEntry) : (touchIndices h e i).mem.wf := by
  simp [touchIndices, hc]

@[simp] theorem countCycles_mem (e : EaselId) (i : QEntry) : (countCycles h e i).mem = h.mem := by
  unfold countCycles
  split <;> simp

@[simp] theorem endMma_mem (e : EaselId) (i : QEntry) : (endMma h e i).mem = h.mem := by simp [endMma]

@[simp] theorem performWrites_wf (hc : h.mem.wf) (e : EaselId) (q : Engine) (i : QEntry)
    (plain sk : List Wr) : (performWrites h e q i plain sk).mem.wf := by simp [performWrites, hc]

@[simp] theorem performPart_wf (hc : h.mem.wf) (e : EaselId) (q : Engine) (i : QEntry) (n : Nat) :
    (performPart h e q i n).mem.wf := by
  have ht := foldl_wf (fun g d => touchTile g (i.view e) d) (fun g d hg => touchTile_wf hg _ d) (engSources i) h hc
  unfold performPart
  dsimp only
  (repeat' split) <;> simp [ht]

@[simp] theorem ceWrites_wf (hc : h.mem.wf) (e : EaselId) (i : QEntry) (idxs : List Nat) :
    (ceWrites h e i idxs).h.mem.wf := by
  refine List.foldlRecOn idxs _ (motive := fun r : CeWrites => r.h.mem.wf) hc fun r hr k _ => ?_
  split
  · exact hr
  · next t _ =>
    have hs := readSource_wf hr e i t
    split
    · split
      · exact hr
      · dsimp only
        split
        · next hd =>
          split at hd
          · obtain ⟨-, rfl⟩ := Prod.mk.inj (Option.some.inj hd)
            split <;> simp [hr]
          · have := hs _ hd
            split <;> simpa using this
        · exact hr
    · simp [hr]

@[simp] theorem performEngine_wf (hc : h.mem.wf) (e : EaselId) (q : Engine) (i : QEntry) :
    (performEngine h e q i).mem.wf := by
  unfold performEngine
  split <;> simp [hc]

@[simp] theorem recordTraps_mem (e : EaselId) (q : Engine) (i : QEntry) (flags : Word) :
    (recordTraps h e q i flags).mem = h.mem := by simp [recordTraps]

@[simp] theorem countAcc_mem (e : EaselId) (n : Nat) (ue : Bool) : (countAcc h e n ue).mem = h.mem := by
  simp [countAcc]

@[simp] theorem spoilAcc_mem (e : EaselId) (l : List AccErr) : (spoilAcc h e l).mem = h.mem := by
  simp [spoilAcc]

@[simp] theorem completeEngine_wf (hc : h.mem.wf) (e : EaselId) (q : Engine) (i : QEntry) :
    (completeEngine h e q i).mem.wf := by
  refine pumpCe_wf (settle_wf ?_ e) e
  simp [hc]

@[simp] theorem partialEffect_wf (hc : h.mem.wf) (e : EaselId) (q : Engine) (i : QEntry) (cls : BitVec 8)
    (done : List Nat) : (partialEffect h e q i cls done).mem.wf := by
  unfold partialEffect
  split <;> simp [hc]

@[simp] theorem reportEngineUe_wf (hc : h.mem.wf) (i : QEntry) (cls : BitVec 8) (addr : Word) :
    (reportEngineUe h i cls addr).mem.wf := by
  unfold reportEngineUe
  (repeat' split) <;> simp [hc]

@[simp] theorem endWithFault_mem (e : EaselId) (q : Engine) (i : QEntry) (cls : BitVec 8) (addr : Word) :
    (endWithFault h e q i cls addr).mem = h.mem := by simp [endWithFault]

@[simp] theorem stopAtBoundary_wf (hc : h.mem.wf) (e : EaselId) (q : Engine) :
    (stopAtBoundary h e q).mem.wf := by
  unfold stopAtBoundary
  split <;> simp [hc]

@[simp] theorem stopCopy_wf (hc : h.mem.wf) (e : EaselId) (i : QEntry) : (stopCopy h e i).mem.wf := by
  simp [stopCopy, hc]

@[simp] theorem stopEngines_wf (hc : h.mem.wf) (e : EaselId) : (stopEngines h e).mem.wf :=
  foldl_wf _ (fun _ i hg => stopCopy_wf hg e i) _ _ (stopAtBoundary_wf (stopAtBoundary_wf hc e .me) e .vu)

@[simp] theorem resumeMma_mem (e : EaselId) : (resumeMma h e).mem = h.mem := by
  unfold resumeMma
  split <;> simp

@[simp] theorem idleMe_mem (e : EaselId) : (idleMe h e).mem = h.mem := by simp [idleMe]

@[simp] theorem releaseDone_wf (hc : h.mem.wf) (e : EaselId) (q : Engine) (serial : Word) :
    (releaseDone h e q serial).mem.wf := by simp [releaseDone, hc]

@[simp] theorem engineFlag_wf (hc : h.mem.wf) (e : EaselId) (q : Engine) (i : QEntry) (a v : Word) :
    (engineFlag h e q i a v).mem.wf := by
  unfold engineFlag
  (repeat' split) <;> simp [hc]

@[simp] theorem engineSignal_wf (hc : h.mem.wf) (e : EaselId) (q : Engine) (i : QEntry) (scope : BitVec 2)
    (n v : Word) : (engineSignal h e q i scope n v).mem.wf := by
  unfold engineSignal
  (repeat' split) <;> simp [hc]

end Sys2Proof.Machine
end

section
/-! The canonical form: glaze and ordering -/

namespace Sys2Proof.Machine

variable {h : Hw}

@[simp] theorem Hw.setGslot_mem (n : SlotId) (g : GlazeSlot) : (h.setGslot n g).mem = h.mem := by
  simp [Hw.setGslot]

@[simp] theorem Hw.modGslot_mem (n : SlotId) (f : GlazeSlot → GlazeSlot) : (h.modGslot n f).mem = h.mem := by
  simp [Hw.modGslot]

@[simp] theorem streamFault_mem (n : SlotId) (cls : BitVec 8) (addr : Word) (block : Nat) :
    (streamFault h n cls addr block).mem = h.mem := by simp [streamFault]

@[simp] theorem glzRefuse_mem (n : SlotId) (e : EaselId) (c : CtxId) (serial pc inst addr : Word) :
    (glzRefuse h n e c serial pc inst addr).mem = h.mem := by simp [glzRefuse]

@[simp] theorem countOut_mem (n : SlotId) (c : CtxId) (k : Nat) : (countOut h n c k).mem = h.mem := by
  simp [countOut]

theorem deliverFault_wf (hc : h.mem.wf) {g : GlazeSlot} {ws : List Wr} {p : BitVec 8 × Hw}
    (hp : deliverFault h g ws = some p) : p.2.mem.wf := by
  unfold deliverFault at hp
  split at hp
  · obtain rfl := Option.some.inj hp
    exact hc
  · split at hp
    · obtain rfl := Option.some.inj hp
      simp [hc]
    · obtain ⟨w, -, rfl⟩ := Option.map_eq_some_iff.mp hp
      exact Mem.wf_pathMet _ _ hc

@[simp] theorem pump_wf (hc : h.mem.wf) (n : SlotId) : (pump h n).mem.wf := by
  unfold pump
  dsimp only
  split
  · exact hc
  · split
    · next hf => simp [deliverFault_wf hc hf]
    · simp [hc]

@[simp] theorem glzSignal_mem (n : SlotId) (e : EaselId) (so : BitVec 9) :
    (glzSignal h n e so).mem = h.mem := by simp [glzSignal]

@[simp] theorem streamDone_mem (n : SlotId) : (streamDone h n).mem = h.mem := by simp [streamDone]

@[simp] theorem takeEntry_wf (hc : h.mem.wf) (n : SlotId) : (takeEntry h n).mem.wf := by
  unfold takeEntry
  dsimp only
  split <;> simp [hc]

@[simp] theorem glzReadFault_wf (hc : h.mem.wf) (n : SlotId) (c : BitVec 8) (off len : Nat) (uma : Word)
    (block : Nat) : (glzReadFault h n c off len uma block).mem.wf := by
  unfold glzReadFault
  split <;> simp [hc]

@[simp] theorem startEntry_wf (hc : h.mem.wf) (n : SlotId) : (startEntry h n).mem.wf := by
  unfold startEntry
  dsimp only
  (repeat' split) <;> simp [hc]

@[simp] theorem fetchPart_mem (n : SlotId) (idx off len : Nat) : (fetchPart h n idx off len).mem = h.mem := by
  simp [fetchPart]

@[simp] theorem fetchBlock_mem (n : SlotId) : (fetchBlock h n).mem = h.mem := by simp [fetchBlock]

@[simp] theorem fetchNext_mem (n : SlotId) : (fetchNext h n).mem = h.mem := by
  unfold fetchNext
  dsimp only
  (repeat' split) <;> simp

@[simp] theorem stageBlock_wf (hc : h.mem.wf) (n : SlotId) (o : BlockOut) : (stageBlock h n o).mem.wf := by
  simp [stageBlock, hc]

@[simp] theorem failGroup_wf (hc : h.mem.wf) (n : SlotId) (o : BlockOut) : (failGroup h n o).mem.wf := by
  simp [failGroup, hc]

@[simp] theorem verifyBlock_wf (hc : h.mem.wf) (n : SlotId) (data tag : Bytes) :
    (verifyBlock h n data tag).mem.wf := by
  unfold verifyBlock
  dsimp only
  split
  · simp [hc]
  · have hr := foldl_wf (fun a r => touchRead a r.1 r.2) (fun a r ha => touchRead_wf ha _ _)
      (blockReads (h.gslot n)) (h.countWrap (glzBlk n + 0x28) data.length) (by simp [hc])
    simp [hr, hc]

@[simp] theorem readDesc_wf (hc : h.mem.wf) (b : GlazeBind) (off : Nat) : (readDesc h b off).2.2.mem.wf := by
  unfold readDesc
  dsimp only
  (repeat' split) <;> simp [hc]

@[simp] theorem stageDesc_mem (b : GlazeBind) (d : List Word) (ents : Bytes) :
    (stageDesc h b d ents).mem = h.mem := by simp [stageDesc]

@[simp] theorem bindSlot_wf (hc : h.mem.wf) (b : GlazeBind) (off : Nat) : (bindSlot h b off).mem.wf := by
  have hr := readDesc_wf hc b off
  unfold bindSlot
  dsimp only
  split
  · simp [hr]
  · split <;> simp [hr]

@[simp] theorem bindLocal_wf (hc : h.mem.wf) (b : GlazeBind) (off : Nat) : (bindLocal h b off).mem.wf := by
  unfold bindLocal
  (repeat' split) <;> simp [hc]

@[simp] theorem freeSlot_mem (n : SlotId) : (freeSlot h n).mem = h.mem := by simp [freeSlot]

@[simp] theorem readStreams_mem : (readStreams h).mem = h.mem := by simp [readStreams]

@[simp] theorem glazeData_mem (n : SlotId) (idx : Nat) (b : Bytes) : (glazeData h n idx b).mem = h.mem := by
  simp [glazeData]

@[simp] theorem glazeFailed_mem (n : SlotId) (idx : Nat) (cls : BitVec 8) :
    (glazeFailed h n idx cls).mem = h.mem := by simp [glazeFailed]

@[simp] theorem releaseI_wf (hc : h.mem.wf) (e : EaselId) (f : FmtI) : (releaseI e f h).mem.wf := by
  refine settle_wf (issue_wf hc _ _ _ _ _ fun g hg => ?_) e
  dsimp only
  split
  · simp
  · split <;> simp [hg]

@[simp] theorem dropPrefetch_mem (e : EaselId) : (dropPrefetch h e).mem = h.mem := by simp [dropPrefetch]

@[simp] theorem dropStaging_mem (c : CtxId) : (dropStaging h c).mem = h.mem := by simp [dropStaging]

@[simp] theorem acquireDiscard_mem (e : EaselId) (scope : BitVec 2) (ce glz : Bool) :
    (acquireDiscard h e scope ce glz).mem = h.mem := by simp [acquireDiscard]

@[simp] theorem dispatchAcquire_mem (c : CtxId) : (dispatchAcquire h c).mem = h.mem := by
  simp [dispatchAcquire]

@[simp] theorem fenceI_wf (hc : h.mem.wf) (e : EaselId) (f : FmtI) : (fenceI e f h).mem.wf := by
  simp [fenceI, hc]

end Sys2Proof.Machine
end

section
/-! The canonical form: remote requests, collectives' packets and the router -/

namespace Sys2Proof.Machine

variable {h : Hw}

@[simp] theorem finishCtx_mem (c : CtxId) (e : EaselId) (f : CoreRegs → CoreRegs) :
    (finishCtx h c e f).mem = h.mem := by simp [finishCtx]

@[simp] theorem faultCtx_mem (c : CtxId) (e : EaselId) (b : Blocked) (cls : BitVec 8) (addr : Word) :
    (faultCtx h c e b cls addr).mem = h.mem := by simp [faultCtx]

@[simp] theorem Hw.setCtxQueue_mem (c : CtxId) (e : EaselId) (q : Engine) (l : List QEntry) :
    (h.setCtxQueue c e q l).mem = h.mem := by simp [Hw.setCtxQueue]

@[simp] theorem modCtxEntry_mem (c : CtxId) (e : EaselId) (q : Engine) (serial : Word) (f : QEntry → QEntry)
    : (modCtxEntry h c e q serial f).mem = h.mem := by simp [modCtxEntry]

@[simp] theorem dropCtxEntry_mem (c : CtxId) (e : EaselId) (q : Engine) (serial : Word) :
    (dropCtxEntry h c e q serial).mem = h.mem := by simp [dropCtxEntry]

@[simp] theorem coreAnswer_mem (e : EaselId) (r : Request) (b : Bytes) :
    (coreAnswer h e r b).mem = h.mem := by
  unfold coreAnswer
  (repeat' split) <;> simp

@[simp] theorem coreFailed_mem (e : EaselId) (r : Request) (cls : BitVec 8) :
    (coreFailed h e r cls).mem = h.mem := by
  unfold coreFailed
  (repeat' split) <;> simp

@[simp] theorem sbFailed_mem (e : EaselId) (t : BitVec 16) (cls : BitVec 8) :
    (sbFailed h e t cls).mem = h.mem := by simp [sbFailed]

@[simp] theorem sbDone_wf (hc : h.mem.wf) (e : EaselId) (t : BitVec 16) : (sbDone h e t).mem.wf := by
  simp [sbDone, hc]

@[simp] theorem roomFreed_wf (hc : h.mem.wf) (who : ReqBy) : (roomFreed h who).mem.wf := by
  unfold roomFreed
  split <;> simp [hc]

@[simp] theorem copyData_mem (r : Request) (e : EaselId) (serial : Word) (idx : Nat) (b : Bytes) :
    (copyData h r e serial idx b).mem = h.mem := by
  unfold copyData
  (repeat' split) <;> simp

@[simp] theorem answerData_wf (hc : h.mem.wf) (r : Request) (b : Bytes) : (answerData h r b).mem.wf := by
  unfold answerData
  split <;> simp [hc]

@[simp] theorem answerDone_wf (hc : h.mem.wf) (r : Request) (tracked : Bool) :
    (answerDone h r tracked).mem.wf := by
  unfold answerDone
  split <;> simp [hc]

@[simp] theorem releaseFailed_mem (r : Request) (e : EaselId) (q : Engine) (serial : Word) (cls : BitVec 8)
    : (releaseFailed h r e q serial cls).mem = h.mem := by
  unfold releaseFailed
  split <;> simp

@[simp] theorem requestFailed_wf (hc : h.mem.wf) (r : Request) (cls : BitVec 8) :
    (requestFailed h r cls).mem.wf := by
  unfold requestFailed
  split <;> simp [hc]

@[simp] theorem localReqFails_wf (hc : h.mem.wf) (q : QPkt) (cls : BitVec 8) :
    (localReqFails h q cls).mem.wf := by
  unfold localReqFails
  (repeat' split) <;> simp [hc]

@[simp] theorem mixDst_wf (hc : h.mem.wf) (s : ColSlot) : (mixDst h s).mem.wf := by
  unfold mixDst
  split
  · exact hc
  · refine foldl_wf _ (fun g i hg => ?_) _ _ hc
    dsimp only
    split
    · exact Mem.wf_write _ _ hg
    · exact hg

@[simp] theorem withdrawPkts_mem (n : SlotId) : (withdrawPkts h n).mem = h.mem := by simp [withdrawPkts]

@[simp] theorem disownPkts_mem (n : SlotId) : (disownPkts h n).mem = h.mem := by simp [disownPkts]

@[simp] theorem freeColl_mem (n : SlotId) (withdrawn : Bool) : (freeColl h n withdrawn).mem = h.mem := by
  simp [freeColl]

@[simp] theorem colFault_wf (hc : h.mem.wf) (n : SlotId) (cls : BitVec 8) (addr : Word) (peer : Nat) :
    (colFault h n cls addr peer).mem.wf := by
  unfold colFault
  split <;> simp [hc]

@[simp] theorem logPort_mem (p : PortId) (x : Hdr) (cls : BitVec 8) : (logPort h p x cls).mem = h.mem := by
  simp [logPort]

@[simp] theorem giveBack_mem (q : QPkt) : (giveBack h q).mem = h.mem := by
  unfold giveBack
  split <;> simp

@[simp] theorem discardAt_mem (p : PortId) (x : Hdr) : (discardAt h p x).mem = h.mem := by simp [discardAt]

@[simp] theorem dropPacket_wf (hc : h.mem.wf) (p : PortId) (q : QPkt) (cls : BitVec 8) :
    (dropPacket h p q cls).mem.wf := by
  unfold dropPacket
  split <;> simp [hc]

@[simp] theorem deliver_mem (q : QPkt) : (deliver h q).mem = h.mem := by simp [deliver]

@[simp] theorem toPort_wf (hc : h.mem.wf) (p : PortId) (q : QPkt) : (toPort h p q).mem.wf := by
  simp [toPort, hc]

@[simp] theorem takeIn_wf (hc : h.mem.wf) (i : Nat) (p : Hdr → Bool) (f : Hw → QPkt → Hdr → Hw)
    (hf : ∀ g y1 y2, g.mem.wf → (f g y1 y2).mem.wf) : (takeIn h i p f).mem.wf := by
  unfold takeIn
  split <;> simp [hc, hf]

@[simp] theorem noRoute_wf (hc : h.mem.wf) (q : QPkt) : (noRoute h q).mem.wf := by simp [noRoute, hc]

@[simp] theorem QPkt.sent_mem (q : QPkt) : (QPkt.sent q h).mem = h.mem := by
  unfold QPkt.sent
  split <;> simp

@[simp] theorem routeUnicast_wf (hc : h.mem.wf) (q : QPkt) (x : Hdr) : (routeUnicast h q x).mem.wf := by
  unfold routeUnicast
  dsimp only
  (repeat' split) <;> simp [hc]

@[simp] theorem mcastCopies_wf (hc : h.mem.wf) (q0 : QPkt) (x : Hdr) : (mcastCopies h q0 x).mem.wf := by
  simp +contextual [mcastCopies, hc]

@[simp] theorem circuitBad_mem (q : QPkt) (x : Hdr) : (circuitBad h q x).mem = h.mem := by
  unfold circuitBad
  split <;> simp

@[simp] theorem circuitForward_wf (hc : h.mem.wf) (q : QPkt) (x : Hdr) : (circuitForward h q x).mem.wf := by
  unfold circuitForward
  dsimp only
  (repeat' split) <;> simp [hc]

@[simp] theorem circuitLost_mem (id port : Nat) (here : Bool) : (circuitLost h id port here).mem = h.mem := by
  simp [circuitLost]

@[simp] theorem setCircState_mem (id st : Nat) : (setCircState h id st).mem = h.mem := by
  unfold setCircState
  dsimp only
  split <;> simp

@[simp] theorem sendNotice_wf (hc : h.mem.wf) (id out : Nat) : (sendNotice h id out).mem.wf := by
  simp [sendNotice, hc]

@[simp] theorem breakCircuits_wf (hc : h.mem.wf) (p : PortId) : (breakCircuits h p).mem.wf := by
  refine foldl_wf _ (fun g c hg => ?_) _ _ hc
  dsimp only
  split
  · simp [hg]
  · exact hg

@[simp] theorem keyUnknown_mem (q : QPkt) : (keyUnknown h q).mem = h.mem := by
  unfold keyUnknown
  split <;> simp

@[simp] theorem openPkt_mem (q : QPkt) (x : Hdr) : (openPkt h q x).1.mem = h.mem := by
  unfold openPkt
  (repeat' split) <;> simp

@[simp] theorem takeLocal_wf (hc : h.mem.wf) (i : Nat) (ok : Hdr → Bool) (f : Hw → QPkt → Hdr → Plain → Hw)
    (hf : ∀ g y1 y2 y3, g.mem.wf → (f g y1 y2 y3).mem.wf) : (takeLocal h i ok f).mem.wf := by
  unfold takeLocal
  dsimp only
  (repeat' split) <;> simp [hc, hf]

@[simp] theorem answerFor_mem (stream : BitVec 16) (x : Hdr) (k : Plain) (vc typ : Nat) (body : Bytes)
    (status : BitVec 8) : (answerFor stream h x k vc typ body status).mem = h.mem := by
  unfold answerFor
  split <;> simp

@[simp] theorem respond_mem (x : Hdr) (k : Plain) (vc typ : Nat) (body : Bytes) (status : BitVec 8) :
    (respond h x k vc typ body status).mem = h.mem := by simp [respond]

theorem peerPath_wf (hc : h.mem.wf) (off n : Nat) : ∀ g, peerPath h off n = some g → g.mem.wf := by
  simp [peerPath, hc]

theorem peerFault_wf (hc : h.mem.wf) {job : BitVec 16} {off n : Nat} {write : Bool} {p : BitVec 8 × Hw}
    (hp : peerFault h job off n write = some p) : p.2.mem.wf := by
  unfold peerFault at hp
  split at hp
  · obtain rfl := Option.some.inj hp
    exact hc
  split at hp
  · obtain rfl := Option.some.inj hp
    exact hc
  split at hp
  · obtain rfl := Option.some.inj hp
    simp [hc]
  · obtain ⟨g, hg, rfl⟩ := Option.map_eq_some_iff.mp hp
    exact peerPath_wf hc off n g hg

@[simp] theorem remoteWrite_wf (hc : h.mem.wf) (x : Hdr) (k : Plain) (tracked : Bool) :
    (remoteWrite h x k tracked).mem.wf := by
  unfold remoteWrite
  dsimp only
  split
  · simp [hc]
  split
  · next hp => simp [peerFault_wf hc hp]
  · simp [hc]

@[simp] theorem openStream_mem (q : QPkt) (x : Hdr) : (openStream h q x).1.mem = h.mem := by
  unfold openStream
  (repeat' split) <;> simp

@[simp] theorem releaseHeld_wf (hc : h.mem.wf) : (releaseHeld h).mem.wf := by
  unfold releaseHeld
  dsimp only
  (repeat' split) <;> simp [hc]

@[simp] theorem streamStep_wf (hc : h.mem.wf) (x : Hdr) : (streamStep h x).mem.wf := by simp [streamStep, hc]

@[simp] theorem receiveWrite_wf (hc : h.mem.wf) (q : QPkt) (x : Hdr) (k : Plain) :
    (receiveWrite h q x k).mem.wf := by simp [receiveWrite, hc]

@[simp] theorem remoteRead_wf (hc : h.mem.wf) (x : Hdr) (k : Plain) : (remoteRead h x k).mem.wf := by
  unfold remoteRead
  split
  · next hp => simp [peerFault_wf hc hp]
  · simp [hc]

@[simp] theorem remoteAtomic_wf (hc : h.mem.wf) (x : Hdr) (k : Plain) : (remoteAtomic h x k).mem.wf := by
  unfold remoteAtomic
  dsimp only
  split
  · simp [hc]
  split
  · next hp => simp [peerFault_wf hc hp]
  · simp [hc]

@[simp] theorem remoteSync_mem (q : QPkt) (x : Hdr) (k : Plain) : (remoteSync h q x k).mem = h.mem := by
  unfold remoteSync
  dsimp only
  (repeat' split) <;> simp

@[simp] theorem takeResponse_wf (hc : h.mem.wf) (q : QPkt) (x : Hdr) (k : Plain) (f : Hw → Request → Hw)
    (hf : ∀ g y1, g.mem.wf → (f g y1).mem.wf) : (takeResponse h q x k f).mem.wf := by
  unfold takeResponse
  split <;> simp [hc, hf]

end Sys2Proof.Machine
end

section
/-! The canonical form: links, fabric time, collectives and sketches -/

namespace Sys2Proof.Machine

variable {h : Hw}

@[simp] theorem arrivePkt_mem (p : PortId) (flits : Nat) (k : Pkt) : (arrivePkt h p flits k).mem = h.mem := by
  simp [arrivePkt]

@[simp] theorem takeNack_mem (i : PortId) (w : Word) : (takeNack h i w).mem = h.mem := by
  unfold takeNack
  dsimp only
  split <;> simp

@[simp] theorem takeData_mem (i : PortId) (f : Flit) : (takeData h i f).mem = h.mem := by
  unfold takeData
  dsimp only
  (repeat' split) <;> simp

@[simp] theorem takeTraining_mem (i : PortId) : (takeTraining h i).mem = h.mem := by simp [takeTraining]

@[simp] theorem flitSlot_mem (i : PortId) (v : Nat) : (flitSlot h i v).mem = h.mem := by simp [flitSlot]

@[simp] theorem sendFlit_mem (i : PortId) (seq : BitVec 12) (kind v : Nat) (d : Bytes) :
    (sendFlit h i seq kind v d).mem = h.mem := by simp [sendFlit]

@[simp] theorem sendReplay_mem (i : PortId) (s : BitVec 12) : (sendReplay h i s).mem = h.mem := by
  unfold sendReplay
  dsimp only
  split <;> simp

@[simp] theorem sendData_mem (i : PortId) (v id : Nat) : (sendData h i v id).mem = h.mem := by simp [sendData]

theorem sendRound_wf (hc : h.mem.wf) (i : PortId) (l : List Nat) :
    ∀ g, sendRound h i l = some g → g.mem.wf := by
  unfold sendRound
  dsimp only
  split <;> simp [hc]

theorem sendNext_wf (hc : h.mem.wf) {i : PortId} {g : Hw} (hg : sendNext h i = some g) : g.mem.wf := by
  unfold sendNext at hg
  dsimp only at hg
  split at hg
  · obtain rfl := Option.some.inj hg
    simp [hc]
  split at hg
  · obtain rfl := Option.some.inj hg
    simp [hc]
  split at hg
  · obtain rfl := Option.some.inj hg
    simp [hc]
  · exact sendRound_wf hc _ _ g hg

@[simp] theorem takeTiming_mem (i : PortId) (d : Bytes) : (takeTiming h i d).mem = h.mem := by
  simp [takeTiming]

@[simp] theorem countFixed_mem (i : PortId) (lanes : List (Fin 8)) : (countFixed h i lanes).mem = h.mem := by
  simp [countFixed]

@[simp] theorem countFec_mem (i : PortId) (bad : Nat) (fixed : List (List (Fin 8))) :
    (countFec h i bad fixed).mem = h.mem := by simp [countFec]

@[simp] theorem ftcLink_mem (i : PortId) (up : Bool) : (ftcLink h i up).mem = h.mem := by simp [ftcLink]

@[simp] theorem setPortState_mem (i : PortId) (st : BitVec 3) (lanes : BitVec 8) :
    (setPortState h i st lanes).mem = h.mem := by simp [setPortState]

@[simp] theorem goDown_wf (hc : h.mem.wf) (i : PortId) : (goDown h i).mem.wf := by
  refine breakCircuits_wf (foldl_wf _ (fun g q hg => ?_) _ _ ?_) i
  · simp [hg]
  · simp [hc]

@[simp] theorem goUp_mem (i : PortId) (lanes : BitVec 8) : (goUp h i lanes).mem = h.mem := by simp [goUp]

@[simp] theorem beginTraining_mem (i : PortId) : (beginTraining h i).mem = h.mem := by simp [beginTraining]

@[simp] theorem retrainFails_wf (hc : h.mem.wf) (i : PortId) : (retrainFails h i).mem.wf := by
  simp [retrainFails, hc]

@[simp] theorem retrainFull_mem (i : PortId) : (retrainFull h i).mem = h.mem := by simp [retrainFull]

@[simp] theorem saveEq_mem (i : PortId) : (saveEq h i).mem = h.mem := by simp [saveEq]

@[simp] theorem acceptMiswire_mem (i : PortId) : (acceptMiswire h i).mem = h.mem := by simp [acceptMiswire]

@[simp] theorem slewCorrect_mem (q : Int) : (slewCorrect h q).mem = h.mem := by simp [slewCorrect]

@[simp] theorem ftcSetValue_mem (v : Word) : (ftcSetValue h v).mem = h.mem := by simp [ftcSetValue]

@[simp] theorem takeSnapshot_wf (hc : h.mem.wf) : (takeSnapshot h).mem.wf := by simp [takeSnapshot, hc]

@[simp] theorem snapArm_wf (hc : h.mem.wf) (v : Word) : (snapArm h v).mem.wf := by simp [snapArm, hc]

@[simp] theorem Hw.setCslot_mem (n : SlotId) (s : ColSlot) : (h.setCslot n s).mem = h.mem := by
  simp [Hw.setCslot]

@[simp] theorem Hw.modCslot_mem (n : SlotId) (f : ColSlot → ColSlot) : (h.modCslot n f).mem = h.mem := by
  unfold Hw.modCslot
  split <;> simp

@[simp] theorem sendColl_mem (n : SlotId) (s : ColSlot) (fa vc typ off : Nat) (tag : BitVec 16)
    (body : Bytes) : (sendColl h n s fa vc typ off tag body).mem = h.mem := by
  unfold sendColl
  split <;> simp

@[simp] theorem sendCtl_mem (n : SlotId) (s : ColSlot) (r : Nat) (kind : BitVec 16) (v : Nat) :
    (sendCtl h n s r kind v).mem = h.mem := by simp [sendCtl]

@[simp] theorem sendOne_wf (hc : h.mem.wf) (n : SlotId) (m : Ready) : (sendOne h n m).mem.wf := by
  unfold sendOne
  (repeat' split) <;> simp [hc]

@[simp] theorem sendAll_wf (hc : h.mem.wf) (n : SlotId) : (sendAll h n).mem.wf := by
  unfold sendAll
  (repeat' split) <;> simp +contextual [hc]

@[simp] theorem collStep_wf (hc : h.mem.wf) (n : SlotId) : (collStep h n).mem.wf := by simp [collStep, hc]

@[simp] theorem sendReadies_wf (hc : h.mem.wf) (n : SlotId) (rs : List Nat) : (sendReadies h n rs).mem.wf := by
  refine foldl_wf _ (fun g r hg => ?_) _ _ hc
  split
  · exact hg
  · split <;> simp [hg]

@[simp] theorem compareReady_wf (hc : h.mem.wf) (n : SlotId) (s : ColSlot) (r : HeldReady) :
    (compareReady h n s r).mem.wf := by simp [compareReady, hc]

@[simp] theorem holdReady_mem (r : HeldReady) : (holdReady h r).mem = h.mem := by simp [holdReady]

@[simp] theorem takeReady_wf (hc : h.mem.wf) (r : HeldReady) : (takeReady h r).mem.wf := by
  unfold takeReady
  split <;> simp [hc]

@[simp] theorem takeHeld_wf (hc : h.mem.wf) (n : SlotId) (s : ColSlot) : (takeHeld h n s).mem.wf := by
  refine foldl_wf _ (fun g r hg => ?_) _ _ hc
  split <;> simp [hg]

theorem bufFault_wf (hc : h.mem.wf) {c : CtxId} {write : Bool} {l : List Buf} {f : BitVec 8 × Nat × Hw}
    (hf : bufFault h c write l = some f) : f.2.2.mem.wf := by
  obtain ⟨b, -, hb⟩ := List.exists_of_findSome?_eq_some hf
  split at hb
  · obtain rfl := Option.some.inj hb
    exact hc
  split at hb
  · obtain rfl := Option.some.inj hb
    simp [hc]
  · obtain ⟨o, -, rfl⟩ := Option.map_eq_some_iff.mp hb
    exact Mem.wf_pathMet _ _ hc

@[simp] theorem startColl_wf (hc : h.mem.wf) (n : SlotId) : (startColl h n).mem.wf := by
  unfold startColl
  split
  · exact hc
  dsimp only
  split
  · exact hc
  split
  · next hf => simp [bufFault_wf hc hf]
  · have ht (l : List Buf) : (l.foldl (fun g r => touchRead g r.1 r.2) h).mem.wf :=
      foldl_wf _ (fun _ _ hg => touchRead_wf hg _ _) l h hc
    simp [ht]

@[simp] theorem startColls_wf (hc : h.mem.wf) : (startColls h).mem.wf := by
  refine foldl_wf _ (fun g r hg => ?_) _ _ hc
  split <;> simp [hg]

@[simp] theorem refuseColl_mem (n : SlotId) (s : ColSlot) (cls : BitVec 8) (addr : Word) :
    (refuseColl h n s cls addr).mem = h.mem := by simp [refuseColl]

@[simp] theorem acceptColl_wf (hc : h.mem.wf) (n : SlotId) (s : ColSlot) (uma : Word) :
    (acceptColl h n s uma).mem.wf := by
  unfold acceptColl
  split <;> simp [hc]

@[simp] theorem strayColl_mem (q : QPkt) (other : Bool) : (strayColl h q other).mem = h.mem := by
  simp [strayColl]

@[simp] theorem endColl_wf (hc : h.mem.wf) (n : SlotId) (g : Nat) : (endColl h n g).mem.wf := by
  unfold endColl
  dsimp only
  split <;> simp [hc]

@[simp] theorem finishColl_wf (hc : h.mem.wf) (n : SlotId) (s : ColSlot) (b : Bytes) :
    (finishColl h n s b).mem.wf := by
  have h1 (a : Nat) : (writeLocal h.useFree a b).mem.wf := writeLocal_wf (by simp [hc]) a b
  unfold finishColl
  dsimp only
  split
  · next hf => simp [bufFault_wf hc hf]
  · exact endColl_wf (by simp [h1]) _ _

@[simp] theorem setSketch_mem (e : EaselId) (v : Word) : (setSketch h e v).mem = h.mem := by simp [setSketch]

@[simp] theorem varnishI_wf (hc : h.mem.wf) (e : EaselId) (f : FmtI) : (varnishI e f h).mem.wf := by
  simp [varnishI, hc]

@[simp] theorem scrapeI_wf (hc : h.mem.wf) (e : EaselId) (f : FmtI) : (scrapeI e f h).mem.wf := by
  simp [scrapeI, hc]

@[simp] theorem skoccI_wf (hc : h.mem.wf) (e : EaselId) (f : FmtI) : (skoccI e f h).mem.wf := by
  simp [skoccI, hc]

@[simp] theorem commitSlots_wf (hc : h.mem.wf) (p : SketchSlot → Bool) : (commitSlots h p).mem.wf := by
  simp +contextual [commitSlots, hc]

@[simp] theorem discardSlots_mem (p : SketchSlot → Bool) : (discardSlots h p).mem = h.mem := by
  refine foldl_mem _ (fun _ _ => ?_) _ _
  simp

@[simp] theorem foldFault_mem (s : SketchSlot) (cls : BitVec 8) (addr : Nat) :
    (foldFault h s cls addr).mem = h.mem := by simp [foldFault]

@[simp] theorem foldWord_wf (hc : h.mem.wf) (s : SketchSlot) (w : Nat) : (foldWord s h w).mem.wf := by
  unfold foldWord
  dsimp only
  split
  · exact hc
  split
  · simp [hc]
  · have ht : (if ((List.range 8).filter fun i => s.mask.toNat.testBit (8 * (w % 8) + i)).length < 8
        then touchRead h (8 * w) 8 else h).mem.wf := by simp [hc]
    rw [Mem.wf_mk, Bool.and_eq_true]
    exact ⟨SMap.wf_foldl 0 _ (fun _ _ hm => SMap.wf_set 0 _ _ hm) _ (Mem.cells_wf ht),
      SMap.wf_del 0 _ (Mem.eccs_wf ht)⟩

@[simp] theorem foldSlot_wf (hc : h.mem.wf) (sl : SketchSlot) (bad : Bool) : (foldSlot h sl bad).mem.wf := by
  unfold foldSlot
  dsimp only
  split
  · simp [hc]
  split
  · simp [hc]
  · exact foldl_wf _ (fun _ _ hg => foldWord_wf hg _ _) _ _
      (foldl_wf _ (fun _ _ hg => touchRead_wf hg _ _) _ _ (Mem.unfolded_wf _ _ hc))

@[simp] theorem foldPalette_wf (hc : h.mem.wf) (e : EaselId) : (foldPalette h e).mem.wf := by
  simp +contextual [foldPalette, hc]

end Sys2Proof.Machine
end

section
/-! The canonical form: the host interface, captures and recoveries -/

namespace Sys2Proof.Machine

variable {h : Hw}

@[simp] theorem sendMsix_mem (f : FnId) (v : Fin 3) : (sendMsix h f v).mem = h.mem := by simp [sendMsix]

@[simp] theorem writeEntry_mem (addr : Nat) (first : List Word) (last : Word) :
    (writeEntry h addr first last).mem = h.mem := by simp [writeEntry]

@[simp] theorem stopQueue_mem (f : FnId) (err : BitVec 8) : (stopQueue h f err).mem = h.mem := by
  simp [stopQueue]

@[simp] theorem writeCpl_mem (f : FnId) (w : Word × Word) : (writeCpl h f w).mem = h.mem := by simp [writeCpl]

@[simp] theorem flushCpl_mem (f : FnId) (l : List (Word × Word)) : (flushCpl f l h).mem = h.mem := by
  induction l generalizing h with
  | nil => simp [flushCpl]
  | cons w l ih => simp [flushCpl, ih]

@[simp] theorem complete_mem (f : FnId) (c : HostCmd) (status : BitVec 8) (result : Nat) :
    (complete h f c status result).mem = h.mem := by simp [complete]

@[simp] theorem skipReserved_mem (f : FnId) (n : Nat) : (skipReserved f n h).mem = h.mem := by
  induction n generalizing h with
  | zero => rfl
  | succ n ih =>
    unfold skipReserved
    split <;> simp [ih]

@[simp] theorem skipAll_mem (f : FnId) : (skipAll h f).mem = h.mem := by simp [skipAll]

@[simp] theorem command_wf (hc : h.mem.wf) (f : FnId) (op : Nat) (named : Bool) (masks : List Word)
    (body : Hw → HostCmd → Hw) (hbody : ∀ g y1, g.mem.wf → (body g y1).mem.wf) :
    (command h f op named masks body).mem.wf := by
  unfold command
  split <;> simp [hc, hbody]

@[simp] theorem hold_mem (f : FnId) (c : HostCmd) : (hold h f c).mem = h.mem := by simp [hold]

@[simp] theorem endRun_mem (f : FnId) (r : RunCmd) (status : BitVec 8) (result : Nat) :
    (endRun h f r status result).mem = h.mem := by simp [endRun]

@[simp] theorem endFences_mem (f : FnId) (n : Nat) : (endFences f n h).mem = h.mem := by
  induction n generalizing h with
  | zero => rfl
  | succ n ih =>
    unfold endFences
    split <;> simp [ih]

@[simp] theorem finishCmd_mem (f : FnId) (seq : Nat) (status : BitVec 8) (result : Nat) :
    (finishCmd h f seq status result).mem = h.mem := by
  unfold finishCmd
  split <;> simp

@[simp] theorem takeFetched_mem (f : FnId) (tag : BitVec 16) (b : Bytes) :
    (takeFetched h f tag b).mem = h.mem := by
  unfold takeFetched
  dsimp only
  split <;> simp

@[simp] theorem fetchFailed_mem (f : FnId) (tag : BitVec 16) : (fetchFailed h f tag).mem = h.mem := by
  unfold fetchFailed
  split <;> simp

@[simp] theorem badAccess_mem (f : FnId) : (badAccess h f).mem = h.mem := by simp [badAccess]

@[simp] theorem doorbell_wf (hc : h.mem.wf) (f : FnId) (at_ : Nat) (a : DbAccess)
    (ring : Hw → BitVec 17 → Hw) (hring : ∀ g y1, g.mem.wf → (ring g y1).mem.wf) :
    (doorbell h f at_ a ring).mem.wf := by
  unfold doorbell
  (repeat' split) <;> simp [hc, hring]

@[simp] theorem inTurn_wf (hc : h.mem.wf) (f : FnId) (q : HostReq) (eff : Hw → Hw)
    (heff : ∀ g, g.mem.wf → (eff g).mem.wf) : (inTurn h f q eff).mem.wf := by simp [inTurn, hc, heff]

@[simp] theorem ringCmdqTail_wf (hc : h.mem.wf) (fn : FnId) (a : DbAccess) :
    (ringCmdqTail h fn a).mem.wf := by simp [ringCmdqTail, hc]

@[simp] theorem ringCplqHead_wf (hc : h.mem.wf) (fn : FnId) (a : DbAccess) :
    (ringCplqHead h fn a).mem.wf := by simp [ringCplqHead, hc]

@[simp] theorem ringEvrHead_wf (hc : h.mem.wf) (fn : FnId) (a : DbAccess) : (ringEvrHead h fn a).mem.wf := by
  simp [ringEvrHead, hc]

@[simp] theorem writeCmdqCtl_mem (f : FnId) (ctl : Word) : (writeCmdqCtl h f ctl).mem = h.mem := by
  simp [writeCmdqCtl]

@[simp] theorem writeEvent_mem (src : Nat) (c : Option CtxId) (payload : BitVec 32) (ftc : Nat)
    (detail : List Word) (f : FnId) : (writeEvent h src c payload ftc detail f).mem = h.mem := by
  simp [writeEvent]

@[simp] theorem deliverPerCtx_mem (r : EvRecord) : (deliverPerCtx h r).mem = h.mem := by simp [deliverPerCtx]

@[simp] theorem deliverRecord_mem (r : EvRecord) : (deliverRecord h r).mem = h.mem := by
  unfold deliverRecord
  dsimp only
  split
  · exact deliverPerCtx_mem r
  · rw [writeEvent_mem]

@[simp] theorem writeConf_wf (hc : h.mem.wf) (c : CtxId) (l : List Sect) : (writeConf h c l).1.mem.wf := by
  unfold writeConf
  dsimp only
  (repeat' split) <;> simp [hc]

@[simp] theorem writeConfs_wf (hc : h.mem.wf) (cs : List CtxId) (l : List Sect) :
    (writeConfs h cs l).1.mem.wf := by
  refine List.foldlRecOn cs _ (motive := fun g : Hw × Bool => g.1.mem.wf) hc fun g hg c _ => ?_
  exact writeConf_wf hg c _

@[simp] theorem listCapture_mem (c : Capture) : (listCapture h c).mem = h.mem := by simp [listCapture]

@[simp] theorem storeCapture_wf (hc : h.mem.wf) (c : Capture) (l : List Sect) (o : Nat) :
    (storeCapture h c l o).mem.wf := by simp [storeCapture, hc]

@[simp] theorem closeCapture_wf (hc : h.mem.wf) (id : BitVec 16) (cut : Bool) :
    (closeCapture h id cut).mem.wf := by
  unfold closeCapture
  dsimp only
  (repeat' split) <;> simp [hc]

@[simp] theorem closeWhere_wf (hc : h.mem.wf) (p : Capture → Bool) (cut : Bool) :
    (closeWhere h p cut).mem.wf := by simp +contextual [closeWhere, hc]

@[simp] theorem throttleStep_mem (before : Bool) : (throttleStep before h).mem = h.mem := by
  simp [throttleStep]

@[simp] theorem throttling_wf (hc : h.mem.wf) (f : Hw → Hw) (hf : ∀ g, g.mem.wf → (f g).mem.wf) :
    (throttling h f).mem.wf := by simp [throttling, hc, hf]

@[simp] theorem portOff_wf (hc : h.mem.wf) (i : PortId) : (portOff h i).mem.wf := by simp [portOff, hc]

@[simp] theorem powerCycle_wf (hc : h.mem.wf) (trigger : BitVec 8) : (powerCycle h trigger).mem.wf := by
  simp +contextual [powerCycle, hc]

@[simp] theorem trip_wf (hc : h.mem.wf) (cause sensor : Nat) : (trip h cause sensor).mem.wf := by
  simp [trip, hc]

@[simp] theorem resetFault_mem (c : CtxId) (cls : BitVec 8) : (resetFault h c cls).mem = h.mem := by
  simp [resetFault]

@[simp] theorem lostFault_mem (c : CtxId) : (lostFault h c).mem = h.mem := by simp [lostFault]

@[simp] theorem abortCommands_mem (trigger : BitVec 8) : (abortCommands h trigger).mem = h.mem := by
  unfold abortCommands
  dsimp only
  rw [writeEvent_mem]
  refine foldl_mem _ (fun g f => ?_) _ _
  rw [Hw.modFn_mem]
  exact foldl_mem _ (fun g r => by simp) _ _

@[simp] theorem beginRecovery_wf (hc : h.mem.wf) (u : RecUnit) (trigger : BitVec 8)
    (cmds : List (FnId × Nat)) : (beginRecovery h u trigger cmds).mem.wf := by
  unfold beginRecovery
  (repeat' split) <;> simp +contextual [hc]

@[simp] theorem preempt_wf (hc : h.mem.wf) (u : RecUnit) (trigger : BitVec 8) (cmds : List (FnId × Nat)) :
    (preempt h u trigger cmds).mem.wf := by simp [preempt, hc]

@[simp] theorem joinRecovery_mem (u : RecUnit) (cmds : List (FnId × Nat)) :
    (joinRecovery h u cmds).mem = h.mem := by simp [joinRecovery]

@[simp] theorem chipFault_wf (hc : h.mem.wf) (trigger : BitVec 8) (cmds : List (FnId × Nat)) :
    (chipFault h trigger cmds).mem.wf := by simp [chipFault, hc]

@[simp] theorem partitionFault_wf (hc : h.mem.wf) (p : PartId) (trigger : BitVec 8)
    (cmds : List (FnId × Nat)) : (partitionFault h p trigger cmds).mem.wf := by simp [partitionFault, hc]

@[simp] theorem engineFaultRec_wf (hc : h.mem.wf) (e : EaselId) (trigger : BitVec 8)
    (cmds : List (FnId × Nat)) : (engineFaultRec h e trigger cmds).mem.wf := by simp [engineFaultRec, hc]

@[simp] theorem startRecovery_wf (hc : h.mem.wf) (u : RecUnit) (trigger : BitVec 8)
    (cmds : List (FnId × Nat)) : (startRecovery h u trigger cmds).mem.wf := by
  unfold startRecovery
  split <;> simp [hc]

@[simp] theorem firmwareUe_wf (hc : h.mem.wf) (off : Nat) (cls : BitVec 8) :
    (firmwareUe h off cls).mem.wf := by simp [firmwareUe, hc]

@[simp] theorem ueFound_wf (hc : h.mem.wf) (off : Nat) : (ueFound h off).mem.wf := by
  unfold ueFound
  (repeat' split) <;> simp [hc]

@[simp] theorem Hw.setCanvasSensor_mem (n : Nat) (x : Sensor) : (h.setCanvasSensor n x).mem = h.mem := by
  simp [Hw.setCanvasSensor]

@[simp] theorem refreshFrom_mem (d : Fin 2) : (refreshFrom h d).mem = h.mem := by simp [refreshFrom]

@[simp] theorem channelDown_wf (hc : h.mem.wf) (ch : Fin 96) : (channelDown h ch).mem.wf := by
  simp [channelDown, hc]

@[simp] theorem regionError_mem (off : Nat) : (regionError h off).mem = h.mem := by simp [regionError]

@[simp] theorem scrubWord_wf (hc : h.mem.wf) (off : Nat) : (scrubWord h off).mem.wf := by simp [scrubWord, hc]

end Sys2Proof.Machine
end

section
/-! The canonical form: power and thermal limits -/

namespace Sys2Proof.Machine

variable {h : Hw}

@[simp] theorem Hw.setZone_mem (z : Nat) (x : Sensor) : (h.setZone z x).mem = h.mem := by simp [Hw.setZone]

@[simp] theorem setClocks_mem (mhz : Nat) : (setClocks h mhz).mem = h.mem := by
  refine foldl_mem _ (fun _ _ => ?_) _ _
  simp

@[simp] theorem boostDrop_wf (hc : h.mem.wf) : (boostDrop h).mem.wf := by simp [boostDrop, hc]

theorem modEasels_mem (f : EaselId → Easel → Easel) (l : List EaselId) :
    (l.foldl (fun g e => g.modEasel e (f e)) h).mem = h.mem :=
  foldl_mem _ (fun g e => Hw.modEasel_mem g e (f e)) l h

@[simp] theorem setFlims_wf (hc : h.mem.wf) : (setFlims h).mem.wf := by
  unfold setFlims
  dsimp only
  split
  · refine boostDrop_wf ?_
    split <;> simp [modEasels_mem, hc]
  · split <;> simp [modEasels_mem, hc]

@[simp] theorem noteHot_mem : (noteHot h).mem = h.mem := by simp [noteHot]

@[simp] theorem writeCap_mem (short : Bool) (w : Nat) : (writeCap h short w).mem = h.mem := by simp [writeCap]

@[simp] theorem countClamp_mem : (countClamp h).mem = h.mem := by simp [countClamp]

@[simp] theorem leakPin_wf (hc : h.mem.wf) (pin : Nat) (on : Bool) : (leakPin h pin on).mem.wf := by
  simp +contextual [leakPin, hc]

@[simp] theorem leakPinsDue_wf (hc : h.mem.wf) : (leakPinsDue h).mem.wf := by
  simp +contextual [leakPinsDue, hc]

@[simp] theorem measureTrace_mem (t : Nat) (c : LeakCode) : (measureTrace h t c).mem = h.mem := by
  simp [measureTrace]

@[simp] theorem leakWet_wf (hc : h.mem.wf) (t : Fin 2) : (leakWet h t).mem.wf := by
  refine powerCycle_wf ?_ 0
  simp +contextual [hc]

@[simp] theorem checkFallback_wf (hc : h.mem.wf) : (checkFallback h).mem.wf := by simp [checkFallback, hc]

@[simp] theorem checkJunction_mem (faulty : List Nat) (z : Nat) : (checkJunction faulty h z).mem = h.mem := by
  simp [checkJunction]

@[simp] theorem checkCanvas_mem (faulty : List Nat) (n : Nat) : (checkCanvas faulty h n).mem = h.mem := by
  simp [checkCanvas]

@[simp] theorem Hw.modSup_mem (i : Fin 2) (f : Sup → Sup) : (h.modSup i f).mem = h.mem := by simp [Hw.modSup]

@[simp] theorem makeActive_wf (hc : h.mem.wf) (i : Fin 2) : (makeActive h i).mem.wf := by
  simp [makeActive, hc]

@[simp] theorem markSuspect_mem (i : Fin 2) : (markSuspect h i).mem = h.mem := by simp [markSuspect]

@[simp] theorem divergence_mem (a : Fin 2) (passA passB : Bool) :
    (divergence h a passA passB).mem = h.mem := by simp [divergence]

@[simp] theorem digestMatch_wf (hc : h.mem.wf) (a : Fin 2) : (digestMatch h a).mem.wf := by
  simp [digestMatch, hc]

@[simp] theorem requestSwap_mem (i : Fin 2) : (requestSwap h i).mem = h.mem := by simp [requestSwap]

@[simp] theorem restartSup_mem (i : Fin 2) : (restartSup h i).mem = h.mem := by simp [restartSup]

@[simp] theorem syncSup_mem (i : Fin 2) : (syncSup h i).mem = h.mem := by simp [syncSup]

end Sys2Proof.Machine
end

section
/-! The canonical form: register rules and contexts -/

namespace Sys2Proof.Machine

variable {h : Hw}

@[simp] theorem applyRegs_mem (cap : SMap Word) : (applyRegs h cap).mem = h.mem := by
  refine foldl_mem _ (fun _ _ => ?_) _ _
  simp

@[simp] theorem hifApply_mem (f : FnId) (cap : SMap Word) : (hifApply h f cap).mem = h.mem := by
  simp [hifApply]

@[simp] theorem ftcApply_mem (old : Hw) : (ftcApply old h).mem = h.mem := by simp [ftcApply]

@[simp] theorem lpmApply_mem : (lpmApply h).mem = h.mem := by simp [lpmApply]

@[simp] theorem colApply_mem (old : Hw) (cap : SMap Word) : (colApply old h cap).mem = h.mem := by
  simp [colApply]

@[simp] theorem errApply_wf (hc : h.mem.wf) (old : Hw) (i : PortId) (cap : SMap Word) :
    (errApply old h i cap).mem.wf := by simp [errApply, hc]

@[simp] theorem clearNewObjs_mem (old : Hw) : (clearNewObjs old h).mem = h.mem := by simp [clearNewObjs]

@[simp] theorem synApply_mem (old : Hw) : (synApply old h).mem = h.mem := by simp [synApply]

@[simp] theorem rteApply_mem (old : Hw) (cap : SMap Word) : (rteApply old h cap).mem = h.mem := by
  simp [rteApply]

@[simp] theorem saveSettings_mem (numbering policy lp144 : Bool) (version : BitVec 16) :
    (saveSettings h numbering policy lp144 version).mem = h.mem := by simp [saveSettings]

@[simp] theorem bruApply_mem (cap : SMap Word) : (bruApply h cap).mem = h.mem := by simp [bruApply]

@[simp] theorem blkApply_wf (hc : h.mem.wf) (old : Hw) (b : BlockId) (cap : SMap Word) :
    (blkApply old h b cap).mem.wf := by
  unfold blkApply
  split <;> simp [hc]

@[simp] theorem Hw.modBlk_mem (b : BlockId) (f : BlkCommit → BlkCommit) : (h.modBlk b f).mem = h.mem := by
  simp [Hw.modBlk]

@[simp] theorem dropStaged_mem (b : BlockId) : (dropStaged h b).mem = h.mem := by simp [dropStaged]

@[simp] theorem applyCaptured_wf (hc : h.mem.wf) (b : BlockId) : (applyCaptured h b).mem.wf := by
  simp [applyCaptured, hc]

theorem fwCommit_wf (hc : h.mem.wf) {b : BlockId} {cap : SMap Word} {g : Hw} (hg : fwCommit h b cap = some g) :
    g.mem.wf := by
  obtain ⟨-, hs⟩ := Option.ite_none_right_eq_some.mp hg
  obtain rfl := Option.some.inj hs
  have h0 : (if (h.blk b).busy then applyCaptured h b else h).mem.wf := by simp [hc]
  rw [Hw.modBlk_mem]
  refine blkApply_wf ?_ _ _ _
  rw [dropStaged_mem, applyRegs_mem]
  exact h0

theorem fwCommits_wf (hc : h.mem.wf) {l : List (BlockId × SMap Word)} {g : Hw} (hg : fwCommits h l = some g) :
    g.mem.wf := by
  induction l generalizing h with
  | nil =>
    obtain rfl := Option.some.inj hg
    exact hc
  | cons p l ih =>
    unfold fwCommits at hg
    split at hg
    · next h1 => exact ih (fwCommit_wf hc h1) hg
    · cases hg

@[simp] theorem simple_wf (hc : h.mem.wf) (f : FnId) (op : Nat) (masks : List Word)
    (status : Hw → HostCmd → BitVec 8) (eff : Hw → HostCmd → Hw × Nat)
    (heff : ∀ g y1, g.mem.wf → (eff g y1).1.mem.wf) : (simple h f op masks status eff).mem.wf := by
  simp +contextual [simple, hc, heff]

@[simp] theorem setOwner_mem (p : Nat) (o : Owner) : (setOwner h p o).mem = h.mem := by simp [setOwner]

@[simp] theorem allotSlots_mem (c : CtxId) (l : List SlotId) : (allotSlots h c l).mem = h.mem := by
  refine foldl_mem _ (fun _ _ => ?_) _ _
  simp

@[simp] theorem clearCtxData_mem (c : CtxId) : (clearCtxData h c).mem = h.mem := by simp [clearCtxData]

@[simp] theorem drawKey_mem : (drawKey h).2.mem = h.mem := by simp [drawKey]

theorem takeResources_wf (hc : h.mem.wf) {c : CtxId} {m : BitVec 4} {slots objs sketch : Nat} {p : Hw × List Nat}
    (hp : takeResources h c m slots objs sketch = some p) : p.1.mem.wf := by
  unfold takeResources at hp
  dsimp only at hp
  split at hp
  · split at hp
    · cases hp
    · obtain ⟨g, hg, rfl⟩ := Option.map_eq_some_iff.mp hp
      have hg := fwCommits_wf hc hg
      simp +contextual [hg]
  · cases hp

@[simp] theorem givePages_wf (hc : h.mem.wf) (l : List Nat) (o : Owner) : (givePages h l o).mem.wf := by
  simp +contextual [givePages, hc]

@[simp] theorem clearKeys_mem (c : CtxId) : (clearKeys h c).mem = h.mem := by simp [clearKeys]

@[simp] theorem saveAcc_mem (e : EaselId) : (saveAcc h e).mem = h.mem := by simp [saveAcc]

@[simp] theorem readyToSave_wf (hc : h.mem.wf) (e : EaselId) : (readyToSave h e).mem.wf := by
  have hf := foldPalette_wf (stopEngines_wf hc e) e
  simp [readyToSave, hf]

@[simp] theorem unloadEasel_wf (hc : h.mem.wf) (c : CtxId) (e : EaselId) : (unloadEasel h c e).mem.wf := by
  simp [unloadEasel, hc]

@[simp] theorem unloadCtx_wf (hc : h.mem.wf) (c : CtxId) : (unloadCtx h c).mem.wf := by
  simp +contextual [unloadCtx, hc]

@[simp] theorem undefPalettes_wf (hc : h.mem.wf) (c : CtxId) : (undefPalettes h c).mem.wf := by
  simp [undefPalettes, hc]

@[simp] theorem startCtx_wf (hc : h.mem.wf) (c : CtxId) (load entry : Nat) (image : Bytes) :
    (startCtx h c load entry image).mem.wf := by simp [startCtx, hc]

@[simp] theorem imageUe_wf (hc : h.mem.wf) (c : CtxId) (off : Nat) : (imageUe h c off).mem.wf := by
  simp [imageUe, hc]

@[simp] theorem hostWriteFn_mem (f : FnId) (addr : Word) (b : Bytes) :
    (hostWriteFn h f addr b).mem = h.mem := by simp [hostWriteFn]

end Sys2Proof.Machine
end

section
/-! The canonical form: the context switch and keys -/

namespace Sys2Proof.Machine

variable {h : Hw}

@[simp] theorem loadEasel_wf (hc : h.mem.wf) (c : CtxId) (e : EaselId) : (loadEasel h c e).mem.wf := by
  simp [loadEasel, hc]

@[simp] theorem resumeEasel_wf (hc : h.mem.wf) (e : EaselId) : (resumeEasel h e).mem.wf := by
  simp [resumeEasel, hc]

@[simp] theorem pauseGlaze_mem (c : CtxId) : (pauseGlaze h c).mem = h.mem := by simp [pauseGlaze]

@[simp] theorem resumeGlaze_mem (c : CtxId) : (resumeGlaze h c).mem = h.mem := by simp [resumeGlaze]

@[simp] theorem takeUcode_mem (ps : BitVec 4) : (takeUcode h ps).mem = h.mem := by simp [takeUcode]

@[simp] theorem endCmds_mem (op : Nat) (c : CtxId) (status : BitVec 8) :
    (endCmds h op c status).mem = h.mem := by simp [endCmds]

@[simp] theorem switchOut_wf (hc : h.mem.wf) (c : CtxId) : (switchOut h c).mem.wf := by
  unfold switchOut
  dsimp only
  split <;> simp [hc]

@[simp] theorem switchIn_wf (hc : h.mem.wf) (c : CtxId) : (switchIn h c).mem.wf := by
  unfold switchIn
  dsimp only
  rw [resumeGlaze_mem]
  refine foldl_wf _ (fun g e hg => resumeEasel_wf hg e) _ _ ?_
  rw [setCtxState_mem, perfAdd_mem, Hw.modCtx_mem]
  exact foldl_wf _ (fun g e hg => loadEasel_wf hg c e) _ _ hc

@[simp] theorem service_wf (hc : h.mem.wf) (e : EaselId) (n : BitVec 16)
    (body : Hw → CtxId → CoreRegs → Hw × Word × Nat) (hbody : ∀ g y1 y2, g.mem.wf → (body g y1 y2).1.mem.wf)
    : (service h e n body).mem.wf := by
  unfold service
  split <;> simp [hc, hbody]

@[simp] theorem svcFail_mem (status : Nat) : (svcFail h status).1.mem = h.mem := by simp [svcFail]

@[simp] theorem sketchRegion_wf (hc : h.mem.wf) (c : CtxId) (r : CoreRegs) :
    (sketchRegion h c r).1.mem.wf := by
  have hfail (st : Nat) : (svcFail h st).1.mem.wf := by simp [hc]
  unfold sketchRegion
  dsimp only
  split
  · exact hfail 2
  split
  · split
    · exact hfail 3
    split
    · exact hfail 2
    split
    · next hg => exact fwCommit_wf hc hg
    · exact hfail 2
  · split
    · exact hfail 2
    split
    · next hg => exact fwCommit_wf hc hg
    · exact hfail 2

@[simp] theorem syncRange_wf (hc : h.mem.wf) (c : CtxId) (r : CoreRegs) : (syncRange h c r).1.mem.wf := by
  have hfail (st : Nat) : (svcFail h st).1.mem.wf := by simp [hc]
  unfold syncRange
  dsimp only
  split
  · exact hfail 2
  split
  · exact hfail 3
  split
  · exact hfail 3
  split
  · next hg => exact fwCommits_wf (h := h.useFree) hc hg
  · exact hfail 3

@[simp] theorem makeGroup_wf (hc : h.mem.wf) (c : CtxId) (r : CoreRegs) : (makeGroup h c r).1.mem.wf := by
  unfold makeGroup
  extract_lets n g s3 old k mine
  have hg : g.mem.wf := by
    dsimp only [g]
    split <;> simp [hc]
  clear_value g
  have hfail (st : Nat) : (svcFail g st).1.mem.wf := by simp [hg]
  split
  · exact hfail 2
  split
  · exact hfail 2
  · exact hfail 3
  split
  · exact hfail 2
  split
  · exact hfail 3
  split
  · next hk => exact fwCommit_wf hg hk
  · exact hfail 2

@[simp] theorem dropWork_mem (c : CtxId) : (dropWork h c).mem = h.mem := by simp [dropWork]

@[simp] theorem dropColls_mem (c : CtxId) : (dropColls h c).mem = h.mem := by simp [dropColls]

@[simp] theorem clearGlaze_mem (c : CtxId) : (clearGlaze h c).mem = h.mem := by simp [clearGlaze]

@[simp] theorem dropLoaded_mem (c : CtxId) : (dropLoaded h c).mem = h.mem := by
  refine foldl_mem _ (fun _ _ => ?_) _ _
  simp

@[simp] theorem destroyKeys_mem (c : CtxId) : (destroyKeys h c).mem = h.mem := by simp [destroyKeys]

@[simp] theorem zeroPalettes_wf (hc : h.mem.wf) (c : CtxId) : (zeroPalettes h c).mem.wf := by
  simp +contextual [zeroPalettes, hc]

/-- A commit of zeros, made by hand where the block refuses it. -/
theorem fwCommit_getD_wf (hc : h.mem.wf) (b : BlockId) (cap : SMap Word) :
    ((fwCommit h b cap).getD (blkApply h (applyRegs h cap) b cap)).mem.wf := by
  cases hf : fwCommit h b cap with
  | none => simp [hc]
  | some g => exact fwCommit_wf hc hf

@[simp] theorem scrubRegs_wf (hc : h.mem.wf) (c : CtxId) : (scrubRegs h c).mem.wf := by
  have hz (g : Hw) (hg : g.mem.wf) (b : BlockId) (cap : SMap Word) :
      (if cap.all (fun p => g.reg p.1 == 0) then g
        else (fwCommit g b cap).getD (blkApply g (applyRegs g cap) b cap)).mem.wf := by
    split
    · exact hg
    · exact fwCommit_getD_wf hg b cap
  unfold scrubRegs
  dsimp only
  rw [clearCtxData_mem]
  refine hz _ (foldl_wf _ (fun g p hg => hz _ hg _ _) _ _ (foldl_wf _ (fun g i hg => hz _ hg _ _) _ _
    (foldl_wf _ (fun g n hg => ?_) _ _ ?_))) _ _
  · split <;> simp [hg]
  · simp [hc]

@[simp] theorem zeroPages_wf (hc : h.mem.wf) (l : List Nat) : (zeroPages h l).mem.wf := by
  simp +contextual [zeroPages, hc]

@[simp] theorem eraseLpPages_wf (hc : h.mem.wf) (c : CtxId) : (eraseLpPages h c).mem.wf := by
  simp [eraseLpPages, hc]

@[simp] theorem beginGesso_wf (hc : h.mem.wf) (c : CtxId) : (beginGesso h c).mem.wf := by
  have hs := scrubRegs_wf (h := destroyKeys (stopGlaze (dropLoaded (dropColls (dropWork h c) c) c) c) c)
    (by simp [hc]) c
  simp [beginGesso, hs]

@[simp] theorem scrubCtx_wf (hc : h.mem.wf) (c : CtxId) : (scrubCtx h c).mem.wf := by
  simp [scrubCtx, eraseLpPages_wf (scrubRegs_wf hc c) c]

@[simp] theorem freeCtx_mem (c : CtxId) : (freeCtx h c).mem = h.mem := by simp [freeCtx]

@[simp] theorem recoverCtx_wf (hc : h.mem.wf) (c : CtxId) : (recoverCtx h c).mem.wf := by
  simp [recoverCtx, hc]

@[simp] theorem refuseKey_mem (f : FnId) (k : HostCmd) (status : BitVec 8) :
    (refuseKey h f k status).mem = h.mem := by simp [refuseKey]

@[simp] theorem wkeyBlob_mem (f : FnId) (k : HostCmd) (b : Bytes) : (wkeyBlob h f k b).mem = h.mem := by
  unfold wkeyBlob
  split <;> simp

@[simp] theorem jobkeyBlob_mem (f : FnId) (k : HostCmd) (b : Bytes) : (jobkeyBlob h f k b).mem = h.mem := by
  unfold jobkeyBlob
  (repeat' split) <;> simp

@[simp] theorem blobArrived_mem (f : FnId) (k : HostCmd) (b : Bytes) : (blobArrived h f k b).mem = h.mem := by
  simp [blobArrived]

@[simp] theorem readBlob_mem (f : FnId) (k : HostCmd) : (readBlob h f k).mem = h.mem := by simp [readBlob]

@[simp] theorem Hw.setTdi_mem (f : FnId) (v : BitVec 2) : (h.setTdi f v).mem = h.mem := by simp [Hw.setTdi]

@[simp] theorem holdCtx_mem (c : CtxId) : (holdCtx h c).mem = h.mem := by simp [holdCtx]

@[simp] theorem tdiError_mem (f : FnId) : (tdiError h f).mem = h.mem := by simp [tdiError]

@[simp] theorem dropIde_mem (p : Nat × IdeStream → Bool) : (dropIde h p).mem = h.mem := by simp [dropIde]

end Sys2Proof.Machine
end

section
/-! The canonical form: sessions, host events and recoveries -/

namespace Sys2Proof.Machine

variable {h : Hw}

@[simp] theorem Hw.modSlot_mem (i : BitVec 1) (f : FwSlot → FwSlot) : (h.modSlot i f).mem = h.mem := by
  simp [Hw.modSlot]

@[simp] theorem deriveAlias1_mem : (deriveAlias1 h).mem = h.mem := by simp [deriveAlias1]

@[simp] theorem deriveAlias2_mem : (deriveAlias2 h).mem = h.mem := by simp [deriveAlias2]

@[simp] theorem endSessions_mem : (endSessions h).mem = h.mem := by simp [endSessions]

@[simp] theorem reply_mem (t : Transport) (code : BitVec 8) (body : Bytes) :
    (reply h t code body).mem = h.mem := by simp [reply]

@[simp] theorem spdmError_mem (t : Transport) (code : Nat) : (spdmError h t code).mem = h.mem := by
  simp [spdmError]

@[simp] theorem spdmRequest_wf (hc : h.mem.wf) (t : Transport) (s : Option (Fin 4)) (inside : Bool)
    (body : Hw → Hw) (hbody : ∀ g, g.mem.wf → (body g).mem.wf) : (spdmRequest h t s inside body).mem.wf := by
  unfold spdmRequest
  (repeat' split) <;> simp [hc, hbody]

@[simp] theorem inSession_wf (hc : h.mem.wf) (t : Transport) (s : Option (Fin 4)) (body : Hw → Fin 4 → Hw)
    (hbody : ∀ g y1, g.mem.wf → (body g y1).mem.wf) : (inSession h t s body).mem.wf := by
  unfold inSession
  (repeat' split) <;> simp [hc, hbody]

@[simp] theorem signAlias2_mem (msg : Bytes) : (signAlias2 h msg).2.mem = h.mem := by simp [signAlias2]

@[simp] theorem replySigned_mem (t : Transport) (code : BitVec 8) (body : Bytes) :
    (replySigned h t code body).mem = h.mem := by simp [replySigned]

@[simp] theorem cmdData_wf (hc : h.mem.wf) (f : FnId) (seq : Nat) (b : Bytes) :
    (cmdData h f seq b).mem.wf := by
  unfold cmdData
  split <;> simp [hc]

@[simp] theorem cmdFailed_wf (hc : h.mem.wf) (f : FnId) (seq : Nat) : (cmdFailed h f seq).mem.wf := by
  unfold cmdFailed
  split <;> simp [hc]

@[simp] theorem hostAnswer_wf (hc : h.mem.wf) (r : Request) (b : Bytes) : (hostAnswer h r b).mem.wf := by
  unfold hostAnswer
  split <;> simp [hc]

@[simp] theorem hostFailed_wf (hc : h.mem.wf) (r : Request) : (hostFailed h r).mem.wf := by
  unfold hostFailed
  split <;> simp [hc]

@[simp] theorem pathFound_wf (hc : h.mem.wf) (off n : Nat) : (pathFound h off n).mem.wf := by
  simp [pathFound, hc]

@[simp] theorem bar2Get_wf (hc : h.mem.wf) (fn : FnId) (off len : Nat) : (bar2Get h fn off len).mem.wf := by
  unfold bar2Get
  dsimp only
  (repeat' split) <;> simp [hc]

@[simp] theorem bar2Put_wf (hc : h.mem.wf) (f : FnId) (p : Nat × Bytes) : (bar2Put f h p).mem.wf := by
  unfold bar2Put
  (repeat' split) <;> simp [hc]

@[simp] theorem bar2Set_wf (hc : h.mem.wf) (fn : FnId) (off : Nat) (data : Bytes) (poisoned : Bool) :
    (bar2Set h fn off data poisoned).mem.wf := by
  unfold bar2Set
  (repeat' split) <;> simp +contextual [hc]

@[simp] theorem resetFn_mem (f : FnId) : (resetFn h f).mem = h.mem := by simp [resetFn]

@[simp] theorem clearVfEnable_mem : (clearVfEnable h).mem = h.mem := by simp [clearVfEnable]

@[simp] theorem linkLost_wf (hc : h.mem.wf) : (linkLost h).mem.wf := by simp +contextual [linkLost, hc]

@[simp] theorem setLink_wf (hc : h.mem.wf) (l : LinkState) : (setLink h l).mem.wf := by simp [setLink, hc]

@[simp] theorem unmask_mem (f : FnId) (v : Fin 3) : (unmask h f v).mem = h.mem := by simp [unmask]

@[simp] theorem setBar2_mem (vf : Bool) (log2 : Nat) : (setBar2 h vf log2).mem = h.mem := by simp [setBar2]

@[simp] theorem configure_mem (f : FnId) (a : ConfigReq) : (configure h f a).mem = h.mem := by
  unfold configure
  split <;> simp

@[simp] theorem pfSimple_wf (hc : h.mem.wf) (f : FnId) (op : Nat) (masks : List Word)
    (status : Hw → HostCmd → BitVec 8) (eff : Hw → HostCmd → Hw × Nat)
    (heff : ∀ g y1, g.mem.wf → (eff g y1).1.mem.wf) : (pfSimple h f op masks status eff).mem.wf := by
  simp +contextual [pfSimple, hc, heff]

@[simp] theorem resetCommand_wf (hc : h.mem.wf) (f : FnId) (op : Nat) (mask : Word)
    (unit : Hw → HostCmd → BitVec 8 × RecUnit) : (resetCommand h f op mask unit).mem.wf := by
  simp +contextual [resetCommand, hc]

@[simp] theorem dropEaselWork_mem (e : EaselId) : (dropEaselWork h e).mem = h.mem := by simp [dropEaselWork]

@[simp] theorem resetEasel_wf (hc : h.mem.wf) (e : EaselId) : (resetEasel h e).mem.wf := by
  unfold resetEasel
  dsimp only
  split <;> simp [hc]

@[simp] theorem katRun_mem (e : EaselId) (pass : Bool) : (katRun h e pass).mem = h.mem := by simp [katRun]

@[simp] theorem addField_mem (l : List EaselId) : (addField h l).mem = h.mem := by simp [addField]

@[simp] theorem fence_mem (e : EaselId) : (fence h e).mem = h.mem := by simp [fence]

@[simp] theorem katTwice_wf (hc : h.mem.wf) (e : EaselId) (first second : Bool) :
    (katTwice h e first second).mem.wf := by simp [katTwice, hc]

@[simp] theorem finishResets_mem (l : List (FnId × Nat)) : (finishResets h l).mem = h.mem := by
  simp [finishResets]

@[simp] theorem endRecovery_mem (u : RecUnit) : (endRecovery h u).mem = h.mem := by simp [endRecovery]

@[simp] theorem recoverEasel_wf (hc : h.mem.wf) (e : EaselId) (first second : Bool) :
    (recoverEasel h e first second).mem.wf := by simp [recoverEasel, hc]

@[simp] theorem runEngine_wf (hc : h.mem.wf) (e : EaselId) (first second : Bool) :
    (runEngine h e first second).mem.wf := by simp [runEngine, hc]

end Sys2Proof.Machine
end

section
/-! The canonical form: boot, idle states and updates -/

namespace Sys2Proof.Machine

variable {h : Hw}

@[simp] theorem selectSteady_mem (failed : Bool) : (selectSteady h failed).hw.mem = h.mem := by
  unfold selectSteady
  dsimp only
  (repeat' split) <;> simp

/-- The choice of a firmware slot changes slot records alone. -/
@[simp] theorem selectSlot_mem : (selectSlot h).hw.mem = h.mem := by
  unfold selectSlot
  split
  · simp
  dsimp only
  split
  · simp
  split <;> simp

@[simp] theorem choiceEvent_mem (c : Choice) : (choiceEvent c h).mem = h.mem := by simp [choiceEvent]

@[simp] theorem migrate_mem : (migrate h).mem = h.mem := by
  unfold migrate
  split <;> simp

@[simp] theorem loadSettingsReg_mem : (loadSettingsReg h).mem = h.mem := by simp [loadSettingsReg]

@[simp] theorem readSettings_mem : (readSettings h).mem = h.mem := by
  unfold readSettings
  split <;> simp

@[simp] theorem unmaskEvents_mem : (unmaskEvents h).mem = h.mem := by
  refine foldl_mem _ (fun _ _ => ?_) _ _
  simp

@[simp] theorem startIhlel_mem (i : BitVec 1) : (startIhlel h i).mem = h.mem := by simp [startIhlel]

@[simp] theorem startRuntime_mem (i : BitVec 1) : (startRuntime h i).mem = h.mem := by simp [startRuntime]

@[simp] theorem startSups_mem (s0 s1 : Bool) : (startSups h s0 s1).mem = h.mem := by simp [startSups]

@[simp] theorem countFail_mem : (countFail h).mem = h.mem := by simp [countFail]

@[simp] theorem failBoot_mem (err unit : BitVec 8) : (failBoot h err unit).mem = h.mem := by simp [failBoot]

@[simp] theorem runRepairs_mem (results : List (BitVec 2)) : (runRepairs h results).mem = h.mem := by
  simp [runRepairs]

@[simp] theorem setRateCfg_mem : (setRateCfg h).mem = h.mem := by simp [setRateCfg]

@[simp] theorem trainLp_mem (bad14 : List (Fin 96)) : (trainLp h bad14).mem = h.mem := by
  unfold trainLp
  split <;> simp

@[simp] theorem trainPorts_mem : (trainPorts h).mem = h.mem := by simp [trainPorts]

@[simp] theorem zeroAll_wf : (zeroAll h).mem.wf := rfl

@[simp] theorem selfTest_mem (sodFail katFail : List EaselId) : (selfTest h sodFail katFail).mem = h.mem := by
  simp [selfTest]

@[simp] theorem makeReady_mem : (makeReady h).mem = h.mem := by simp [makeReady]

@[simp] theorem romRecovery_mem : (romRecovery h).mem = h.mem := by simp [romRecovery]

@[simp] theorem bootMemory_wf (hc : h.mem.wf) (env : BootEnv) : (bootMemory h env).mem.wf := by
  unfold bootMemory
  dsimp only
  split <;> simp [hc]

@[simp] theorem bootSlotFrom_wf (hc : h.mem.wf) (i : BitVec 1) (env : BootEnv) :
    (bootSlotFrom h i env).mem.wf := by simp [bootSlotFrom, hc]

@[simp] theorem keptDark_wf : (keptDark h).mem.wf := rfl

@[simp] theorem fieldClear_mem (i : Nat) : (fieldClear h i).mem = h.mem := by simp [fieldClear]

@[simp] theorem endContexts_wf (hc : h.mem.wf) : (endContexts h).mem.wf := by
  simp +contextual [endContexts, hc]

@[simp] theorem endedEvents_mem (l : List CtxId) : (endedEvents l h).mem = h.mem := by
  refine foldl_mem _ (fun _ _ => ?_) _ _
  simp

@[simp] theorem resetRegs_mem : (resetRegs h).mem = h.mem := by simp [resetRegs]

@[simp] theorem resetPort_mem (i : PortId) : (resetPort h i).mem = h.mem := by simp [resetPort]

@[simp] theorem resetBlocks_wf (hc : h.mem.wf) : (resetBlocks h).mem.wf := by simp [resetBlocks, hc]

@[simp] theorem resetUpdate_mem : (resetUpdate h).mem = h.mem := by
  unfold resetUpdate
  split <;> simp

@[simp] theorem abortedEvent_mem (old : Hw) : (abortedEvent old h).mem = h.mem := by simp [abortedEvent]

@[simp] theorem retrainLp_mem : (retrainLp h).mem = h.mem := by simp [retrainLp]

@[simp] theorem chipKat_wf (hc : h.mem.wf) (failing : List EaselId) : (chipKat h failing).mem.wf := by
  simp +contextual [chipKat, hc]

@[simp] theorem chipRecover_wf (hc : h.mem.wf) (failing : List EaselId) : (chipRecover h failing).mem.wf := by
  have hd : (allPorts.foldl (fun g i =>
      if (g.port i).state = 2#3 ∨ (g.port i).state = 3#3 then goDown g i else g) h).mem.wf :=
    foldl_wf _ (fun g i hg => by split <;> simp [hg]) _ _ hc
  have hr := resetBlocks_wf (h := resetRegs (endContexts _)) (by simpa using endContexts_wf hd)
  unfold chipRecover
  dsimp only
  split <;> simp [hr]

@[simp] theorem idleExit_mem : (idleExit h).mem = h.mem := by simp [idleExit]

@[simp] theorem accThroughI2_mem (e : EaselId) : (accThroughI2 h e).mem = h.mem := by simp [accThroughI2]

@[simp] theorem idleEnter_wf (hc : h.mem.wf) (i : BitVec 2) : (idleEnter h i).mem.wf := by
  simp +contextual [idleEnter, hc]

@[simp] theorem writeLatTol_mem (tol : Word) : (writeLatTol h tol).mem = h.mem := by
  unfold writeLatTol
  dsimp only
  split <;> simp

@[simp] theorem keepQuiet_mem : (keepQuiet h).mem = h.mem := by simp [keepQuiet]

@[simp] theorem answerStatus_mem (m : SvcHdr) (err : BitVec 8) : (answerStatus h m err).mem = h.mem := by
  simp [answerStatus]

@[simp] theorem serveSvc_wf (hc : h.mem.wf) (m : SvcHdr) (len : Nat) (eff : Hw → Hw)
    (heff : ∀ g, g.mem.wf → (eff g).mem.wf) : (serve_ h m len eff).mem.wf := by simp [serve_, hc, heff]

@[simp] theorem refuseEvent_mem (err : BitVec 8) : (refuseEvent h err).mem = h.mem := by simp [refuseEvent]

@[simp] theorem endUpdate_mem (err : BitVec 8) : (endUpdate h err).mem = h.mem := by
  unfold endUpdate
  split <;> simp

@[simp] theorem refuseBegin_mem (m : SvcHdr) (err : BitVec 8) : (refuseBegin h m err).mem = h.mem := by
  simp [refuseBegin]

@[simp] theorem beginUpdate_mem (m : SvcHdr) (header : Bytes) : (beginUpdate h m header).mem = h.mem := by
  unfold beginUpdate
  dsimp only
  (repeat' split) <;> simp

@[simp] theorem romBoot_mem : (romBoot h).mem = h.mem := by simp [romBoot]

@[simp] theorem raiseFloors_mem : (raiseFloors h).1.mem = h.mem := by
  unfold raiseFloors
  (repeat' split) <;> simp

@[simp] theorem failActivation_mem (err : BitVec 8) : (failActivation h err).mem = h.mem := by
  simp [failActivation]

@[simp] theorem requestActivation_mem (slot mode : Nat) : (requestActivation h slot mode).1.mem = h.mem := by
  unfold requestActivation
  dsimp only
  (repeat' split) <;> simp

@[simp] theorem stageUcode_mem : (stageUcode h).mem = h.mem := by simp [stageUcode]

@[simp] theorem handOver_mem : (handOver h).mem = h.mem := by simp [handOver]

@[simp] theorem setSupImage_mem (i : Fin 2) (slot : BitVec 1) : (setSupImage h i slot).mem = h.mem := by
  simp [setSupImage]

@[simp] theorem restartOnNew_mem (i : Fin 2) (stage : Nat) : (restartOnNew h i stage).mem = h.mem := by
  simp [restartOnNew]

end Sys2Proof.Machine
end

section
/-! The canonical form: registers and time -/

namespace Sys2Proof.Machine

variable {h : Hw}

@[simp] theorem commitWrite_mem (b : BlockId) (v : Word) : (commitWrite h b v).mem = h.mem := by
  simp [commitWrite]

@[simp] theorem clearLog_mem (b : BlockId) (o : Nat) (bits : Word) : (clearLog h b o bits).mem = h.mem := by
  unfold clearLog
  (repeat' split) <;> simp

@[simp] theorem plainWrite_mem (b : BlockId) (o : Nat) (mask v : Word) :
    (plainWrite h b o mask v).mem = h.mem := by simp [plainWrite]

@[simp] theorem writeSlotAlloc_mem (n : SlotId) (v : Word) : (writeSlotAlloc h n v).mem = h.mem := by
  simp [writeSlotAlloc]

@[simp] theorem writeErrCtl_mem (i : PortId) (v : Word) : (writeErrCtl h i v).mem = h.mem := by
  simp [writeErrCtl]

@[simp] theorem writeTrayCap_mem (v : Word) : (writeTrayCap h v).mem = h.mem := by simp [writeTrayCap]

@[simp] theorem ackTelemetry_mem (i : Nat) : (ackTelemetry h i).mem = h.mem := by simp [ackTelemetry]

theorem specialWrite_wf (hc : h.mem.wf) (r : Requester) (b : BlockId) (o : Nat) (w v : Word)
    (low : Bool) : ∀ g, specialWrite h r b o w v low = some g → g.mem.wf := by
  unfold specialWrite
  (repeat' split) <;> simp [hc]

@[simp] theorem writeReg_wf (hc : h.mem.wf) (r : Requester) (b : BlockId) (o : Nat) (mask v : Word) :
    (writeReg h r b o mask v).mem.wf := by
  unfold writeReg
  dsimp only
  split
  · exact hc
  split
  · simp [hc]
  split
  · next hg => exact specialWrite_wf hc _ _ _ _ _ _ _ hg
  · simp [hc]

@[simp] theorem flushHeld_wf (hc : h.mem.wf) (r : Requester) (b : BlockId) : (flushHeld h r b).mem.wf := by
  unfold flushHeld
  split <;> simp [hc]

@[simp] theorem writeWhole_wf (hc : h.mem.wf) (r : Requester) (b : BlockId) (o : Nat) (v : Word) :
    (writeWhole h r b o v).mem.wf := by simp [writeWhole, hc]

@[simp] theorem writeLow_wf (hc : h.mem.wf) (r : Requester) (b : BlockId) (o : Nat) (v : Word) :
    (writeLow h r b o v).mem.wf := by simp [writeLow, hc]

@[simp] theorem writeHigh_wf (hc : h.mem.wf) (r : Requester) (b : BlockId) (o : Nat) (v : Word) :
    (writeHigh h r b o v).mem.wf := by
  unfold writeHigh
  split <;> simp [hc]

@[simp] theorem badWrite_mem (a : Requester) : (badWrite h a).mem = h.mem := by
  unfold badWrite
  split <;> simp

@[simp] theorem poisonedWrite_mem (a : Requester) : (poisonedWrite h a).mem = h.mem := by
  unfold poisonedWrite
  split <;> simp

@[simp] theorem regSet_wf (hc : h.mem.wf) (r : Requester) (off size : Nat) (data : Word) (poisoned : Bool) :
    (regSet h r off size data poisoned).mem.wf := by
  unfold regSet
  (repeat' split) <;> simp [hc]

@[simp] theorem regTurn_wf (hc : h.mem.wf) (r : Requester) (q : HostReq) (eff : Hw → Hw)
    (heff : ∀ g, g.mem.wf → (eff g).mem.wf) : (regTurn h r q eff).mem.wf := by
  unfold regTurn
  (repeat' split) <;> simp +contextual [hc, heff]

@[simp] theorem readLow_wf (hc : h.mem.wf) (r : Requester) (b : BlockId) (o : Nat) :
    (readLow h r b o).mem.wf := by simp [readLow, hc]

@[simp] theorem readHigh_wf (hc : h.mem.wf) (r : Requester) (b : BlockId) (o : Nat) :
    (readHigh h r b o).mem.wf := by
  unfold readHigh
  dsimp only
  split <;> simp [hc]

@[simp] theorem readWhole_wf (hc : h.mem.wf) (r : Requester) (b : BlockId) (o : Nat) :
    (readWhole h r b o).mem.wf := by simp [readWhole, hc]

@[simp] theorem regGet_wf (hc : h.mem.wf) (r : Requester) (off size : Nat) :
    (regGet h r off size).mem.wf := by
  unfold regGet
  (repeat' split) <;> simp [hc]

@[simp] theorem regWrite_wf (hc : h.mem.wf) (r : Requester) (b : BlockId) (o : Nat) (v : Word) :
    (regWrite h r b o v).mem.wf := by simp [regWrite, hc]

@[simp] theorem scalarAI_wf (hc : h.mem.wf) (minor : BitVec 6) (op : Word → Word → Word) (e : EaselId)
    (f : FmtAI) : (scalarAI minor op e f h).mem.wf := by
  unfold scalarAI
  split <;> simp [hc]

@[simp] theorem scalarA1_wf (hc : h.mem.wf) (minor : BitVec 6) (op : Word → Word) (e : EaselId) (f : FmtA) :
    (scalarA1 minor op e f h).mem.wf := by simp [scalarA1, hc]

@[simp] theorem scalarM_wf (hc : h.mem.wf) (minor : BitVec 6) (op : Word → Word → Word) (e : EaselId)
    (f : FmtA) : (scalarM minor op e f h).mem.wf := by simp [scalarM, hc]

@[simp] theorem compareAI_wf (hc : h.mem.wf) (minor : BitVec 6) (op : Word → Word → Bool) (e : EaselId)
    (f : FmtAI) : (compareAI minor op e f h).mem.wf := by
  unfold compareAI
  split <;> simp [hc]

@[simp] theorem predLogic_wf (hc : h.mem.wf) (minor : BitVec 6) (op : Bool → Bool → Bool) (e : EaselId)
    (f : FmtA) : (predLogic minor op e f h).mem.wf := by simp [predLogic, hc]

@[simp] theorem putTelemetry_mem : (putTelemetry h).mem = h.mem := by simp [putTelemetry]

@[simp] theorem hostReq_wf (hc : h.mem.wf) (f : FnId) (a : HostReq) : (hostReq h f a).mem.wf := by
  unfold hostReq
  split <;> simp [hc]

@[simp] theorem drainHost_wf (hc : h.mem.wf) (f : FnId) (l : List HostReq) : (drainHost f l h).mem.wf := by
  induction l generalizing h with
  | nil => simp [drainHost, hc]
  | cons q l ih =>
    unfold drainHost
    split
    · simp [hc]
    · exact ih (hostReq_wf hc f q)

@[simp] theorem drainHosts_wf (hc : h.mem.wf) : (drainHosts h).mem.wf := by simp +contextual [drainHosts, hc]

@[simp] theorem goOn_wf (hc : h.mem.wf) : (goOn h).mem.wf := by
  have hs := foldl_wf (fun g (p : Nat × Easel) => pumpCe (settle g (Fin.ofNat 208 p.1)) (Fin.ofNat 208 p.1))
    (fun g p hg => pumpCe_wf (settle_wf hg _) _) h.easels h hc
  exact drainHosts_wf (startColls_wf (by simpa using hs))

@[simp] theorem heldPerf_mem (x : Easel) : (heldPerf h x).mem = h.mem := by
  unfold heldPerf
  split <;> simp

@[simp] theorem tickPerf_mem : (tickPerf h).mem = h.mem := by simp [tickPerf]

@[simp] theorem Hw.tick_wf (hc : h.mem.wf) : (h.tick).mem.wf := by simp [Hw.tick, hc]

end Sys2Proof.Machine
end

section
/-! The canonical form: what every command keeps -/

namespace Sys2Proof.Machine

/-- The outcome is a next state with the same queue of waiting commands and with canonical memories. -/
def State.Keeps (s : State) (o : Host.Outcome State Fault Refusal) : Prop :=
  ∃ t, o = .next t ∧ t.pending = s.pending ∧ t.hw.mem.wf

theorem run_keeps {s : State} {f : Hw → Hw} (hf : (f s.hw).mem.wf) : s.Keeps (run s f) :=
  ⟨_, rfl, rfl, hf⟩

end Sys2Proof.Machine
end

section
/-! The canonical form: what each command keeps -/

namespace Sys2Proof.Machine

section
variable {s : State} (hc : s.hw.mem.wf)
include hc

/-! ### Branches, loads and stores -/

theorem execB_keeps (e : EaselId) (f : FmtB) : s.Keeps (execB e f s) := run_keeps (branch_wf hc ..)
theorem execBz_keeps (e : EaselId) (f : FmtB) : s.Keeps (execBz e f s) := run_keeps (branch_wf hc ..)
theorem execBnz_keeps (e : EaselId) (f : FmtB) : s.Keeps (execBnz e f s) := run_keeps (branch_wf hc ..)
theorem execBeq_keeps (e : EaselId) (f : FmtB) : s.Keeps (execBeq e f s) := run_keeps (branch_wf hc ..)
theorem execBne_keeps (e : EaselId) (f : FmtB) : s.Keeps (execBne e f s) := run_keeps (branch_wf hc ..)
theorem execBlt_keeps (e : EaselId) (f : FmtB) : s.Keeps (execBlt e f s) := run_keeps (branch_wf hc ..)
theorem execBge_keeps (e : EaselId) (f : FmtB) : s.Keeps (execBge e f s) := run_keeps (branch_wf hc ..)
theorem execBltu_keeps (e : EaselId) (f : FmtB) : s.Keeps (execBltu e f s) := run_keeps (branch_wf hc ..)
theorem execBgeu_keeps (e : EaselId) (f : FmtB) : s.Keeps (execBgeu e f s) := run_keeps (branch_wf hc ..)
theorem execCall_keeps (e : EaselId) (f : FmtB) : s.Keeps (execCall e f s) := run_keeps (by simp [hc])

theorem execJalr_keeps (e : EaselId) (f : FmtI) : s.Keeps (execJalr e f s) :=
  run_keeps (by simp +contextual [hc])

theorem execLdb_keeps (e : EaselId) (f : FmtI) : s.Keeps (execLdb e f s) := run_keeps (loadI_wf hc ..)
theorem execLdbu_keeps (e : EaselId) (f : FmtI) : s.Keeps (execLdbu e f s) := run_keeps (loadI_wf hc ..)
theorem execLdh_keeps (e : EaselId) (f : FmtI) : s.Keeps (execLdh e f s) := run_keeps (loadI_wf hc ..)
theorem execLdhu_keeps (e : EaselId) (f : FmtI) : s.Keeps (execLdhu e f s) := run_keeps (loadI_wf hc ..)
theorem execLdw_keeps (e : EaselId) (f : FmtI) : s.Keeps (execLdw e f s) := run_keeps (loadI_wf hc ..)
theorem execLdwu_keeps (e : EaselId) (f : FmtI) : s.Keeps (execLdwu e f s) := run_keeps (loadI_wf hc ..)
theorem execLdd_keeps (e : EaselId) (f : FmtI) : s.Keeps (execLdd e f s) := run_keeps (loadI_wf hc ..)
theorem execStb_keeps (e : EaselId) (f : FmtI) : s.Keeps (execStb e f s) := run_keeps (storeI_wf hc ..)
theorem execSth_keeps (e : EaselId) (f : FmtI) : s.Keeps (execSth e f s) := run_keeps (storeI_wf hc ..)
theorem execStw_keeps (e : EaselId) (f : FmtI) : s.Keeps (execStw e f s) := run_keeps (storeI_wf hc ..)
theorem execStd_keeps (e : EaselId) (f : FmtI) : s.Keeps (execStd e f s) := run_keeps (storeI_wf hc ..)

theorem execStoreDeferredFault_keeps (e : EaselId) (entry : Nat) (cls : BitVec 8) :
    s.Keeps (execStoreDeferredFault e entry cls s) := by
  refine run_keeps ?_
  split <;> simp [hc]

/-! ### Control registers, tile descriptors, system and service instructions -/

theorem execCsrr_keeps (e : EaselId) (f : FmtC) : s.Keeps (execCsrr e f s) := run_keeps (csrOp_wf hc ..)
theorem execCsrw_keeps (e : EaselId) (f : FmtC) : s.Keeps (execCsrw e f s) := run_keeps (csrOp_wf hc ..)
theorem execCsrs_keeps (e : EaselId) (f : FmtC) : s.Keeps (execCsrs e f s) := run_keeps (csrOp_wf hc ..)
theorem execCsrc_keeps (e : EaselId) (f : FmtC) : s.Keeps (execCsrc e f s) := run_keeps (csrOp_wf hc ..)
theorem execTdw_keeps (e : EaselId) (f : FmtT) : s.Keeps (execTdw e f s) := run_keeps (tdOp_wf hc ..)
theorem execTdr_keeps (e : EaselId) (f : FmtT) : s.Keeps (execTdr e f s) := run_keeps (tdOp_wf hc ..)
theorem execTdmov_keeps (e : EaselId) (f : FmtT) : s.Keeps (execTdmov e f s) := run_keeps (tdOp_wf hc ..)
theorem execTdadd_keeps (e : EaselId) (f : FmtT) : s.Keeps (execTdadd e f s) := run_keeps (tdOp_wf hc ..)
theorem execTdclr_keeps (e : EaselId) (f : FmtT) : s.Keeps (execTdclr e f s) := run_keeps (tdOp_wf hc ..)
theorem execNop_keeps (e : EaselId) (f : FmtI) : s.Keeps (execNop e f s) := run_keeps (by simp [hc])
theorem execExit_keeps (e : EaselId) (f : FmtI) : s.Keeps (execExit e f s) := run_keeps (by simp [hc])
theorem execSvc_keeps (e : EaselId) (f : FmtI) : s.Keeps (execSvc e f s) := run_keeps (by simp [hc])
theorem execTrap_keeps (e : EaselId) (f : FmtI) : s.Keeps (execTrap e f s) := run_keeps (by simp [hc])
theorem execIfence_keeps (e : EaselId) (f : FmtI) : s.Keeps (execIfence e f s) := run_keeps (by simp [hc])

theorem execSrvsave_keeps (e : EaselId) (f : FmtI) : s.Keeps (execSrvsave e f s) :=
  run_keeps (by simp +contextual [hc])

theorem execSrvload_keeps (e : EaselId) (f : FmtI) : s.Keeps (execSrvload e f s) :=
  run_keeps (by simp +contextual [hc])

theorem execSrvsetctx_keeps (e : EaselId) (f : FmtI) : s.Keeps (execSrvsetctx e f s) :=
  run_keeps (by simp [hc])

theorem execSrvret_keeps (e : EaselId) (f : FmtI) : s.Keeps (execSrvret e f s) := run_keeps (by simp [hc])
theorem execSrvstop_keeps (e : EaselId) (f : FmtI) : s.Keeps (execSrvstop e f s) := run_keeps (by simp [hc])

theorem execServiceModeCommand_keeps (e : EaselId) (entry : Word) :
    s.Keeps (execServiceModeCommand e entry s) := run_keeps (by simp [hc])

/-! ### Synchronization -/

theorem execSignal_keeps (e : EaselId) (f : FmtI) : s.Keeps (execSignal e f s) := by
  refine run_keeps (issue_wf hc _ _ _ _ _ fun g hg => ?_)
  dsimp only
  split <;> simp [hg]

theorem execSyncset_keeps (e : EaselId) (f : FmtI) : s.Keeps (execSyncset e f s) := by
  refine run_keeps (issue_wf hc _ _ _ _ _ fun g hg => ?_)
  dsimp only
  split <;> simp [hg]

theorem execSyncrd_keeps (e : EaselId) (f : FmtI) : s.Keeps (execSyncrd e f s) := by
  refine run_keeps (issue_wf hc _ _ _ _ _ fun g hg => ?_)
  dsimp only
  split <;> simp [hg]

theorem execWait_keeps (e : EaselId) (f : FmtI) : s.Keeps (execWait e f s) := by
  refine run_keeps (waitArrives_wf (issue_wf hc _ _ _ _ _ fun g hg => ?_) _ _ _ _)
  dsimp only
  (repeat' split) <;> simp [hg]

theorem execSyncWaitTimeout_keeps (e : EaselId) : s.Keeps (execSyncWaitTimeout e s) := by
  refine run_keeps ?_
  dsimp only
  (repeat' split) <;> simp [hc]

theorem execBarrierReleaseTime_keeps (obj : Fin 32768) : s.Keeps (execBarrierReleaseTime obj s) :=
  run_keeps (by simp [hc])

/-! ### Atomics -/

theorem execSwap_keeps (e : EaselId) (scope : BitVec 2) (f : FmtA) : s.Keeps (execSwap e scope f s) :=
  run_keeps (atomI_wf hc ..)

theorem execCas_keeps (e : EaselId) (scope : BitVec 2) (f : FmtA) : s.Keeps (execCas e scope f s) :=
  run_keeps (atomI_wf hc ..)

theorem execAadd_keeps (e : EaselId) (scope : BitVec 2) (f : FmtA) : s.Keeps (execAadd e scope f s) :=
  run_keeps (atomI_wf hc ..)

theorem execAand_keeps (e : EaselId) (scope : BitVec 2) (f : FmtA) : s.Keeps (execAand e scope f s) :=
  run_keeps (atomI_wf hc ..)

theorem execAor_keeps (e : EaselId) (scope : BitVec 2) (f : FmtA) : s.Keeps (execAor e scope f s) :=
  run_keeps (atomI_wf hc ..)

theorem execAxor_keeps (e : EaselId) (scope : BitVec 2) (f : FmtA) : s.Keeps (execAxor e scope f s) :=
  run_keeps (atomI_wf hc ..)

theorem execAmin_keeps (e : EaselId) (scope : BitVec 2) (f : FmtA) : s.Keeps (execAmin e scope f s) :=
  run_keeps (atomI_wf hc ..)

theorem execAmax_keeps (e : EaselId) (scope : BitVec 2) (f : FmtA) : s.Keeps (execAmax e scope f s) :=
  run_keeps (atomI_wf hc ..)

theorem execAminu_keeps (e : EaselId) (scope : BitVec 2) (f : FmtA) : s.Keeps (execAminu e scope f s) :=
  run_keeps (atomI_wf hc ..)

theorem execAmaxu_keeps (e : EaselId) (scope : BitVec 2) (f : FmtA) : s.Keeps (execAmaxu e scope f s) :=
  run_keeps (atomI_wf hc ..)

theorem execAnadd64_keeps (e : EaselId) (scope : BitVec 2) (f : FmtA) : s.Keeps (execAnadd64 e scope f s) :=
  run_keeps (atomI_wf hc ..)

theorem execAnadd128_keeps (e : EaselId) (scope : BitVec 2) (f : FmtA) :
    s.Keeps (execAnadd128 e scope f s) := run_keeps (atomI_wf hc ..)

/-! ### Engines -/

theorem execMma_keeps (e : EaselId) (f : FmtE) : s.Keeps (execMma e f s) := run_keeps (engIssue_wf hc ..)

theorem execAccload_keeps (e : EaselId) (f : FmtE) : s.Keeps (execAccload e f s) :=
  run_keeps (engIssue_wf hc ..)

theorem execAccstore_keeps (e : EaselId) (f : FmtE) : s.Keeps (execAccstore e f s) :=
  run_keeps (engIssue_wf hc ..)

theorem execConvert_keeps (e : EaselId) (f : FmtE) : s.Keeps (execConvert e f s) :=
  run_keeps (engIssue_wf hc ..)

theorem execAnchor_keeps (e : EaselId) (f : FmtE) : s.Keeps (execAnchor e f s) :=
  run_keeps (engIssue_wf hc ..)

theorem execEngineStart_keeps (e : EaselId) (q : Engine) : s.Keeps (execEngineStart e q s) := by
  refine run_keeps ?_
  dsimp only
  (repeat' split) <;> simp [hc]

theorem execMeIdleTimeout_keeps (e : EaselId) : s.Keeps (execMeIdleTimeout e s) := run_keeps (by simp [hc])

theorem execEngineInstructionComplete_keeps (e : EaselId) (q : Engine) (serial : Word)
    (errors : List AccErr) : s.Keeps (execEngineInstructionComplete e q serial errors s) := by
  refine run_keeps ?_
  dsimp only
  split <;> simp [hc]

theorem execEngineFault_keeps (e : EaselId) (q : Engine) (serial : Word) (cls : BitVec 8) (addr : Word)
    (done : List Nat) : s.Keeps (execEngineFault e q serial cls addr done s) := by
  refine run_keeps ?_
  dsimp only
  (repeat' split) <;> simp [hc]

theorem execReleaseAction_keeps (e : EaselId) (q : Engine) (serial : Word) :
    s.Keeps (execReleaseAction e q serial s) := by
  refine run_keeps ?_
  dsimp only
  (repeat' split) <;> simp [hc]

/-! ### Glaze -/

theorem execGlzbind_keeps (e : EaselId) (f : FmtI) : s.Keeps (execGlzbind e f s) :=
  run_keeps (by simp +contextual [hc])

theorem execGlzstat_keeps (e : EaselId) (f : FmtI) : s.Keeps (execGlzstat e f s) := run_keeps (by simp [hc])
theorem execGlzstop_keeps (e : EaselId) (f : FmtI) : s.Keeps (execGlzstop e f s) := run_keeps (by simp [hc])

theorem execGlazeBlockVerify_keeps (slot : SlotId) (pathError : Bool) :
    s.Keeps (execGlazeBlockVerify slot pathError s) := by
  refine run_keeps ?_
  dsimp only
  (repeat' split) <;> simp [hc]

theorem execGlazeBind_keeps (slot : SlotId) : s.Keeps (execGlazeBind slot s) := by
  refine run_keeps ?_
  dsimp only
  (repeat' split) <;> simp [hc]

theorem execGlazeGateTake_keeps (slot : SlotId) : s.Keeps (execGlazeGateTake slot s) :=
  run_keeps (by simp [hc])

theorem execGlazeEntryComplete_keeps (slot : SlotId) : s.Keeps (execGlazeEntryComplete slot s) :=
  run_keeps (by simp [hc])

/-! ### Order -/

theorem execRelease_keeps (e : EaselId) (f : FmtI) : s.Keeps (execRelease e f s) :=
  run_keeps (releaseI_wf hc ..)

theorem execAcquire_keeps (e : EaselId) (f : FmtI) : s.Keeps (execAcquire e f s) := run_keeps (by simp [hc])
theorem execFence_keeps (e : EaselId) (f : FmtI) : s.Keeps (execFence e f s) := run_keeps (fenceI_wf hc ..)

/-! ### Remote requests -/

theorem execRemoteTransactionTimeout_keeps (tag : BitVec 16) :
    s.Keeps (execRemoteTransactionTimeout tag s) := by
  refine run_keeps ?_
  split <;> simp [hc]

/-! ### The router -/

theorem execPacketRoute_keeps (i : Nat) : s.Keeps (execPacketRoute i s) :=
  run_keeps (by simp +contextual [hc])

theorem execMcastForward_keeps (i : Nat) : s.Keeps (execMcastForward i s) :=
  run_keeps (by simp +contextual [hc])

theorem execCircuitForward_keeps (i : Nat) : s.Keeps (execCircuitForward i s) :=
  run_keeps (by simp +contextual [hc])

theorem execCircuitDownNotice_keeps (i : Nat) : s.Keeps (execCircuitDownNotice i s) := by
  refine run_keeps ?_
  dsimp only
  (repeat' split) <;> simp [hc]

theorem execRemoteWriteReceive_keeps (i : Nat) : s.Keeps (execRemoteWriteReceive i s) :=
  run_keeps (by simp +contextual [hc])

theorem execRemoteWriteFinalReceive_keeps (i : Nat) : s.Keeps (execRemoteWriteFinalReceive i s) := by
  refine run_keeps ?_
  split <;> simp [hc]

theorem execFinalStreamAbandon_keeps (i : Nat) : s.Keeps (execFinalStreamAbandon i s) := by
  refine run_keeps ?_
  split <;> simp [hc]

theorem execRemoteReadRequestReceive_keeps (i : Nat) : s.Keeps (execRemoteReadRequestReceive i s) :=
  run_keeps (by simp +contextual [hc])

theorem execAtomicRequestReceive_keeps (i : Nat) : s.Keeps (execAtomicRequestReceive i s) :=
  run_keeps (by simp +contextual [hc])

theorem execSyncOperationReceive_keeps (i : Nat) : s.Keeps (execSyncOperationReceive i s) :=
  run_keeps (by simp [hc])

theorem execReadResponseReceive_keeps (i : Nat) :
    s.Keeps (execReadResponseReceive i s) :=
  run_keeps (takeLocal_wf hc _ _ _ fun _ _ _ _ hg => takeResponse_wf hg _ _ _ _ fun _ _ hr => answerData_wf hr _ _)

theorem execWriteResponseReceive_keeps (i : Nat) :
    s.Keeps (execWriteResponseReceive i s) := by
  refine run_keeps (takeLocal_wf hc _ _ _ fun _ _ _ _ hg => takeResponse_wf hg _ _ _ _ fun _ _ hr => ?_)
  split <;> simp [hr]

theorem execSyncResponseReceive_keeps (i : Nat) :
    s.Keeps (execSyncResponseReceive i s) := by
  refine run_keeps (takeLocal_wf hc _ _ _ fun _ _ _ _ hg => takeResponse_wf hg _ _ _ _ fun _ _ hr => ?_)
  split <;> simp [hr]

theorem execStallWatchdogExpire_keeps (port : PortId) (vc : Fin 8) :
    s.Keeps (execStallWatchdogExpire port vc s) := by
  refine run_keeps ?_
  dsimp only
  split
  · exact hc
  · exact foldl_wf _ (fun g q hg => dropPacket_wf hg _ _ _) _ _ (by simp [hc])

theorem execCmapSample_keeps : s.Keeps (execCmapSample s) := run_keeps (by simp [hc])
theorem execCmapWindowEnd_keeps : s.Keeps (execCmapWindowEnd s) := run_keeps (by simp [hc])

/-! ### Links -/

theorem execFlitTransmit_keeps (port : PortId) : s.Keeps (execFlitTransmit port s) := by
  refine run_keeps ?_
  dsimp only
  split
  · exact hc
  split
  · simp [hc]
  split
  · simp [hc]
  split
  · split <;> simp [hc]
  · cases hn : sendNext s.hw port with
    | none => simp [hc]
    | some g => exact sendNext_wf hc hn

theorem execFlitReceive_keeps (port : PortId) (flit : Flit) (fecTouched : Bool) (fec : FecReport) :
    s.Keeps (execFlitReceive port flit fecTouched fec s) := by
  refine run_keeps ?_
  dsimp only
  (repeat' split) <;> simp [hc]

theorem execPortTrainingComplete_keeps (port : PortId) (result : TrainResult) :
    s.Keeps (execPortTrainingComplete port result s) := by
  refine run_keeps ?_
  dsimp only
  (repeat' split) <;> simp [hc]

theorem execPortTrainingTimeout_keeps (port : PortId) : s.Keeps (execPortTrainingTimeout port s) :=
  run_keeps (by simp [hc])

theorem execPortAutoUpRetry_keeps (port : PortId) : s.Keeps (execPortAutoUpRetry port s) :=
  run_keeps (by simp [hc])

theorem execDegradeWindowEnd_keeps (port : PortId) : s.Keeps (execDegradeWindowEnd port s) :=
  run_keeps (by simp [hc])

theorem execLaneDegrade_keeps (port : PortId) : s.Keeps (execLaneDegrade port s) := run_keeps (by simp [hc])

theorem execLaneLossOfLock_keeps (port : PortId) (lane : Fin 8) : s.Keeps (execLaneLossOfLock port lane s) :=
  run_keeps (by simp [hc])

theorem execRetrainComplete_keeps (port : PortId) (good : BitVec 8) :
    s.Keeps (execRetrainComplete port good s) := by
  refine run_keeps ?_
  split
  · exact hc
  · split <;> simp [hc]

theorem execRetrainTimeout_keeps (port : PortId) : s.Keeps (execRetrainTimeout port s) :=
  run_keeps (by simp [hc])

theorem execLinkDown_keeps (port : PortId) : s.Keeps (execLinkDown port s) := run_keeps (by simp [hc])

/-! ### Fabric time -/

theorem execTimingFlitReceive_keeps (port : PortId) (stamp : TimingStamp) :
    s.Keeps (execTimingFlitReceive port stamp s) := run_keeps (by simp [hc])

theorem execFtcExchangePeriod_keeps : s.Keeps (execFtcExchangePeriod s) := by
  refine run_keeps ?_
  split <;> simp [hc]

theorem execFtcHoldoverSwitch_keeps : s.Keeps (execFtcHoldoverSwitch s) := run_keeps (by simp [hc])
theorem execHoldoverSyncedClear_keeps : s.Keeps (execHoldoverSyncedClear s) := run_keeps (by simp [hc])

theorem execFtcMasterSyncTimeout_keeps : s.Keeps (execFtcMasterSyncTimeout s) := by
  refine run_keeps ?_
  split <;> simp [hc]

theorem execFtcSnapshot_keeps : s.Keeps (execFtcSnapshot s) := run_keeps (by simp [hc])

/-! ### Collectives -/

theorem execColl_keeps (e : EaselId) (f : FmtI) : s.Keeps (execColl e f s) :=
  run_keeps (by simp +contextual [hc])

theorem execCollAccept_keeps (e : EaselId) (slot : SlotId) :
    s.Keeps (execCollAccept e slot s) := by
  refine run_keeps ?_
  dsimp only
  split
  · split
    · split
      · exact hc
      split
      · split
        · next hf => simp [bufFault_wf (h := finishWait s.hw e false id) hc hf]
        · simp [hc]
      · simp [hc]
      · simp [hc]
    · exact hc
  · exact hc

theorem execCollReadyReceive_keeps (i : Nat) : s.Keeps (execCollReadyReceive i s) :=
  run_keeps (by simp +contextual [hc])

theorem execCollGrantReceive_keeps (i : Nat) : s.Keeps (execCollGrantReceive i s) := by
  refine run_keeps (takeLocal_wf hc _ _ _ fun g q x k hg => ?_)
  dsimp only
  split <;> simp [hg]

theorem execCollReadyResend_keeps (slot : SlotId) : s.Keeps (execCollReadyResend slot s) := by
  refine run_keeps ?_
  split <;> simp [hc]

theorem execCollCountsReceive_keeps (i : Nat) : s.Keeps (execCollCountsReceive i s) := by
  refine run_keeps (takeLocal_wf hc _ _ _ fun g q x k hg => ?_)
  dsimp only
  split <;> simp [hg]

theorem execCollDataReceive_keeps (i : Nat) : s.Keeps (execCollDataReceive i s) := by
  refine run_keeps (takeLocal_wf hc _ _ _ fun g q x k hg => ?_)
  dsimp only
  split <;> simp [hg]

theorem execCollComplete_keeps (slot : SlotId) : s.Keeps (execCollComplete slot s) := by
  refine run_keeps ?_
  split
  · split
    · split
      · exact finishColl_wf hc _ _ _
      · exact hc
    · exact hc
  · exact hc

theorem execCollTimeout_keeps (slot : SlotId) : s.Keeps (execCollTimeout slot s) := by
  refine run_keeps ?_
  dsimp only
  (repeat' split) <;> simp [hc]

/-! ### Sketch instructions -/

theorem execSketch_keeps (e : EaselId) (f : FmtI) : s.Keeps (execSketch e f s) := run_keeps (by simp [hc])
theorem execSketchr_keeps (e : EaselId) (f : FmtI) : s.Keeps (execSketchr e f s) := run_keeps (by simp [hc])

theorem execVarnish_keeps (e : EaselId) (f : FmtI) : s.Keeps (execVarnish e f s) :=
  run_keeps (varnishI_wf hc ..)

theorem execScrape_keeps (e : EaselId) (f : FmtI) : s.Keeps (execScrape e f s) := run_keeps (scrapeI_wf hc ..)
theorem execSkocc_keeps (e : EaselId) (f : FmtI) : s.Keeps (execSkocc e f s) := run_keeps (skoccI_wf hc ..)

theorem execVarnishPoint_keeps (e : EaselId) : s.Keeps (execVarnishPoint e s) := by
  refine run_keeps ?_
  dsimp only
  (repeat' split) <;> simp [hc]

theorem execScrapePoint_keeps (e : EaselId) : s.Keeps (execScrapePoint e s) := by
  refine run_keeps ?_
  dsimp only
  (repeat' split) <;> simp [hc]

theorem execSketchFold_keeps (p : PartId) (slotBad : Bool) : s.Keeps (execSketchFold p slotBad s) := by
  refine run_keeps ?_
  split <;> simp [hc]

theorem execSketchSlotZero_keeps (p : PartId) : s.Keeps (execSketchSlotZero p s) := run_keeps (by simp [hc])

/-! ### The host interface -/

theorem execCmdNop_keeps (fn : FnId) : s.Keeps (execCmdNop fn s) := run_keeps (by simp [hc])
theorem execCmdSyncSignal_keeps (fn : FnId) : s.Keeps (execCmdSyncSignal fn s) := run_keeps (by simp [hc])
theorem execCmdFence_keeps (fn : FnId) : s.Keeps (execCmdFence fn s) := run_keeps (by simp [hc])
theorem execCommandFetch_keeps (fn : FnId) : s.Keeps (execCommandFetch fn s) := run_keeps (by simp [hc])

theorem execHifDbCmdqTail_keeps (fn : FnId) (a : DbAccess) : s.Keeps (execHifDbCmdqTail fn a s) :=
  run_keeps (by simp +contextual [hc])

theorem execHifDbCplqHead_keeps (fn : FnId) (a : DbAccess) : s.Keeps (execHifDbCplqHead fn a s) :=
  run_keeps (by simp +contextual [hc])

theorem execHifDbEvrHead_keeps (fn : FnId) (a : DbAccess) : s.Keeps (execHifDbEvrHead fn a s) :=
  run_keeps (by simp +contextual [hc])

theorem execEventRaise_keeps (src : BitVec 10) (payload : BitVec 32) :
    s.Keeps (execEventRaise src payload s) := run_keeps (by simp [hc])

theorem execEventArbitrate_keeps : s.Keeps (execEventArbitrate s) := by
  refine run_keeps ?_
  split <;> simp [hc]

theorem execEventRecordDeliver_keeps : s.Keeps (execEventRecordDeliver s) := by
  refine run_keeps ?_
  split <;> simp [hc]

/-! ### Captures -/

theorem execCaptureBoundExpire_keeps (id : BitVec 16) :
    s.Keeps (execCaptureBoundExpire id s) := by
  refine run_keeps ?_
  split
  · split
    · simp [hc]
    · exact hc
  · exact hc

/-! ### Recovery -/

theorem execPowerCycleRequest_keeps (trigger : BitVec 8) : s.Keeps (execPowerCycleRequest trigger s) :=
  run_keeps (by simp [hc])

theorem execRecoveryEscalationTimeout_keeps (u : RecUnit) :
    s.Keeps (execRecoveryEscalationTimeout u s) := by
  refine run_keeps ?_
  split
  · split
    · exact hc
    · split <;> simp [hc]
  · exact hc

theorem execCpSilenceTimeout_keeps (_core : Fin 8) : s.Keeps (execCpSilenceTimeout _core s) :=
  run_keeps (chipFault_wf hc ..)

theorem execEngineBoundaryTimeout_keeps (e : EaselId) : s.Keeps (execEngineBoundaryTimeout e s) :=
  run_keeps (by simp [hc])

/-! ### Memory events -/

theorem execCanvasTempSample_keeps (sensor : Fin 32) (reading : Int) :
    s.Keeps (execCanvasTempSample sensor reading s) := run_keeps (by simp [hc])

theorem execCanvasRefreshRestore_keeps (die : Fin 2) : s.Keeps (execCanvasRefreshRestore die s) := by
  refine run_keeps ?_
  split <;> simp [hc]

theorem execLpddr6Recentre_keeps (_ch : Fin 96) : s.Keeps (execLpddr6Recentre _ch s) :=
  run_keeps (by simp [hc])

theorem execLpddr6ChannelRetrain_keeps (ch : Fin 96) (phase : RetrainPhase) :
    s.Keeps (execLpddr6ChannelRetrain ch phase s) := by
  refine run_keeps ?_
  split <;> simp [hc]

theorem execLpddr6RetrainTimeout_keeps (ch : Fin 96) : s.Keeps (execLpddr6RetrainTimeout ch s) := by
  refine run_keeps ?_
  split <;> simp [hc]

theorem execLpddr6TempRead_keeps (pkg : Fin 24) (reading : PkgTemp) :
    s.Keeps (execLpddr6TempRead pkg reading s) := by
  refine run_keeps ?_
  split <;> simp [hc]

theorem execPatrolScrubRead_keeps (m : ScrubMem) (errors : WordErrors) :
    s.Keeps (execPatrolScrubRead m errors s) := by
  have hfix (g : Hw) (hg : g.mem.wf) (n off : Nat) (pal : Bool) :
      (if 3 ≤ n then ueFound g off else if n = 0 then g
        else if pal then scrubWord g off else regionError (scrubWord g off) off).mem.wf :=
    ite_wf (by simp [hg]) (ite_wf hg (ite_wf (by simp [hg]) (by simp [hg])))
  have hm (w n : Nat) (path : List Nat) :
      Mem.wf { s.hw.mem with ecc := SMap.set 0 s.hw.mem.ecc w n, path := path } := Mem.ecc_set_wf _ w n hc
  exact run_keeps (ite_wf hc (ite_wf (hfix _ (hm _ _ _) _ _ _) (hfix _ (hm _ _ _) _ _ _)))

/-! ### Power -/

theorem execPowerEstimate_keeps (est me : Nat) : s.Keeps (execPowerEstimate est me s) :=
  run_keeps (by simp +contextual [hc])

theorem execPowerMeasure_keeps (mv ma : Nat) : s.Keeps (execPowerMeasure mv ma s) := run_keeps (by simp [hc])
theorem execGainRecalibrate_keeps : s.Keeps (execGainRecalibrate s) := run_keeps (by simp [hc])
theorem execShortLoopUpdate_keeps : s.Keeps (execShortLoopUpdate s) := run_keeps (by simp +contextual [hc])

theorem execSustainedLoopUpdate_keeps : s.Keeps (execSustainedLoopUpdate s) :=
  run_keeps (by simp +contextual [hc])

theorem execBoostTargetUpdate_keeps : s.Keeps (execBoostTargetUpdate s) := run_keeps (by simp [hc])
theorem execThrottleIntervalEnd_keeps : s.Keeps (execThrottleIntervalEnd s) := run_keeps (by simp [hc])
theorem execPwrwarnAssert_keeps : s.Keeps (execPwrwarnAssert s) := run_keeps (by simp +contextual [hc])
theorem execPwrwarnRelease_keeps : s.Keeps (execPwrwarnRelease s) := run_keeps (by simp [hc])

theorem execUndervoltageWarning_keeps (mv : Nat) : s.Keeps (execUndervoltageWarning mv s) :=
  run_keeps (by simp +contextual [hc])

theorem execUndervoltageRelease_keeps : s.Keeps (execUndervoltageRelease s) := run_keeps (by simp [hc])

theorem execDroopCut_keeps (die : Fin 2) : s.Keeps (execDroopCut die s) :=
  run_keeps (by simp +contextual [hc])

theorem execDroopRelease_keeps (die : Fin 2) : s.Keeps (execDroopRelease die s) := run_keeps (by simp [hc])

theorem execPinFilterAccept_keeps (pin : Fin 4) (asserted : Bool) :
    s.Keeps (execPinFilterAccept pin asserted s) := run_keeps (by simp [hc])

/-! ### Thermal limits -/

theorem execLeakTraceMeasure_keeps (a b : LeakCode) : s.Keeps (execLeakTraceMeasure a b s) :=
  run_keeps (by simp [hc])

theorem execLeakTraceChange_keeps (trace : Fin 2) : s.Keeps (execLeakTraceChange trace s) := by
  refine run_keeps ?_
  dsimp only
  (repeat' split) <;> simp [hc]

theorem execThermalLoopUpdate_keeps : s.Keeps (execThermalLoopUpdate s) := by
  refine run_keeps ?_
  split
  · exact hc
  · exact throttling_wf hc _ fun g hg => setFlims_wf (foldl_wf _ (fun a z ha => by simp [ha]) _ _ hg)

theorem execSampleSetPublish_keeps (set : SampleSet) : s.Keeps (execSampleSetPublish set s) :=
  run_keeps (by simp [hc])

theorem execSensorCheck_keeps (faulty : List Nat) : s.Keeps (execSensorCheck faulty s) :=
  run_keeps (by simp [hc])

theorem execThermalTrip_keeps (cause : TripCause) : s.Keeps (execThermalTrip cause s) := by
  refine run_keeps ?_
  split <;> simp [hc]

theorem execDigestCompare_keeps (d0 d1 : Option Word) (pass0 pass1 : Bool) :
    s.Keeps (execDigestCompare d0 d1 pass0 pass1 s) := by
  refine run_keeps ?_
  split <;> simp [hc]

theorem execLeaseRenew_keeps (i : Fin 2) : s.Keeps (execLeaseRenew i s) := run_keeps (by simp [hc])

theorem execLeaseExpire_keeps : s.Keeps (execLeaseExpire s) := by
  refine run_keeps ?_
  split <;> simp [hc]

theorem execSupSyncComplete_keeps (i : Fin 2) : s.Keeps (execSupSyncComplete i s) := run_keeps (by simp [hc])

/-! ### Contexts -/

theorem execCtxCreate_keeps (fn : FnId) : s.Keeps (execCtxCreate fn s) := by
  refine run_keeps (command_wf hc _ _ _ _ _ fun g k hg => ite_wf (by simp [hg]) ?_)
  split
  · simp [hg]
  · next hr => simp [takeResources_wf hg hr]

theorem execCtxAlloc_keeps (fn : FnId) : s.Keeps (execCtxAlloc fn s) := run_keeps (by simp +contextual [hc])

theorem execCtxRelease_keeps (fn : FnId) : s.Keeps (execCtxRelease fn s) :=
  run_keeps (by simp +contextual [hc])

theorem execCtxStart_keeps (fn : FnId) : s.Keeps (execCtxStart fn s) := by
  refine run_keeps (command_wf hc _ _ _ _ _ fun g k hg => ?_)
  dsimp only
  split
  · simp [hg]
  split
  · split
    · exact hc
    split
    · simp [hg]
    split
    · simp [hg]
    split <;> simp [hg]
  · split <;> simp [hg]

theorem execCtxStop_keeps (fn : FnId) : s.Keeps (execCtxStop fn s) := run_keeps (by simp [hc])
theorem execCtxResume_keeps (fn : FnId) : s.Keeps (execCtxResume fn s) := run_keeps (by simp +contextual [hc])
theorem execCtxSched_keeps (fn : FnId) : s.Keeps (execCtxSched fn s) := run_keeps (by simp +contextual [hc])
theorem execCtxAssign_keeps (fn : FnId) : s.Keeps (execCtxAssign fn s) := run_keeps (by simp +contextual [hc])
theorem execCtxPerfRead_keeps (fn : FnId) : s.Keeps (execCtxPerfRead fn s) := run_keeps (by simp [hc])
theorem execCtxQuery_keeps (fn : FnId) : s.Keeps (execCtxQuery fn s) := run_keeps (by simp [hc])

/-! ### The context switch and services -/

theorem execQuantumExpire_keeps (p : PartId) : s.Keeps (execQuantumExpire p s) := by
  refine run_keeps ?_
  split <;> simp [hc]

theorem execContextSwitch_keeps (ps : BitVec 4) (target : Option CtxId) :
    s.Keeps (execContextSwitch ps target s) := by
  have ho (l : List CtxId) : (l.foldl switchOut s.hw).mem.wf :=
    foldl_wf _ (fun g c hg => switchOut_wf hg c) l _ hc
  refine run_keeps ?_
  dsimp only
  split
  · exact hc
  split <;> simp [ho, hc]

theorem execCopyTransactionAbandon_keeps (tag : BitVec 16) :
    s.Keeps (execCopyTransactionAbandon tag s) := by
  refine run_keeps ?_
  dsimp only
  split
  · split
    · split <;> simp [hc]
    · exact hc
  · exact hc

theorem execContextExitComplete_keeps (c : CtxId) : s.Keeps (execContextExitComplete c s) :=
  run_keeps (by simp [hc])

theorem execSketchRegion_keeps (e : EaselId) : s.Keeps (execSketchRegion e s) :=
  run_keeps (by simp +contextual [hc])

theorem execSyncRange_keeps (e : EaselId) : s.Keeps (execSyncRange e s) :=
  run_keeps (by simp +contextual [hc])

theorem execGroup_keeps (e : EaselId) : s.Keeps (execGroup e s) := run_keeps (by simp +contextual [hc])
theorem execNotify_keeps (e : EaselId) : s.Keeps (execNotify e s) := run_keeps (by simp +contextual [hc])
theorem execYield_keeps (e : EaselId) : s.Keeps (execYield e s) := run_keeps (by simp +contextual [hc])

theorem execCtxDestroy_keeps (fn : FnId) : s.Keeps (execCtxDestroy fn s) :=
  run_keeps (by simp +contextual [hc])

theorem execGessoStepsEnd_keeps (c : CtxId) : s.Keeps (execGessoStepsEnd c s) := run_keeps (by simp [hc])

theorem execZeroingPageFree_keeps (page : Nat) : s.Keeps (execZeroingPageFree page s) :=
  run_keeps (by simp [hc])

theorem execCtxRecover_keeps (fn : FnId) : s.Keeps (execCtxRecover fn s) :=
  run_keeps (by simp +contextual [hc])

/-! ### Keys -/

theorem execWkeyGenkem_keeps (fn : FnId) : s.Keeps (execWkeyGenkem fn s) := run_keeps (by simp [hc])
theorem execWkeyInstall_keeps (fn : FnId) : s.Keeps (execWkeyInstall fn s) := run_keeps (by simp [hc])
theorem execWkeyClear_keeps (fn : FnId) : s.Keeps (execWkeyClear fn s) := run_keeps (by simp [hc])
theorem execJobkeyInstall_keeps (fn : FnId) : s.Keeps (execJobkeyInstall fn s) := run_keeps (by simp [hc])

theorem execJobkeySend_keeps (fn : FnId) : s.Keeps (execJobkeySend fn s) := by
  refine run_keeps (command_wf hc _ _ _ _ _ fun g k hg => ?_)
  dsimp only
  (repeat' split) <;> simp [hg]

theorem execJobkeyRetire_keeps (fn : FnId) : s.Keeps (execJobkeyRetire fn s) := by
  refine run_keeps (command_wf hc _ _ _ _ _ fun g k hg => ?_)
  dsimp only
  (repeat' split) <;> simp [hg]

/-! ### Sessions -/

theorem execGetVersion_keeps (t : Transport) (session : Option (Fin 4)) :
    s.Keeps (execGetVersion t session s) := run_keeps (by simp [hc])

theorem execGetCapabilities_keeps (t : Transport) (session : Option (Fin 4)) :
    s.Keeps (execGetCapabilities t session s) := run_keeps (by simp [hc])

theorem execNegotiateAlgorithms_keeps (t : Transport) (session : Option (Fin 4)) (offer : AlgOffer) :
    s.Keeps (execNegotiateAlgorithms t session offer s) := run_keeps (by simp [hc])

theorem execGetDigests_keeps (t : Transport) (session : Option (Fin 4)) :
    s.Keeps (execGetDigests t session s) := run_keeps (by simp [hc])

theorem execGetCertificate_keeps (t : Transport) (session : Option (Fin 4)) :
    s.Keeps (execGetCertificate t session s) := run_keeps (by simp [hc])

theorem execChallenge_keeps (t : Transport) (session : Option (Fin 4)) (nonce : Bytes) :
    s.Keeps (execChallenge t session nonce s) := run_keeps (by simp [hc])

theorem execGetMeasurements_keeps (t : Transport) (session : Option (Fin 4)) (index : BitVec 8)
    (nonce : Bytes) : s.Keeps (execGetMeasurements t session index nonce s) := run_keeps (by simp [hc])

theorem execKeyExchange_keeps (t : Transport) (session : Option (Fin 4)) (ek : Bytes) :
    s.Keeps (execKeyExchange t session ek s) := by
  refine run_keeps (spdmRequest_wf hc _ _ _ _ fun g hg => ?_)
  dsimp only
  split
  · simp [hg]
  split
  · simp [hg]
  split <;> simp [hg]

theorem execFinish_keeps (t : Transport) (session : Option (Fin 4)) (verify : Bytes) :
    s.Keeps (execFinish t session verify s) := by
  refine run_keeps ?_
  dsimp only
  (repeat' split) <;> simp [hc]

theorem execHeartbeat_keeps (t : Transport) (session : Option (Fin 4)) :
    s.Keeps (execHeartbeat t session s) := run_keeps (by simp [hc])

theorem execKeyUpdate_keeps (t : Transport) (session : Option (Fin 4)) :
    s.Keeps (execKeyUpdate t session s) := run_keeps (by simp [hc])

theorem execEndSession_keeps (t : Transport) (session : Option (Fin 4)) :
    s.Keeps (execEndSession t session s) := run_keeps (by simp [hc])

theorem execGetCtxEvidence_keeps (t : Transport) (session : Option (Fin 4)) (c : CtxId)
    (nonce : Bytes) : s.Keeps (execGetCtxEvidence t session c nonce s) := by
  refine run_keeps (inSession_wf hc _ _ _ fun g i hg => ?_)
  dsimp only
  split
  · simp [hg]
  · split <;> simp [hg]

theorem execIdeKm_keeps (session : Option (Fin 4)) (req : IdeReq) :
    s.Keeps (execIdeKm session req s) := by
  refine run_keeps (inSession_wf hc _ _ _ fun g i hg => ?_)
  dsimp only
  split
  · simp [hg]
  · simp [hg]
  · split <;> simp [hg]
  · simp [hg]

theorem execTdisp_keeps (session : Option (Fin 4)) (vf : FnId) (req : TdispReq) :
    s.Keeps (execTdisp session vf req s) := by
  refine run_keeps ?_
  split <;> simp [hc]

/-! ### Host events -/

theorem execPcieCompletion_keeps (tag : BitVec 16) (result : PcieResult) :
    s.Keeps (execPcieCompletion tag result s) := by
  refine run_keeps ?_
  split
  · exact hc
  · split <;> simp [hc]

theorem execBar2Read_keeps (fn : FnId) (off len : Nat) : s.Keeps (execBar2Read fn off len s) :=
  run_keeps (by simp +contextual [hc])

theorem execBar2Write_keeps (fn : FnId) (off : Nat) (data : Bytes) (poisoned : Bool) :
    s.Keeps (execBar2Write fn off data poisoned s) := run_keeps (by simp +contextual [hc])

theorem execFunctionLevelReset_keeps (fn : FnId) : s.Keeps (execFunctionLevelReset fn s) :=
  run_keeps (by simp [hc])

theorem execPcieLinkStateChange_keeps (link : LinkState) : s.Keeps (execPcieLinkStateChange link s) :=
  run_keeps (by simp [hc])

theorem execPerstAssert_keeps : s.Keeps (execPerstAssert s) := run_keeps (by simp [hc])
theorem execPerstDeassert_keeps : s.Keeps (execPerstDeassert s) := run_keeps (by simp [hc])

theorem execConfigurationRequest_keeps (fn : FnId) (req : ConfigReq) :
    s.Keeps (execConfigurationRequest fn req s) := run_keeps (by simp [hc])

/-! ### Resets and recoveries -/

theorem execCapList_keeps (fn : FnId) : s.Keeps (execCapList fn s) := run_keeps (by simp [hc])

theorem execCapRead_keeps (fn : FnId) : s.Keeps (execCapRead fn s) := by
  refine run_keeps (command_wf hc _ _ _ _ _ fun g k hg => ?_)
  dsimp only
  split
  · simp [hg]
  · refine ite_wf (by simp [hg]) (ite_wf (by simp [hg]) (ite_wf hc (ite_wf (by simp [hg]) ?_)))
    split
    · simp [hg]
    · exact ite_wf (by simp [hg]) (by simp [hg])

theorem execCapRelease_keeps (fn : FnId) : s.Keeps (execCapRelease fn s) := run_keeps (by simp [hc])
theorem execCapConfig_keeps (fn : FnId) : s.Keeps (execCapConfig fn s) := run_keeps (by simp +contextual [hc])

theorem execEngineReset_keeps (fn : FnId) : s.Keeps (execEngineReset fn s) :=
  run_keeps (resetCommand_wf hc ..)

theorem execPartitionReset_keeps (fn : FnId) : s.Keeps (execPartitionReset fn s) :=
  run_keeps (resetCommand_wf hc ..)

theorem execChipReset_keeps (fn : FnId) : s.Keeps (execChipReset fn s) := run_keeps (by simp +contextual [hc])

theorem execEngineRecovery_keeps (e : EaselId) (trigger : BitVec 8) (kat kat2 : Bool) :
    s.Keeps (execEngineRecovery e trigger kat kat2 s) := run_keeps (by simp [hc])

theorem execPartitionRecovery_keeps (p : PartId) (trigger : BitVec 8) (failing : List EaselId) :
    s.Keeps (execPartitionRecovery p trigger failing s) := by
  have hp : (if recovering s.hw (.partition p) then s.hw else partitionFault s.hw p trigger []).mem.wf :=
    ite_wf hc (by simp [hc])
  refine run_keeps (ite_wf hc ?_)
  refine ite_wf hp ?_
  rw [endRecovery_mem, raiseEv_mem]
  refine foldl_wf _ (fun g e hg => recoverEasel_wf hg _ _ _) _ _ ?_
  rw [discardSlots_mem]
  exact foldl_wf _ (fun g c hg => by simp [hg]) _ _ (closeWhere_wf hp _ _)

theorem execKnownAnswerRun_keeps (e : EaselId) (first second : Bool) :
    s.Keeps (execKnownAnswerRun e first second s) := by
  have hf : (engineFaultRec (katRun s.hw e first) e 0x71#8 []).mem.wf := by simp [hc]
  refine run_keeps ?_
  dsimp only
  split
  · exact hc
  split
  · simp [hc]
  split
  · simp [hf]
  · exact hf

theorem execEngineWatchdogExpire_keeps (e : EaselId) (q : Engine) (serial : Word) :
    s.Keeps (execEngineWatchdogExpire e q serial s) := by
  refine run_keeps ?_
  split <;> simp [hc]

/-! ### Boot -/

theorem execColdBoot_keeps (env : BootEnv) : s.Keeps (execColdBoot env s) := by
  refine run_keeps ?_
  dsimp only
  (repeat' split) <;> simp [hc]

theorem execBootReady_keeps : s.Keeps (execBootReady s) := run_keeps (by simp [hc])

theorem execSupplyShutdown_keeps (_high : Bool) : s.Keeps (execSupplyShutdown _high s) :=
  run_keeps (by simp [hc])

theorem execPowerOn_keeps (pos : BitVec 6) (refclk : Bool) : s.Keeps (execPowerOn pos refclk s) :=
  run_keeps (by simp [hc])

theorem execRefclkLoss_keeps : s.Keeps (execRefclkLoss s) := run_keeps (by simp [hc])
theorem execRefclkRestore_keeps : s.Keeps (execRefclkRestore s) := run_keeps (by simp [hc])

theorem execChipRecovery_keeps (trigger : BitVec 8) (failing : List EaselId) :
    s.Keeps (execChipRecovery trigger failing s) := run_keeps (by simp [hc])

/-! ### Idle states -/

theorem execIdleEntry_keeps : s.Keeps (execIdleEntry s) := by
  refine run_keeps ?_
  split <;> simp [hc]

theorem execIdleExit_keeps (cause : WakeCause) : s.Keeps (execIdleExit cause s) := by
  cases cause <;> exact run_keeps (by simp [hc])

/-! ### Updates -/

theorem execUpdBegin_keeps (m : SvcHdr) (header : Bytes) : s.Keeps (execUpdBegin m header s) :=
  run_keeps (by simp [hc])

theorem execUpdData_keeps (m : SvcHdr) (off : BitVec 32) (data : Bytes) (flashOk : Bool) :
    s.Keeps (execUpdData m off data flashOk s) := by
  refine run_keeps (serveSvc_wf hc _ _ _ fun g hg => ?_)
  dsimp only
  split <;> simp [hg]

theorem execUpdEnd_keeps (m : SvcHdr) (readBack : Bool) :
    s.Keeps (execUpdEnd m readBack s) := by
  refine run_keeps (serveSvc_wf hc _ _ _ fun g hg => ?_)
  dsimp only
  split <;> simp [hg]

theorem execUpdAbort_keeps (m : SvcHdr) : s.Keeps (execUpdAbort m s) := by
  refine run_keeps (serveSvc_wf hc _ _ _ fun g hg => ?_)
  split
  · split <;> simp [hg]
  · split <;> simp [hg]

theorem execQuery_keeps (m : SvcHdr) : s.Keeps (execQuery m s) := run_keeps (by simp [hc])

theorem execUpdSessionTimeout_keeps : s.Keeps (execUpdSessionTimeout s) := by
  refine run_keeps ?_
  split <;> simp [hc]

theorem execRaiseFloor_keeps (m : SvcHdr) : s.Keeps (execRaiseFloor m s) := run_keeps (by simp [hc])

theorem execActivate_keeps (m : SvcHdr) (slot mode : BitVec 8) : s.Keeps (execActivate m slot mode s) :=
  run_keeps (by simp [hc])

theorem execHandoverQuiescent_keeps : s.Keeps (execHandoverQuiescent s) := run_keeps (by simp [hc])

theorem execHandoverRecordRead_keeps (accept : Bool) : s.Keeps (execHandoverRecordRead accept s) :=
  run_keeps (by simp [hc])

theorem execActivationQuiesceTimeout_keeps : s.Keeps (execActivationQuiesceTimeout s) :=
  run_keeps (by simp [hc])

theorem execSupervisorUpdate_keeps : s.Keeps (execSupervisorUpdate s) := by
  refine run_keeps ?_
  dsimp only
  (repeat' split) <;> simp [hc]

theorem execSupervisorSyncTimeout_keeps (i : Fin 2) : s.Keeps (execSupervisorSyncTimeout i s) :=
  run_keeps (by simp [hc])

/-! ### Registers -/

theorem execCommitApply_keeps (blk : BlockId) : s.Keeps (execCommitApply blk s) := run_keeps (by simp [hc])

theorem execRegisterWrite_keeps (r : Requester) (off size : Nat) (data : Word) (poisoned : Bool) :
    s.Keeps (execRegisterWrite r off size data poisoned s) := run_keeps (by simp +contextual [hc])

theorem execRegisterReadLowHalf_keeps (r : Requester) (off size : Nat) :
    s.Keeps (execRegisterReadLowHalf r off size s) := run_keeps (by simp +contextual [hc])

theorem execCommitGo_keeps (r : Requester) (blk : BlockId) : s.Keeps (execCommitGo r blk s) :=
  run_keeps (regWrite_wf hc ..)

theorem execCommitGoLock_keeps (r : Requester) (blk : BlockId) : s.Keeps (execCommitGoLock r blk s) :=
  run_keeps (regWrite_wf hc ..)

theorem execCommitDiscard_keeps (r : Requester) (blk : BlockId) : s.Keeps (execCommitDiscard r blk s) :=
  run_keeps (regWrite_wf hc ..)

theorem execCounterWriteClear_keeps (r : Requester) (off : Nat) :
    s.Keeps (execCounterWriteClear r off s) := by
  refine run_keeps ?_
  split <;> simp [hc]

theorem execHifCmdqEnable_keeps (fn : FnId) (ctl : Word) : s.Keeps (execHifCmdqEnable fn ctl s) :=
  run_keeps (regWrite_wf hc ..)

theorem execPwrCapWrite_keeps (r : Requester) (short : Bool) (watts : BitVec 12) :
    s.Keeps (execPwrCapWrite r short watts s) := run_keeps (regWrite_wf hc ..)

theorem execPwrLatTolWrite_keeps (r : Requester) (tol : BitVec 32) : s.Keeps (execPwrLatTolWrite r tol s) :=
  run_keeps (regWrite_wf hc ..)

theorem execSupSwap_keeps (r : Requester) (i : Fin 2) : s.Keeps (execSupSwap r i s) :=
  run_keeps (regWrite_wf hc ..)

theorem execSupRestart_keeps (r : Requester) (i : Fin 2) : s.Keeps (execSupRestart r i s) :=
  run_keeps (regWrite_wf hc ..)

theorem execBruFieldClear_keeps (r : Requester) (index : BitVec 8) : s.Keeps (execBruFieldClear r index s) :=
  run_keeps (regWrite_wf hc ..)

theorem execFwuRaiseFloor_keeps (r : Requester) : s.Keeps (execFwuRaiseFloor r s) :=
  run_keeps (regWrite_wf hc ..)

theorem execFwuActivate_keeps (r : Requester) (slot : Fin 2) (mode : BitVec 2) :
    s.Keeps (execFwuActivate r slot mode s) := run_keeps (regWrite_wf hc ..)

theorem execGlzSlotRelease_keeps (r : Requester) (slot : SlotId) : s.Keeps (execGlzSlotRelease r slot s) :=
  run_keeps (by simp [hc])

theorem execFtcSet_keeps (r : Requester) (value : Word) : s.Keeps (execFtcSet r value s) :=
  run_keeps (regWrite_wf hc ..)

theorem execFtcSnapArm_keeps (r : Requester) (value : Word) : s.Keeps (execFtcSnapArm r value s) :=
  run_keeps (regWrite_wf hc ..)

theorem execErrRetrainFull_keeps (r : Requester) (port : PortId) : s.Keeps (execErrRetrainFull r port s) :=
  run_keeps (regWrite_wf hc ..)

theorem execErrSaveEq_keeps (r : Requester) (port : PortId) : s.Keeps (execErrSaveEq r port s) :=
  run_keeps (regWrite_wf hc ..)

theorem execErrAcceptMiswire_keeps (r : Requester) (port : PortId) :
    s.Keeps (execErrAcceptMiswire r port s) := run_keeps (regWrite_wf hc ..)

/-! ### Scalar instructions -/

theorem execAdd_keeps (e : EaselId) (f : FmtAI) : s.Keeps (execAdd e f s) := run_keeps (scalarAI_wf hc ..)
theorem execSub_keeps (e : EaselId) (f : FmtAI) : s.Keeps (execSub e f s) := run_keeps (scalarAI_wf hc ..)
theorem execAnd_keeps (e : EaselId) (f : FmtAI) : s.Keeps (execAnd e f s) := run_keeps (scalarAI_wf hc ..)
theorem execOr_keeps (e : EaselId) (f : FmtAI) : s.Keeps (execOr e f s) := run_keeps (scalarAI_wf hc ..)
theorem execXor_keeps (e : EaselId) (f : FmtAI) : s.Keeps (execXor e f s) := run_keeps (scalarAI_wf hc ..)
theorem execAndn_keeps (e : EaselId) (f : FmtAI) : s.Keeps (execAndn e f s) := run_keeps (scalarAI_wf hc ..)
theorem execShl_keeps (e : EaselId) (f : FmtAI) : s.Keeps (execShl e f s) := run_keeps (scalarAI_wf hc ..)
theorem execShr_keeps (e : EaselId) (f : FmtAI) : s.Keeps (execShr e f s) := run_keeps (scalarAI_wf hc ..)
theorem execSar_keeps (e : EaselId) (f : FmtAI) : s.Keeps (execSar e f s) := run_keeps (scalarAI_wf hc ..)
theorem execRor_keeps (e : EaselId) (f : FmtAI) : s.Keeps (execRor e f s) := run_keeps (scalarAI_wf hc ..)
theorem execMin_keeps (e : EaselId) (f : FmtAI) : s.Keeps (execMin e f s) := run_keeps (scalarAI_wf hc ..)
theorem execMax_keeps (e : EaselId) (f : FmtAI) : s.Keeps (execMax e f s) := run_keeps (scalarAI_wf hc ..)
theorem execMinu_keeps (e : EaselId) (f : FmtAI) : s.Keeps (execMinu e f s) := run_keeps (scalarAI_wf hc ..)
theorem execMaxu_keeps (e : EaselId) (f : FmtAI) : s.Keeps (execMaxu e f s) := run_keeps (scalarAI_wf hc ..)
theorem execClz_keeps (e : EaselId) (f : FmtA) : s.Keeps (execClz e f s) := run_keeps (scalarA1_wf hc ..)
theorem execCtz_keeps (e : EaselId) (f : FmtA) : s.Keeps (execCtz e f s) := run_keeps (scalarA1_wf hc ..)
theorem execPopc_keeps (e : EaselId) (f : FmtA) : s.Keeps (execPopc e f s) := run_keeps (scalarA1_wf hc ..)
theorem execSel_keeps (e : EaselId) (f : FmtA) : s.Keeps (execSel e f s) := run_keeps (by simp [hc])
theorem execMul_keeps (e : EaselId) (f : FmtA) : s.Keeps (execMul e f s) := run_keeps (scalarM_wf hc ..)
theorem execMulh_keeps (e : EaselId) (f : FmtA) : s.Keeps (execMulh e f s) := run_keeps (scalarM_wf hc ..)
theorem execMulhu_keeps (e : EaselId) (f : FmtA) : s.Keeps (execMulhu e f s) := run_keeps (scalarM_wf hc ..)
theorem execMadd_keeps (e : EaselId) (f : FmtA) : s.Keeps (execMadd e f s) := run_keeps (by simp [hc])
theorem execDiv_keeps (e : EaselId) (f : FmtA) : s.Keeps (execDiv e f s) := run_keeps (scalarM_wf hc ..)
theorem execDivu_keeps (e : EaselId) (f : FmtA) : s.Keeps (execDivu e f s) := run_keeps (scalarM_wf hc ..)
theorem execRem_keeps (e : EaselId) (f : FmtA) : s.Keeps (execRem e f s) := run_keeps (scalarM_wf hc ..)
theorem execRemu_keeps (e : EaselId) (f : FmtA) : s.Keeps (execRemu e f s) := run_keeps (scalarM_wf hc ..)
theorem execMovi_keeps (e : EaselId) (f : FmtI) : s.Keeps (execMovi e f s) := run_keeps (by simp [hc])
theorem execMovhi_keeps (e : EaselId) (f : FmtI) : s.Keeps (execMovhi e f s) := run_keeps (by simp [hc])
theorem execEq_keeps (e : EaselId) (f : FmtAI) : s.Keeps (execEq e f s) := run_keeps (compareAI_wf hc ..)
theorem execNe_keeps (e : EaselId) (f : FmtAI) : s.Keeps (execNe e f s) := run_keeps (compareAI_wf hc ..)
theorem execLt_keeps (e : EaselId) (f : FmtAI) : s.Keeps (execLt e f s) := run_keeps (compareAI_wf hc ..)
theorem execGe_keeps (e : EaselId) (f : FmtAI) : s.Keeps (execGe e f s) := run_keeps (compareAI_wf hc ..)
theorem execLtu_keeps (e : EaselId) (f : FmtAI) : s.Keeps (execLtu e f s) := run_keeps (compareAI_wf hc ..)
theorem execGeu_keeps (e : EaselId) (f : FmtAI) : s.Keeps (execGeu e f s) := run_keeps (compareAI_wf hc ..)
theorem execTest_keeps (e : EaselId) (f : FmtAI) : s.Keeps (execTest e f s) := run_keeps (compareAI_wf hc ..)
theorem execPand_keeps (e : EaselId) (f : FmtA) : s.Keeps (execPand e f s) := run_keeps (predLogic_wf hc ..)
theorem execPor_keeps (e : EaselId) (f : FmtA) : s.Keeps (execPor e f s) := run_keeps (predLogic_wf hc ..)
theorem execPxor_keeps (e : EaselId) (f : FmtA) : s.Keeps (execPxor e f s) := run_keeps (predLogic_wf hc ..)
theorem execPandn_keeps (e : EaselId) (f : FmtA) : s.Keeps (execPandn e f s) := run_keeps (predLogic_wf hc ..)
theorem execPnot_keeps (e : EaselId) (f : FmtA) : s.Keeps (execPnot e f s) := run_keeps (by simp [hc])
theorem execPget_keeps (e : EaselId) (f : FmtA) : s.Keeps (execPget e f s) := run_keeps (by simp [hc])
theorem execPset_keeps (e : EaselId) (f : FmtA) : s.Keeps (execPset e f s) := run_keeps (by simp [hc])

/-! ### The tray -/

theorem execI3cWrite_keeps (off : BitVec 16) (data : Word) : s.Keeps (execI3cWrite off data s) :=
  run_keeps (by simp [hc])

theorem execI3cRead_keeps (off : BitVec 16) : s.Keeps (execI3cRead off s) := run_keeps (by simp [hc])
theorem execI3cLostTransaction_keeps : s.Keeps (execI3cLostTransaction s) := run_keeps (by simp [hc])

theorem execSetdasa_keeps (static dynamic : BitVec 7) : s.Keeps (execSetdasa static dynamic s) :=
  run_keeps (by simp [hc])

theorem execEntdaa_keeps (dynamic : BitVec 7) : s.Keeps (execEntdaa dynamic s) := run_keeps (by simp [hc])
theorem execTelemetryRecord_keeps : s.Keeps (execTelemetryRecord s) := run_keeps (by simp [hc])
theorem execPowerOnHour_keeps : s.Keeps (execPowerOnHour s) := run_keeps (by simp [hc])

theorem execNeighbourDiscovery_keeps (msg : Bytes) : s.Keeps (execNeighbourDiscovery msg s) :=
  run_keeps (by simp [hc])

theorem execIcmpv6Echo_keeps (msg : Bytes) : s.Keeps (execIcmpv6Echo msg s) := run_keeps (by simp [hc])

/-! ### Vector and copy instructions -/

theorem execVadd_keeps (e : EaselId) (f : FmtE) : s.Keeps (execVadd e f s) := run_keeps (vuIssue_wf hc ..)
theorem execVsub_keeps (e : EaselId) (f : FmtE) : s.Keeps (execVsub e f s) := run_keeps (vuIssue_wf hc ..)
theorem execVmul_keeps (e : EaselId) (f : FmtE) : s.Keeps (execVmul e f s) := run_keeps (vuIssue_wf hc ..)
theorem execVfma_keeps (e : EaselId) (f : FmtE) : s.Keeps (execVfma e f s) := run_keeps (vuIssue_wf hc ..)
theorem execVdiv_keeps (e : EaselId) (f : FmtE) : s.Keeps (execVdiv e f s) := run_keeps (vuIssue_wf hc ..)
theorem execVmin_keeps (e : EaselId) (f : FmtE) : s.Keeps (execVmin e f s) := run_keeps (vuIssue_wf hc ..)
theorem execVmax_keeps (e : EaselId) (f : FmtE) : s.Keeps (execVmax e f s) := run_keeps (vuIssue_wf hc ..)
theorem execVsqrt_keeps (e : EaselId) (f : FmtE) : s.Keeps (execVsqrt e f s) := run_keeps (vuIssue_wf hc ..)
theorem execVcvt_keeps (e : EaselId) (f : FmtE) : s.Keeps (execVcvt e f s) := run_keeps (vuIssue_wf hc ..)
theorem execVrsum_keeps (e : EaselId) (f : FmtE) : s.Keeps (execVrsum e f s) := run_keeps (vuIssue_wf hc ..)
theorem execVrmax_keeps (e : EaselId) (f : FmtE) : s.Keeps (execVrmax e f s) := run_keeps (vuIssue_wf hc ..)
theorem execVrmin_keeps (e : EaselId) (f : FmtE) : s.Keeps (execVrmin e f s) := run_keeps (vuIssue_wf hc ..)
theorem execVcmplt_keeps (e : EaselId) (f : FmtE) : s.Keeps (execVcmplt e f s) := run_keeps (vuIssue_wf hc ..)
theorem execVcmpeq_keeps (e : EaselId) (f : FmtE) : s.Keeps (execVcmpeq e f s) := run_keeps (vuIssue_wf hc ..)
theorem execVexp_keeps (e : EaselId) (f : FmtE) : s.Keeps (execVexp e f s) := run_keeps (vuIssue_wf hc ..)
theorem execVexp2_keeps (e : EaselId) (f : FmtE) : s.Keeps (execVexp2 e f s) := run_keeps (vuIssue_wf hc ..)
theorem execVlog2_keeps (e : EaselId) (f : FmtE) : s.Keeps (execVlog2 e f s) := run_keeps (vuIssue_wf hc ..)
theorem execVln_keeps (e : EaselId) (f : FmtE) : s.Keeps (execVln e f s) := run_keeps (vuIssue_wf hc ..)
theorem execVrcp_keeps (e : EaselId) (f : FmtE) : s.Keeps (execVrcp e f s) := run_keeps (vuIssue_wf hc ..)
theorem execVrsqrt_keeps (e : EaselId) (f : FmtE) : s.Keeps (execVrsqrt e f s) := run_keeps (vuIssue_wf hc ..)
theorem execVtanh_keeps (e : EaselId) (f : FmtE) : s.Keeps (execVtanh e f s) := run_keeps (vuIssue_wf hc ..)
theorem execVsigm_keeps (e : EaselId) (f : FmtE) : s.Keeps (execVsigm e f s) := run_keeps (vuIssue_wf hc ..)
theorem execVsilu_keeps (e : EaselId) (f : FmtE) : s.Keeps (execVsilu e f s) := run_keeps (vuIssue_wf hc ..)
theorem execVgelu_keeps (e : EaselId) (f : FmtE) : s.Keeps (execVgelu e f s) := run_keeps (vuIssue_wf hc ..)
theorem execVsin_keeps (e : EaselId) (f : FmtE) : s.Keeps (execVsin e f s) := run_keeps (vuIssue_wf hc ..)
theorem execVcos_keeps (e : EaselId) (f : FmtE) : s.Keeps (execVcos e f s) := run_keeps (vuIssue_wf hc ..)
theorem execCopy_keeps (e : EaselId) (f : FmtE) : s.Keeps (execCopy e f s) := run_keeps (engIssue_wf hc ..)

theorem execGather_keeps (e : EaselId) (f : FmtE) : s.Keeps (execGather e f s) :=
  run_keeps (engIssue_wf hc ..)

theorem execScatter_keeps (e : EaselId) (f : FmtE) : s.Keeps (execScatter e f s) :=
  run_keeps (engIssue_wf hc ..)

end

/-- Every command answers a next state, keeps the queue behind it and keeps the memories canonical. -/
theorem exec_keeps {s : State} (hc : s.hw.mem.wf) : ∀ i : Instr, s.Keeps (exec i s)
  | .add e f => execAdd_keeps hc e f
  | .sub e f => execSub_keeps hc e f
  | .and e f => execAnd_keeps hc e f
  | .or e f => execOr_keeps hc e f
  | .xor e f => execXor_keeps hc e f
  | .andn e f => execAndn_keeps hc e f
  | .shl e f => execShl_keeps hc e f
  | .shr e f => execShr_keeps hc e f
  | .sar e f => execSar_keeps hc e f
  | .ror e f => execRor_keeps hc e f
  | .min e f => execMin_keeps hc e f
  | .max e f => execMax_keeps hc e f
  | .minu e f => execMinu_keeps hc e f
  | .maxu e f => execMaxu_keeps hc e f
  | .clz e f => execClz_keeps hc e f
  | .ctz e f => execCtz_keeps hc e f
  | .popc e f => execPopc_keeps hc e f
  | .sel e f => execSel_keeps hc e f
  | .mul e f => execMul_keeps hc e f
  | .mulh e f => execMulh_keeps hc e f
  | .mulhu e f => execMulhu_keeps hc e f
  | .madd e f => execMadd_keeps hc e f
  | .div e f => execDiv_keeps hc e f
  | .divu e f => execDivu_keeps hc e f
  | .rem e f => execRem_keeps hc e f
  | .remu e f => execRemu_keeps hc e f
  | .movi e f => execMovi_keeps hc e f
  | .movhi e f => execMovhi_keeps hc e f
  | .eq e f => execEq_keeps hc e f
  | .ne e f => execNe_keeps hc e f
  | .lt e f => execLt_keeps hc e f
  | .ge e f => execGe_keeps hc e f
  | .ltu e f => execLtu_keeps hc e f
  | .geu e f => execGeu_keeps hc e f
  | .test e f => execTest_keeps hc e f
  | .pand e f => execPand_keeps hc e f
  | .por e f => execPor_keeps hc e f
  | .pxor e f => execPxor_keeps hc e f
  | .pandn e f => execPandn_keeps hc e f
  | .pnot e f => execPnot_keeps hc e f
  | .pget e f => execPget_keeps hc e f
  | .pset e f => execPset_keeps hc e f
  | .b e f => execB_keeps hc e f
  | .bz e f => execBz_keeps hc e f
  | .bnz e f => execBnz_keeps hc e f
  | .beq e f => execBeq_keeps hc e f
  | .bne e f => execBne_keeps hc e f
  | .blt e f => execBlt_keeps hc e f
  | .bge e f => execBge_keeps hc e f
  | .bltu e f => execBltu_keeps hc e f
  | .bgeu e f => execBgeu_keeps hc e f
  | .call e f => execCall_keeps hc e f
  | .jalr e f => execJalr_keeps hc e f
  | .ldb e f => execLdb_keeps hc e f
  | .ldbu e f => execLdbu_keeps hc e f
  | .ldh e f => execLdh_keeps hc e f
  | .ldhu e f => execLdhu_keeps hc e f
  | .ldw e f => execLdw_keeps hc e f
  | .ldwu e f => execLdwu_keeps hc e f
  | .ldd e f => execLdd_keeps hc e f
  | .stb e f => execStb_keeps hc e f
  | .sth e f => execSth_keeps hc e f
  | .stw e f => execStw_keeps hc e f
  | .std e f => execStd_keeps hc e f
  | .storeDeferredFault e entry cls => execStoreDeferredFault_keeps hc e entry cls
  | .csrr e f => execCsrr_keeps hc e f
  | .csrw e f => execCsrw_keeps hc e f
  | .csrs e f => execCsrs_keeps hc e f
  | .csrc e f => execCsrc_keeps hc e f
  | .tdw e f => execTdw_keeps hc e f
  | .tdr e f => execTdr_keeps hc e f
  | .tdmov e f => execTdmov_keeps hc e f
  | .tdadd e f => execTdadd_keeps hc e f
  | .tdclr e f => execTdclr_keeps hc e f
  | .nop e f => execNop_keeps hc e f
  | .exit e f => execExit_keeps hc e f
  | .svc e f => execSvc_keeps hc e f
  | .trap e f => execTrap_keeps hc e f
  | .ifence e f => execIfence_keeps hc e f
  | .srvsave e f => execSrvsave_keeps hc e f
  | .srvload e f => execSrvload_keeps hc e f
  | .srvsetctx e f => execSrvsetctx_keeps hc e f
  | .srvret e f => execSrvret_keeps hc e f
  | .srvstop e f => execSrvstop_keeps hc e f
  | .serviceModeCommand e entry => execServiceModeCommand_keeps hc e entry
  | .mma e f => execMma_keeps hc e f
  | .accload e f => execAccload_keeps hc e f
  | .accstore e f => execAccstore_keeps hc e f
  | .convert e f => execConvert_keeps hc e f
  | .anchor e f => execAnchor_keeps hc e f
  | .vadd e f => execVadd_keeps hc e f
  | .vsub e f => execVsub_keeps hc e f
  | .vmul e f => execVmul_keeps hc e f
  | .vfma e f => execVfma_keeps hc e f
  | .vdiv e f => execVdiv_keeps hc e f
  | .vmin e f => execVmin_keeps hc e f
  | .vmax e f => execVmax_keeps hc e f
  | .vsqrt e f => execVsqrt_keeps hc e f
  | .vcvt e f => execVcvt_keeps hc e f
  | .vrsum e f => execVrsum_keeps hc e f
  | .vrmax e f => execVrmax_keeps hc e f
  | .vrmin e f => execVrmin_keeps hc e f
  | .vcmplt e f => execVcmplt_keeps hc e f
  | .vcmpeq e f => execVcmpeq_keeps hc e f
  | .vexp e f => execVexp_keeps hc e f
  | .vexp2 e f => execVexp2_keeps hc e f
  | .vlog2 e f => execVlog2_keeps hc e f
  | .vln e f => execVln_keeps hc e f
  | .vrcp e f => execVrcp_keeps hc e f
  | .vrsqrt e f => execVrsqrt_keeps hc e f
  | .vtanh e f => execVtanh_keeps hc e f
  | .vsigm e f => execVsigm_keeps hc e f
  | .vsilu e f => execVsilu_keeps hc e f
  | .vgelu e f => execVgelu_keeps hc e f
  | .vsin e f => execVsin_keeps hc e f
  | .vcos e f => execVcos_keeps hc e f
  | .copy e f => execCopy_keeps hc e f
  | .gather e f => execGather_keeps hc e f
  | .scatter e f => execScatter_keeps hc e f
  | .engineStart e q => execEngineStart_keeps hc e q
  | .meIdleTimeout e => execMeIdleTimeout_keeps hc e
  | .engineInstructionComplete e q serial errors => execEngineInstructionComplete_keeps hc e q serial errors
  | .engineFault e q serial cls addr done => execEngineFault_keeps hc e q serial cls addr done
  | .signal e f => execSignal_keeps hc e f
  | .wait e f => execWait_keeps hc e f
  | .syncrd e f => execSyncrd_keeps hc e f
  | .syncset e f => execSyncset_keeps hc e f
  | .syncWaitTimeout e => execSyncWaitTimeout_keeps hc e
  | .barrierReleaseTime obj => execBarrierReleaseTime_keeps hc obj
  | .remoteTransactionTimeout tag => execRemoteTransactionTimeout_keeps hc tag
  | .swap e scope f => execSwap_keeps hc e scope f
  | .cas e scope f => execCas_keeps hc e scope f
  | .aadd e scope f => execAadd_keeps hc e scope f
  | .aand e scope f => execAand_keeps hc e scope f
  | .aor e scope f => execAor_keeps hc e scope f
  | .axor e scope f => execAxor_keeps hc e scope f
  | .amin e scope f => execAmin_keeps hc e scope f
  | .amax e scope f => execAmax_keeps hc e scope f
  | .aminu e scope f => execAminu_keeps hc e scope f
  | .amaxu e scope f => execAmaxu_keeps hc e scope f
  | .anadd64 e scope f => execAnadd64_keeps hc e scope f
  | .anadd128 e scope f => execAnadd128_keeps hc e scope f
  | .release e f => execRelease_keeps hc e f
  | .releaseAction e q serial => execReleaseAction_keeps hc e q serial
  | .acquire e f => execAcquire_keeps hc e f
  | .fence e f => execFence_keeps hc e f
  | .sketch e f => execSketch_keeps hc e f
  | .sketchr e f => execSketchr_keeps hc e f
  | .varnish e f => execVarnish_keeps hc e f
  | .varnishPoint e => execVarnishPoint_keeps hc e
  | .scrape e f => execScrape_keeps hc e f
  | .scrapePoint e => execScrapePoint_keeps hc e
  | .skocc e f => execSkocc_keeps hc e f
  | .sketchFold p slotBad => execSketchFold_keeps hc p slotBad
  | .sketchSlotZero p => execSketchSlotZero_keeps hc p
  | .coll e f => execColl_keeps hc e f
  | .collAccept e slot => execCollAccept_keeps hc e slot
  | .collReadyReceive i => execCollReadyReceive_keeps hc i
  | .collGrantReceive i => execCollGrantReceive_keeps hc i
  | .collReadyResend slot => execCollReadyResend_keeps hc slot
  | .collCountsReceive i => execCollCountsReceive_keeps hc i
  | .collDataReceive i => execCollDataReceive_keeps hc i
  | .collComplete slot => execCollComplete_keeps hc slot
  | .collTimeout slot => execCollTimeout_keeps hc slot
  | .glzbind e f => execGlzbind_keeps hc e f
  | .glzstat e f => execGlzstat_keeps hc e f
  | .glzstop e f => execGlzstop_keeps hc e f
  | .glazeBind slot => execGlazeBind_keeps hc slot
  | .glazeBlockVerify slot pathError => execGlazeBlockVerify_keeps hc slot pathError
  | .glazeGateTake slot => execGlazeGateTake_keeps hc slot
  | .glazeEntryComplete slot => execGlazeEntryComplete_keeps hc slot
  | .glzSlotRelease r slot => execGlzSlotRelease_keeps hc r slot
  | .packetRoute i => execPacketRoute_keeps hc i
  | .mcastForward i => execMcastForward_keeps hc i
  | .circuitForward i => execCircuitForward_keeps hc i
  | .remoteWriteReceive i => execRemoteWriteReceive_keeps hc i
  | .remoteWriteFinalReceive i => execRemoteWriteFinalReceive_keeps hc i
  | .finalStreamAbandon i => execFinalStreamAbandon_keeps hc i
  | .remoteReadRequestReceive i => execRemoteReadRequestReceive_keeps hc i
  | .readResponseReceive i => execReadResponseReceive_keeps hc i
  | .atomicRequestReceive i => execAtomicRequestReceive_keeps hc i
  | .writeResponseReceive i => execWriteResponseReceive_keeps hc i
  | .syncOperationReceive i => execSyncOperationReceive_keeps hc i
  | .syncResponseReceive i => execSyncResponseReceive_keeps hc i
  | .circuitDownNotice i => execCircuitDownNotice_keeps hc i
  | .flitReceive port flit fecTouched fec => execFlitReceive_keeps hc port flit fecTouched fec
  | .flitTransmit port => execFlitTransmit_keeps hc port
  | .timingFlitReceive port stamp => execTimingFlitReceive_keeps hc port stamp
  | .ftcExchangePeriod => execFtcExchangePeriod_keeps hc
  | .ftcHoldoverSwitch => execFtcHoldoverSwitch_keeps hc
  | .ftcMasterSyncTimeout => execFtcMasterSyncTimeout_keeps hc
  | .ftcSet r value => execFtcSet_keeps hc r value
  | .ftcSnapArm r value => execFtcSnapArm_keeps hc r value
  | .ftcSnapshot => execFtcSnapshot_keeps hc
  | .portTrainingComplete port result => execPortTrainingComplete_keeps hc port result
  | .portTrainingTimeout port => execPortTrainingTimeout_keeps hc port
  | .portAutoUpRetry port => execPortAutoUpRetry_keeps hc port
  | .degradeWindowEnd port => execDegradeWindowEnd_keeps hc port
  | .laneDegrade port => execLaneDegrade_keeps hc port
  | .laneLossOfLock port lane => execLaneLossOfLock_keeps hc port lane
  | .retrainComplete port good => execRetrainComplete_keeps hc port good
  | .retrainTimeout port => execRetrainTimeout_keeps hc port
  | .linkDown port => execLinkDown_keeps hc port
  | .errRetrainFull r port => execErrRetrainFull_keeps hc r port
  | .errSaveEq r port => execErrSaveEq_keeps hc r port
  | .errAcceptMiswire r port => execErrAcceptMiswire_keeps hc r port
  | .stallWatchdogExpire port vc => execStallWatchdogExpire_keeps hc port vc
  | .cmapSample => execCmapSample_keeps hc
  | .cmapWindowEnd => execCmapWindowEnd_keeps hc
  | .commitGo r blk => execCommitGo_keeps hc r blk
  | .commitGoLock r blk => execCommitGoLock_keeps hc r blk
  | .commitDiscard r blk => execCommitDiscard_keeps hc r blk
  | .commitApply blk => execCommitApply_keeps hc blk
  | .registerWrite r off size data poisoned => execRegisterWrite_keeps hc r off size data poisoned
  | .registerReadLowHalf r off size => execRegisterReadLowHalf_keeps hc r off size
  | .counterWriteClear r off => execCounterWriteClear_keeps hc r off
  | .patrolScrubRead m errors => execPatrolScrubRead_keeps hc m errors
  | .canvasTempSample sensor reading => execCanvasTempSample_keeps hc sensor reading
  | .canvasRefreshRestore die => execCanvasRefreshRestore_keeps hc die
  | .lpddr6Recentre _ch => execLpddr6Recentre_keeps hc _ch
  | .lpddr6ChannelRetrain ch phase => execLpddr6ChannelRetrain_keeps hc ch phase
  | .lpddr6RetrainTimeout ch => execLpddr6RetrainTimeout_keeps hc ch
  | .lpddr6TempRead pkg reading => execLpddr6TempRead_keeps hc pkg reading
  | .cmdNop fn => execCmdNop_keeps hc fn
  | .cmdSyncSignal fn => execCmdSyncSignal_keeps hc fn
  | .cmdFence fn => execCmdFence_keeps hc fn
  | .commandFetch fn => execCommandFetch_keeps hc fn
  | .hifDbCmdqTail fn a => execHifDbCmdqTail_keeps hc fn a
  | .hifDbCplqHead fn a => execHifDbCplqHead_keeps hc fn a
  | .hifDbEvrHead fn a => execHifDbEvrHead_keeps hc fn a
  | .hifCmdqEnable fn ctl => execHifCmdqEnable_keeps hc fn ctl
  | .bar2Read fn off len => execBar2Read_keeps hc fn off len
  | .bar2Write fn off data poisoned => execBar2Write_keeps hc fn off data poisoned
  | .functionLevelReset fn => execFunctionLevelReset_keeps hc fn
  | .perstAssert => execPerstAssert_keeps hc
  | .perstDeassert => execPerstDeassert_keeps hc
  | .pcieLinkStateChange link => execPcieLinkStateChange_keeps hc link
  | .eventRaise src payload => execEventRaise_keeps hc src payload
  | .pinFilterAccept pin asserted => execPinFilterAccept_keeps hc pin asserted
  | .eventArbitrate => execEventArbitrate_keeps hc
  | .eventRecordDeliver => execEventRecordDeliver_keeps hc
  | .ctxCreate fn => execCtxCreate_keeps hc fn
  | .ctxAlloc fn => execCtxAlloc_keeps hc fn
  | .ctxRelease fn => execCtxRelease_keeps hc fn
  | .ctxStart fn => execCtxStart_keeps hc fn
  | .ctxStop fn => execCtxStop_keeps hc fn
  | .ctxResume fn => execCtxResume_keeps hc fn
  | .ctxDestroy fn => execCtxDestroy_keeps hc fn
  | .ctxSched fn => execCtxSched_keeps hc fn
  | .ctxAssign fn => execCtxAssign_keeps hc fn
  | .ctxPerfRead fn => execCtxPerfRead_keeps hc fn
  | .ctxQuery fn => execCtxQuery_keeps hc fn
  | .wkeyGenkem fn => execWkeyGenkem_keeps hc fn
  | .wkeyInstall fn => execWkeyInstall_keeps hc fn
  | .wkeyClear fn => execWkeyClear_keeps hc fn
  | .jobkeyInstall fn => execJobkeyInstall_keeps hc fn
  | .jobkeySend fn => execJobkeySend_keeps hc fn
  | .jobkeyRetire fn => execJobkeyRetire_keeps hc fn
  | .capList fn => execCapList_keeps hc fn
  | .capRead fn => execCapRead_keeps hc fn
  | .capRelease fn => execCapRelease_keeps hc fn
  | .ctxRecover fn => execCtxRecover_keeps hc fn
  | .engineReset fn => execEngineReset_keeps hc fn
  | .partitionReset fn => execPartitionReset_keeps hc fn
  | .chipReset fn => execChipReset_keeps hc fn
  | .capConfig fn => execCapConfig_keeps hc fn
  | .sketchRegion e => execSketchRegion_keeps hc e
  | .syncRange e => execSyncRange_keeps hc e
  | .group e => execGroup_keeps hc e
  | .notify e => execNotify_keeps hc e
  | .yield e => execYield_keeps hc e
  | .quantumExpire p => execQuantumExpire_keeps hc p
  | .contextSwitch ps target => execContextSwitch_keeps hc ps target
  | .copyTransactionAbandon tag => execCopyTransactionAbandon_keeps hc tag
  | .contextExitComplete c => execContextExitComplete_keeps hc c
  | .gessoStepsEnd c => execGessoStepsEnd_keeps hc c
  | .zeroingPageFree page => execZeroingPageFree_keeps hc page
  | .getVersion t session => execGetVersion_keeps hc t session
  | .getCapabilities t session => execGetCapabilities_keeps hc t session
  | .negotiateAlgorithms t session offer => execNegotiateAlgorithms_keeps hc t session offer
  | .getDigests t session => execGetDigests_keeps hc t session
  | .getCertificate t session => execGetCertificate_keeps hc t session
  | .challenge t session nonce => execChallenge_keeps hc t session nonce
  | .getMeasurements t session index nonce => execGetMeasurements_keeps hc t session index nonce
  | .keyExchange t session ek => execKeyExchange_keeps hc t session ek
  | .finish t session verify => execFinish_keeps hc t session verify
  | .heartbeat t session => execHeartbeat_keeps hc t session
  | .keyUpdate t session => execKeyUpdate_keeps hc t session
  | .endSession t session => execEndSession_keeps hc t session
  | .getCtxEvidence t session c nonce => execGetCtxEvidence_keeps hc t session c nonce
  | .ideKm session req => execIdeKm_keeps hc session req
  | .tdisp session vf req => execTdisp_keeps hc session vf req
  | .powerEstimate est me => execPowerEstimate_keeps hc est me
  | .powerMeasure mv ma => execPowerMeasure_keeps hc mv ma
  | .gainRecalibrate => execGainRecalibrate_keeps hc
  | .shortLoopUpdate => execShortLoopUpdate_keeps hc
  | .sustainedLoopUpdate => execSustainedLoopUpdate_keeps hc
  | .boostTargetUpdate => execBoostTargetUpdate_keeps hc
  | .throttleIntervalEnd => execThrottleIntervalEnd_keeps hc
  | .pwrCapWrite r short watts => execPwrCapWrite_keeps hc r short watts
  | .pwrLatTolWrite r tol => execPwrLatTolWrite_keeps hc r tol
  | .idleEntry => execIdleEntry_keeps hc
  | .idleExit cause => execIdleExit_keeps hc cause
  | .pwrwarnAssert => execPwrwarnAssert_keeps hc
  | .pwrwarnRelease => execPwrwarnRelease_keeps hc
  | .undervoltageWarning mv => execUndervoltageWarning_keeps hc mv
  | .undervoltageRelease => execUndervoltageRelease_keeps hc
  | .droopCut die => execDroopCut_keeps hc die
  | .droopRelease die => execDroopRelease_keeps hc die
  | .leakTraceMeasure a b => execLeakTraceMeasure_keeps hc a b
  | .leakTraceChange trace => execLeakTraceChange_keeps hc trace
  | .thermalLoopUpdate => execThermalLoopUpdate_keeps hc
  | .sensorCheck faulty => execSensorCheck_keeps hc faulty
  | .thermalTrip cause => execThermalTrip_keeps hc cause
  | .sampleSetPublish set => execSampleSetPublish_keeps hc set
  | .digestCompare d0 d1 pass0 pass1 => execDigestCompare_keeps hc d0 d1 pass0 pass1
  | .leaseRenew i => execLeaseRenew_keeps hc i
  | .leaseExpire => execLeaseExpire_keeps hc
  | .supSwap r i => execSupSwap_keeps hc r i
  | .supRestart r i => execSupRestart_keeps hc r i
  | .supSyncComplete i => execSupSyncComplete_keeps hc i
  | .engineWatchdogExpire e q serial => execEngineWatchdogExpire_keeps hc e q serial
  | .knownAnswerRun e first second => execKnownAnswerRun_keeps hc e first second
  | .engineRecovery e trigger kat kat2 => execEngineRecovery_keeps hc e trigger kat kat2
  | .partitionRecovery p trigger failing => execPartitionRecovery_keeps hc p trigger failing
  | .chipRecovery trigger failing => execChipRecovery_keeps hc trigger failing
  | .captureBoundExpire id => execCaptureBoundExpire_keeps hc id
  | .recoveryEscalationTimeout u => execRecoveryEscalationTimeout_keeps hc u
  | .cpSilenceTimeout _core => execCpSilenceTimeout_keeps hc _core
  | .powerCycleRequest trigger => execPowerCycleRequest_keeps hc trigger
  | .powerOn pos refclk => execPowerOn_keeps hc pos refclk
  | .coldBoot env => execColdBoot_keeps hc env
  | .bootReady => execBootReady_keeps hc
  | .supplyShutdown _high => execSupplyShutdown_keeps hc _high
  | .refclkLoss => execRefclkLoss_keeps hc
  | .refclkRestore => execRefclkRestore_keeps hc
  | .bruFieldClear r index => execBruFieldClear_keeps hc r index
  | .fwuRaiseFloor r => execFwuRaiseFloor_keeps hc r
  | .raiseFloor m => execRaiseFloor_keeps hc m
  | .fwuActivate r slot mode => execFwuActivate_keeps hc r slot mode
  | .activate m slot mode => execActivate_keeps hc m slot mode
  | .updBegin m header => execUpdBegin_keeps hc m header
  | .updData m off data flashOk => execUpdData_keeps hc m off data flashOk
  | .updEnd m readBack => execUpdEnd_keeps hc m readBack
  | .updAbort m => execUpdAbort_keeps hc m
  | .query m => execQuery_keeps hc m
  | .updSessionTimeout => execUpdSessionTimeout_keeps hc
  | .handoverQuiescent => execHandoverQuiescent_keeps hc
  | .handoverRecordRead accept => execHandoverRecordRead_keeps hc accept
  | .activationQuiesceTimeout => execActivationQuiesceTimeout_keeps hc
  | .supervisorUpdate => execSupervisorUpdate_keeps hc
  | .i3cWrite off data => execI3cWrite_keeps hc off data
  | .i3cRead off => execI3cRead_keeps hc off
  | .i3cLostTransaction => execI3cLostTransaction_keeps hc
  | .setdasa static dynamic => execSetdasa_keeps hc static dynamic
  | .entdaa dynamic => execEntdaa_keeps hc dynamic
  | .telemetryRecord => execTelemetryRecord_keeps hc
  | .powerOnHour => execPowerOnHour_keeps hc
  | .pcieCompletion tag result => execPcieCompletion_keeps hc tag result
  | .configurationRequest fn req => execConfigurationRequest_keeps hc fn req
  | .engineBoundaryTimeout e => execEngineBoundaryTimeout_keeps hc e
  | .supervisorSyncTimeout i => execSupervisorSyncTimeout_keeps hc i
  | .holdoverSyncedClear => execHoldoverSyncedClear_keeps hc
  | .neighbourDiscovery msg => execNeighbourDiscovery_keeps hc msg
  | .icmpv6Echo msg => execIcmpv6Echo_keeps hc msg

/-- A step runs the command at the front of the queue, or lets a nanosecond pass where none waits. -/
theorem step_canonical {s : State} (hc : s.hw.mem.wf) :
    ∃ t, step s = .next t ∧ t.pending = s.pending.tail ∧ t.hw.mem.wf := by
  unfold step
  cases hp : s.pending with
  | nil => exact ⟨tick s, rfl, hp, Hw.tick_wf hc⟩
  | cons c rest =>
    obtain ⟨t, ht, hpend, hw⟩ := exec_keeps (s := { s with pending := rest }) hc c
    exact ⟨t, ht, hpend, hw⟩

end Sys2Proof.Machine

namespace Sys2Proof
open Sys2Proof.Machine

/-- Settles O58: every operation that the commands and the passing of time are made of keeps the tables of memory
canonical, and no command answers anything but a next state. -/
theorem everyStepAnswersAndKeepsMemoryCanonical : Obligations.EveryStepAnswersAndKeepsMemoryCanonical := by
  unfold Obligations.EveryStepAnswersAndKeepsMemoryCanonical
  exact fun s hs => step_canonical hs

end Sys2Proof
end

section
/-! Proofs about what faults, packets and captures leave alone: the board, power and heat, the recoveries, what is loaded,
the ports' states, the registers that are no counter or log, and the events that none of them raises. -/

namespace Sys2Proof.Machine

/-- Registers that faults, packets and captures may set beside those of events: the blocks of the rings, and those from
the Canvas blocks on, with the counters and logs of memories, streams, collectives and ports. -/
def OpenReg (k : Nat) : Prop := k < 0x40200 ∨ 0xE0000 ≤ k

/-- Sources that no fault, packet or capture raises: the board's and the supervisors', the power cycle's, the
channels'. -/
abbrev KeptSource (src : Nat) : Prop := src < 0x40 ∨ src = 0x47 ∨ src = 0x84

/-- The bit that shows source `src` pending (R402). -/
def Hw.pendingBit (h : Hw) (src : Nat) : Bool := bit (h.reg (0x40200 + 8 * (src / 64))) (src % 64)

/-- Raising another source leaves what a source shows. -/
theorem pendingBit_raiseEv_ne (h : Hw) {src src' : Nat} (p : Nat) (d : List Word) (hne : src ≠ src') :
    (raiseEv h src' p d).pendingBit src = h.pendingBit src := by
  unfold Hw.pendingBit
  by_cases hw : src / 64 = src' / 64
  · have hbit : src % 64 ≠ src' % 64 := by omega
    have hself : (raiseEv h src' p d).reg (0x40200 + 8 * (src' / 64)) =
        h.reg (0x40200 + 8 * (src' / 64)) ||| bitw true (src' % 64) := Hw.reg_setReg h _ _
    rw [hw, hself, bit_eq_getLsbD, bit_eq_getLsbD, BitVec.getLsbD_or, getLsbD_bitw]
    simp [hbit]
  · rw [raiseEv_reg_ne h src' p d (by omega)]

theorem payload_raiseEv_ne (h : Hw) {src src' : Nat} (p : Nat) (d : List Word) (hne : src ≠ src') :
    SMap.get 0 (raiseEv h src' p d).evc.payload src = SMap.get 0 h.evc.payload src := SMap.get_put_ne _ _ _ hne

/-- The parts of the hardware that faults, packets and captures leave, or touch in known places. -/
abbrev Hw.steadyParts (h : Hw) :=
  (h.pins, h.tray, h.thm, h.pwr, h.flt.powerCycle, h.flt.recoveries, h.ctxs.loaded, h.ports, h.regs.act, h.evc.payload)

/-- What a fault, a packet or a capture leaves as it is; of the ports the state of those that `keep` holds of. -/
structure Steady (keep : PortId → Prop) (h g : Hw) : Prop where
  pins : g.pins = h.pins
  tray : g.tray = h.tray
  thm : g.thm = h.thm
  pwr : g.pwr = h.pwr
  powerCycle : g.flt.powerCycle = h.flt.powerCycle
  recoveries : g.flt.recoveries = h.flt.recoveries
  loaded : g.ctxs.loaded = h.ctxs.loaded
  port : ∀ i, keep i → (g.port i).state = (h.port i).state
  reg : ∀ k, 0x40280 ≤ k → k < 0xE0000 → g.reg k = h.reg k
  pending : ∀ src, KeptSource src → g.pendingBit src = h.pendingBit src
  payload : ∀ src, KeptSource src → SMap.get 0 g.evc.payload src = SMap.get 0 h.evc.payload src

theorem Steady.refl (keep : PortId → Prop) (h : Hw) : Steady keep h h :=
  ⟨rfl, rfl, rfl, rfl, rfl, rfl, rfl, fun _ _ => rfl, fun _ _ _ => rfl, fun _ _ => rfl, fun _ _ => rfl⟩

theorem Steady.mono {keep keep' : PortId → Prop} {h g : Hw} (hs : Steady keep h g) (hk : ∀ i, keep' i → keep i) :
    Steady keep' h g := { hs with port := fun i hi => hs.port i (hk i hi) }

theorem Steady.trans {keep : PortId → Prop} {h g k : Hw} (hg : Steady keep h g) (hk : Steady keep g k) :
    Steady keep h k :=
  ⟨hk.pins.trans hg.pins, hk.tray.trans hg.tray, hk.thm.trans hg.thm, hk.pwr.trans hg.pwr,
    hk.powerCycle.trans hg.powerCycle,
    hk.recoveries.trans hg.recoveries, hk.loaded.trans hg.loaded, fun i hi => (hk.port i hi).trans (hg.port i hi),
    fun r h1 h2 => (hk.reg r h1 h2).trans (hg.reg r h1 h2), fun src hs => (hk.pending src hs).trans (hg.pending src hs),
    fun src hs => (hk.payload src hs).trans (hg.payload src hs)⟩

section
variable {keep : PortId → Prop} {h0 h : Hw} (hs : Steady keep h0 h)
include hs

/-- A change of other parts of the hardware. -/
theorem Steady.alike {g : Hw} (he : g.steadyParts = h.steadyParts) : Steady keep h0 g := by
  simp only [Hw.steadyParts, Prod.mk.injEq] at he
  obtain ⟨pins, tray, thm, pwr, pc, rec, loaded, ports, act, payload⟩ := he
  have hreg (k : Nat) : g.reg k = h.reg k := by rw [Hw.reg, pins, act, Hw.reg]
  refine ⟨pins.trans hs.pins, tray.trans hs.tray, thm.trans hs.thm, pwr.trans hs.pwr, pc.trans hs.powerCycle,
    rec.trans hs.recoveries, loaded.trans hs.loaded, fun i hi => ?_, fun k h1 h2 => ?_, fun src hk => ?_,
    fun src hk => ?_⟩
  · rw [← hs.port i hi, Hw.port, ports, Hw.port]
  · rw [hreg, hs.reg k h1 h2]
  · rw [← hs.pending src hk, Hw.pendingBit, hreg, Hw.pendingBit]
  · rw [payload, hs.payload src hk]

theorem Steady.setReg {k : Nat} {v : Word} (hk : OpenReg k) : Steady keep h0 (h.setReg k v) := by
  have hne {k' : Nat} (h1 : 0x40200 ≤ k') (h2 : k' < 0xE0000) : (h.setReg k v).reg k' = h.reg k' := by
    refine Hw.reg_setReg_ne h v ?_
    unfold OpenReg at hk
    omega
  refine ⟨hs.pins, hs.tray, hs.thm, hs.pwr, hs.powerCycle, hs.recoveries, hs.loaded, hs.port, fun k' h1 h2 => ?_,
    fun src hk => ?_, hs.payload⟩
  · rw [hne (by omega) h2, hs.reg k' h1 h2]
  · unfold KeptSource at hk
    rw [← hs.pending src hk, Hw.pendingBit, hne (by omega) (by omega), Hw.pendingBit]

theorem Steady.count {k n : Nat} (hk : OpenReg k) : Steady keep h0 (h.count k n) := hs.setReg hk

theorem Steady.countWrap {k n : Nat} (hk : OpenReg k) : Steady keep h0 (h.countWrap k n) := hs.setReg hk

/-- Raising another source. -/
theorem Steady.raiseEv {src p : Nat} {d : List Word} (hsrc : src < 1024) (hk : ¬ KeptSource src) :
    Steady keep h0 (raiseEv h src p d) := by
  have hne {src' : Nat} (hk' : KeptSource src') : src' ≠ src := fun he => hk (he ▸ hk')
  refine ⟨hs.pins, hs.tray, hs.thm, hs.pwr, hs.powerCycle, hs.recoveries, hs.loaded, hs.port, fun k h1 h2 => ?_,
    fun src' hk' => ?_, fun src' hk' => ?_⟩
  · rw [raiseEv_reg_ne h src p d (by omega), hs.reg k h1 h2]
  · rw [pendingBit_raiseEv_ne h p d (hne hk'), hs.pending src' hk']
  · rw [payload_raiseEv_ne h p d (hne hk'), hs.payload src' hk']

theorem Steady.raiseFor {src k p : Nat} {d : List Word} (hsrc : src < 1024) (hk : ¬ KeptSource src) :
    Steady keep h0 (raiseFor h src k p d) :=
  Steady.alike (hs.raiseEv (p := p) (d := d) hsrc hk) (by rfl)

theorem Steady.raiseCtx {src p : Nat} {c : CtxId} {d : List Word} (hsrc : src < 1024) (hk : ¬ KeptSource src) :
    Steady keep h0 (raiseCtx h src c p d) := hs.raiseFor hsrc hk

/-- Changing a port that need not keep its state, or that keeps it. -/
theorem Steady.setPort {i : PortId} {x : Port} (hx : keep i → x.state = (h.port i).state) :
    Steady keep h0 (h.setPort i x) := by
  refine ⟨hs.pins, hs.tray, hs.thm, hs.pwr, hs.powerCycle, hs.recoveries, hs.loaded, fun j hj => ?_, hs.reg, hs.pending,
    hs.payload⟩
  rw [← hs.port j hj]
  by_cases hij : j = i
  · subst hij
    rw [← hx hj]
    exact congrArg Port.state (SMap.get_put_same ..)
  · exact congrArg Port.state (SMap.get_put_ne _ _ _ (fun hv => hij (Fin.ext hv)))

/-- Changing the router, and every port in a way that leaves its state. -/
theorem Steady.mapPorts (f : Port → Port) {r : Router} (hf : ∀ p, (f p).state = p.state)
    (hi : f Port.init = Port.init) : Steady keep h0 { h with rte := r, ports := h.ports.map (fun p => (p.1, f p.2)) } := by
  refine ⟨hs.pins, hs.tray, hs.thm, hs.pwr, hs.powerCycle, hs.recoveries, hs.loaded, fun j hj => ?_, hs.reg, hs.pending,
    hs.payload⟩
  rw [← hs.port j hj, Hw.port, SMap.get_map Port.init h.ports f hi j.val, hf, Hw.port]

omit hs in
/-- The parts of a sequence are steady one by one. -/
theorem Steady.foldl {α : Type} {f : Hw → α → Hw} (hs : Steady keep h0 h)
    (hf : ∀ g a, Steady keep h0 g → Steady keep h0 (f g a)) (l : List α) : Steady keep h0 (l.foldl f h) := by
  induction l generalizing h with
  | nil => exact hs
  | cons a l ih => exact ih (hf h a hs)

omit hs in
theorem Steady.ite {p : Prop} [Decidable p] {a b : Hw} (ha : Steady keep h0 a) (hb : Steady keep h0 b) :
    Steady keep h0 (if p then a else b) := by
  split
  · exact ha
  · exact hb

/-! ### Contexts, easels, records -/

theorem Steady.modEasel {e : EaselId} {f : Easel → Easel} : Steady keep h0 (h.modEasel e f) := hs.alike rfl

theorem Steady.modCtx {c : CtxId} {f : Ctx → Ctx} : Steady keep h0 (h.modCtx c f) := hs.alike rfl

theorem Steady.modSaved {c : CtxId} {e : EaselId} {f : Saved → Saved} : Steady keep h0 (h.modSaved c e f) :=
  hs.alike rfl

theorem Steady.perfAdd {c : CtxId} {k n : Nat} : Steady keep h0 (perfAdd h c k n) := hs.alike rfl

theorem Steady.stopGlaze {c : CtxId} : Steady keep h0 (stopGlaze h c) := hs.alike rfl

theorem Steady.setCtxState {c : CtxId} {st : BitVec 3} : Steady keep h0 (setCtxState h c st) :=
  hs.modCtx.raiseCtx (by decide) (by decide)

theorem Steady.logCnv {d : Fin 2} {off : Nat} {own : Option CtxId} {cls : BitVec 8} :
    Steady keep h0 (logCnv h d off own cls) :=
  (hs.setReg (by simp [OpenReg, blkBase]; omega)).setReg (by simp [OpenReg, blkBase]; omega)

theorem Steady.logMemError {off : Nat} {cls : BitVec 8} : Steady keep h0 (logMemError h off cls) :=
  .ite (hs.setReg (by simp [OpenReg, blkBase]; omega)) hs.logCnv

theorem Steady.logAcc {e : EaselId} {cls : BitVec 8} : Steady keep h0 (logAcc h e cls) :=
  Steady.logCnv (h := h.useFree) (hs.alike (by rfl))

theorem Steady.countMemError {off n : Nat} {ue : Bool} : Steady keep h0 (countMemError h off n ue) := by
  unfold Machine.countMemError
  refine .ite (hs.count ?_) (.ite ((hs.count ?_).count ?_) (hs.count ?_)) <;> simp [OpenReg, blkBase] <;> omega

theorem Steady.touchRead {a n : Nat} : Steady keep h0 (touchRead h a n) := by
  unfold Machine.touchRead
  refine .ite hs (Steady.foldl ?_ (fun g w hg => hg.countMemError.logMemError) _)
  exact hs.alike rfl

theorem Steady.logFault {r : FaultRec} : Steady keep h0 (logFault h r) :=
  .ite hs.logAcc (.ite hs.logCnv (.ite hs.logMemError hs))

theorem Steady.stopFaulted {c : CtxId} {r : FaultRec} : Steady keep h0 (stopFaulted h c r) := by
  have h1 : Steady keep h0 ((h.modCtx c (fun x => { x with
      faults := [{ r with primary := true, number := 0, job := (h.ctx c).job }] })).modLoaded c
      (fun x => { x with stopped := true })) := hs.alike rfl
  exact h1.stopGlaze.setCtxState.raiseCtx (by decide) (by decide)

theorem Steady.openCapture {level : BitVec 3} {trigger : BitVec 8} {ctxs : Word} {easel : BitVec 8}
    {parts : BitVec 4} : Steady keep h0 (openCapture h level trigger ctxs easel parts) := hs.alike rfl

theorem Steady.recordPrimary {c : CtxId} {r : FaultRec} : Steady keep h0 (recordPrimary h c r) :=
  .ite hs.stopFaulted hs.stopFaulted.openCapture

theorem Steady.displacePrimary {c : CtxId} {r : FaultRec} : Steady keep h0 (displacePrimary h c r) :=
  Steady.raiseCtx (hs.alike (by rfl)) (by decide) (by decide)

theorem Steady.recordNoCtx {r : FaultRec} : Steady keep h0 (recordNoCtx h r) :=
  Steady.raiseEv (hs.alike (by rfl)) (by decide) (by decide)

theorem Steady.recordFault {r : FaultRec} : Steady keep h0 (recordFault h r) := by
  have hl : Steady keep h0 (Machine.logFault h r) := hs.logFault
  unfold Machine.recordFault
  dsimp only
  split
  · exact hl.recordNoCtx
  · refine .ite hl ?_
    split
    · exact hl.perfAdd.recordPrimary
    · exact .ite hl.perfAdd.displacePrimary (.ite hl.perfAdd.modCtx hl.perfAdd.modCtx)

theorem Steady.reportUe {off : Nat} {reader : Option CtxId} : Steady keep h0 (reportUe h off reader) := by
  have hl : Steady keep h0 (Machine.logMemError (Machine.countMemError h off 1 true) off (memClass off)) :=
    hs.countMemError.logMemError
  unfold Machine.reportUe
  dsimp only
  split
  · exact .ite hl hl.recordFault
  · exact (hl.raiseEv (by decide) (by decide)).recordNoCtx

theorem Steady.countNoRoute {cls : BitVec 8} : Steady keep h0 (countNoRoute h cls) :=
  .ite (hs.count (by simp [OpenReg])) hs

theorem Steady.coreFault {e : EaselId} {svc : Bool} {cls : BitVec 8} {precise : Bool} {serial pc addr inst : Word} :
    Steady keep h0 (coreFault h e svc cls precise serial pc addr inst) := hs.modEasel.recordFault

end

end Sys2Proof.Machine
end

section
/-! Proofs that what a core, a copy engine or a stream does when a request of it ends is steady: loads, stores,
synchronization and what waits for them. -/

namespace Sys2Proof.Machine

/-- The outcome of an instruction is steady. -/
def Eff.Steady (keep : PortId → Prop) (h0 : Hw) : Eff → Prop
  | .fault _ _ => True
  | .faultIn h _ _ | .done h | .jump h _ | .place h | .block h _ => Machine.Steady keep h0 h

section
variable {keep : PortId → Prop} {h0 h : Hw}

theorem Eff.Steady.ite {p : Prop} [Decidable p] {a b : Eff} (ha : a.Steady keep h0) (hb : b.Steady keep h0) :
    (if p then a else b).Steady keep h0 := by
  split
  · exact ha
  · exact hb

variable (hs : Steady keep h0 h)
include hs

/-! ### Sending -/

theorem Steady.useNonce {i : Nat} {k : JobKey} : Steady keep h0 (useNonce h i k) :=
  .ite (Steady.raiseEv (hs.alike (by rfl)) (by decide) (by decide)) (hs.alike (by rfl))

theorem Steady.sealPkt {i : Nat} {k : JobKey} {x : Hdr} {body : Bytes} : Steady keep h0 (sealPkt h i k x body).2 := by
  unfold Machine.sealPkt
  split
  · exact hs
  · exact hs.useNonce

theorem Steady.inject {p : Pkt} {req : Option (BitVec 16)} : Steady keep h0 (inject h p req) := hs.alike rfl

theorem Steady.addReq {who : ReqBy} {ctx : Option CtxId} {addr : Word} {host write north : Bool} :
    Steady keep h0 (addReq h who ctx addr host write north) := hs.alike rfl

theorem Steady.sendReq {who : ReqBy} {c : CtxId} {addr : Word} {write : Bool} {x : Hdr} {body : Bytes} :
    Steady keep h0 (sendReq h who c addr write x body) := by
  unfold Machine.sendReq
  split
  · exact hs
  · exact hs.addReq.sealPkt.inject

theorem Steady.hostRead {who : ReqBy} {ctx : Option CtxId} {addr : Word} {bus n : Nat} :
    Steady keep h0 (hostRead h who ctx addr bus n) := hs.alike rfl

theorem Steady.hostWriteCtx {c : CtxId} {bus : Nat} {b : Bytes} : Steady keep h0 (hostWriteCtx h c bus b) :=
  hs.alike rfl

/-! ### Loads, stores and atomics -/

theorem Steady.readEff {x : Easel} {a : Word} {off n : Nat} {good : Eff} (hg : good.Steady keep h0) :
    (readEff h x a off n good).Steady keep h0 := by
  unfold Machine.readEff
  split
  · exact hs.reportUe
  · split
    · exact hs.alike rfl
    · exact hg

theorem Steady.setS {e : EaselId} {rd : BitVec 5} {v : Word} : Steady keep h0 (h.setS e rd v) := hs.alike rfl

theorem Steady.loadEff {e : EaselId} {rd : BitVec 5} {a : Word} {size : Nat} {signed : Bool} :
    (loadEff e rd a size signed h).Steady keep h0 := by
  unfold Machine.loadEff
  dsimp only
  split
  · trivial
  · exact .ite trivial (.ite hs (hs.readEff hs.touchRead.setS))
  · refine .ite trivial ?_
    split
    · trivial
    · exact .ite hs hs.sendReq
  · exact .ite trivial (.ite trivial (.ite hs hs.hostRead))

theorem Steady.pushSb {e : EaselId} {b : SbEntry} : Steady keep h0 (h.pushSb e b) := hs.countNoRoute.modEasel

theorem Steady.dropLines {e : EaselId} {a : Word} {n : Nat} : Steady keep h0 (dropLines h e a n) := hs.alike rfl

theorem Steady.storeLocal {e : EaselId} {a : Word} {off size : Nat} {v inst : Word} :
    Steady keep h0 (storeLocal h e a off size v inst) := by
  unfold Machine.storeLocal
  dsimp only
  refine .ite hs.pushSb ?_
  split
  · exact hs.pushSb
  · split
    · exact Steady.alike (hs.pushSb (e := e)) (by rfl)
    · have ht : Steady keep h0 (if size < 8 then Machine.touchRead h off size else h) := .ite hs.touchRead hs
      exact (Steady.alike ht (by rfl)).dropLines

theorem Steady.storeEff {e : EaselId} {inst a v : Word} {size : Nat} : (storeEff e inst a v size h).Steady keep h0 := by
  unfold Machine.storeEff
  dsimp only
  split
  · trivial
  · exact .ite trivial (.ite hs hs.storeLocal)
  · refine .ite trivial (.ite hs ?_)
    split
    · exact hs.pushSb
    · exact .ite hs hs.sendReq.pushSb.dropLines
  · exact .ite trivial (.ite hs (.ite hs.hostWriteCtx.dropLines hs.pushSb))

theorem Steady.drainEntry {e : EaselId} {b : SbEntry} : Steady keep h0 (drainEntry h e b) := by
  unfold Machine.drainEntry
  dsimp only
  refine .ite hs (.ite hs.modEasel (.ite hs ?_))
  split
  · exact hs.modEasel
  · have h1 : Steady keep h0 (h.modEasel e (fun y => { y with sb := y.sb.erase b })) := hs.modEasel
    have ht := Steady.ite (p := b.size < 8) (h1.touchRead (a := b.addr.toNat) (n := b.size)) h1
    exact (Steady.alike ht (by rfl)).dropLines

theorem Steady.drainStores {e : EaselId} : Steady keep h0 (drainStores h e) := hs.foldl (fun _ _ hg => hg.drainEntry) _

theorem Steady.atomPerform {op off : Nat} {b c : Word} : Steady keep h0 (atomPerform h op off b c).2 :=
  Steady.alike (hs.touchRead (a := off) (n := atomSize op)) (by rfl)

theorem Steady.atomEff {e : EaselId} {op : Nat} {rd : BitVec 5} {a b c : Word} :
    (atomEff e op rd a b c h).Steady keep h0 := by
  unfold Machine.atomEff
  dsimp only
  split
  · trivial
  · exact .ite trivial (.ite trivial (.ite hs (hs.readEff hs.atomPerform.dropLines.setS)))
  · exact .ite trivial trivial
  · refine .ite trivial ?_
    split
    · trivial
    · exact .ite hs hs.dropLines.sendReq

theorem Steady.postFlag {e : EaselId} {inst a v : Word} : Steady keep h0 (postFlag h e inst a v) := by
  unfold Machine.postFlag
  dsimp only
  split
  · exact hs.pushSb
  · exact hs.storeLocal
  · split
    · exact hs.pushSb
    · exact hs.sendReq.pushSb.dropLines
  · exact .ite (Steady.dropLines (hs.alike (by rfl))) hs.pushSb

theorem Steady.srvMove {e : EaselId} {save : Bool} {a : Word} : (srvMove e save a h).Steady keep h0 := by
  unfold Machine.srvMove
  split
  · refine .ite trivial (.ite hs (.ite (hs.alike (by rfl)) ?_))
    split
    · exact hs.reportUe
    · split
      · exact hs.alike rfl
      · exact hs.touchRead.modEasel
  · trivial
  · trivial

/-! ### Synchronization -/

theorem Steady.setObj {o : ObjId} {w : Word} : Steady keep h0 (h.setObj o w) := by
  unfold Hw.setObj
  split <;> exact hs.alike rfl

theorem Steady.finishWait {e : EaselId} {svc : Bool} {f : CoreRegs → CoreRegs} :
    Steady keep h0 (finishWait h e svc f) := hs.modEasel

theorem Steady.wake {w : Waiter} : Steady keep h0 (wake h w) := .ite hs.finishWait hs.modCtx

theorem Steady.releaseWhere {p : Waiter → Bool} : Steady keep h0 (releaseWhere h p) :=
  Steady.foldl (hs.alike (by rfl)) (fun _ _ hg => hg.wake) _

theorem Steady.serve {o : ObjId} : Steady keep h0 (serve h o) := .ite hs hs.setObj.releaseWhere

theorem Steady.arrive {i : Fin 32768} : Steady keep h0 (arrive h i).2 := by
  unfold Machine.arrive
  dsimp only
  split <;> exact hs.alike rfl

theorem Steady.releaseDue {i : Fin 32768} : Steady keep h0 (releaseDue h i) := by
  unfold Machine.releaseDue
  split
  · exact hs
  · exact .ite hs (Steady.releaseWhere (hs.alike (by rfl)))

theorem Steady.overflowFault {o : ObjId} {who : FaultRec} : Steady keep h0 (overflowFault h o who) := by
  have hc : Steady keep h0 (h.count (blkBase (.syn (objDie o)) + 0x30) 1) :=
    hs.count (by simp [OpenReg, blkBase]; omega)
  unfold Machine.overflowFault
  dsimp only
  split
  · exact hc.recordFault
  · exact hc

theorem Steady.signalObj {o : ObjId} {amount : Nat} {who : FaultRec} : Steady keep h0 (signalObj h o amount who) := by
  unfold Machine.signalObj
  dsimp only
  refine .ite ?_ (.ite hs (.ite hs.setObj.overflowFault.serve hs.setObj.serve))
  split
  · exact hs.arrive.releaseDue
  · exact hs

theorem Steady.syncSet {o : ObjId} {w : Word} : Steady keep h0 (syncSet h o w) := by
  have hd : Steady keep h0 (dropReleases h (fun i => ObjId.mod i == o)) := hs.alike rfl
  exact (Steady.ite hd.releaseWhere hd).setObj.serve

theorem Steady.postSync {e : EaselId} {inst name : Word} {scope : BitVec 2} {op : Nat} {v : Word} {kind : SbKind} :
    Steady keep h0 (postSync h e inst name scope op v kind) := by
  unfold Machine.postSync
  dsimp only
  split
  · exact .ite hs.signalObj hs.syncSet
  · exact hs.pushSb
  · split
    · exact hs.pushSb
    · exact hs.sendReq.pushSb

theorem Steady.postEff {e : EaselId} {inst name v : Word} {scope : BitVec 2} {op : Nat} :
    (postEff e inst name v scope op h).Steady keep h0 := .ite hs.postSync hs

theorem Steady.syncrdEff {e : EaselId} {rd : BitVec 5} {n : Word} {scope : BitVec 2} :
    (syncrdEff e rd n scope h).Steady keep h0 := by
  unfold Machine.syncrdEff
  dsimp only
  split
  · exact hs.setS
  · trivial
  · split
    · trivial
    · exact .ite hs.sendReq hs

theorem Steady.addWaiter {w : Waiter} : Steady keep h0 (addWaiter h w) := hs.alike rfl

theorem Steady.enterWait {o : ObjId} {e : EaselId} {c : CtxId} {n : Nat} {consume : Bool} :
    Steady keep h0 (enterWait h o e c n consume) := by
  unfold Machine.enterWait
  split
  · exact .ite hs.arrive.addWaiter.releaseDue hs.addWaiter.serve
  · exact hs.addWaiter.serve

theorem Steady.waitEff {o : ObjId} {n : Nat} {consume : Bool} {left : Option Nat} :
    (waitEff o n consume left h).Steady keep h0 := .ite hs hs

theorem Steady.waitArrives {h' : Hw} {e : EaselId} {n : Nat} {consume : Bool} :
    Steady keep h0 (waitArrives h' h e n consume) := by
  unfold Machine.waitArrives
  split
  · exact hs
  · exact hs.enterWait
  · exact hs

/-! ### What waits goes on -/

theorem Steady.enqueueEff {e : EaselId} {q : Engine} {i : QEntry} : (enqueueEff e q i h).Steady keep h0 :=
  .ite hs (hs.alike (by rfl))

theorem Steady.applyEff {e : EaselId} {inst : Word} {eff : Eff} (hf : eff.Steady keep h0) :
    Steady keep h0 (applyEff h e inst eff) := by
  cases eff with
  | fault cls a => exact hs.countNoRoute.coreFault
  | faultIn g cls a => exact Steady.coreFault hf
  | done g => exact Steady.alike hf (by rfl)
  | jump g pc => exact Steady.alike hf (by rfl)
  | place g => exact hf
  | block g w => exact Steady.alike hf (by rfl)

omit hs in
theorem heldBody_steady {e : EaselId} {b : Blocked} {body : Hw → Eff} (hb : heldBody e b = some body)
    (hs : Steady keep h0 h) : (body h).Steady keep h0 := by
  unfold heldBody at hb
  split at hb <;> try cases hb
  · exact hs.loadEff
  · exact hs.atomEff
  · exact hs.storeEff
  · exact hs.postEff
  · exact hs.syncrdEff
  · exact hs.enqueueEff
  · exact hs.waitEff
  · exact hs.srvMove

theorem Steady.retry {e : EaselId} {svc : Bool} {b b' : Blocked} {body : Hw → Eff} (hb : heldBody e b' = some body) :
    Steady keep h0 (retry h e svc b body) := by
  have h1 : Steady keep h0 (h.modEasel e (fun y =>
      if svc then { y with service := true, svcBlocked := none } else { y with service := false, blocked := none })) :=
    hs.modEasel
  have h2 := (h1.applyEff (e := e) (inst := b.inst) (heldBody_steady hb h1)).modEasel (e := e)
    (f := fun y => { y with service := (h.easel e).service })
  unfold Machine.retry
  dsimp only
  split
  · exact h2.waitArrives
  · exact h2

theorem Steady.settleSvc {e : EaselId} : Steady keep h0 (settleSvc h e) := by
  unfold Machine.settleSvc
  split
  · exact hs
  · split
    · next hb => exact hs.retry hb
    · exact hs

theorem Steady.settleCtx {e : EaselId} : Steady keep h0 (settleCtx h e) := by
  unfold Machine.settleCtx
  dsimp only
  refine .ite hs ?_
  split
  · exact hs
  split
  · exact .ite hs.finishWait hs
  · refine .ite ?_ hs
    exact (Steady.ite hs.modEasel.postSync hs.modEasel.postFlag).modEasel.finishWait
  · exact .ite hs.finishWait hs
  · exact .ite hs.modEasel hs
  · exact .ite hs.modEasel hs
  · split
    · next hb => exact hs.retry hb
    · exact hs

/-- What waits on an easel goes on. -/
theorem Steady.settle {e : EaselId} : Steady keep h0 (settle h e) := hs.drainStores.settleSvc.settleCtx

/-! ### Copies -/

theorem Steady.keepLine {e : EaselId} {c : CtxId} {a : Word} {b : Bytes} : Steady keep h0 (keepLine h e c a b) :=
  .ite hs hs.modEasel

theorem Steady.touchView {v : View} {off n : Nat} : Steady keep h0 (touchView h v off n) := by
  have hf : Steady keep h0 ((viewWords h v off n).foldl (fun g w => Machine.touchRead g w 8)
      (Machine.touchRead h off n)) := hs.touchRead.foldl (fun _ _ hg => hg.touchRead) _
  exact .ite hf hf.perfAdd

theorem Steady.readSource {e : EaselId} {q : QEntry} {t : Txn} {p : Bytes × Hw} (hp : readSource h e q t = some p) :
    Steady keep h0 p.2 := by
  have hu (c : Prop) [Decidable c] : Steady keep h0 (if c then h.useFree else h) := .ite (hs.alike (by rfl)) hs
  unfold Machine.readSource at hp
  dsimp only at hp
  split at hp
  · cases hp
    exact hs
  · split at hp
    · cases hp
      exact hu _
    · split at hp
      · cases hp
        exact .ite (hu _).touchView.keepLine (hu _).touchView
      · cases hp

theorem Steady.modEntry {e : EaselId} {q : Engine} {serial : Word} {f : QEntry → QEntry} :
    Steady keep h0 (modEntry h e q serial f) := hs.modEasel

theorem Steady.markBad {e : EaselId} {i : QEntry} {idx : Nat} {c : BitVec 8} : Steady keep h0 (markBad h e i idx c) :=
  hs.countNoRoute.modEntry

theorem Steady.forwardTxn {e : EaselId} {i : QEntry} {idx : Nat} {t : Txn} {b : Bytes} :
    Steady keep h0 (forwardTxn h e i idx t b) := by
  unfold Machine.forwardTxn
  split
  · split
    · exact hs.markBad
    · exact hs.sendReq.dropLines
  · exact .ite hs.hostWriteCtx.dropLines.modEntry hs.markBad
  · exact hs

theorem Steady.startTxn {e : EaselId} {i : QEntry} {idx : Nat} {t : Txn} : Steady keep h0 (startTxn h e i idx t) := by
  unfold Machine.startTxn
  refine .ite ?_ (.ite hs ?_)
  · split
    · exact hs.markBad
    · exact hs
  · split
    · next hr =>
      have h1 := hs.readSource hr
      refine .ite ?_ (.ite h1.forwardTxn hs)
      split
      · exact .ite hs h1.modEntry
      · exact hs
    · split
      · refine .ite hs ?_
        split
        · exact hs.sendReq
        · exact hs.hostRead
        · exact hs
      · exact hs

theorem Steady.sendLacking {e : EaselId} {serial : Word} {k : Nat} : Steady keep h0 (sendLacking h e serial k) := by
  unfold Machine.sendLacking
  split
  · exact hs
  · split
    · exact hs
    · refine .ite hs ?_
      split
      · exact .ite hs hs.forwardTxn
      · exact hs.startTxn

/-- What the copy engine lacks is sent. -/
theorem Steady.pumpCe {e : EaselId} : Steady keep h0 (pumpCe h e) :=
  .ite hs (hs.foldl (fun _ _ hg => hg.foldl (fun _ _ hg' => hg'.sendLacking) _) _)

/-! ### Requests that fail -/

theorem Steady.endReads {p : SlotId → Bool} : Steady keep h0 (endReads h p) := hs.alike rfl

theorem Steady.modGslot {n : SlotId} {f : GlazeSlot → GlazeSlot} : Steady keep h0 (h.modGslot n f) := hs.alike rfl

theorem Steady.streamFault {n : SlotId} {cls : BitVec 8} {addr : Word} {block : Nat} :
    Steady keep h0 (streamFault h n cls addr block) := by
  have hk : OpenReg (glzBlk n + 0x38) := by
    simp [OpenReg, glzBlk, blkBase]
    omega
  unfold Machine.streamFault
  exact (hs.setReg hk).endReads.recordFault.stopGlaze.modGslot

theorem Steady.glazeFailed {n : SlotId} {idx : Nat} {cls : BitVec 8} : Steady keep h0 (glazeFailed h n idx cls) :=
  .ite hs.streamFault hs

theorem Steady.faultCtx {c : CtxId} {e : EaselId} {b : Blocked} {cls : BitVec 8} {addr : Word} :
    Steady keep h0 (faultCtx h c e b cls addr) := .ite hs.coreFault hs.modSaved.recordFault

theorem Steady.setCtxQueue {c : CtxId} {e : EaselId} {q : Engine} {l : List QEntry} :
    Steady keep h0 (h.setCtxQueue c e q l) := .ite hs.modEasel hs.modSaved

theorem Steady.coreFailed {e : EaselId} {r : Request} {cls : BitVec 8} : Steady keep h0 (coreFailed h e r cls) := by
  unfold Machine.coreFailed
  split
  · exact hs.coreFault
  · split
    · exact hs.faultCtx
    · exact hs

theorem Steady.releaseFailed {r : Request} {e : EaselId} {q : Engine} {serial : Word} {cls : BitVec 8} :
    Steady keep h0 (releaseFailed h r e q serial cls) := by
  unfold Machine.releaseFailed
  split
  · exact hs
  · exact hs.setCtxQueue.recordFault

theorem Steady.roomFreed {who : ReqBy} : Steady keep h0 (roomFreed h who) := by
  unfold Machine.roomFreed
  split
  · exact hs.settle.pumpCe
  · exact hs

/-- A request that fails faults its issuer, and what waited for its room goes on. -/
theorem Steady.requestFailed {r : Request} {cls : BitVec 8} : Steady keep h0 (requestFailed h r cls) := by
  have hd : Steady keep h0 (dropReq h r.tag) := hs.alike rfl
  refine Steady.roomFreed ?_
  split
  · exact hd.coreFailed
  · exact hd.modEasel
  · exact hd.setCtxQueue
  · exact hd.glazeFailed
  · exact hd.releaseFailed
  · exact hd
  · exact hd

theorem Steady.localReqFails {q : QPkt} {cls : BitVec 8} : Steady keep h0 (localReqFails h q cls) := by
  unfold Machine.localReqFails
  split
  · split
    · exact hs.requestFailed
    · exact hs
  · exact hs

end

end Sys2Proof.Machine
end

section
/-! Proofs that the packets that a port discards and the captures that are closed are steady, and what asking for a
power cycle and the thermal trip come to (R471, R504). -/

namespace Sys2Proof.Machine

theorem openReg_errOff (p : PortId) (o : Nat) : OpenReg (errOff p o) := by
  simp [OpenReg, errOff, blkBase]
  omega

theorem openReg_rteOff (o : Nat) : OpenReg (rteOff o) := by
  simp [OpenReg, rteOff, blkBase]
  omega

section
variable {keep : PortId → Prop} {h0 h : Hw} (hs : Steady keep h0 h)
include hs

/-! ### Collectives (R383) -/

theorem Steady.mixDst {x : ColSlot} : Steady keep h0 (mixDst h x) := by
  refine .ite hs (Steady.foldl (hs.alike (by rfl)) (fun g i hg => ?_) _)
  exact .ite (hg.alike (by rfl)) hg

theorem Steady.withdrawPkts {n : SlotId} : Steady keep h0 (withdrawPkts h n) :=
  hs.mapPorts (fun p => { p with txq := p.txq.filter (fun q => q.col != some n) }) (fun _ => rfl) rfl

theorem Steady.disownPkts {n : SlotId} : Steady keep h0 (disownPkts h n) :=
  let own (q : QPkt) : QPkt := if q.col = some n then { q with col := none } else q
  hs.mapPorts (fun p => { p with
    txq := p.txq.map own, txCur := p.txCur.map own
    replay := p.replay.map (fun f => { f with pkts := f.pkts.map own }) })
    (fun _ => rfl) rfl

theorem Steady.freeColl {n : SlotId} {withdrawn : Bool} : Steady keep h0 (freeColl h n withdrawn) := by
  have h1 : Steady keep h0 (Machine.disownPkts (if withdrawn then Machine.withdrawPkts h n else h) n) :=
    (Steady.ite hs.withdrawPkts hs).disownPkts
  exact h1.alike rfl

theorem Steady.colFault {n : SlotId} {cls : BitVec 8} {addr : Word} {peer : Nat} :
    Steady keep h0 (colFault h n cls addr peer) := by
  unfold Machine.colFault
  split
  · exact hs
  · exact (hs.mixDst.freeColl.setReg (by simp [OpenReg, colOff, blkBase])).recordFault

/-! ### Ports and circuits (R314, R351) -/

theorem Steady.discardAt {p : PortId} {x : Hdr} : Steady keep h0 (discardAt h p x) :=
  (hs.count (openReg_errOff p _)).setReg (openReg_errOff p _)

theorem Steady.giveBack {q : QPkt} : Steady keep h0 (giveBack h q) := by
  unfold Machine.giveBack
  split
  · exact .ite hs (hs.setPort fun _ => rfl)
  · exact hs

theorem Steady.dropPacket {p : PortId} {q : QPkt} {cls : BitVec 8} : Steady keep h0 (dropPacket h p q cls) := by
  unfold Machine.dropPacket
  split
  · exact hs.localReqFails
  · exact hs.colFault
  · exact hs.giveBack.recordNoCtx

theorem Steady.toPort {p : PortId} {q : QPkt} : Steady keep h0 (toPort h p q) :=
  .ite hs.discardAt.dropPacket (hs.setPort fun _ => rfl)

theorem Steady.setCircState {id st : Nat} : Steady keep h0 (setCircState h id st) := by
  have h1 : Steady keep h0 (h.setReg (rteOff (0x8000 + 8 * id)) (setFld (h.reg (rteOff (0x8000 + 8 * id))) 24 2 st)) :=
    hs.setReg (openReg_rteOff (0x8000 + 8 * id))
  unfold Machine.setCircState
  dsimp only
  split
  · exact h1.alike rfl
  · exact h1

theorem Steady.sendNotice {id out : Nat} : Steady keep h0 (sendNotice h id out) := hs.toPort

theorem Steady.breakCircuits {p : PortId} : Steady keep h0 (breakCircuits h p) := by
  refine hs.foldl (fun g c hg => ?_) _
  dsimp only
  split
  · have hb : Steady keep h0 (Machine.setCircState g ((c.1 - rteOff 0x8000) / 8) 2) := hg.setCircState
    refine .ite hg (.ite ?_ ?_)
    · exact Steady.raiseEv (hb.alike (by rfl)) (by decide) (by decide)
    · exact Steady.sendNotice (hb.alike (by rfl))
  · exact hg

/-- A port that need not keep its state moves to another. -/
theorem Steady.setPortState {i : PortId} {st : BitVec 3} {lanes : BitVec 8} (hi : ¬ keep i) :
    Steady keep h0 (setPortState h i st lanes) := by
  have hp {x : Port} : Steady keep h0 (h.setPort i x) := hs.setPort (fun hk => absurd hk hi)
  have hr {p : Nat} : Steady keep h0 (Machine.raiseEv (h.setPort i { h.port i with
      state := st, lanes := lanes, since := h.now }) 0x0C0 p []) := hp.raiseEv (by decide) (by decide)
  refine .ite hr (.ite hr (.ite (.ite ?_ hr) (.ite hr ?_)))
  · exact Steady.alike hr rfl
  · exact Steady.alike hr rfl

theorem Steady.goDown {i : PortId} (hi : ¬ keep i) : Steady keep h0 (goDown h i) := by
  have hp {x : Port} : Steady keep h0 (h.setPort i x) := hs.setPort (fun hk => absurd hk hi)
  refine Steady.breakCircuits (Steady.foldl ?_ (fun g q hg => hg.discardAt.dropPacket) _)
  exact (hp.setPortState hi).count (openReg_errOff i _)

theorem Steady.portOff {i : PortId} (hi : ¬ keep i) : Steady keep h0 (portOff h i) := by
  have h1 : Steady keep h0 (if (h.port i).state = 2 ∨ (h.port i).state = 3 then Machine.goDown h i else h) :=
    .ite (hs.goDown hi) hs
  exact .ite h1 (h1.setPortState hi)

/-! ### Captures (R492 to R495) -/

theorem Steady.listCapture {c : Capture} : Steady keep h0 (listCapture h c) := by
  have h1 : Steady keep h0 { h with flt := { h.flt with
      captures := (h.flt.captures.filter (fun d => d.id != c.id)) ++ [c] } } := hs.alike rfl
  have h2 := Steady.ite (p := c.dropped) h1 (h1.raiseFor (src := 0x041)
    (k := (c.owner.map (·.val)).getD 64) (p := c.id.toNat + c.level.toNat * 65536) (d := c.words.take 5) (by decide)
    (by decide))
  exact .ite (h2.raiseEv (by decide) (by decide)) h2

theorem Steady.writeConfs {cs : List CtxId} {l : List Sect} : Steady keep h0 (writeConfs h cs l).1 := by
  refine List.foldlRecOn cs _ (motive := fun r : Hw × Bool => Steady keep h0 r.1) hs fun r hr c _ => ?_
  unfold writeConf
  dsimp only
  split_ifs
  · exact hr
  · exact hr.alike rfl
  · exact hr

theorem Steady.closeCapture {id : BitVec 16} {cut : Bool} : Steady keep h0 (closeCapture h id cut) := by
  have hu : Steady keep h0 (if cut then h.useFree else h) := .ite (hs.alike (by rfl)) hs
  have hc {cs : List CtxId} {l : List Sect} := hu.writeConfs (cs := cs) (l := l)
  unfold Machine.closeCapture
  split
  · exact hs
  · dsimp only
    split
    · exact Steady.listCapture (Steady.alike hc (by rfl))
    · split
      · exact Steady.listCapture (Steady.alike hc (by rfl))
      · exact Steady.listCapture hc

/-- Captures that are closed or cut short. -/
theorem Steady.closeWhere {p : Capture → Bool} {cut : Bool} : Steady keep h0 (closeWhere h p cut) :=
  hs.foldl (fun _ _ hg => hg.closeCapture) _

end

/-! ### Ports that go OFF -/

@[simp] theorem Hw.port_setPort (h : Hw) (i : PortId) (x : Port) : (h.setPort i x).port i = x := SMap.get_put_same ..

theorem port_setPortState (h : Hw) (i : PortId) (st : BitVec 3) (lanes : BitVec 8) :
    ((setPortState h i st lanes).port i).state = st := by
  have hset (x : Port) : ((h.setPort i x).port i).state = x.state := by rw [Hw.port_setPort]
  unfold setPortState ftcLink
  dsimp only
  split_ifs <;> exact hset { h.port i with state := st, lanes := lanes, since := h.now }

theorem port_portOff (h : Hw) (i : PortId) : ((portOff h i).port i).state = 0 := by
  unfold portOff
  dsimp only
  split_ifs with h1 h2 h2
  · exact h2
  · exact port_setPortState ..
  · exact h2
  · exact port_setPortState ..

@[simp] theorem Hw.emit_reg (h : Hw) (o : Out) (k : Nat) : (h.emit o).reg k = h.reg k := rfl

theorem mem_allPorts (i : PortId) : i ∈ allPorts := by
  revert i
  decide

/-- Ports switched off one after another are OFF in the end. -/
theorem port_foldl_portOff (l : List PortId) (h : Hw) {i : PortId} (hi : i ∈ l ∨ (h.port i).state = 0) :
    ((l.foldl portOff h).port i).state = 0 := by
  induction l generalizing h with
  | nil => simpa using hi
  | cons j l ih =>
    refine ih _ ?_
    by_cases hij : i = j
    · subst hij
      exact .inr (port_portOff h i)
    · refine hi.imp (fun hm => (List.mem_cons.mp hm).resolve_left hij) (fun h0 => ?_)
      rw [((Steady.refl (fun k => k ≠ j) h).portOff (fun hk => hk rfl)).port i hij, h0]

/-! ### The power cycle (R504) -/

/-- The hardware once the power cycle has been decided, before the ports go OFF. -/
def cyclePending (h : Hw) (trigger : BitVec 8) : Hw :=
  let h1 := closeWhere h (fun _ => true) true
  raiseEv { h1 with
    flt := { h1.flt with powerCycle := true, recoveries := [] }
    pins := { h1.pins with fault := true, computeOn := false }
    tray := { h1.tray with pcRequest := true } } 0x047 trigger.toNat []

theorem powerCycle_eq {h : Hw} (hn : h.flt.powerCycle = false) (trigger : BitVec 8) : powerCycle h trigger =
    ((allPorts.foldl portOff (cyclePending h trigger)).setReg 0xC0090 (put trigger.toNat 0 8 ||| bitw true 63)).emit
      .i3cIbi := by
  rw [powerCycle, hn]
  rfl

theorem Steady.pends {keep : PortId → Prop} {s t : State} (hs : Steady keep s.hw t.hw) {src p : Nat}
    (hk : KeptSource src) (hp : Pends s src p) : Pends t src p :=
  ⟨(hs.pending src hk).trans hp.1, (hs.payload src hk).trans hp.2⟩

/-- What a power cycle that has been decided leaves, with its event pending. -/
theorem cyclePending_decided (h : Hw) (trigger : BitVec 8) (cmds : List Instr) :
    (cyclePending h trigger).flt.powerCycle = true ∧ (cyclePending h trigger).flt.recoveries = [] ∧
      (cyclePending h trigger).tray = { h.tray with pcRequest := true } ∧ (cyclePending h trigger).thm = h.thm ∧
      (cyclePending h trigger).pins = { h.pins with fault := true, computeOn := false } ∧
      Pends ⟨cyclePending h trigger, cmds⟩ 0x047 trigger.toNat ∧
      ∀ k, 0x40280 ≤ k → k < 0xE0000 → (cyclePending h trigger).reg k = h.reg k := by
  have hclose := (Steady.refl (fun _ => True) h).closeWhere (p := fun _ => true) (cut := true)
  unfold cyclePending
  generalize closeWhere h (fun _ => true) true = g at hclose
  refine ⟨rfl, rfl, congrArg (fun y : Tray => { y with pcRequest := true }) hclose.tray, hclose.thm,
    congrArg (fun y : Pins => { y with fault := true, computeOn := false }) hclose.pins, pends_raiseEv ..,
    fun k h1 h2 => ?_⟩
  rw [raiseEv_reg_ne _ _ _ _ (by omega), ← hclose.reg k h1 h2]
  rfl

/-- What a power cycle that had not been asked for before leaves. -/
theorem powerCycle_asks {h : Hw} (hn : h.flt.powerCycle = false) (trigger : BitVec 8) (cmds : List Instr) :
    AsksPowerCycle ⟨powerCycle h trigger, cmds⟩ trigger ∧ (powerCycle h trigger).thm = h.thm ∧
      (powerCycle h trigger).pins = { h.pins with fault := true, computeOn := false } ∧
      ∀ k, 0x40280 ≤ k → k < 0xC0090 → (powerCycle h trigger).reg k = h.reg k := by
  obtain ⟨hpc, hrec, htray, hthm, hpins, hpend, hreg⟩ := cyclePending_decided h trigger cmds
  have hoff : Steady (fun _ => False) (cyclePending h trigger) (allPorts.foldl portOff (cyclePending h trigger)) :=
    (Steady.refl _ _).foldl (fun g i hg => hg.portOff id) _
  have hport (p : PortId) : ((allPorts.foldl portOff (cyclePending h trigger)).port p).state = 0 :=
    port_foldl_portOff _ _ (.inl (mem_allPorts p))
  rw [powerCycle_eq hn]
  generalize cyclePending h trigger = c at hpc hrec htray hthm hpins hpend hreg hoff hport
  generalize allPorts.foldl portOff c = g at hoff hport
  have hpins' : g.pins = { h.pins with fault := true, computeOn := false } := hoff.pins.trans hpins
  have hreq : g.tray.pcRequest = true := by rw [hoff.tray, htray]
  have hpend' := Steady.pends (t := ⟨g, cmds⟩) hoff (by decide) hpend
  refine ⟨⟨hoff.powerCycle.trans hpc, hoff.recoveries.trans hrec, congrArg Pins.fault hpins',
    congrArg Pins.computeOn hpins', hreq, hport, ?_, hpend'.2⟩, hoff.thm.trans hthm, hpins', fun k h1 h2 => ?_⟩
  · rw [Hw.emit_reg, Hw.reg_setReg_ne g _ (by decide), hpend'.1]
  · rw [Hw.emit_reg, Hw.reg_setReg_ne g _ (by omega), hoff.reg k h1 (by omega), hreg k h1 (by omega)]

/-! ### Throttle intervals (R461) -/

/-- Following a change of what throttles touches the interval, its event, its count and what the tray reads. -/
theorem throttleStep_frame (before : Bool) (h : Hw) : ∃ regs evc tray thrOpen thrStart thrMin thrCause thrLast,
    throttleStep before h = { h with
      regs := regs, evc := evc, tray := tray
      pwr := { h.pwr with
        thrOpen := thrOpen, thrStart := thrStart, thrMin := thrMin, thrCause := thrCause, thrLast := thrLast } } := by
  unfold throttleStep
  split_ifs <;> exact ⟨_, _, _, _, _, _, _, _, rfl⟩

theorem throttleStep_reg_ne (before : Bool) (h : Hw) {k : Nat} (h1 : k ≠ 0x40200) (h2 : k ≠ 0x70078) :
    (throttleStep before h).reg k = h.reg k := by
  have hev (p : Nat) (g : Hw) : (raiseEv (g.count 0x70078 1) 0x010 p []).reg k = g.reg k :=
    (raiseEv_reg_ne _ _ _ _ h1).trans (Hw.reg_setReg_ne g _ h2)
  unfold throttleStep
  split_ifs
  · rfl
  · exact hev _ _
  · rfl
  · rfl

/-- Sources other than its own show what they showed. -/
theorem throttleStep_pends (before : Bool) {h : Hw} {cmds : List Instr} {src p : Nat} (hsrc : src ≠ 0x010)
    (hlt : src < 1024) (hp : Pends ⟨h, cmds⟩ src p) : Pends ⟨throttleStep before h, cmds⟩ src p := by
  unfold throttleStep
  split_ifs
  · exact hp
  · refine ⟨?_, (payload_raiseEv_ne _ _ _ hsrc).trans hp.2⟩
    refine (pendingBit_raiseEv_ne _ _ _ hsrc).trans (Eq.trans ?_ hp.1)
    exact congrArg (bit · (src % 64)) (Hw.reg_setReg_ne h _ (by omega))
  · exact hp
  · exact hp

/-- While something throttles, an interval is open. -/
theorem throttleStep_open (before : Bool) {h : Hw} (ht : throttled h = true) :
    (throttleStep before h).pwr.thrOpen = true := by
  unfold throttleStep
  rw [if_pos ht]
  split
  · next ho => exact ho
  · rfl

/-! ### The thermal trip (R471) -/

/-- The hardware once the trip has been latched, before its cause is. -/
def tripLatched (h : Hw) : Hw :=
  throttling h (fun g => { g with
    thm := { g.thm with tripped := true }, pins := { g.pins with thermtrip := true, fault := true } })

theorem tripLatched_latches (h : Hw) : (tripLatched h).thm.tripped = true ∧ (tripLatched h).pins.thermtrip = true ∧
    (tripLatched h).flt = h.flt := by
  obtain ⟨_, _, _, _, _, _, _, _, hfr⟩ := throttleStep_frame (throttled h) { h with
    thm := { h.thm with tripped := true }, pins := { h.pins with thermtrip := true, fault := true } }
  rw [tripLatched, throttling, hfr]
  exact ⟨rfl, rfl, rfl⟩

/-- The hardware once the cause of the trip has been latched too. -/
def tripCaused (h : Hw) (cause sensor : Nat) : Hw :=
  ((tripLatched h).setReg 0x80030 (put cause 0 3 ||| put sensor 3 8 ||| bitw true 63)).emit .i3cIbi

theorem trip_eq {h : Hw} (ht : h.thm.tripped = false) (cause sensor : Nat) :
    trip h cause sensor = powerCycle (tripCaused h cause sensor) 0 := by
  rw [trip, ht]
  rfl

/-- A trip latches its cause and asks for the power cycle. -/
theorem trip_trips {h : Hw} (ht : h.thm.tripped = false) (hn : h.flt.powerCycle = false) (cause sensor : Nat)
    (cmds : List Instr) :
    (trip h cause sensor).thm.tripped = true ∧ (trip h cause sensor).pins.thermtrip = true ∧
      (trip h cause sensor).reg 0x80030 = (put cause 0 3 ||| put sensor 3 8 ||| bitw true 63) ∧
      AsksPowerCycle ⟨trip h cause sensor, cmds⟩ 0 := by
  obtain ⟨htrip, hpin, hflt⟩ := tripLatched_latches h
  obtain ⟨hasks, hthm, hpins, hreg⟩ := powerCycle_asks (h := tripCaused h cause sensor)
    ((congrArg Faults.powerCycle hflt).trans hn) 0 cmds
  rw [trip_eq ht]
  refine ⟨?_, ?_, ?_, hasks⟩
  · rw [hthm, tripCaused, Hw.emit_thm, Hw.setReg_thm, htrip]
  · rw [hpins, tripCaused, Hw.emit_pins, Hw.setReg_pins, hpin]
  · rw [hreg 0x80030 (by decide) (by decide), tripCaused, Hw.emit_reg, Hw.reg_setReg]

end Sys2Proof.Machine
end

section
/-! Proofs about what completing host commands and telling the host leave alone, and about how the recovery of the chip
begins (R495, R503, R506). -/

namespace Sys2Proof.Machine

/-- What is written to the rings of the host changes: the functions, what is sent, counters and events; of those that
faults and packets leave, nothing does. -/
structure HostOnly (h g : Hw) : Prop where
  rest : { g with regs := h.regs, hif := h.hif, evc := h.evc, out := h.out } = h
  steady : Steady (fun _ => True) h g

theorem HostOnly.refl (h : Hw) : HostOnly h h := ⟨rfl, .refl _ h⟩

section
variable {h0 h : Hw} (hs : HostOnly h0 h)
include hs

theorem HostOnly.setFn {f : FnId} {x : HifFn} : HostOnly h0 (h.setFn f x) := ⟨hs.rest, hs.steady.alike (by rfl)⟩

theorem HostOnly.modFn {f : FnId} {g : HifFn → HifFn} : HostOnly h0 (h.modFn f g) := hs.setFn

theorem HostOnly.emit {o : Out} : HostOnly h0 (h.emit o) := ⟨hs.rest, hs.steady.alike (by rfl)⟩

theorem HostOnly.raiseEv {src p : Nat} {d : List Word} (hsrc : src < 1024) (hk : ¬ KeptSource src) :
    HostOnly h0 (raiseEv h src p d) := ⟨hs.rest, hs.steady.raiseEv hsrc hk⟩

theorem HostOnly.countHif {f : FnId} {n : Nat} : HostOnly h0 (h.count (hifOff f 0x70) n) :=
  ⟨hs.rest, hs.steady.count (.inl (by simp only [hifOff]; omega))⟩

omit hs in
theorem HostOnly.ite {p : Prop} [Decidable p] {a b : Hw} (ha : HostOnly h0 a) (hb : HostOnly h0 b) :
    HostOnly h0 (if p then a else b) := by
  split
  · exact ha
  · exact hb

theorem HostOnly.foldl {α : Type} {f : Hw → α → Hw} (hf : ∀ g a, HostOnly h0 g → HostOnly h0 (f g a)) (l : List α) :
    HostOnly h0 (l.foldl f h) := by
  induction l generalizing h with
  | nil => exact hs
  | cons a l ih => exact ih (hf h a hs)

theorem HostOnly.sendMsix {f : FnId} {v : Fin 3} : HostOnly h0 (sendMsix h f v) := .ite hs.modFn hs.emit

theorem HostOnly.writeEntry {addr : Nat} {first : List Word} {last : Word} :
    HostOnly h0 (writeEntry h addr first last) := hs.emit.emit

theorem HostOnly.stopQueue {f : FnId} {err : BitVec 8} : HostOnly h0 (stopQueue h f err) :=
  hs.modFn.raiseEv (by decide) (by decide)

theorem HostOnly.writeCpl {f : FnId} {w : Word × Word} : HostOnly h0 (writeCpl h f w) :=
  .ite hs.modFn.stopQueue (.ite hs.writeEntry.modFn.sendMsix hs.writeEntry.modFn)

theorem HostOnly.flushCpl {f : FnId} (l : List (Word × Word)) : HostOnly h0 (flushCpl f l h) := by
  induction l generalizing h with
  | nil => exact hs.modFn
  | cons w l ih => exact .ite (ih hs) (.ite hs.modFn (ih hs.writeCpl))

theorem HostOnly.complete {f : FnId} {c : HostCmd} {status : BitVec 8} {result : Nat} :
    HostOnly h0 (complete h f c status result) := hs.flushCpl _

theorem HostOnly.endRun {f : FnId} {r : RunCmd} {status : BitVec 8} {result : Nat} :
    HostOnly h0 (endRun h f r status result) := .ite hs hs.complete

theorem HostOnly.endFences {f : FnId} (n : Nat) : HostOnly h0 (endFences f n h) := by
  induction n generalizing h with
  | zero => exact hs
  | succ n ih =>
    unfold Machine.endFences
    split
    · exact .ite (ih hs.modFn.endRun) hs
    · exact hs

theorem HostOnly.skipReserved {f : FnId} (n : Nat) : HostOnly h0 (skipReserved f n h) := by
  induction n generalizing h with
  | zero => exact hs
  | succ n ih =>
    unfold Machine.skipReserved
    split
    · exact .ite hs (ih hs.modFn.complete)
    · exact hs

theorem HostOnly.finishCmd {f : FnId} {seq : Nat} {status : BitVec 8} {result : Nat} :
    HostOnly h0 (finishCmd h f seq status result) := by
  unfold Machine.finishCmd
  split
  · exact (hs.modFn.endRun.endFences _).skipReserved _
  · exact hs

theorem HostOnly.endCmds {op : Nat} {c : CtxId} {status : BitVec 8} : HostOnly h0 (endCmds h op c status) :=
  hs.foldl (fun _ _ hg => hg.foldl (fun _ _ hg' => hg'.finishCmd) _) _

theorem HostOnly.writeEvent {src : Nat} {c : Option CtxId} {payload : BitVec 32} {ftc : Nat} {detail : List Word}
    {f : FnId} : HostOnly h0 (writeEvent h src c payload ftc detail f) := by
  refine .ite hs.countHif (.ite hs.countHif.modFn (.ite ?_ ?_))
  · exact (HostOnly.ite hs.writeEntry.modFn.sendMsix hs.writeEntry.modFn).sendMsix
  · exact .ite hs.writeEntry.modFn.sendMsix hs.writeEntry.modFn

/-- Ending every command and telling the PF (R503). -/
theorem HostOnly.abortCommands {trigger : BitVec 8} : HostOnly h0 (abortCommands h trigger) := by
  refine HostOnly.writeEvent (hs.foldl (fun g f hg => HostOnly.modFn (hg.foldl (fun g2 r hg2 => ?_) _)) _)
  exact .ite hg2 hg2.complete

end

/-! ### The recovery of the chip (R503) -/

/-- Where no capture is open none is closed. -/
theorem closeWhere_none {h : Hw} (hc : ∀ c ∈ h.flt.captures, c.isOpen = false) (p : Capture → Bool) (cut : Bool) :
    closeWhere h p cut = h := by
  have hnone : h.flt.captures.filter (fun c => c.isOpen && p c) = [] :=
    List.filter_eq_nil_iff.mpr fun c hm => by simp [hc c hm]
  rw [closeWhere, hnone]
  rfl

/-- Every enabled easel is stopped. -/
def easelsStopped (h : Hw) : Hw := h.bru.enabled.foldl (fun g e => g.modEasel e (fun x => { x with stopped := true })) h

theorem easelsStopped_frame (h : Hw) : ∃ easels, easelsStopped h = { h with easels := easels } :=
  foldl_modEasel_frame (fun _ _ x => { x with stopped := true }) h.bru.enabled h

/-- Easels that are stopped one after another are stopped in the end. -/
theorem foldl_stopped (l : List EaselId) (h : Hw) {e : EaselId} (he : e ∈ l ∨ (h.easel e).stopped = true) :
    ((l.foldl (fun g e => g.modEasel e (fun x => { x with stopped := true })) h).easel e).stopped = true := by
  induction l generalizing h with
  | nil => simpa using he
  | cons d l ih =>
    refine ih _ ?_
    by_cases hd : e = d
    · subst hd
      exact .inr (by rw [Hw.easel_modEasel])
    · refine he.imp (fun hm => (List.mem_cons.mp hm).resolve_left hd) (fun h0 => ?_)
      rw [Hw.easel_modEasel_ne _ _ hd, h0]

theorem easelsStopped_stopped (h : Hw) {e : EaselId} (he : e ∈ h.bru.enabled) :
    ((easelsStopped h).easel e).stopped = true := foldl_stopped _ h (.inl he)

/-- The hardware with the recovery of the chip listed. -/
def chipListed (h : Hw) (trigger : BitVec 8) (cmds : List (FnId × Nat)) : Hw :=
  { h with flt := { h.flt with
      recoveries := h.flt.recoveries ++ [{ unit := .chip, trigger := trigger, start := h.now, cmds := cmds }] } }

/-- The hardware at the decision to recover the chip, before commands end. -/
def chipStopped (h : Hw) (trigger : BitVec 8) (cmds : List (FnId × Nat)) : Hw :=
  let h1 := openCapture (easelsStopped (chipListed h trigger cmds)) 3 trigger (ctxMask (unitCtxs h .chip)) 0xFF 0xF
  { h1 with
    pins := { h1.pins with fault := true }, memctl := { h1.memctl with selfRefresh := true }
    pwr := { h1.pwr with idle := 0, quietSince := none } }

/-- The hardware once the recovery of the chip has begun, before what throttles is followed. -/
def chipBegun (h : Hw) (trigger : BitVec 8) (cmds : List (FnId × Nat)) : Hw :=
  let h2 := abortCommands (chipStopped h trigger cmds) trigger
  { h2 with bru := { h2.bru with ready := false } }

/-- A fault of the chip where nothing recovers and no capture is open begins its recovery. -/
theorem chipFault_eq {h : Hw} (hp : h.flt.powerCycle = false) (hr : h.flt.recoveries = [])
    (hc : ∀ c ∈ h.flt.captures, c.isOpen = false) (trigger : BitVec 8) (cmds : List (FnId × Nat)) :
    chipFault h trigger cmds = throttleStep (throttled h) (chipBegun h trigger cmds) := by
  have hchip : h.chipRec = false := by rw [Hw.chipRec, hr]; rfl
  have hpre : preempt h .chip trigger cmds = beginRecovery h .chip trigger cmds := by
    unfold preempt
    dsimp only
    rw [closeWhere_none hc, hr]
    simp only [List.filter_nil, List.flatMap_nil, List.nil_append]
    rw [← hr]
  rw [chipFault, hp, hchip]
  simp only [Bool.false_eq_true, if_false]
  rw [hpre, beginRecovery]
  dsimp only
  rw [closeWhere_none hc]
  rfl

/-- Before commands end the hardware differs in what stops and in what the decision sets. -/
theorem chipStopped_frame (h : Hw) (trigger : BitVec 8) (cmds : List (FnId × Nat)) :
    ∃ (easels : SMap Easel) (cap : Capture) (r : Recovery), chipStopped h trigger cmds = { h with
        easels := easels
        flt := { h.flt with
          recoveries := h.flt.recoveries ++ [r], captures := h.flt.captures ++ [cap], nextId := h.flt.nextId + 1 }
        pins := { h.pins with fault := true }, memctl := { h.memctl with selfRefresh := true }
        pwr := { h.pwr with idle := 0, quietSince := none } } ∧
      (r.unit = .chip ∧ r.trigger = trigger ∧ r.start = h.now) ∧
      (cap.isOpen = true ∧ cap.level = 3 ∧ cap.trigger = trigger ∧ cap.ftcStart = h.ftcNow) := by
  obtain ⟨easels, hfr⟩ := easelsStopped_frame (chipListed h trigger cmds)
  rw [chipStopped, hfr]
  exact ⟨easels, _, _, rfl, ⟨rfl, rfl, rfl⟩, ⟨rfl, rfl, rfl, rfl⟩⟩

theorem chipStopped_stops (h : Hw) (trigger : BitVec 8) (cmds : List (FnId × Nat)) {e : EaselId}
    (he : e ∈ h.bru.enabled) : ((chipStopped h trigger cmds).easel e).stopped = true :=
  easelsStopped_stopped (chipListed h trigger cmds) he

/-- What the recovery of the chip leaves at its beginning. -/
theorem chipFault_begins {h : Hw} (hp : h.flt.powerCycle = false) (hr : h.flt.recoveries = [])
    (hc : ∀ c ∈ h.flt.captures, c.isOpen = false) (trigger : BitVec 8) (cmds : List Instr) :
    BeginsRecovery ⟨h, cmds⟩ ⟨chipFault h trigger [], cmds⟩ .chip trigger ∧
      (chipFault h trigger []).mem = h.mem ∧ (chipFault h trigger []).memctl.chUp = h.memctl.chUp ∧
      ∀ src p, src ≠ 0x010 → src < 1024 → KeptSource src →
        Pends ⟨h, cmds⟩ src p → Pends ⟨chipFault h trigger [], cmds⟩ src p := by
  obtain ⟨easels, cap, r, hfr, hrec, hcap⟩ := chipStopped_frame h trigger []
  have hstop := fun e => chipStopped_stops h trigger [] (e := e)
  have habort := (HostOnly.refl (chipStopped h trigger [])).abortCommands (trigger := trigger)
  rw [chipFault_eq hp hr hc, chipBegun]
  generalize abortCommands (chipStopped h trigger []) trigger = g at habort
  generalize chipStopped h trigger [] = k at hfr hstop habort
  have hpends (src p : Nat) (hs : KeptSource src) (h0 : Pends ⟨h, cmds⟩ src p) : Pends ⟨g, cmds⟩ src p := by
    refine habort.steady.pends (s := ⟨k, cmds⟩) hs ?_
    subst hfr
    exact h0
  have hflt : g.flt = k.flt := (congrArg Hw.flt habort.rest :)
  have heasels : g.easels = k.easels := (congrArg Hw.easels habort.rest :)
  have hpins : g.pins = k.pins := (congrArg Hw.pins habort.rest :)
  have hmem : g.mem = k.mem := (congrArg Hw.mem habort.rest :)
  have hctl : g.memctl = k.memctl := (congrArg Hw.memctl habort.rest :)
  have hkept (src p : Nat) (hne : src ≠ 0x010) (hlt : src < 1024) (hs : KeptSource src) (h0 : Pends ⟨h, cmds⟩ src p) :
      Pends ⟨throttleStep (throttled h) { g with bru := { g.bru with ready := false } }, cmds⟩ src p :=
    throttleStep_pends _ hne hlt (hpends src p hs h0)
  obtain ⟨_, _, _, _, _, _, _, _, hthr⟩ :=
    throttleStep_frame (throttled h) { g with bru := { g.bru with ready := false } }
  rw [hthr] at hkept ⊢
  refine ⟨⟨⟨r, ?_, hrec⟩, ⟨cap, ?_, hcap⟩, fun e he => ?_, fun _ => ⟨?_, rfl⟩⟩, ?_, ?_, hkept⟩
  · simp [hflt, hfr]
  · simp [hflt, hfr]
  · rw [← hstop e he]
    exact congrArg (fun m => (SMap.get Easel.init m e.val).stopped) heasels
  · simp [hpins, hfr]
  · simp [hmem, hfr]
  · simp [hctl, hfr]

end Sys2Proof.Machine
end

section
/-! Proofs about the patrol scrub: what a read of it finds, corrects and reports (R160, R162, R186, R188). -/

namespace Sys2Proof.Machine

/-! ### Counters of a Palette -/

theorem not_isLp_of_isPal {off : Nat} (hp : isPal off = true) : isLp off = false := by
  simp only [isPal, isLp, decide_eq_true_eq, decide_eq_false_iff_not] at *
  omega

theorem not_isCv_of_isPal {off : Nat} (hp : isPal off = true) : isCv off = false := by
  simp only [isPal, isCv, decide_eq_true_eq, decide_eq_false_iff_not] at *
  omega

/-- The logs of the Canvas blocks are none of an easel's registers. -/
theorem logCnv_reg_easel (h : Hw) (d : Fin 2) (off : Nat) (own : Option CtxId) (cls : BitVec 8) (e : EaselId)
    (o : Nat) : (logCnv h d off own cls).reg (blkBase (.easel e) + o) = h.reg (blkBase (.easel e) + o) := by
  unfold logCnv
  dsimp only
  rw [Hw.reg_setReg_ne _ _ (by simp only [blkBase]; omega), Hw.reg_setReg_ne _ _ (by simp only [blkBase]; omega)]

/-- An error of a Palette is counted at its easel and logged. -/
theorem palError_counted (h : Hw) {off : Nat} (hp : isPal off = true) (n : Nat) {ue : Bool} {o : Nat}
    (ho : o = 0x40 + if ue then 8 else 0) (cls : BitVec 8) :
    (logMemError (countMemError h off n ue) off cls).reg (blkBase (.easel (palEasel off)) + o) =
      BitVec.ofNat 64 (min ((h.reg (blkBase (.easel (palEasel off)) + o)).toNat + n) (2 ^ 32 - 1)) := by
  rw [logMemError, not_isLp_of_isPal hp, if_neg Bool.false_ne_true, logCnv_reg_easel, countMemError,
    not_isLp_of_isPal hp, hp, if_neg Bool.false_ne_true, if_pos rfl, Nat.add_assoc, ← ho]
  refine (Hw.reg_setReg_ne _ _ ?_).trans (Hw.reg_count ..)
  simp only [blkBase]
  omega

@[simp] theorem logMemError_memctl (h : Hw) (off : Nat) (cls : BitVec 8) :
    (logMemError h off cls).memctl = h.memctl := by
  unfold logMemError
  dsimp only
  split_ifs <;> rfl

@[simp] theorem countMemError_memctl (h : Hw) (off n : Nat) (ue : Bool) :
    (countMemError h off n ue).memctl = h.memctl := by
  unfold countMemError
  dsimp only
  split_ifs <;> rfl

/-! ### What a read of the scrub does -/

/-- The number of the word that the scrub reads next, its offset, and the errors in it at that read. -/
def scrubIndex (h : Hw) (m : ScrubMem) : Nat := SMap.get 0 h.memctl.scrubPos (scrubKey m) % (scrubRange m).2

def scrubOff (h : Hw) (m : ScrubMem) : Nat := (scrubRange m).1 + 8 * scrubIndex h m

def scrubBits (h : Hw) (m : ScrubMem) (n : Nat) : Nat := SMap.get 0 h.mem.ecc (scrubOff h m / 8) + n

/-- The word has been read, and the next one is the next to be. -/
def scrubMet (h : Hw) (m : ScrubMem) (w : WordErrors) : Hw :=
  { h with
    mem := { h.mem with
      ecc := SMap.set 0 h.mem.ecc (scrubOff h m / 8) (scrubBits h m w.bits)
      path := if w.path then (scrubOff h m / 8) :: h.mem.path.filter (· != scrubOff h m / 8) else h.mem.path }
    memctl := { h.memctl with
      scrubPos := SMap.put h.memctl.scrubPos (scrubKey m) ((scrubIndex h m + 1) % (scrubRange m).2) } }

theorem scrubMet_ctx (h : Hw) (m : ScrubMem) (w : WordErrors) (c : CtxId) : (scrubMet h m w).ctx c = h.ctx c :=
  Hw.ctx_of_ctxs (g := scrubMet h m w) rfl c

theorem scrubMet_easel (h : Hw) (m : ScrubMem) (w : WordErrors) (e : EaselId) :
    (scrubMet h m w).easel e = h.easel e :=
  Hw.easel_of_easels (g := scrubMet h m w) rfl e

theorem scrubMet_reg (h : Hw) (m : ScrubMem) (w : WordErrors) (k : Nat) : (scrubMet h m w).reg k = h.reg k := by
  have hp : (scrubMet h m w).pins = h.pins := rfl
  have hr : (scrubMet h m w).regs = h.regs := rfl
  rw [Hw.reg, hp, hr, Hw.reg]

/-- What becomes of the word read. -/
def scrubHandled (h : Hw) (m : ScrubMem) (w : WordErrors) : Hw :=
  if 3 ≤ scrubBits h m w.bits then ueFound (scrubMet h m w) (scrubOff h m)
  else if scrubBits h m w.bits = 0 then scrubMet h m w
  else if isPal (scrubRange m).1 then scrubWord (scrubMet h m w) (scrubOff h m)
  else regionError (scrubWord (scrubMet h m w) (scrubOff h m)) (scrubOff h m)

/-- A pass that ends forgets its region counts. -/
def scrubEnded (g : Hw) (m : ScrubMem) (i : Nat) : Hw :=
  if i + 1 = (scrubRange m).2 ∧ !isPal (scrubRange m).1 then
    { g with memctl := { g.memctl with
        regionCe := SMap.eraseRange g.memctl.regionCe ((scrubRange m).1 / 1024)
          (((scrubRange m).1 + 8 * (scrubRange m).2) / 1024) } }
  else g

theorem exec_patrolScrubRead (m : ScrubMem) (w : WordErrors) (s : State) : exec (.patrolScrubRead m w) s =
    .next { s with hw := if s.hw.memctl.selfRefresh && !isPal (scrubRange m).1 then s.hw
      else scrubEnded (scrubHandled s.hw m w) m (scrubIndex s.hw m) } := rfl

/-! ### Where the scrub reads -/

theorem scrubIndex_lt (h : Hw) (m : ScrubMem) : scrubIndex h m < (scrubRange m).2 :=
  Nat.mod_lt _ (by cases m <;> exact Nat.succ_pos _)

theorem isPal_scrubRange (m : ScrubMem) : isPal (scrubRange m).1 = true ↔ ∃ e, m = .palette e := by
  cases m with
  | palette e =>
    have := e.isLt
    simp [scrubRange, isPal, palBase]
    omega
  | canvas d =>
    have := d.isLt
    simp only [scrubRange, isPal, reduceCtorEq, exists_false, iff_false]
    intro hp
    have := of_decide_eq_true hp
    omega
  | lpddr6 => simp [scrubRange, isPal]

/-- The words of a memory lie where the memory does. -/
theorem isPal_scrubOff (h : Hw) (m : ScrubMem) : isPal (scrubOff h m) = isPal (scrubRange m).1 := by
  have hi := scrubIndex_lt h m
  unfold scrubOff
  generalize scrubIndex h m = i at hi
  cases m with
  | palette e =>
    have := e.isLt
    simp only [scrubRange, isPal, palBase] at *
    exact decide_eq_decide.mpr (by omega)
  | canvas d =>
    have := d.isLt
    simp only [scrubRange, isPal] at *
    exact decide_eq_decide.mpr (by omega)
  | lpddr6 =>
    simp only [scrubRange, isPal] at *
    exact decide_eq_decide.mpr (by omega)

theorem isPal_scrubOff_palette (h : Hw) (e : EaselId) : isPal (scrubOff h (.palette e)) = true :=
  (isPal_scrubOff h _).trans ((isPal_scrubRange _).mpr ⟨e, rfl⟩)

theorem palEasel_scrubOff (h : Hw) (e : EaselId) : palEasel (scrubOff h (.palette e)) = e := by
  have hi := scrubIndex_lt h (.palette e)
  have he := e.isLt
  refine Fin.ext ?_
  simp only [palEasel, scrubOff, scrubRange, palBase, Fin.ofNat] at *
  omega

/-! ### What is left as it is -/

theorem scrubEnded_frame (g : Hw) (m : ScrubMem) (i : Nat) : ∃ regionCe,
    scrubEnded g m i = { g with memctl := { g.memctl with regionCe := regionCe } } := by
  unfold scrubEnded
  split
  · exact ⟨_, rfl⟩
  · exact ⟨_, rfl⟩

theorem regionError_frame (h : Hw) (off : Nat) : (regionError h off).easels = h.easels ∧
    (regionError h off).memctl.scrubPos = h.memctl.scrubPos ∧ (regionError h off).mem = h.mem := by
  unfold regionError
  dsimp only
  split_ifs <;> exact ⟨rfl, rfl, rfl⟩

/-- The scrub corrects its word, and touches beside counters and logs nothing. -/
theorem scrubWord_frame (h : Hw) (off : Nat) : (scrubWord h off).easels = h.easels ∧
    (scrubWord h off).memctl.scrubPos = h.memctl.scrubPos ∧ (scrubWord h off).mem.cells = h.mem.cells ∧
    (scrubWord h off).mem.ecc = SMap.del h.mem.ecc (off / 8) := by
  simp [scrubWord]

/-- A word with at most two errors is left with none, and no other word, byte or easel changes (R160). -/
theorem scrubHandled_corrects (h : Hw) (m : ScrubMem) {w : WordErrors} (hb : scrubBits h m w.bits < 3) :
    (scrubHandled h m w).easels = h.easels ∧ (scrubHandled h m w).memctl.scrubPos = (scrubMet h m w).memctl.scrubPos ∧
      (scrubHandled h m w).mem.cells = h.mem.cells ∧
      ∀ k, SMap.get 0 (scrubHandled h m w).mem.ecc k = if k = scrubOff h m / 8 then 0 else SMap.get 0 h.mem.ecc k := by
  have hget (k : Nat) : SMap.get 0 (scrubMet h m w).mem.ecc k =
      if k = scrubOff h m / 8 then scrubBits h m w.bits else SMap.get 0 h.mem.ecc k := SMap.get_set ..
  have hdel (k : Nat) : SMap.get 0 (SMap.del (scrubMet h m w).mem.ecc (scrubOff h m / 8)) k =
      if k = scrubOff h m / 8 then 0 else SMap.get 0 h.mem.ecc k := by
    split
    · next hk => rw [hk, SMap.get_del_same]
    · next hk => rw [SMap.get_del_ne _ _ hk, hget, if_neg hk]
  obtain ⟨heasels, hpos, hcells, hecc⟩ := scrubWord_frame (scrubMet h m w) (scrubOff h m)
  rw [scrubHandled, if_neg (by omega)]
  split_ifs with h0 hp
  · refine ⟨rfl, rfl, rfl, fun k => ?_⟩
    rw [hget, h0]
  · exact ⟨heasels, hpos, hcells, fun k => by rw [hecc, hdel]⟩
  · obtain ⟨hreasels, hrpos, hrmem⟩ := regionError_frame (scrubWord (scrubMet h m w) (scrubOff h m)) (scrubOff h m)
    exact ⟨hreasels.trans heasels, hrpos.trans hpos, hrmem ▸ hcells, fun k => by rw [hrmem, hecc, hdel]⟩

/-- A corrected word of a Palette is counted at its easel. -/
theorem scrubHandled_counts (h : Hw) (e : EaselId) {w : WordErrors} (hb : scrubBits h (.palette e) w.bits < 3)
    (h0 : scrubBits h (.palette e) w.bits ≠ 0) :
    (scrubHandled h (.palette e) w).reg (blkBase (.easel e) + 0x40) =
      BitVec.ofNat 64 (min ((h.reg (blkBase (.easel e) + 0x40)).toNat + 1) (2 ^ 32 - 1)) := by
  rw [scrubHandled, if_neg (by omega), if_neg h0, if_pos ((isPal_scrubRange _).mpr ⟨e, rfl⟩)]
  have hcount := palError_counted { scrubMet h (.palette e) w with mem := { (scrubMet h (.palette e) w).mem with
    ecc := SMap.del (scrubMet h (.palette e) w).mem.ecc (scrubOff h (.palette e) / 8) } }
    (isPal_scrubOff_palette h e) 1 (ue := false) rfl 0
  rw [palEasel_scrubOff] at hcount
  exact hcount

/-! ### Uncorrectable words of a Palette (R162) -/

@[simp] theorem recordPrimary_memctl (h : Hw) (c : CtxId) (r : FaultRec) : (recordPrimary h c r).memctl = h.memctl := by
  have hstop : (stopFaulted h c r).memctl = h.memctl := by simp [stopFaulted, setCtxState]
  unfold recordPrimary
  dsimp only
  split
  · exact hstop
  · exact hstop

/-- Stopping a context sets no register but those of its events. -/
theorem recordPrimary_reg (h : Hw) (c : CtxId) (r : FaultRec) {k : Nat} (hk : 0x40280 ≤ k) :
    (recordPrimary h c r).reg k = h.reg k := by
  have hctx (g : Hw) {src : Nat} (hs : src < 1024) (p : Nat) (d : List Word) : (raiseCtx g src c p d).reg k = g.reg k :=
    raiseEv_reg_ne g src p d (by omega)
  have hstop : (stopFaulted h c r).reg k = h.reg k :=
    (hctx _ (by decide) _ _).trans (hctx _ (by decide) _ _)
  unfold recordPrimary
  dsimp only
  split
  · exact hstop
  · exact hstop

/-- The words of a Palette are its easel's context's. -/
theorem wordOwner_of_isPal (h : Hw) {off : Nat} (hp : isPal off = true) :
    wordOwner h off = (h.easel (palEasel off)).loaded := by
  have hpool : poolReserved h off = false := by rw [poolReserved, not_isCv_of_isPal hp, Bool.false_and, Bool.false_and]
  rw [wordOwner, hpool, if_neg Bool.false_ne_true, Hw.holder, hpool, if_neg Bool.false_ne_true, if_pos hp]

/-- An uncorrectable word of a Palette, found by no context's access, is its easel's context's fault. -/
theorem ueFound_palette {h : Hw} {off : Nat} (hp : isPal off = true) {c : CtxId}
    (hl : (h.easel (palEasel off)).loaded = some c) (hst : (h.ctx c).state = 3) (hf : (h.ctx c).faults = []) :
    ueFound h off = recordPrimary (perfAdd (logMemError (countMemError h off 1 true) off 1) c 13 1) c
      { FaultRec.blank h.ftcNow 1 7 with ctx := some c, addr := BitVec.ofNat 64 off } := by
  have hpage : pageOf off = none := by rw [pageOf, not_isLp_of_isPal hp, not_isCv_of_isPal hp]; rfl
  have hcls : memClass off = 1 := by rw [memClass, if_pos hp]
  have hctx : (logMemError (countMemError h off 1 true) off 1).ctx c = h.ctx c := Hw.ctx_of_ctxs (by simp) c
  rw [ueFound, hpage]
  dsimp only
  rw [reportUe, hcls, wordOwner_of_isPal h hp, hl]
  dsimp only
  rw [if_neg (by simp)]
  exact recordFault_primary rfl (by rw [hctx, hst]; decide) (by rw [hctx, hst]; decide) (by rw [hctx, hf])

theorem ueFound_palette_faults {h : Hw} (cmds : List Instr) {off : Nat} (hp : isPal off = true) {c : CtxId}
    (hl : (h.easel (palEasel off)).loaded = some c) (hst : (h.ctx c).state = 3) (hf : (h.ctx c).faults = []) :
    (ueFound h off).mem = h.mem ∧ (ueFound h off).memctl = h.memctl ∧
      TakesPrimary ⟨ueFound h off, cmds⟩ c 0x01 (BitVec.ofNat 64 off) ∧
      Counts ⟨h, cmds⟩ ⟨ueFound h off, cmds⟩ (blkBase (.easel (palEasel off)) + 0x48) 1 := by
  have hperf (g : Hw) (k : Nat) : (perfAdd g c 13 1).reg k = g.reg k := rfl
  rw [ueFound_palette hp hl hst hf]
  refine ⟨by simp, by simp, ⟨?_, _, congrArg Ctx.faults (recordPrimary_ctx_same ..), rfl, rfl, rfl⟩, ?_⟩
  · exact congrArg Ctx.state (recordPrimary_ctx_same ..)
  · refine (recordPrimary_reg _ c _ (by simp only [blkBase]; omega)).trans ((hperf ..).trans ?_)
    exact palError_counted h hp 1 (ue := true) rfl 1

/-- A word of a Palette with more errors than are corrected is left with them, and stops the context loaded there. -/
theorem scrubHandled_reports (s : State) (e : EaselId) {w : WordErrors} {c : CtxId}
    (hb : 3 ≤ scrubBits s.hw (.palette e) w.bits) (hl : (s.hw.easel e).loaded = some c) (hr : RunsClean s c) :
    let t : State := { s with hw := scrubHandled s.hw (.palette e) w }
    t.hw.mem = (scrubMet s.hw (.palette e) w).mem ∧ t.hw.memctl = (scrubMet s.hw (.palette e) w).memctl ∧
      TakesPrimary t c 0x01 (BitVec.ofNat 64 (scrubOff s.hw (.palette e))) ∧
      Counts s t (blkBase (.easel e) + 0x48) 1 := by
  have hue := ueFound_palette_faults (h := scrubMet s.hw (.palette e) w) s.pending (isPal_scrubOff_palette s.hw e)
    (c := c) (by rw [palEasel_scrubOff, scrubMet_easel, hl]) (by rw [scrubMet_ctx, hr.1]) (by rw [scrubMet_ctx, hr.2])
  unfold Counts at hue ⊢
  dsimp only at hue ⊢
  rw [palEasel_scrubOff, scrubMet_reg] at hue
  rw [scrubHandled, if_pos hb]
  exact hue

/-! ### The command -/

/-- The scrub does not rest while the module refreshes itself where it reads a Palette. -/
theorem yields_patrolScrubRead {s : State} {m : ScrubMem} {w : WordErrors} {P : State → Prop}
    (hrest : isPal (scrubOff s.hw m) = true ∨ s.hw.memctl.selfRefresh = false)
    (hp : P { s with hw := scrubEnded (scrubHandled s.hw m w) m (scrubIndex s.hw m) }) :
    Yields (.patrolScrubRead m w) s P := by
  refine yields_run (exec_patrolScrubRead m w s) (if_neg ?_) hp
  rw [isPal_scrubOff] at hrest
  rcases hrest with h | h <;> simp [h]

theorem patrolScrubRead_corrects (s : State) (m : ScrubMem) (w : WordErrors)
    (hrest : isPal (scrubOff s.hw m) = true ∨ s.hw.memctl.selfRefresh = false) (hb : scrubBits s.hw m w.bits < 3) :
    Yields (.patrolScrubRead m w) s (fun t => (t.hw.mem.cells = s.hw.mem.cells ∧
        SMap.get 0 t.hw.memctl.scrubPos (scrubKey m) = (scrubIndex s.hw m + 1) % (scrubRange m).2) ∧
      SMap.get 0 t.hw.mem.ecc (scrubOff s.hw m / 8) = 0 ∧
      (∀ k, k ≠ scrubOff s.hw m / 8 → SMap.get 0 t.hw.mem.ecc k = SMap.get 0 s.hw.mem.ecc k) ∧
      (∀ e, m = .palette e → scrubBits s.hw m w.bits ≠ 0 → Counts s t (blkBase (.easel e) + 0x40) 1) ∧
      t.hw.easels = s.hw.easels) := by
  refine yields_patrolScrubRead hrest ?_
  obtain ⟨heasels, hpos, hcells, hecc⟩ := scrubHandled_corrects s.hw m hb
  obtain ⟨_, hend⟩ := scrubEnded_frame (scrubHandled s.hw m w) m (scrubIndex s.hw m)
  rw [hend]
  refine ⟨⟨hcells, ?_⟩, ?_, fun k hk => ?_, ?_, heasels⟩
  · exact (congrArg (SMap.get 0 · (scrubKey m)) hpos).trans (SMap.get_put_same ..)
  · exact (hecc _).trans (if_pos rfl)
  · exact (hecc k).trans (if_neg hk)
  · rintro e rfl h0
    exact scrubHandled_counts s.hw e hb h0

theorem patrolScrubRead_reports (s : State) (e : EaselId) (w : WordErrors) {c : CtxId}
    (hb : 3 ≤ scrubBits s.hw (.palette e) w.bits) (hl : (s.hw.easel e).loaded = some c) (hr : RunsClean s c) :
    Yields (.patrolScrubRead (.palette e) w) s (fun t => (t.hw.mem.cells = s.hw.mem.cells ∧
        SMap.get 0 t.hw.memctl.scrubPos (scrubKey (.palette e)) =
          (scrubIndex s.hw (.palette e) + 1) % (scrubRange (.palette e)).2) ∧
      SMap.get 0 t.hw.mem.ecc (scrubOff s.hw (.palette e) / 8) = scrubBits s.hw (.palette e) w.bits ∧
      TakesPrimary t c 0x01 (BitVec.ofNat 64 (scrubOff s.hw (.palette e))) ∧
      Counts s t (blkBase (.easel e) + 0x48) 1) := by
  refine yields_patrolScrubRead (.inl (isPal_scrubOff_palette ..)) ?_
  obtain ⟨hmem, hctl, hfault, hcount⟩ := scrubHandled_reports s e hb hl hr
  have hcells : (scrubMet s.hw (.palette e) w).mem.cells = s.hw.mem.cells := rfl
  have hend : scrubEnded (scrubHandled s.hw (.palette e) w) (.palette e) (scrubIndex s.hw (.palette e)) =
      scrubHandled s.hw (.palette e) w :=
    if_neg (by rw [(isPal_scrubRange _).mpr ⟨e, rfl⟩]; simp)
  rw [hend]
  dsimp only at hmem hctl ⊢
  rw [hmem, hctl]
  exact ⟨⟨hcells, SMap.get_put_same ..⟩, SMap.get_set_same .., hfault, hcount⟩

/-- While the module refreshes itself only Palettes are scrubbed (R187). -/
theorem patrolScrubRead_rests (s : State) (m : ScrubMem) (w : WordErrors) (hm : ∀ e, m ≠ .palette e)
    (hr : s.hw.memctl.selfRefresh = true) : Yields (.patrolScrubRead m w) s (fun t => t = s) := by
  refine yields_unchanged (exec_patrolScrubRead m w s) (if_pos ?_)
  have hp : isPal (scrubRange m).1 = false := by
    rw [← Bool.not_eq_true, isPal_scrubRange]
    rintro ⟨e, he⟩
    exact hm e he
  rw [hr, hp]
  rfl

end Sys2Proof.Machine
end

section
/-! Proofs about the sensors, refresh and channels of the memories (R173, R174, R180, R184). -/

namespace Sys2Proof.Machine

/-! ### Masks of one bit -/

theorem getLsbD_oneBit {w n m : Nat} (hm : m < w) : (1#w <<< n).getLsbD m = decide (m = n) := by
  rw [BitVec.getLsbD_shiftLeft, BitVec.getLsbD_one, Bool.eq_iff_iff]
  simp only [Bool.and_eq_true, Bool.not_eq_true', decide_eq_true_eq, decide_eq_false_iff_not]
  omega

theorem getLsbD_markBit {w : Nat} (x : BitVec w) {n m : Nat} (hm : m < w) :
    (x ||| 1#w <<< n).getLsbD m = (x.getLsbD m || decide (m = n)) := by
  rw [BitVec.getLsbD_or, getLsbD_oneBit hm]

theorem getLsbD_clearBit {w : Nat} (x : BitVec w) {n m : Nat} (hm : m < w) :
    (x &&& ~~~(1#w <<< n)).getLsbD m = (x.getLsbD m && decide (m ≠ n)) := by
  rw [BitVec.getLsbD_and, BitVec.getLsbD_not, getLsbD_oneBit hm]
  simp [hm]

/-! ### Canvas refresh -/

/-- The hardware with the reading taken and the refresh set from it. -/
def canvasRead (h : Hw) (n : Fin 32) (v : Int) : Hw :=
  refreshFrom (h.setCanvasSensor n.val { h.canvasSensor n.val with reading := v }) (Fin.ofNat 2 (n.val / 16))

theorem exec_canvasTempSample (n : Fin 32) (v : Int) (s : State) : exec (.canvasTempSample n v) s =
    .next { s with hw :=
      if !(s.hw.canvasSensor n.val).failed && decide (105 ≤ v) then trip (canvasRead s.hw n v) 1 n.val
      else canvasRead s.hw n v } := rfl

theorem canvasSensor_setCanvasSensor (h : Hw) (n : Nat) (x : Sensor) : (h.setCanvasSensor n x).canvasSensor n = x :=
  SMap.get_put_same ..

/-- A stack's sensors are among those that its refresh follows. -/
theorem canvasSensor_mem_dieSensors (h : Hw) (n : Fin 32) :
    h.canvasSensor n.val ∈ dieSensors h (Fin.ofNat 2 (n.val / 16)) := by
  refine List.mem_map.mpr ⟨n.val % 16, List.mem_range.mpr (by omega), congrArg h.canvasSensor ?_⟩
  simp only [Fin.ofNat]
  omega

/-- What a reading of a sensor that has not failed makes of its stack's refresh. -/
theorem canvasRead_refresh (h : Hw) (n : Fin 32) (v : Int) (hf : (h.canvasSensor n.val).failed = false) :
    (85 < v → (canvasRead h n v).memctl.refresh2x.getLsbD (n.val / 16) = true) ∧
    (82 < v → SMap.find (canvasRead h n v).memctl.coolSince (n.val / 16) = none) ∧
    (h.memctl.refresh2x.getLsbD (n.val / 16) = true →
      (canvasRead h n v).memctl.refresh2x.getLsbD (n.val / 16) = true) := by
  have hd : (Fin.ofNat 2 (n.val / 16)).val = n.val / 16 := Nat.mod_eq_of_lt (by omega)
  have hlt : n.val / 16 < 2 := by omega
  have hmem : v ∈ (dieSensors (h.setCanvasSensor n.val { h.canvasSensor n.val with reading := v })
      (Fin.ofNat 2 (n.val / 16))).map refreshReading := by
    refine List.mem_map.mpr ⟨_, canvasSensor_mem_dieSensors _ n, ?_⟩
    rw [canvasSensor_setCanvasSensor, refreshReading, hf, if_neg Bool.false_ne_true]
  unfold canvasRead refreshFrom
  dsimp only
  rw [hd]
  generalize (dieSensors _ _).map refreshReading = l at hmem
  refine ⟨fun h85 => ?_, fun h82 => ?_, fun hon => ?_⟩
  · have hhot : l.any (fun t => decide (85 < t)) = true := List.any_eq_true.mpr ⟨v, hmem, decide_eq_true h85⟩
    rw [if_pos hhot, getLsbD_markBit _ hlt]
    simp
  · have hwarm : l.all (fun t => decide (t ≤ 82)) = false := by
      rw [List.all_eq_false]
      exact ⟨v, hmem, by simpa using h82⟩
    rw [hwarm, Bool.not_false, if_pos rfl, SMap.find_del_same]
  · split
    · rw [getLsbD_markBit _ hlt]
      exact Bool.or_eq_true_iff.mpr (.inl hon)
    · exact hon

theorem canvasTempSample_cool (s : State) (n : Fin 32) (v : Int) (hf : (s.hw.canvasSensor n.val).failed = false)
    (hv : v < 105) : Yields (.canvasTempSample n v) s (fun t =>
      t.hw.canvasSensor n.val = { s.hw.canvasSensor n.val with reading := v } ∧
      (85 < v → t.hw.memctl.refresh2x.getLsbD (n.val / 16) = true) ∧
      (82 < v → SMap.find t.hw.memctl.coolSince (n.val / 16) = none) ∧
      (s.hw.memctl.refresh2x.getLsbD (n.val / 16) = true → t.hw.memctl.refresh2x.getLsbD (n.val / 16) = true) ∧
      t.hw.mem = s.hw.mem) := by
  refine yields_run (exec_canvasTempSample n v s) (if_neg ?_) ?_
  · simpa [hf] using hv
  · obtain ⟨hhot, hwarm, hon⟩ := canvasRead_refresh s.hw n v hf
    exact ⟨canvasSensor_setCanvasSensor .., hhot, hwarm, hon, rfl⟩

theorem canvasTempSample_trips (s : State) (n : Fin 32) (v : Int) (hf : (s.hw.canvasSensor n.val).failed = false)
    (hv : 105 ≤ v) (ht : s.hw.thm.tripped = false) (hp : s.hw.flt.powerCycle = false) :
    Yields (.canvasTempSample n v) s (fun t => t.hw.thm.tripped = true ∧ t.hw.pins.thermtrip = true ∧
      t.hw.reg 0x80030 = (put 1 0 3 ||| put n.val 3 8 ||| bitw true 63) ∧ AsksPowerCycle t 0) := by
  refine yields_run (exec_canvasTempSample n v s) (if_pos ?_) ?_
  · simpa [hf] using hv
  · have ht' : (canvasRead s.hw n v).thm.tripped = false := ht
    have hp' : (canvasRead s.hw n v).flt.powerCycle = false := hp
    exact trip_trips ht' hp' 1 n.val s.pending

theorem canvasRefreshRestore_ends (s : State) (d : Fin 2) {t0 : Nat}
    (hc : SMap.find s.hw.memctl.coolSince d.val = some t0) (hn : t0 + 10000000 ≤ s.hw.now) :
    Yields (.canvasRefreshRestore d) s (fun t => t.hw.memctl.refresh2x.getLsbD d.val = false ∧
      ∀ d', d' ≠ d.val → t.hw.memctl.refresh2x.getLsbD d' = s.hw.memctl.refresh2x.getLsbD d') := by
  refine ⟨_, rfl, ?_⟩
  dsimp only
  rw [hc]
  dsimp only
  rw [if_neg (by omega)]
  refine ⟨?_, fun d' hd' => ?_⟩
  · rw [getLsbD_clearBit _ d.isLt]
    simp
  · by_cases hlt : d' < 2
    · rw [getLsbD_clearBit _ hlt]
      simp [hd']
    · rw [BitVec.getLsbD_of_ge _ _ (by omega), BitVec.getLsbD_of_ge _ _ (by omega)]

theorem canvasRefreshRestore_waits (s : State) (d : Fin 2) {t0 : Nat}
    (hc : SMap.find s.hw.memctl.coolSince d.val = some t0) (hn : s.hw.now < t0 + 10000000) :
    Yields (.canvasRefreshRestore d) s (fun t => t = s) := by
  refine yields_unchanged rfl ?_
  dsimp only
  rw [hc]
  exact if_pos hn

/-! ### Channels of LPDDR6 -/

/-- The hardware at the decision to mark a channel down. -/
def channelMarked (h : Hw) (ch : Fin 96) : Hw :=
  raiseEv { h with memctl := { h.memctl with
    chLost := SMap.del h.memctl.chLost ch.val, chUp := h.memctl.chUp &&& ~~~(1#96 <<< ch.val) } } 0x084
    (ch.val + 256) []

/-- A channel marked down stays out, with its event, and the chip recovers. -/
theorem channelDown_marks (s : State) (ch : Fin 96) (hp : s.hw.flt.powerCycle = false)
    (hr : s.hw.flt.recoveries = []) (hc : ∀ c ∈ s.hw.flt.captures, c.isOpen = false) :
    let t : State := { s with hw := channelDown s.hw ch }
    t.hw.memctl.chUp.getLsbD ch.val = false ∧
      (∀ n, n < 96 → n ≠ ch.val → t.hw.memctl.chUp.getLsbD n = s.hw.memctl.chUp.getLsbD n) ∧
      Pends t 0x084 (ch.val + 256) ∧ BeginsRecovery s t .chip 0x06 ∧ t.hw.mem = s.hw.mem := by
  obtain ⟨hrec, hmem, hup, hpend⟩ := chipFault_begins (h := channelMarked s.hw ch) hp hr hc 0x06 s.pending
  have hup' : (channelDown s.hw ch).memctl.chUp = s.hw.memctl.chUp &&& ~~~(1#96 <<< ch.val) := hup
  refine ⟨?_, fun n hn hne => ?_, ?_, hrec, hmem⟩
  · rw [hup', getLsbD_clearBit _ ch.isLt]
    simp
  · rw [hup', getLsbD_clearBit _ hn]
    simp [hne]
  · exact hpend 0x084 (ch.val + 256) (by decide) (by decide) (by decide) (pends_raiseEv ..)

theorem lpddr6ChannelRetrain_lost (s : State) (ch : Fin 96) (hl : SMap.find s.hw.memctl.chLost ch.val = none)
    (hu : s.hw.memctl.chUp.getLsbD ch.val = true) :
    Yields (.lpddr6ChannelRetrain ch .lost) s (fun t =>
      SMap.find t.hw.memctl.chLost ch.val = some s.hw.now ∧
      Counts s t (blkBase (.lpm (Fin.ofNat 2 (ch.val / 48))) + 0x50) 1 ∧ t.hw.mem = s.hw.mem) := by
  refine yields_run rfl (if_neg (by simp [hl, hu])) ⟨SMap.find_put_same .., ?_, rfl⟩
  exact Hw.reg_count { s.hw with memctl := { s.hw.memctl with
    chLost := SMap.put s.hw.memctl.chLost ch.val s.hw.now } } _ 1

theorem lpddr6ChannelRetrain_done (s : State) (ch : Fin 96) {t0 : Nat}
    (hl : SMap.find s.hw.memctl.chLost ch.val = some t0) :
    Yields (.lpddr6ChannelRetrain ch .done) s (fun t => SMap.find t.hw.memctl.chLost ch.val = none ∧
      Pends t 0x084 ch.val ∧ t.hw.memctl.chUp = s.hw.memctl.chUp ∧ t.hw.mem = s.hw.mem) :=
  yields_run rfl (if_neg (by simp [hl])) ⟨SMap.find_del_same .., pends_raiseEv .., rfl, rfl⟩

theorem exec_lpddr6ChannelRetrain_failed (s : State) (ch : Fin 96) {t0 : Nat}
    (hl : SMap.find s.hw.memctl.chLost ch.val = some t0) :
    exec (.lpddr6ChannelRetrain ch .failed) s = .next { s with hw := channelDown s.hw ch } := by
  refine congrArg (fun g => Host.Outcome.next { s with hw := g }) (if_pos ?_)
  rw [hl]
  rfl

theorem exec_lpddr6RetrainTimeout (s : State) (ch : Fin 96) {t0 : Nat}
    (hl : SMap.find s.hw.memctl.chLost ch.val = some t0) : exec (.lpddr6RetrainTimeout ch) s =
      .next { s with hw := if t0 + 2000000 ≤ s.hw.now then channelDown s.hw ch else s.hw } := by
  change execLpddr6RetrainTimeout ch s = _
  unfold execLpddr6RetrainTimeout run
  dsimp only
  rw [hl]

/-! ### Packages of LPDDR6 -/

theorem lpddr6TempRead_celsius (s : State) (p : Fin 24) (v rate : Nat) :
    Yields (.lpddr6TempRead p (.celsius v rate)) s (fun t =>
      SMap.get 0 t.hw.memctl.pkgTemp p.val = v ∧ SMap.get 0 t.hw.memctl.pkgRate p.val = rate ∧
      t.hw.memctl.pkgHigh = s.hw.memctl.pkgHigh ∧
      (95 ≤ v → Pends t 0x083 (p.val + min v 255 * 65536)) ∧ (v < 95 → t.hw.evc = s.hw.evc)) := by
  by_cases hv : 95 ≤ v
  · exact yields_run rfl (if_pos hv) ⟨SMap.get_put_same .., SMap.get_put_same .., rfl, fun _ => pends_raiseEv ..,
      fun h => absurd hv (by omega)⟩
  · exact yields_run rfl (if_neg hv) ⟨SMap.get_put_same .., SMap.get_put_same .., rfl, fun h => absurd h hv,
      fun _ => rfl⟩

theorem getLsbD_pkgMark (x : BitVec 24) (p : Fin 24) : (x ||| 1#24 <<< p.val).getLsbD p.val = true := by
  rw [getLsbD_markBit x p.isLt]
  simp

theorem lpddr6TempRead_beyondRange (s : State) (p : Fin 24) (v : Nat) :
    Yields (.lpddr6TempRead p (.beyondRange v)) s (fun t =>
      SMap.get 0 t.hw.memctl.pkgTemp p.val = v ∧ t.hw.memctl.pkgHigh.getLsbD p.val = true) := by
  by_cases hv : 95 ≤ v
  · exact yields_run rfl (if_pos hv) ⟨SMap.get_put_same .., getLsbD_pkgMark ..⟩
  · exact yields_run rfl (if_neg hv) ⟨SMap.get_put_same .., getLsbD_pkgMark ..⟩

theorem lpddr6TempRead_unreadable (s : State) (p : Fin 24) :
    Yields (.lpddr6TempRead p .unreadable) s (fun t =>
      t.hw.memctl.pkgHigh.getLsbD p.val = true ∧ Pends t 0x083 (p.val + 256)) :=
  yields_run rfl rfl ⟨getLsbD_pkgMark .., pends_raiseEv ..⟩

end Sys2Proof.Machine

namespace Sys2Proof
open Sys2Proof.Machine

/-- Settles O36: each read of the scrub corrects or reports its word, readings set the refresh, the event and the trip,
and a channel that fails to retrain is marked down with recovery of the chip. -/
theorem memoriesScrubRefreshAndRetrain : Obligations.MemoriesScrubRefreshAndRetrain := by
  intro s
  refine ⟨fun m n path => ⟨?_, ?_, ?_⟩, fun n v hf => ⟨?_, ?_⟩, fun d t0 hc => ⟨?_, ?_⟩, fun ch => ?_, fun p v => ?_⟩
  · exact fun _ hrest hb => patrolScrubRead_corrects s m ⟨n, path⟩ hrest hb
  · rintro e c rfl hb hl hr
    exact patrolScrubRead_reports s e ⟨n, path⟩ hb hl hr
  · exact patrolScrubRead_rests s m ⟨n, path⟩
  · exact canvasTempSample_cool s n v hf
  · exact canvasTempSample_trips s n v hf
  · exact canvasRefreshRestore_ends s d hc
  · exact canvasRefreshRestore_waits s d hc
  · refine ⟨yields_unchanged rfl rfl, lpddr6ChannelRetrain_lost s ch, fun t0 hl => ⟨?_, ?_, fun hn => ?_, fun hn => ?_⟩⟩
    · exact lpddr6ChannelRetrain_done s ch hl
    · exact fun hp hr hc => ⟨_, exec_lpddr6ChannelRetrain_failed s ch hl, channelDown_marks s ch hp hr hc⟩
    · exact fun hp hr hc => yields_run (exec_lpddr6RetrainTimeout s ch hl) (if_pos hn) (channelDown_marks s ch hp hr hc)
    · exact yields_unchanged (exec_lpddr6RetrainTimeout s ch hl) (if_neg (by omega))
  · exact ⟨lpddr6TempRead_celsius s p v, lpddr6TempRead_beyondRange s p v, lpddr6TempRead_unreadable s p⟩

end Sys2Proof
end

section
/-! Proofs that what a context is saved with is steady: the engines stopped at a boundary, slots folded, accumulators
written back; and that a context switched out is loaded nowhere (R425, R442). -/

namespace Sys2Proof.Machine

section
variable {keep : PortId → Prop} {h0 h : Hw} (hs : Steady keep h0 h)
include hs

/-! ### Writes of engines -/

theorem Steady.touchTile {v : View} {d : TDesc} : Steady keep h0 (touchTile h v d) :=
  hs.foldl (fun _ _ hg => hg.touchView) _

theorem Steady.takeSlots (l : List SketchSlot) : Steady keep h0 (takeSlots h l) := by
  induction l generalizing h with
  | nil => exact hs
  | cons s l ih =>
    have hp : Steady keep h0 (Machine.perfAdd (putSlot h s) s.ctx 8 (popc 64 s.mask.toNat)) := hs.alike rfl
    refine .ite (ih (hp.countWrap ?_)) hs
    simp only [OpenReg, blkBase]
    omega

theorem Steady.touchMerge {off n : Nat} : Steady keep h0 (touchMerge h off n) := by
  have h1 : Steady keep h0 (if off % 8 = 0 then h else Machine.touchRead h off 1) := .ite hs hs.touchRead
  exact .ite h1 h1.touchRead

theorem Steady.writeLocal {off : Nat} {b : Bytes} : Steady keep h0 (writeLocal h off b) :=
  Steady.alike (hs.touchMerge (off := off) (n := b.length)) (by rfl)

theorem Steady.applyWrites {ws : List Wr} : Steady keep h0 (applyWrites h ws) :=
  hs.foldl (fun _ _ hg => hg.writeLocal) _

theorem Steady.performWrites {e : EaselId} {q : Engine} {i : QEntry} {plain sk : List Wr} :
    Steady keep h0 (performWrites h e q i plain sk) := by
  have h1 := hs.applyWrites (ws := plain) |>.takeSlots (slotsOf i e sk)
  exact .ite (h1.foldl (fun _ _ hg => hg.dropLines) _) h1

theorem Steady.performPart {e : EaselId} {q : Engine} {i : QEntry} {n : Nat} :
    Steady keep h0 (performPart h e q i n) := by
  have h1 : Steady keep h0 ((engSources i).foldl (fun g d => Machine.touchTile g (i.view e) d) h) :=
    hs.foldl (fun _ _ hg => hg.touchTile) _
  unfold Machine.performPart
  refine .ite (Steady.performWrites (Steady.modEasel ?_)) (Steady.performWrites (Steady.modEasel ?_)) <;> split
  · exact h1.modEasel
  · exact h1
  · exact h1.modEasel
  · exact h1

theorem Steady.countCe {c : CtxId} {t : Target} {n : Nat} : Steady keep h0 (countCe h c t n) := by
  unfold Machine.countCe
  split <;> exact hs.perfAdd

theorem Steady.ceWrites {e : EaselId} {i : QEntry} {idxs : List Nat} : Steady keep h0 (ceWrites h e i idxs).h := by
  refine List.foldlRecOn idxs _ (motive := fun r : CeWrites => Steady keep h0 r.h) hs fun r hr k _ => ?_
  split
  · exact hr
  next t _ =>
  split
  · split
    · exact hr
    · dsimp only
      split
      · next b h1 hd =>
        have h1s : Steady keep h0 h1 := by
          split at hd
          · obtain ⟨-, rfl⟩ := Prod.mk.inj (Option.some.inj hd)
            exact hr
          · exact hr.readSource hd
        split
        · dsimp only
          exact h1s.countCe
        · dsimp only
          exact h1s.countCe
      · exact hr
  · exact hr.countCe

/-! ### Engines that stop -/

theorem Steady.stopAtBoundary {e : EaselId} {q : Engine} : Steady keep h0 (stopAtBoundary h e q) := by
  unfold Machine.stopAtBoundary
  split
  · exact hs
  · exact .ite hs (Steady.performPart (h := h.useFree) (hs.alike (by rfl))).modEntry

theorem Steady.stopCopy {e : EaselId} {i : QEntry} : Steady keep h0 (stopCopy h e i) :=
  .ite hs (Steady.ceWrites (h := h.useFree) (hs.alike (by rfl))).performWrites.modEntry

theorem Steady.stopEngines {e : EaselId} : Steady keep h0 (stopEngines h e) :=
  hs.stopAtBoundary.stopAtBoundary.foldl (fun _ _ hg => hg.stopCopy) _

/-! ### Slots folded -/

theorem Steady.foldFault {s : SketchSlot} {cls : BitVec 8} {addr : Nat} : Steady keep h0 (foldFault h s cls addr) :=
  hs.recordFault

theorem Steady.foldWord {s : SketchSlot} {w : Nat} : Steady keep h0 (foldWord s h w) :=
  .ite hs (.ite hs.foldFault (Steady.alike (Steady.ite (p := _) (hs.touchRead (a := 8 * w) (n := 8)) hs) (by rfl)))

theorem Steady.foldSlot {sl : SketchSlot} {bad : Bool} : Steady keep h0 (foldSlot h sl bad) := by
  have h1 : Steady keep h0 { h with mem := { h.mem with unfolded := h.mem.unfolded.erase sl } } := hs.alike rfl
  unfold Machine.foldSlot
  dsimp only
  split
  · exact h1.reportUe.foldFault
  · exact .ite h1.foldFault ((h1.foldl (fun _ _ hg => hg.touchRead) _).foldl (fun _ _ hg => hg.foldWord) _)

theorem Steady.foldPalette {e : EaselId} : Steady keep h0 (foldPalette h e) := hs.foldl (fun _ _ hg => hg.foldSlot) _

/-! ### Accumulators and Palettes saved -/

theorem Steady.countAcc {e : EaselId} {n : Nat} {ue : Bool} : Steady keep h0 (countAcc h e n ue) := by
  have hk : Steady keep h0 ((h.count (blkBase (.easel e) + 0x40 + if ue then 8 else 0) n).count
      (blkBase (.cnv (dieOf e)) + 0x30 + if ue then 8 else 0) n) := by
    refine (hs.count ?_).count ?_ <;> simp only [OpenReg, blkBase] <;> omega
  exact .ite hs (.ite hk hk.logAcc)

theorem Steady.saveAcc {e : EaselId} : Steady keep h0 (saveAcc h e) := by
  unfold Machine.saveAcc
  exact hs.countAcc.modEasel

theorem Steady.readyToSave {e : EaselId} : Steady keep h0 (readyToSave h e) :=
  hs.stopEngines.foldPalette.touchRead.saveAcc

theorem Steady.unloadEasel {c : CtxId} {e : EaselId} : Steady keep h0 (unloadEasel h c e) := by
  have hr := hs.readyToSave (e := e)
  refine .ite hs ?_
  generalize Machine.readyToSave h e = g at hr ⊢
  exact hr.alike rfl

theorem Steady.pauseGlaze {c : CtxId} : Steady keep h0 (pauseGlaze h c) := hs.alike rfl

theorem Steady.endCmds {op : Nat} {c : CtxId} {status : BitVec 8} : Steady keep h0 (endCmds h op c status) :=
  hs.trans ((HostOnly.refl h).endCmds.steady.mono fun _ _ => trivial)

/-- What is loaded changes in one way before and after. -/
theorem Steady.mapLoaded (f : SMap CtxId → SMap CtxId) : Steady keep
    { h0 with ctxs := { h0.ctxs with loaded := f h0.ctxs.loaded } }
    { h with ctxs := { h.ctxs with loaded := f h.ctxs.loaded } } :=
  ⟨hs.pins, hs.tray, hs.thm, hs.pwr, hs.powerCycle, hs.recoveries, congrArg f hs.loaded, hs.port, hs.reg, hs.pending,
    hs.payload⟩

end

/-! ### Contexts switched out -/

/-- The hardware with a context taken from every partition. -/
def unlisted (h : Hw) (c : CtxId) : Hw :=
  { h with ctxs := { h.ctxs with loaded := h.ctxs.loaded.filter (fun p => p.2 != c) } }

theorem unloadCtx_steady (h : Hw) (c : CtxId) : Steady (fun _ => True) (unlisted h c) (unloadCtx h c) :=
  Steady.mapLoaded ((Steady.refl _ h).foldl (fun _ _ hg => hg.unloadEasel) _) (fun l => l.filter (fun p => p.2 != c))

/-- Switching a context out takes it from its partitions, and leaves the others where they are. -/
theorem switchOut_steady (h : Hw) (c : CtxId) : Steady (fun _ => True) (unlisted h c) (switchOut h c) := by
  have hp : Steady (fun _ => True) (unlisted h c) (unlisted (pauseGlaze h c) c) :=
    (Steady.refl _ h).pauseGlaze.mapLoaded (fun l => l.filter (fun p => p.2 != c))
  have hu := hp.trans (unloadCtx_steady (pauseGlaze h c) c)
  unfold switchOut
  dsimp only
  generalize unloadCtx (pauseGlaze h c) c = g at hu ⊢
  have hd : Steady (fun _ => True) (unlisted h c) ((dropStaging g c).modCtx c (fun y => { y with
      due := false, ranFor := 0
      waitSince := (maskParts y.mask).foldl (fun m p => SMap.put m p.val h.now) y.waitSince })) :=
    Steady.modCtx (h := dropStaging g c) (hu.alike (by rfl))
  generalize (dropStaging g c).modCtx c _ = k at hd ⊢
  split
  · exact .ite hd.setCtxState.endCmds hd.setCtxState
  · exact (Steady.ite hd.closeWhere.setCtxState hd.closeWhere).endCmds
  · exact hd.endCmds

/-- After contexts have been switched out one by one, none of them is loaded and no other has come. -/
theorem mem_loaded_foldl_switchOut (l : List CtxId) (h : Hw) {q : Nat × CtxId}
    (hq : q ∈ (l.foldl switchOut h).ctxs.loaded) : q ∈ h.ctxs.loaded ∧ q.2 ∉ l := by
  induction l generalizing h with
  | nil => exact ⟨hq, List.not_mem_nil⟩
  | cons c l ih =>
    obtain ⟨hm, hl⟩ := ih (switchOut h c) hq
    rw [(switchOut_steady h c).loaded] at hm
    obtain ⟨hm, hne⟩ := List.mem_filter.mp hm
    exact ⟨hm, List.not_mem_cons_of_ne_of_not_mem (by simpa using hne) hl⟩

theorem pwr_foldl_switchOut (l : List CtxId) (h : Hw) : (l.foldl switchOut h).pwr = h.pwr := by
  induction l generalizing h with
  | nil => rfl
  | cons c l ih => exact (ih _).trans (switchOut_steady h c).pwr

theorem SMap.mem_of_find {α : Type} {m : SMap α} {k : Nat} {v : α} (h : SMap.find m k = some v) : (k, v) ∈ m := by
  induction m with
  | nil => cases h
  | cons c m ih =>
    obtain ⟨j, w⟩ := c
    rw [SMap.find] at h
    split at h
    · next hj =>
      obtain rfl := Option.some.inj h
      exact hj ▸ List.mem_cons_self
    · exact List.mem_cons_of_mem _ (ih h)

/-- A context that is loaded on some partition is listed. -/
theorem exists_loaded_of_mem_loadedOn {h : Hw} {ps : BitVec 4} {c : CtxId} (hc : c ∈ loadedOn h ps) :
    ∃ k, (k, c) ∈ h.ctxs.loaded := by
  obtain ⟨-, hp⟩ := List.mem_filter.mp hc
  obtain ⟨p, -, hp⟩ := List.any_eq_true.mp hp
  exact ⟨p.val, SMap.mem_of_find (by simpa [partCtx] using hp)⟩

/-- Switching out all that is loaded leaves none of it loaded. -/
theorem not_mem_loadedOn_foldl_switchOut (h g : Hw) (hg : g.ctxs = ((loadedOn h 15).foldl switchOut h).ctxs) {c : CtxId}
    (hc : c ∈ loadedOn h 15) : c ∉ loadedOn g 15 := by
  intro hm
  obtain ⟨k, hk⟩ := exists_loaded_of_mem_loadedOn hm
  rw [hg] at hk
  exact (mem_loaded_foldl_switchOut _ _ hk).2 hc

end Sys2Proof.Machine
end

section
/-! Proofs about the clamps of Table 15-2: what each sets, what it counts, and how it ends (R461, R463). -/

namespace Sys2Proof.Machine

/-! ### F_warn and the interval -/

theorem warnF_le_of_warned {h : Hw} (hw : h.pwr.pinWarn = true ∨ h.pwr.uvWarn = true) (e : EaselId) :
    warnF h e ≤ 16 := by
  unfold warnF
  split_ifs with _ h2
  · exact Nat.zero_le _
  · exact Nat.le_refl _
  · rcases hw with hw | hw <;> simp [hw] at h2

theorem warnF_eq_zero_of_droop {h : Hw} {e : EaselId} (hd : h.pwr.droop.getLsbD (dieOf e).val = true) :
    warnF h e = 0 := by
  rw [warnF, hd, Bool.or_true, if_pos rfl]

theorem foldl_min_le (l : List Nat) (a : Nat) : l.foldl Nat.min a ≤ a ∧ ∀ x ∈ l, l.foldl Nat.min a ≤ x := by
  induction l generalizing a with
  | nil => exact ⟨Nat.le_refl _, fun x hx => absurd hx List.not_mem_nil⟩
  | cons y l ih =>
    obtain ⟨ha, hl⟩ := ih (Nat.min a y)
    refine ⟨ha.trans (Nat.min_le_left ..), fun x hx => ?_⟩
    rcases List.mem_cons.mp hx with rfl | hx
    · exact ha.trans (Nat.min_le_right ..)
    · exact hl x hx

/-- An easel in force under a warning throttles the module. -/
theorem throttled_of_warnF {h : Hw} {e : EaselId} (he : e ∈ h.bru.enabled) (hw : warnF h e ≤ 16) :
    throttled h = true := by
  have hle := (foldl_min_le (h.bru.enabled.map (fun e => Nat.min (h.easel e).flim (warnF h e))) 64).2 _
    (List.mem_map_of_mem he)
  have hlt : lowestF h < 64 :=
    Nat.lt_of_le_of_lt (hle.trans ((Nat.min_le_right ..).trans hw)) (by decide)
  rw [throttled, decide_eq_true hlt, Bool.true_or]

/-! ### Setting a clamp -/

theorem boostDrop_frame (h : Hw) : ∃ easels,
    boostDrop h = { h with easels := easels, pwr := { h.pwr with target := 2100 } } := by
  unfold boostDrop
  split
  · next ht => exact ⟨h.easels, by rw [← ht]⟩
  · exact setClocks_frame h 2100

/-- The hardware with a clamp set, boost dropped and the clamp counted at `off`. -/
def clampSet (h : Hw) (pwr : Power) (off : Nat) : Hw := (boostDrop { h with pwr := pwr }).count off 1

/-- From `h`, clamps are as `pwr` has them, the boost target is at 2.1 GHz, and the counter at `off` has counted. -/
def ClampsTo (h : Hw) (pwr : Power) (off : Nat) (k : Hw) : Prop :=
  (∃ easels regs evc, k = { h with easels := easels, regs := regs, evc := evc, pwr := { pwr with target := 2100 } }) ∧
    k.reg off = BitVec.ofNat 64 (min ((h.reg off).toNat + 1) (2 ^ 32 - 1))

theorem clampsTo_clampSet (h : Hw) (pwr : Power) (off : Nat) : ClampsTo h pwr off (clampSet h pwr off) := by
  obtain ⟨easels, hfr⟩ := boostDrop_frame { h with pwr := pwr }
  rw [clampSet, hfr]
  exact ⟨⟨easels, _, h.evc, rfl⟩, Hw.reg_count ..⟩

theorem ClampsTo.raiseEv {h : Hw} {pwr : Power} {off : Nat} {k : Hw} (hk : ClampsTo h pwr off k) {src p : Nat}
    {d : List Word} (hoff : off ≠ 0x40200 + 8 * (src / 64)) : ClampsTo h pwr off (raiseEv k src p d) := by
  obtain ⟨⟨easels, regs, evc, hfr⟩, hcount⟩ := hk
  have hreg := (raiseEv_reg_ne k src p d hoff).trans hcount
  subst hfr
  exact ⟨⟨easels, _, _, rfl⟩, hreg⟩

/-- A clamp on an easel in force opens an interval and leaves its counter; no clamp changes with it. -/
theorem ClampsTo.throttleStep {h : Hw} {pwr : Power} {off : Nat} {k : Hw} (hk : ClampsTo h pwr off k) (before : Bool)
    (h1 : off ≠ 0x40200) (h2 : off ≠ 0x70078) {e : EaselId} (he : e ∈ h.bru.enabled)
    (hw : warnF { h with pwr := pwr } e ≤ 16) :
    (throttleStep before k).pwr.target = 2100 ∧
      (throttleStep before k).reg off = BitVec.ofNat 64 (min ((h.reg off).toNat + 1) (2 ^ 32 - 1)) ∧
      (throttleStep before k).mem = h.mem ∧ (throttleStep before k).pwr.thrOpen = true ∧
      (throttleStep before k).pwr.pinWarn = pwr.pinWarn ∧ (throttleStep before k).pwr.uvWarn = pwr.uvWarn ∧
      (throttleStep before k).pwr.droop = pwr.droop := by
  obtain ⟨⟨easels, regs, evc, hfr⟩, hcount⟩ := hk
  have hopen : (Machine.throttleStep before k).pwr.thrOpen = true := by
    subst hfr
    exact throttleStep_open before (throttled_of_warnF (e := e) he hw)
  have hreg := (throttleStep_reg_ne before k h1 h2).trans hcount
  obtain ⟨_, _, _, _, _, _, _, _, hthr⟩ := throttleStep_frame before k
  rw [hthr] at hopen hreg ⊢
  subst hfr
  exact ⟨rfl, hreg, rfl, hopen, rfl, rfl, rfl⟩

/-! ### PWRWARN# and the undervoltage -/

theorem exists_enabled {h : Hw} (he : h.bru.enabled ≠ []) : ∃ e, e ∈ h.bru.enabled := List.exists_mem_of_ne_nil _ he

theorem pwrwarnAssert_clamps (s : State) (hp : s.hw.pwr.pinWarn = false) (he : s.hw.bru.enabled ≠ []) :
    Yields .pwrwarnAssert s (fun t => t.hw.pwr.pinWarn = true ∧
      (t.hw.pwr.target = 2100 ∧ Counts s t 0x70080 1 ∧ t.hw.mem = s.hw.mem ∧ t.hw.pwr.thrOpen = true) ∧
      ∀ e, warnF t.hw e ≤ 16) := by
  obtain ⟨e, he⟩ := exists_enabled he
  have hk := clampsTo_clampSet s.hw { s.hw.pwr with pinWarn := true } 0x70080
  obtain ⟨htarget, hcount, hmem, hopen, hpin, -, -⟩ := hk.throttleStep (throttled s.hw) (by decide) (by decide) he
    (warnF_le_of_warned (.inl rfl) e)
  exact yields_run rfl (if_neg (by simp [hp])) ⟨hpin, ⟨htarget, hcount, hmem, hopen⟩, warnF_le_of_warned (.inl hpin)⟩

theorem pwrwarnAssert_again (s : State) (hp : s.hw.pwr.pinWarn = true) : Yields .pwrwarnAssert s (fun t => t = s) :=
  yields_unchanged rfl (if_pos hp)

/-- A change of the clamps alone: what follows of it changes no clamp and no easel. -/
theorem throttling_pwr (h : Hw) (pwr : Power) : ∃ g, throttling h (fun h => { h with pwr := pwr }) = g ∧
    g.pwr.pinWarn = pwr.pinWarn ∧ g.pwr.uvWarn = pwr.uvWarn ∧ g.pwr.leakPins = pwr.leakPins ∧
    g.pwr.droop = pwr.droop ∧ g.easels = h.easels := by
  obtain ⟨_, _, _, _, _, _, _, _, hfr⟩ := throttleStep_frame (throttled h) { h with pwr := pwr }
  rw [throttling, hfr]
  exact ⟨_, rfl, rfl, rfl, rfl, rfl, rfl⟩

theorem pwrwarnRelease_ends (s : State) : Yields .pwrwarnRelease s (fun t => t.hw.pwr.pinWarn = false ∧
    t.hw.pwr.uvWarn = s.hw.pwr.uvWarn ∧ t.hw.pwr.leakPins = s.hw.pwr.leakPins ∧ t.hw.pwr.droop = s.hw.pwr.droop ∧
    t.hw.easels = s.hw.easels) := by
  obtain ⟨g, hg, hpin, huv, hleak, hdroop, heasels⟩ := throttling_pwr s.hw { s.hw.pwr with pinWarn := false }
  exact yields_run rfl hg ⟨hpin, huv, hleak, hdroop, heasels⟩

theorem undervoltageWarning_clamps (s : State) (mv : Nat) (hp : s.hw.pwr.uvWarn = false)
    (hv : mv < wfld (s.hw.reg 0x70038) 16 16) (he : s.hw.bru.enabled ≠ []) :
    Yields (.undervoltageWarning mv) s (fun t => t.hw.pwr.uvWarn = true ∧
      (t.hw.pwr.target = 2100 ∧ Counts s t 0x70080 1 ∧ t.hw.mem = s.hw.mem ∧ t.hw.pwr.thrOpen = true) ∧
      (∀ e, warnF t.hw e ≤ 16) ∧ Pends t 0x011 mv) := by
  obtain ⟨e, he⟩ := exists_enabled he
  have hk := (clampsTo_clampSet s.hw { s.hw.pwr with uvWarn := true } 0x70080).raiseEv (src := 0x011) (p := mv)
    (d := []) (by decide)
  obtain ⟨htarget, hcount, hmem, hopen, -, huv, -⟩ := hk.throttleStep (throttled s.hw) (by decide) (by decide) he
    (warnF_le_of_warned (.inr rfl) e)
  have hpend := throttleStep_pends (throttled s.hw) (by decide) (by decide) (pends_raiseEv
    (clampSet s.hw { s.hw.pwr with uvWarn := true } 0x70080) s.pending 0x011 mv [])
  exact yields_run rfl (if_neg (by simpa [hp] using hv))
    ⟨huv, ⟨htarget, hcount, hmem, hopen⟩, warnF_le_of_warned (.inr huv), hpend⟩

theorem undervoltageWarning_none (s : State) (mv : Nat) (hv : wfld (s.hw.reg 0x70038) 16 16 ≤ mv) :
    Yields (.undervoltageWarning mv) s (fun t => t = s) :=
  yields_unchanged rfl (if_pos (by simp [hv]))

theorem undervoltageRelease_ends (s : State) : Yields .undervoltageRelease s (fun t => t.hw.pwr.uvWarn = false ∧
    t.hw.pwr.pinWarn = s.hw.pwr.pinWarn ∧ t.hw.pwr.leakPins = s.hw.pwr.leakPins ∧ t.hw.pwr.droop = s.hw.pwr.droop ∧
    t.hw.easels = s.hw.easels) := by
  obtain ⟨g, hg, hpin, huv, hleak, hdroop, heasels⟩ := throttling_pwr s.hw { s.hw.pwr with uvWarn := false }
  exact yields_run rfl hg ⟨huv, hpin, hleak, hdroop, heasels⟩

/-! ### Droop -/

theorem droopCut_clamps (s : State) (d : Fin 2) (hp : s.hw.pwr.droop.getLsbD d.val = false)
    (he : ∃ e ∈ s.hw.bru.enabled, (dieOf e).val = d.val) :
    Yields (.droopCut d) s (fun t => t.hw.pwr.droop.getLsbD d.val = true ∧
      (t.hw.pwr.target = 2100 ∧ Counts s t 0x70088 1 ∧ t.hw.mem = s.hw.mem ∧ t.hw.pwr.thrOpen = true) ∧
      ∀ e, (dieOf e).val = d.val → warnF t.hw e = 0) := by
  obtain ⟨e, he, hd⟩ := he
  have hmark : (s.hw.pwr.droop ||| (1#2 <<< d.val)).getLsbD d.val = true := by
    rw [getLsbD_markBit _ d.isLt, decide_eq_true rfl, Bool.or_true]
  have hk := clampsTo_clampSet s.hw { s.hw.pwr with droop := s.hw.pwr.droop ||| (1#2 <<< d.val) } 0x70088
  have hzero : warnF { s.hw with pwr := { s.hw.pwr with droop := s.hw.pwr.droop ||| (1#2 <<< d.val) } } e = 0 :=
    warnF_eq_zero_of_droop (hd ▸ hmark)
  obtain ⟨htarget, hcount, hmem, hopen, -, -, hdroop⟩ := hk.throttleStep (throttled s.hw) (by decide) (by decide) he
    (hzero ▸ Nat.zero_le _)
  refine yields_run rfl (if_neg (by simp [hp])) ⟨?_, ⟨htarget, hcount, hmem, hopen⟩, fun e' he' => ?_⟩
  · exact (congrArg (BitVec.getLsbD · d.val) hdroop).trans hmark
  · exact warnF_eq_zero_of_droop ((congrArg (BitVec.getLsbD · (dieOf e').val) hdroop).trans (he' ▸ hmark))

theorem droopRelease_ends (s : State) (d : Fin 2) : Yields (.droopRelease d) s (fun t =>
    t.hw.pwr.droop.getLsbD d.val = false ∧
    (∀ i : Fin 2, i ≠ d → t.hw.pwr.droop.getLsbD i.val = s.hw.pwr.droop.getLsbD i.val) ∧
    t.hw.pwr.pinWarn = s.hw.pwr.pinWarn ∧ t.hw.pwr.uvWarn = s.hw.pwr.uvWarn ∧ t.hw.easels = s.hw.easels) := by
  obtain ⟨g, hg, hpin, huv, -, hdroop, heasels⟩ :=
    throttling_pwr s.hw { s.hw.pwr with droop := s.hw.pwr.droop &&& ~~~(1#2 <<< d.val) }
  have hbit (i : Fin 2) : g.pwr.droop.getLsbD i.val = (s.hw.pwr.droop.getLsbD i.val && decide (i.val ≠ d.val)) :=
    (congrArg (BitVec.getLsbD · i.val) hdroop).trans (getLsbD_clearBit _ i.isLt)
  refine yields_run rfl hg ⟨?_, fun i hi => ?_, hpin, huv, heasels⟩
  · simpa using hbit d
  · have hne : i.val ≠ d.val := fun hv => hi (Fin.ext hv)
    exact (hbit i).trans (by simp [hne])

end Sys2Proof.Machine
end

section
/-! Proofs about idle states: what an entry leaves and takes, the exit, and the tolerance (R190, R464, R466). -/

namespace Sys2Proof.Machine

/-! ### I2: accumulators -/

/-- What I2 makes of an easel: the accumulators of a loaded context lose their corrected errors, others are lost. -/
def accAfterI2 (x : Easel) : Easel :=
  { x with acc := if x.loaded.isSome = true then { x.acc with errs := x.acc.errs.filter (fun q => q.2.bad) }
                  else AccSets.init }

/-- Counting errors of an accumulator touches counters and logs. -/
theorem countAcc_frame (h : Hw) (e : EaselId) (n : Nat) (ue : Bool) : ∃ regs free,
    countAcc h e n ue = { h with regs := regs, free := free } := by
  unfold countAcc
  dsimp only
  split_ifs <;> exact ⟨_, _, rfl⟩

theorem accAfterI2_loaded {x : Easel} (hl : x.loaded.isSome = true) : accAfterI2 x =
    { x with acc := { x.acc with errs := x.acc.errs.filter (fun q => q.2.bad) } } := by rw [accAfterI2, if_pos hl]

theorem accAfterI2_free {x : Easel} (hl : ¬ x.loaded.isSome = true) :
    accAfterI2 x = { x with acc := AccSets.init } := by
  rw [accAfterI2, if_neg hl]

theorem accThroughI2_frame (h : Hw) (e : EaselId) : ∃ regs free,
    accThroughI2 h e = { h with regs := regs, free := free }.modEasel e accAfterI2 := by
  unfold accThroughI2
  split
  · next hl =>
    obtain ⟨regs, free, hfr⟩ := countAcc_frame h e
      (((h.easel e).acc.errs.map (fun p => p.2.corrected)).foldl (· + ·) 0) false
    refine ⟨regs, free, ?_⟩
    rw [saveAcc, hfr]
    exact congrArg (Hw.setEasel _ e) (accAfterI2_loaded (x := h.easel e) hl).symm
  · next hl => exact ⟨h.regs, h.free, congrArg (Hw.setEasel _ e) (accAfterI2_free hl).symm⟩

/-- I2 touches the easels, one by one, beside counters and logs. -/
theorem foldl_accThroughI2 (l : List EaselId) (h : Hw) (hl : l.Nodup) :
    (l.foldl accThroughI2 h).pwr = h.pwr ∧ (l.foldl accThroughI2 h).ctxs = h.ctxs ∧
      (l.foldl accThroughI2 h).memctl = h.memctl ∧
      ∀ e, (l.foldl accThroughI2 h).easel e = if e ∈ l then accAfterI2 (h.easel e) else h.easel e := by
  induction l generalizing h with
  | nil => exact ⟨rfl, rfl, rfl, fun e => (if_neg List.not_mem_nil).symm⟩
  | cons d l ih =>
    obtain ⟨hd, hl⟩ := List.nodup_cons.mp hl
    obtain ⟨regs, free, hfr⟩ := accThroughI2_frame h d
    obtain ⟨hpwr, hctxs, hctl, heasel⟩ := ih (accThroughI2 h d) hl
    rw [List.foldl_cons]
    rw [hfr] at hpwr hctxs hctl heasel ⊢
    refine ⟨hpwr, hctxs, hctl, fun e => ?_⟩
    rw [heasel]
    by_cases he : e = d
    · subst he
      rw [if_neg hd, if_pos List.mem_cons_self, Hw.easel_modEasel]
      rfl
    · rw [Hw.easel_modEasel_ne _ _ he]
      simp only [List.mem_cons, he, false_or]
      rfl

theorem nodup_allEasels : allEasels.Nodup := by
  refine List.Nodup.map_on (fun a ha b hb hab => ?_) List.nodup_range
  have hv := congrArg Fin.val hab
  simp only [Fin.ofNat] at hv
  have := List.mem_range.mp ha
  have := List.mem_range.mp hb
  omega

/-! ### Entry -/

/-- The hardware at the entry of an idle state, before what the state does. -/
def idleNoted (h : Hw) (i : BitVec 2) : Hw := { h with pwr := { h.pwr with idle := i } }

theorem idleEnter_one (h : Hw) : idleEnter h 1 = idleNoted h 1 := rfl

theorem idleEnter_zero (h : Hw) : idleEnter h 0 = idleNoted h 0 := rfl

theorem idleEnter_two (h : Hw) : idleEnter h 2 = allEasels.foldl accThroughI2 (idleNoted h 2) := rfl

theorem idleEnter_three (h : Hw) : ∃ memctl, memctl.selfRefresh = true ∧
    idleEnter h 3 = { (loadedOn (idleNoted h 3) 15).foldl switchOut (idleNoted h 3) with memctl := memctl } :=
  ⟨_, rfl, rfl⟩

/-- What an entry leaves and takes, by its depth. -/
theorem idleEnter_enters (h : Hw) (i : BitVec 2) : (idleEnter h i).pwr.idle = i ∧
    (i ≠ 3 → (idleEnter h i).ctxs = h.ctxs ∧ (idleEnter h i).memctl = h.memctl) ∧
    (i = 1 → (idleEnter h i).easels = h.easels) ∧
    (i = 2 → ∀ e, (idleEnter h i).easel e = accAfterI2 (h.easel e)) ∧
    (i = 3 → (idleEnter h i).memctl.selfRefresh = true ∧ ∀ c ∈ loadedOn h 15, c ∉ loadedOn (idleEnter h i) 15) := by
  have hcases : i = 0 ∨ i = 1 ∨ i = 2 ∨ i = 3 := by
    revert i
    decide
  rcases hcases with rfl | rfl | rfl | rfl
  · rw [idleEnter_zero]
    exact ⟨rfl, fun _ => ⟨rfl, rfl⟩, fun h => absurd h (by decide), fun h => absurd h (by decide),
      fun h => absurd h (by decide)⟩
  · rw [idleEnter_one]
    exact ⟨rfl, fun _ => ⟨rfl, rfl⟩, fun _ => rfl, fun h => absurd h (by decide), fun h => absurd h (by decide)⟩
  · obtain ⟨hpwr, hctxs, hctl, heasel⟩ := foldl_accThroughI2 allEasels (idleNoted h 2) nodup_allEasels
    rw [idleEnter_two]
    refine ⟨congrArg Power.idle hpwr, fun _ => ⟨hctxs, hctl⟩, fun h => absurd h (by decide), fun _ e => ?_,
      fun h => absurd h (by decide)⟩
    exact (heasel e).trans (if_pos (mem_allEasels e))
  · obtain ⟨memctl, hself, heq⟩ := idleEnter_three h
    have hpwr := pwr_foldl_switchOut (loadedOn (idleNoted h 3) 15) (idleNoted h 3)
    rw [heq]
    refine ⟨congrArg Power.idle hpwr, fun h => absurd rfl h, fun h => absurd h (by decide),
      fun h => absurd h (by decide), fun _ => ⟨hself, fun c hc => ?_⟩⟩
    exact not_mem_loadedOn_foldl_switchOut (idleNoted h 3) _ rfl hc

/-- The module stays as it is: not quiet, or not yet for the hysteresis, or as deep already as the tolerance permits. -/
def noEntry (h : Hw) (since : Nat) : Bool :=
  !isQuiet h || decide (h.now < since + wfld (h.reg 0x70050) 0 24 * 1000) ||
    decide (deepestIdle (wfld (h.reg 0x70048) 0 32) ≤ h.pwr.idle)

theorem exec_idleEntry {s : State} {since : Nat} (hq : s.hw.pwr.quietSince = some since) :
    exec .idleEntry s = .next { s with
      hw := if noEntry s.hw since then s.hw else idleEnter s.hw (deepestIdle (wfld (s.hw.reg 0x70048) 0 32)) } := by
  change execIdleEntry s = _
  unfold execIdleEntry run
  dsimp only
  rw [hq]
  rfl

/-! ### The tolerance -/

theorem put_and_low_half (tol : BitVec 32) : put tol.toNat 0 32 &&& 0xFFFFFFFF = tol.setWidth 64 := by
  have hmask : (0xFFFFFFFF : Word).toNat = 2 ^ 32 - 1 := rfl
  apply BitVec.eq_of_toNat_eq
  rw [BitVec.toNat_and, hmask, Nat.and_two_pow_sub_one_eq_mod, put, BitVec.toNat_ofNat, BitVec.toNat_setWidth,
    Nat.shiftLeft_zero]
  omega

theorem regWrite_latTol {s : State} {r : Requester} (hm : MayWriteReg s r .pwr 0x48) (tol : BitVec 32) :
    regWrite s.hw r .pwr 0x48 (put tol.toNat 0 32) = writeLatTol s.hw (put tol.toNat 0 32) := by
  have ⟨_, hmay, _⟩ := hm
  rw [regWrite_eq hm, writeReg_whole hmay (by decide)]
  rfl

theorem pwrLatTolWrite_stores (s : State) (r : Requester) (tol : BitVec 32) (hm : MayWriteReg s r .pwr 0x48) :
    Yields (.pwrLatTolWrite r tol) s (fun t => t.hw.reg 0x70048 = tol.setWidth 64 ∧
      (tol.toNat < exitBound s.hw.pwr.idle → t.hw.pwr.idle = 0 ∧ t.hw.memctl.selfRefresh = false) ∧
      (exitBound s.hw.pwr.idle ≤ tol.toNat → t.hw.pwr = s.hw.pwr ∧ t.hw.memctl = s.hw.memctl)) := by
  have htol : wfld (put tol.toNat 0 32) 0 32 = tol.toNat :=
    (wfld_put _ _ _ (by decide)).trans (Nat.mod_eq_of_lt tol.isLt)
  have hreg : (s.hw.setReg 0x70048 (put tol.toNat 0 32 &&& 0xFFFFFFFF)).reg 0x70048 = tol.setWidth 64 := by
    rw [Hw.reg_setReg, put_and_low_half]
  by_cases hlt : tol.toNat < exitBound s.hw.pwr.idle
  · refine yields_run rfl ((regWrite_latTol hm tol).trans (if_pos (htol.symm ▸ hlt))) ⟨hreg, fun _ => ⟨rfl, rfl⟩, ?_⟩
    exact fun hge => absurd hlt (by omega)
  · refine yields_run rfl ((regWrite_latTol hm tol).trans (if_neg (htol.symm ▸ hlt))) ⟨hreg, ?_, fun _ => ⟨rfl, rfl⟩⟩
    exact fun h => absurd h hlt

end Sys2Proof.Machine

namespace Sys2Proof
open Sys2Proof.Machine

/-- Settles O49: each clamp drops the boost, is counted, opens an interval and holds F_warn down, each release ends its
clamp alone; an idle state does what its depth says, and ends with its exit or a tolerance that forbids it. -/
theorem clampsAndIdleStatesActAndRelease : Obligations.ClampsAndIdleStatesActAndRelease := by
  intro s
  refine ⟨pwrwarnAssert_clamps s, pwrwarnAssert_again s, pwrwarnRelease_ends s, undervoltageWarning_clamps s,
    undervoltageWarning_none s, undervoltageRelease_ends s, droopCut_clamps s, droopRelease_ends s,
    fun since hq => ⟨fun hquiet hhyst hi => ?_, fun hquiet => ?_⟩, fun cause => ?_, pwrLatTolWrite_stores s⟩
  · refine yields_run (exec_idleEntry hq) (if_neg ?_) (idleEnter_enters s.hw _)
    simp [noEntry, hquiet, hhyst, hi]
  · exact yields_unchanged (exec_idleEntry hq) (if_pos (by simp [noEntry, hquiet]))
  · have hexit : exec (.idleExit cause) s = .next { s with hw := idleExit s.hw } := by cases cause <;> rfl
    exact ⟨_, hexit, rfl, rfl, rfl, rfl⟩

end Sys2Proof
end

section
/-! Proofs about the slots of glaze streams: reading a slot after writing one, and what faults and ended reads leave of
the streams. -/

namespace Sys2Proof.Machine

/-! ### Slots -/

theorem Hw.gslot_of_glz {g h : Hw} (hg : g.glz = h.glz) (n : SlotId) : g.gslot n = h.gslot n := by
  rw [Hw.gslot, hg, Hw.gslot]

@[simp] theorem Hw.gslot_setGslot (h : Hw) (n : SlotId) (g : GlazeSlot) : (h.setGslot n g).gslot n = g :=
  SMap.get_put_same ..

theorem Hw.gslot_setGslot_ne (h : Hw) {n m : SlotId} (g : GlazeSlot) (hm : m ≠ n) :
    (h.setGslot n g).gslot m = h.gslot m := SMap.get_put_ne _ _ _ (fun hv => hm (Fin.ext hv))

@[simp] theorem Hw.gslot_modGslot (h : Hw) (n : SlotId) (f : GlazeSlot → GlazeSlot) :
    (h.modGslot n f).gslot n = f (h.gslot n) := Hw.gslot_setGslot ..

theorem Hw.gslot_modGslot_ne (h : Hw) {n m : SlotId} (f : GlazeSlot → GlazeSlot) (hm : m ≠ n) :
    (h.modGslot n f).gslot m = h.gslot m := Hw.gslot_setGslot_ne h _ hm

@[simp] theorem Hw.gslot_endReads (h : Hw) (p : SlotId → Bool) (n : SlotId) :
    (endReads h p).gslot n = h.gslot n := rfl

@[simp] theorem Hw.setGslot_easels (h : Hw) (n : SlotId) (g : GlazeSlot) : (h.setGslot n g).easels = h.easels := rfl
@[simp] theorem Hw.setGslot_sync (h : Hw) (n : SlotId) (g : GlazeSlot) : (h.setGslot n g).sync = h.sync := rfl
@[simp] theorem Hw.setGslot_sec (h : Hw) (n : SlotId) (g : GlazeSlot) : (h.setGslot n g).sec = h.sec := rfl
@[simp] theorem Hw.setGslot_binds (h : Hw) (n : SlotId) (g : GlazeSlot) :
    (h.setGslot n g).glz.binds = h.glz.binds := rfl
@[simp] theorem Hw.reg_setGslot (h : Hw) (n : SlotId) (g : GlazeSlot) (k : Nat) :
    (h.setGslot n g).reg k = h.reg k := rfl
@[simp] theorem Hw.ctx_setGslot (h : Hw) (n : SlotId) (g : GlazeSlot) (c : CtxId) :
    (h.setGslot n g).ctx c = h.ctx c := rfl

@[simp] theorem Hw.modGslot_easels (h : Hw) (n : SlotId) (f : GlazeSlot → GlazeSlot) :
    (h.modGslot n f).easels = h.easels := rfl
@[simp] theorem Hw.modGslot_binds (h : Hw) (n : SlotId) (f : GlazeSlot → GlazeSlot) :
    (h.modGslot n f).glz.binds = h.glz.binds := rfl

@[simp] theorem endReads_easels (h : Hw) (p : SlotId → Bool) : (endReads h p).easels = h.easels := rfl
@[simp] theorem endReads_glz (h : Hw) (p : SlotId → Bool) : (endReads h p).glz = h.glz := rfl

@[simp] theorem perfAdd_ctx (h : Hw) (c : CtxId) (k m : Nat) (c' : CtxId) : (perfAdd h c k m).ctx c' = h.ctx c' := rfl
@[simp] theorem perfAdd_gslot (h : Hw) (c : CtxId) (k m : Nat) (n : SlotId) :
    (perfAdd h c k m).gslot n = h.gslot n := rfl
@[simp] theorem perfAdd_reg (h : Hw) (c : CtxId) (k m r : Nat) : (perfAdd h c k m).reg r = h.reg r := rfl

@[simp] theorem Hw.countWrap_ctx (h : Hw) (k m : Nat) (c : CtxId) : (h.countWrap k m).ctx c = h.ctx c := rfl
@[simp] theorem Hw.countWrap_gslot (h : Hw) (k m : Nat) (n : SlotId) : (h.countWrap k m).gslot n = h.gslot n := rfl

/-- A context's streams stop, and no other stream changes (R217). -/
theorem Hw.gslot_stopGlaze (h : Hw) (c : CtxId) (n : SlotId) :
    (stopGlaze h c).gslot n = if (h.gslot n).ctx = c then (h.gslot n).stop else h.gslot n := by
  have hinit : (if GlazeSlot.init.ctx = c then GlazeSlot.init.stop else GlazeSlot.init) = GlazeSlot.init :=
    ite_self GlazeSlot.init
  have hmap : (fun p : Nat × GlazeSlot => if p.2.ctx = c then (p.1, p.2.stop) else p) =
      fun p => (p.1, if p.2.ctx = c then p.2.stop else p.2) := by
    funext p
    split <;> rfl
  unfold stopGlaze Hw.gslot
  simp only [hmap]
  exact SMap.get_map GlazeSlot.init h.glz.slots (fun g => if g.ctx = c then g.stop else g) hinit n.val

/-! ### Faults -/

@[simp] theorem logFault_glz (h : Hw) (r : FaultRec) : (logFault h r).glz = h.glz := by
  unfold logFault logAcc logPath logMemError
  split_ifs <;> rfl

theorem recordPrimary_glz (h : Hw) (c : CtxId) (r : FaultRec) : (recordPrimary h c r).glz = (stopGlaze h c).glz := by
  unfold recordPrimary
  dsimp only
  exact (apply_ite Hw.glz ..).trans (ite_self _)

@[simp] theorem displacePrimary_glz (h : Hw) (c : CtxId) (r : FaultRec) : (displacePrimary h c r).glz = h.glz := by
  simp [displacePrimary]

/-- A fault leaves the streams as they are, or stops those of its context. -/
theorem recordFault_glz (h : Hw) (r : FaultRec) :
    (recordFault h r).glz = h.glz ∨ ∃ c, r.ctx = some c ∧ (recordFault h r).glz = (stopGlaze h c).glz := by
  have hlog : (logFault h r).glz = h.glz := logFault_glz h r
  have hstop (c : CtxId) : (stopGlaze (perfAdd (logFault h r) c 13 1) c).glz = (stopGlaze h c).glz := by
    simp [stopGlaze, endReads]
  unfold recordFault
  cases r.ctx with
  | none => exact .inl hlog
  | some c =>
    dsimp only
    by_cases hz : ((logFault h r).ctx c).state = 0 ∨ ((logFault h r).ctx c).state = 7
    · rw [if_pos hz]
      exact .inl hlog
    · rw [if_neg hz]
      cases hf : ((logFault h r).ctx c).faults with
      | nil => exact .inr ⟨c, rfl, (recordPrimary_glz ..).trans (hstop c)⟩
      | cons p l =>
        refine .inl (Eq.trans ?_ hlog)
        simp [apply_ite Hw.glz]

/-- A fault keeps the binds that wait. -/
@[simp] theorem recordFault_binds (h : Hw) (r : FaultRec) : (recordFault h r).glz.binds = h.glz.binds := by
  rcases recordFault_glz h r with hg | ⟨c, -, hg⟩ <;> rw [hg]
  rfl

/-- A fault keeps the streams of other contexts. -/
theorem recordFault_gslot {h : Hw} {r : FaultRec} {n : SlotId} (hc : r.ctx ≠ some (h.gslot n).ctx) :
    (recordFault h r).gslot n = h.gslot n := by
  rcases recordFault_glz h r with hg | ⟨c, hr, hg⟩
  · exact Hw.gslot_of_glz hg n
  · rw [Hw.gslot_of_glz hg n, Hw.gslot_stopGlaze, if_neg (fun he => hc (hr.trans (congrArg some he.symm)))]

/-- The fault of a running context without one is its primary one. -/
theorem recordFault_takesPrimary {h : Hw} {r : FaultRec} {c : CtxId} (hr : r.ctx = some c) (hs : (h.ctx c).state = 3)
    (hf : (h.ctx c).faults = []) (cmds : List Instr) :
    TakesPrimary { hw := recordFault h r, pending := cmds } c r.cls r.addr := by
  have hrec : recordFault h r = recordPrimary (perfAdd (logFault h r) c 13 1) c r :=
    recordFault_primary hr (by simp [hs]) (by simp [hs]) hf
  have hctx : (recordFault h r).ctx c = _ := (congrArg (Hw.ctx · c) hrec).trans (recordPrimary_ctx_same ..)
  refine ⟨congrArg Ctx.state hctx, _, congrArg Ctx.faults hctx, rfl, rfl, rfl⟩

/-! ### Going on -/

/-- A core whose registers are as before goes on after its instruction. -/
theorem wentOn_advance {s : State} {g : Hw} {e : EaselId} (hcur : (g.easel e).cur = regsOf s e)
    (hsvc : (g.easel e).service = (s.hw.easel e).service) : WentOn s { s with hw := advance g e } e := by
  have hadv : ((advance g e).easel e).cur = (g.easel e).cur.advance (g.easel e).service ((g.easel e).cur.pc + 8) := by
    rw [advance, advanceTo_easel, Easel.cur_setCur]
  refine hadv.trans ?_
  rw [hcur, hsvc]
  rfl

/-- The same where the easel is as before, or a fault has stopped it. -/
theorem wentOn_advance_recordFault (s : State) (e : EaselId) (r : FaultRec) :
    WentOn s { s with hw := advance (recordFault s.hw r) e } e := by
  rcases recordFault_easel s.hw r e with he | he <;> exact wentOn_advance (by rw [he]; rfl) (by rw [he])

end Sys2Proof.Machine
end

section
/-! Proofs about the GLAZE instructions of a core: a bind passes on, a status is read, a stream is stopped or the stop
refused. -/

namespace Sys2Proof.Machine

/-- A precise fault of the core leaves the binds that wait. -/
theorem applyEff_fault_binds (h : Hw) (e : EaselId) (w : Word) (cls : BitVec 8) (addr : Word) :
    (applyEff h e w (.fault cls addr)).glz.binds = h.glz.binds := by
  simp only [applyEff, coreFault, recordFault_binds, Hw.modEasel_glz]
  unfold countNoRoute
  split <;> rfl

theorem GlazeSlot.stop_running {g : GlazeSlot} (hg : g.state = 1) : g.stop.state = 3 := by
  rw [GlazeSlot.stop, if_pos (.inl hg)]

/-- What GLZSTOP does with a slot of its context: a running stream ends, any other stays (R201). -/
def stopSlot (h : Hw) (n : SlotId) : Hw :=
  if (h.gslot n).state = 1 then (endReads h (· == n)).modGslot n GlazeSlot.stop else h

@[simp] theorem stopSlot_easels (h : Hw) (n : SlotId) : (stopSlot h n).easels = h.easels := by
  unfold stopSlot
  split <;> rfl

@[simp] theorem stopSlot_mem (h : Hw) (n : SlotId) : (stopSlot h n).mem = h.mem := by
  unfold stopSlot
  split <;> rfl

theorem stopSlot_gslot_ne (h : Hw) {n m : SlotId} (hm : m ≠ n) : (stopSlot h n).gslot m = h.gslot m := by
  unfold stopSlot
  split
  · exact Hw.gslot_modGslot_ne _ _ hm
  · rfl

theorem stopSlot_running {h : Hw} {n : SlotId} (hg : (h.gslot n).state = 1) : ((stopSlot h n).gslot n).state = 3 := by
  rw [stopSlot, if_pos hg, Hw.gslot_modGslot]
  exact GlazeSlot.stop_running hg

theorem stopSlot_other {h : Hw} {n : SlotId} (hg : (h.gslot n).state ≠ 1) : stopSlot h n = h := if_neg hg

/-- The bind that GLZBIND passes to its slot (R199). -/
def bindPassed (s : State) (e : EaselId) (f : FmtI) : GlazeBind :=
  { slot := glzSlotOf f, uma := (regsOf s e).get f.rs1, easel := e, ctx := (s.hw.easel e).actx
    serial := (regsOf s e).serial, pc := (regsOf s e).pc, inst := wordI 0x25 0x00 f }

section
variable {s : State} {e : EaselId} {f : FmtI} (hi : Issues s e f.pneg f.pred) (hf : f.imm.toNat < 64)

include hf in
theorem immBelow_six : immBelow f 6 = true := decide_eq_true hf

include hi hf

/-- GLZBIND of an aligned address: one more bind waits (R199). -/
theorem yields_glzbind (hrd : f.rd = 0) (ha : ((regsOf s e).get f.rs1).toNat % 64 = 0) :
    Yields (.glzbind e f) s (fun t => WentOn s t e ∧
      t.hw.glz.binds = s.hw.glz.binds ++ [bindPassed s e f] ∧
      t.hw.glz.slots = s.hw.glz.slots ∧ t.hw.mem = s.hw.mem ∧ ∀ e', e' ≠ e → t.hw.easel e' = s.hw.easel e') :=
  yields_eff hi rfl (resv_of (by simp [hrd, immBelow_six hf])) (if_neg (fun h => h ha))
    ⟨wentOn_advance rfl rfl, rfl, rfl, rfl, fun _ he => advanceTo_easel_ne _ _ he⟩

/-- GLZBIND of a misaligned address: a precise fault, and no bind (R199). -/
theorem yields_glzbind_misaligned (hrd : f.rd = 0) (ha : ((regsOf s e).get f.rs1).toNat % 64 ≠ 0) :
    Yields (.glzbind e f) s (fun t => FaultsPrecisely s t e 0x14 ((regsOf s e).get f.rs1) (wordI 0x25 0x00 f) ∧
      t.hw.glz.binds = s.hw.glz.binds) :=
  yields_eff hi rfl (resv_of (by simp [hrd, immBelow_six hf])) (if_pos ha)
    ⟨applyEff_fault_faultsPrecisely .., applyEff_fault_binds ..⟩

/-- GLZSTAT: the status of a slot of the context, 0 of any other (R200). -/
theorem yields_glzstat (h1 : f.rs1 = 0) :
    Yields (.glzstat e f) s (fun t => WritesS s t e f.rd
      (if slotOf s.hw (glzSlotOf f) = some (s.hw.easel e).actx then glzStatus (s.hw.gslot (glzSlotOf f)) else 0)) :=
  yields_setS hi rfl (resv_of (by simp [h1, immBelow_six hf])) rfl rfl

/-- GLZSTOP of a slot of the context (R201). -/
theorem yields_glzstop (hrd : f.rd = 0) (h1 : f.rs1 = 0)
    (hn : slotOf s.hw (glzSlotOf f) = some (s.hw.easel e).actx) :
    Yields (.glzstop e f) s (fun t => t = { s with hw := advance (stopSlot s.hw (glzSlotOf f)) e }) :=
  yields_eff hi rfl (resv_of (by simp [hrd, h1, immBelow_six hf])) (if_pos hn) rfl

/-- GLZSTOP of another slot: a fault of the running context, and the core goes on (R201). -/
theorem yields_glzstop_refused (hrd : f.rd = 0)
    (h1 : f.rs1 = 0) (hn : slotOf s.hw (glzSlotOf f) ≠ some (s.hw.easel e).actx)
    (hc : RunsClean s (s.hw.easel e).actx) :
    Yields (.glzstop e f) s (fun t => WentOn s t e ∧ TakesPrimary t (s.hw.easel e).actx 0x63 0 ∧
      ((s.hw.gslot (glzSlotOf f)).ctx ≠ (s.hw.easel e).actx →
        t.hw.gslot (glzSlotOf f) = s.hw.gslot (glzSlotOf f))) := by
  obtain ⟨hrun, hclean⟩ := hc
  refine yields_eff hi rfl (resv_of (by simp [hrd, h1, immBelow_six hf])) (if_neg hn) ⟨?_, ?_, fun hctx => ?_⟩
  · exact wentOn_advance_recordFault s e _
  · exact recordFault_takesPrimary rfl hrun hclean s.pending
  · exact recordFault_gslot (fun he => hctx (Option.some.inj he).symm)

end

end Sys2Proof.Machine

namespace Sys2Proof

open Sys2Proof.Machine

/-- Settles O23: each instruction decodes and takes its effect; a running stream ends as `stopSlot_running` says, and a
refused stop is the context's primary fault. -/
theorem glazeInstructionsPassReadAndStop : Obligations.GlazeInstructionsPassReadAndStop := by
  intro s e f hi hf
  refine ⟨fun hrd => ⟨yields_glzbind hi hf hrd, yields_glzbind_misaligned hi hf hrd⟩, yields_glzstat hi hf,
    fun hrd h1 => ⟨fun hn => ?_, yields_glzstop_refused hi hf hrd h1⟩⟩
  obtain ⟨t, ht, rfl⟩ := yields_glzstop hi hf hrd h1 hn
  have he : (stopSlot s.hw (glzSlotOf f)).easel e = s.hw.easel e := Hw.easel_of_easels (stopSlot_easels ..) e
  refine ⟨_, ht, wentOn_advance (by rw [he]; rfl) (by rw [he]), fun hg => stopSlot_running hg, fun hg => ?_,
    fun m hm => stopSlot_gslot_ne s.hw hm, stopSlot_mem ..⟩
  exact (congrArg (Hw.gslot · (glzSlotOf f)) (stopSlot_other hg) :)

end Sys2Proof
end

section
/-! Proofs about the memory that streams read and write: what reading and writing bytes leaves of the rest, and what the
reads of remote blocks leave of streams, objects and memory. -/

namespace Sys2Proof.Machine

/-! ### Reading and writing bytes -/

/-- What reads and writes of bytes leave: beside memory only registers change, and none of the router's. -/
structure MemTouched (h g : Hw) : Prop where
  frame : g = { h with regs := g.regs, mem := g.mem }
  reg : ∀ k, 0x400000 ≤ k → k < 0x1000000 → g.reg k = h.reg k

theorem MemTouched.glz {h g : Hw} (ht : MemTouched h g) : g.glz = h.glz := (congrArg Hw.glz ht.frame :)

theorem MemTouched.sync {h g : Hw} (ht : MemTouched h g) : g.sync = h.sync := (congrArg Hw.sync ht.frame :)

theorem MemTouched.sec {h g : Hw} (ht : MemTouched h g) : g.sec = h.sec := (congrArg Hw.sec ht.frame :)

theorem MemTouched.ctxs {h g : Hw} (ht : MemTouched h g) : g.ctxs = h.ctxs := (congrArg Hw.ctxs ht.frame :)

theorem MemTouched.refl (h : Hw) : MemTouched h h := ⟨rfl, fun _ _ _ => rfl⟩

section
variable {h0 h : Hw} (hs : MemTouched h0 h)
include hs

theorem MemTouched.setMem (m : Mem) : MemTouched h0 { h with mem := m } := ⟨by rw [hs.frame], hs.reg⟩

theorem MemTouched.setReg {k : Nat} {v : Word} (hk : k < 0x400000 ∨ 0x1000000 ≤ k) :
    MemTouched h0 (h.setReg k v) := by
  refine ⟨by rw [hs.frame]; rfl, fun k' h1 h2 => ?_⟩
  rw [Hw.reg_setReg_ne h v (by omega), hs.reg k' h1 h2]

theorem MemTouched.count {k n : Nat} (hk : k < 0x400000 ∨ 0x1000000 ≤ k) : MemTouched h0 (h.count k n) :=
  hs.setReg hk

omit hs in
theorem MemTouched.ite {p : Prop} [Decidable p] {a b : Hw} (ha : MemTouched h0 a) (hb : MemTouched h0 b) :
    MemTouched h0 (if p then a else b) := by
  split
  · exact ha
  · exact hb

omit hs in
theorem MemTouched.foldl {α : Type} {f : Hw → α → Hw} (hs : MemTouched h0 h)
    (hf : ∀ g a, MemTouched h0 g → MemTouched h0 (f g a)) (l : List α) : MemTouched h0 (l.foldl f h) := by
  induction l generalizing h with
  | nil => exact hs
  | cons a l ih => exact ih (hf h a hs)

theorem MemTouched.logMemError {off : Nat} {cls : BitVec 8} : MemTouched h0 (logMemError h off cls) := by
  refine .ite (hs.setReg ?_) ((hs.setReg ?_).setReg ?_) <;> simp only [blkBase] <;> omega

theorem MemTouched.countMemError {off n : Nat} {ue : Bool} : MemTouched h0 (countMemError h off n ue) := by
  unfold Machine.countMemError
  refine .ite (hs.count ?_) (.ite ((hs.count ?_).count ?_) (hs.count ?_)) <;> simp only [blkBase] <;> split <;> omega

theorem MemTouched.touchRead {a n : Nat} : MemTouched h0 (touchRead h a n) :=
  .ite hs (.foldl (hs.setMem _) (fun _ _ hg => hg.countMemError.logMemError) _)

theorem MemTouched.touchMerge {off n : Nat} : MemTouched h0 (touchMerge h off n) := by
  have hlow : MemTouched h0 (if off % 8 = 0 then h else Machine.touchRead h off 1) := .ite hs hs.touchRead
  exact .ite hlow hlow.touchRead

theorem MemTouched.applyWrites (ws : List Wr) : MemTouched h0 (applyWrites h ws) :=
  hs.foldl (fun _ _ hg => hg.touchMerge.setMem _) ws

end

/-- A read writes the words back that it corrects. -/
theorem touchRead_mem (h : Hw) (a n : Nat) : (touchRead h a n).mem = h.mem.scrubbed a n := by
  unfold touchRead
  split
  next hc =>
    have hnone : h.mem.correctedAt a n = [] := List.eq_nil_of_length_eq_zero hc
    simp [Mem.scrubbed, hnone]
  next =>
    refine List.foldlRecOn _ _ (motive := fun g : Hw => g.mem = h.mem.scrubbed a n) rfl fun g hg w _ => ?_
    rw [logMemError_mem, countMemError_mem, hg]

theorem touchMerge_mem_congr {g h : Hw} (hm : g.mem = h.mem) (off n : Nat) :
    (touchMerge g off n).mem = (touchMerge h off n).mem := by
  unfold touchMerge
  simp only [apply_ite Hw.mem, touchRead_mem, hm]

/-- What writes make of memory depends on memory alone. -/
theorem applyWrites_mem_congr {g h : Hw} (hm : g.mem = h.mem) (ws : List Wr) :
    (applyWrites g ws).mem = (applyWrites h ws).mem := by
  induction ws generalizing g h with
  | nil => exact hm
  | cons w ws ih => exact ih (congrArg (Mem.write · w.1 w.2) (touchMerge_mem_congr hm w.1 w.2.length))

/-! ### Reads of remote blocks -/

/-- What sending requests leaves: streams, objects and memory. -/
structure OnlySends (h g : Hw) : Prop where
  glz : g.glz = h.glz
  sync : g.sync = h.sync
  mem : g.mem = h.mem

theorem OnlySends.refl (h : Hw) : OnlySends h h := ⟨rfl, rfl, rfl⟩

theorem OnlySends.sendReq {h0 h : Hw} (hs : OnlySends h0 h) (who : ReqBy) (c : CtxId) (addr : Word) (write : Bool)
    (x : Hdr) (body : Bytes) : OnlySends h0 (sendReq h who c addr write x body) := by
  unfold Machine.sendReq
  split
  · exact hs
  next i k _ =>
    dsimp only
    obtain ⟨p, regs, evc, sec, hseal⟩ :=
      sealPkt_frame (addReq h who (some c) addr false write (h.leavesNorth x.dst)) i k { x with tag := h.nextTag } body
    rw [hseal]
    exact ⟨hs.glz, hs.sync, hs.mem⟩

theorem OnlySends.fetchPart {h0 h : Hw} (hs : OnlySends h0 h) (n : SlotId) (idx off len : Nat) :
    OnlySends h0 (fetchPart h n idx off len) := by
  unfold Machine.fetchPart
  dsimp only
  split
  · exact hs
  · exact hs.sendReq ..

theorem onlySends_fetchBlock (h : Hw) (n : SlotId) : OnlySends h (fetchBlock h n) := by
  have hparts : OnlySends h ((List.range (cdiv (gBlkLen (h.gslot n) (h.gslot n).nextBlock) 3584)).foldl (fun a k =>
      fetchPart a n k (wfld (gSrc (h.gslot n)) 0 48 + 65536 * (h.gslot n).nextBlock + 3584 * k)
        (Nat.min 3584 (gBlkLen (h.gslot n) (h.gslot n).nextBlock - 3584 * k))) h) :=
    List.foldlRecOn _ _ (motive := OnlySends h) (.refl h) fun _ hg _ _ => hg.fetchPart ..
  unfold fetchBlock
  dsimp only
  split
  · exact hparts.fetchPart ..
  · exact hparts

/-- A stream whose requests can leave reads on. -/
theorem onlySends_fetchNext {h : Hw} {n : SlotId}
    (hf : isRemote (gSrc (h.gslot n)) = true → glzSendFault h (h.gslot n) = none) : OnlySends h (fetchNext h n) := by
  unfold fetchNext
  dsimp only
  split
  · exact .refl h
  next hr =>
    have hremote : isRemote (gSrc (h.gslot n)) = true := by
      by_contra hl
      exact hr (.inl (by simp [hl]))
    rw [hf hremote]
    exact onlySends_fetchBlock h n

/-- Nothing is sent for a local stream, nor for one that does not run. -/
theorem fetchNext_idle {h : Hw} {n : SlotId} (hn : isRemote (gSrc (h.gslot n)) = false ∨ (h.gslot n).state ≠ 1) :
    fetchNext h n = h := by
  refine if_pos ?_
  rcases hn with hl | hs
  · exact .inl (by rw [hl]; rfl)
  · exact .inr (.inr (.inl hs))

/-- Why requests cannot leave depends on the keys, the context's job and the circuit. -/
theorem glzSendFault_congr {g h : Hw} {x y : GlazeSlot} (hd : x.desc = y.desc) (hc : x.ctx = y.ctx)
    (hsec : g.sec = h.sec) (hjob : (g.ctx y.ctx).job = (h.ctx y.ctx).job)
    (hreg : g.reg (0x408000 + 8 * gCirc y) = h.reg (0x408000 + 8 * gCirc y)) :
    glzSendFault g x = glzSendFault h y := by
  have hcirc : gCirc x = gCirc y := by rw [gCirc, hd, gCirc]
  have hsrc : gSrc x = gSrc y := by rw [gSrc, hd, gSrc]
  simp only [glzSendFault, sendEntry, hc, hsec, hjob, hcirc, hsrc, hreg]

end Sys2Proof.Machine
end

section
/-! Proofs about binding a stream: the descriptor and its checks, and the first entry that waits for its gate. -/

namespace Sys2Proof.Machine

/-! ### Entries -/

/-- A stream that turns to its current entry: nothing of it is delivered, and a gated one waits (R207). -/
def GlazeSlot.turned (g : GlazeSlot) : GlazeSlot :=
  { (if (curEntry g).same then g else { g with lastElems := [], lastScales := [] }) with
    curPos := 0, gated := (curEntry g).gate }

/-- A stream that has delivered nothing yet only waits. -/
theorem GlazeSlot.turned_fresh {g : GlazeSlot} (hl : g.lastElems = []) (hs : g.lastScales = []) (hp : g.curPos = 0)
    (hg : (curEntry g).gate = true) : g.turned = { g with gated := true } := by
  obtain ⟨⟩ := g
  obtain rfl : _ = [] := hl
  obtain rfl : _ = [] := hs
  obtain rfl : _ = 0 := hp
  rw [turned, ite_self, hg]

/-- A pump that waits for a gate delivers nothing. -/
theorem pump_gated {h : Hw} {n : SlotId} (hg : (h.gslot n).gated = true) : pump h n = h := if_pos (.inr (.inl hg))

/-- An entry that passes the checks of R206 and is gated waits for its gate. -/
theorem takeEntry_gated {h : Hw} {n : SlotId} (hf : entryFault h (h.gslot n) = none)
    (hg : (curEntry (h.gslot n)).gate = true) : takeEntry h n = h.modGslot n GlazeSlot.turned := by
  have hgated : ((h.modGslot n GlazeSlot.turned).gslot n).gated = true := by
    rw [Hw.gslot_modGslot]
    exact hg
  simp only [takeEntry, hf]
  exact pump_gated hgated

/-- The stream with its first entry read (R205). -/
def firstEntry (h : Hw) (g : GlazeSlot) : GlazeSlot := { g with entry := entryBytes h g 0 }

theorem startEntry_first {h : Hw} {n : SlotId} (hc : (h.gslot n).cur = 0) (h0 : 0 < gEntries (h.gslot n)) :
    startEntry h n = takeEntry (h.modGslot n (firstEntry h)) n := by
  have hread : entryReadFault h (h.gslot n) 0 = none := rfl
  simp only [startEntry, hc, Nat.not_le.2 h0, if_false, hread]
  rfl

/-! ### Binding (R202, R203) -/

/-- The stream that a bind starts with a descriptor and the first entries. -/
def boundSlot (b : GlazeBind) (d : List Word) (ents : Bytes) : GlazeSlot :=
  { GlazeSlot.init with
    state := 1, easel := b.easel, ctx := b.ctx, serial := b.serial, pc := b.pc, inst := b.inst, desc := d
    ents := ents }

theorem boundSlot_turned {h : Hw} {b : GlazeBind} {d : List Word} {ents : Bytes}
    (hg : (curEntry (firstEntry h (boundSlot b d ents))).gate = true) :
    (firstEntry h (boundSlot b d ents)).turned = { firstEntry h (boundSlot b d ents) with gated := true } :=
  GlazeSlot.turned_fresh rfl rfl rfl hg

/-- Other streams, binds and requests. -/
def Hw.withStreams (h : Hw) (z : Glaze) (q : List Request) : Hw := { h with glz := z, reqs := q }

section
variable (h : Hw) (z : Glaze) (q : List Request)

theorem decodeLocal_withStreams (c : CtxId) (off : Nat) :
    decodeLocal (h.withStreams z q) c off = decodeLocal h c off := rfl

theorem rangeHeld_withStreams (c : CtxId) (off n : Nat) :
    rangeHeld (h.withStreams z q) c off n = rangeHeld h c off n := by
  simp only [rangeHeld, decodeLocal_withStreams]

theorem circuitBindFault_withStreams (id dst : Nat) :
    circuitBindFault (h.withStreams z q) id dst = circuitBindFault h id dst := rfl

/-- The checks at bind do not depend on the streams, binds and requests that there are. -/
theorem bindFault_withStreams (g : GlazeSlot) (uma : Word) :
    bindFault (h.withStreams z q) g uma = bindFault h g uma := by
  have hkeys : (h.withStreams z q).sec = h.sec := rfl
  simp only [bindFault, blockOutside, decodeLocal_withStreams, rangeHeld_withStreams, circuitBindFault_withStreams,
    hkeys]

theorem chanDown_withStreams (off n : Nat) : chanDown (h.withStreams z q) off n = chanDown h off n := rfl

end

/-- A descriptor that no staging holds is read from memory. -/
theorem readDesc_memory {h : Hw} {b : GlazeBind} {off : Nat} (hc : h.mem.corrected off 64 = 0)
    (hs : ∀ t ∈ h.glz.staging, ¬ (t.ctx = b.ctx ∧ t.uma = b.uma)) :
    readDesc h b off = (bytesWords 8 (h.mem.read off 64),
      h.mem.read (nthW (bytesWords 8 (h.mem.read off 64)) 6).toNat
        (32 * Nat.min 16 (wfld (nthW (bytesWords 8 (h.mem.read off 64)) 7) 0 16)), h) := by
  have hfind : h.glz.staging.find? (fun t => t.ctx == b.ctx && t.uma == b.uma && t.north == decide (b.slot.val < 32)) =
      none := by
    refine List.find?_eq_none.2 fun t ht hyes => hs t ht ?_
    simp only [Bool.and_eq_true, beq_iff_eq] at hyes
    exact hyes.1
  simp only [readDesc, hfind, touchRead_clean hc]

/-- Slot `n` has been freed for the stream `g`. -/
def slotTaken (h : Hw) (n : SlotId) (g : GlazeSlot) : Hw := (endReads h (· == n)).setGslot n g

@[simp] theorem stageDesc_easels (h : Hw) (b : GlazeBind) (d : List Word) (ents : Bytes) :
    (stageDesc h b d ents).easels = h.easels := rfl
@[simp] theorem stageDesc_binds (h : Hw) (b : GlazeBind) (d : List Word) (ents : Bytes) :
    (stageDesc h b d ents).glz.binds = h.glz.binds := rfl
@[simp] theorem stageDesc_gslot (h : Hw) (b : GlazeBind) (d : List Word) (ents : Bytes) (n : SlotId) :
    (stageDesc h b d ents).gslot n = h.gslot n := rfl

/-- The hardware once the slot is the new stream's and the descriptor is staged (R203, R256). -/
def slotBound (h : Hw) (b : GlazeBind) (d : List Word) (ents : Bytes) : Hw :=
  stageDesc (slotTaken h b.slot (boundSlot b d ents)) b d ents

theorem gslot_slotBound (h : Hw) (b : GlazeBind) (d : List Word) (ents : Bytes) :
    (slotBound h b d ents).gslot b.slot = boundSlot b d ents :=
  (stageDesc_gslot ..).trans (Hw.gslot_setGslot ..)

theorem gslot_slotBound_ne (h : Hw) (b : GlazeBind) (d : List Word) (ents : Bytes) {m : SlotId} (hm : m ≠ b.slot) :
    (slotBound h b d ents).gslot m = h.gslot m :=
  (stageDesc_gslot ..).trans (Hw.gslot_setGslot_ne (endReads h (· == b.slot)) _ hm)

/-- The hardware once the stream stands at its first entry. -/
def streamBound (h : Hw) (b : GlazeBind) (d : List Word) (ents : Bytes) : Hw :=
  ((slotBound h b d ents).modGslot b.slot (firstEntry h)).modGslot b.slot GlazeSlot.turned

theorem gslot_streamBound {h : Hw} {b : GlazeBind} {d : List Word} {ents : Bytes}
    (hg : (curEntry (firstEntry h (boundSlot b d ents))).gate = true) :
    (streamBound h b d ents).gslot b.slot = { firstEntry h (boundSlot b d ents) with gated := true } := by
  rw [streamBound, Hw.gslot_modGslot, Hw.gslot_modGslot, gslot_slotBound]
  exact boundSlot_turned hg

theorem gslot_streamBound_ne (h : Hw) (b : GlazeBind) (d : List Word) (ents : Bytes) {m : SlotId} (hm : m ≠ b.slot) :
    (streamBound h b d ents).gslot m = h.gslot m := by
  rw [streamBound, Hw.gslot_modGslot_ne _ _ hm, Hw.gslot_modGslot_ne _ _ hm, gslot_slotBound_ne _ _ _ _ hm]

theorem streamBound_easels (h : Hw) (b : GlazeBind) (d : List Word) (ents : Bytes) :
    (streamBound h b d ents).easels = h.easels := by simp [streamBound, slotBound, slotTaken]

theorem streamBound_mem (h : Hw) (b : GlazeBind) (d : List Word) (ents : Bytes) :
    (streamBound h b d ents).mem = h.mem := by simp [streamBound, slotBound, slotTaken]

theorem streamBound_binds (h : Hw) (b : GlazeBind) (d : List Word) (ents : Bytes) :
    (streamBound h b d ents).glz.binds = h.glz.binds := by simp [streamBound, slotBound, slotTaken]

/-- A stream at bind of which nothing faults: the checks of R203, and the reads of its list. -/
structure BindsClean (h : Hw) (g : GlazeSlot) (uma : Word) : Prop where
  checks : bindFault h g uma = none
  corrected : h.mem.corrected (gList g).toNat (listLen g) = 0
  bad : h.mem.badRead (gList g).toNat (listLen g) = none
  path : h.mem.pathBad (gList g).toNat (listLen g) = none
  up : chanDown h (gList g).toNat (listLen g) = false

/-- A stream of a local source whose first entry passes the checks of R206 and waits for a gate. -/
structure GatedFirst (h : Hw) (g : GlazeSlot) : Prop where
  isLocal : isRemote (gSrc g) = false
  entries : 0 < gEntries g
  checks : entryFault h (firstEntry h g) = none
  gate : (curEntry (firstEntry h g)).gate = true

section
variable {h : Hw} {b : GlazeBind} {off : Nat} {d : List Word} {ents : Bytes} (hread : readDesc h b off = (d, ents, h))
  (hc : BindsClean h (boundSlot b d ents) b.uma)
include hread hc

/-- A bind of which nothing faults starts its stream. -/
theorem bindSlot_starts :
    bindSlot h b off = fetchNext (startEntry (slotBound h b d ents) b.slot) b.slot := by
  unfold bindSlot
  rw [hread]
  extract_lets r blank g h1 l bad h2
  have hfault : bindFault h1 g b.uma = none := (bindFault_withStreams h h1.glz h1.reqs ..).trans hc.checks
  have hnone : bad = none := by
    have hup : chanDown h1 l (listLen g) = false := (chanDown_withStreams h h1.glz h1.reqs ..).trans hc.up
    have hbad : h1.mem.badRead l (listLen g) = none := hc.bad
    have hpath : h1.mem.pathBad l (listLen g) = none := hc.path
    simp [bad, hup, hbad, hpath]
  have htouch : h2 = slotBound h b d ents := touchRead_clean hc.corrected
  rw [hfault, hnone, htouch]

/-- The stream of a local source whose first entry is gated waits for the gate. -/
theorem bindSlot_gated (hf : GatedFirst h (boundSlot b d ents)) : bindSlot h b off = streamBound h b d ents := by
  have hslot : ((slotBound h b d ents).modGslot b.slot (firstEntry h)).gslot b.slot =
      firstEntry h (boundSlot b d ents) := by
    rw [Hw.gslot_modGslot, gslot_slotBound]
  have hstart : startEntry (slotBound h b d ents) b.slot = streamBound h b d ents := by
    rw [startEntry_first (by rw [gslot_slotBound]; rfl) (by rw [gslot_slotBound]; exact hf.entries)]
    refine takeEntry_gated (Eq.trans ?_ hf.checks) ?_
    · exact congrArg (entryFault h) hslot
    · exact (congrArg (fun x => (curEntry x).gate) hslot).trans hf.gate
  rw [bindSlot_starts hread hc, hstart]
  refine fetchNext_idle (.inl ?_)
  rw [gslot_streamBound hf.gate]
  exact hf.isLocal

end

end Sys2Proof.Machine
end

section
/-! Proofs about GLAZE_BIND: the slot takes the oldest bind that waits for it, or refuses it. -/

namespace Sys2Proof.Machine

/-- The oldest bind of slot `n` has left the queue. -/
def bindGone (h : Hw) (n : SlotId) : Hw :=
  { h with glz := { h.glz with binds := removeFirst (fun b => b.slot == n) h.glz.binds } }

/-- The record of a bind that its slot refuses. -/
def refusedBind (h : Hw) (n : SlotId) (b : GlazeBind) : FaultRec :=
  { glzAgent h n b.ctx b.easel b.serial b.pc b.inst with cls := 0x63, addr := b.uma }

/-- What faults at bind does not depend on the binds that wait. -/
theorem BindsClean.bindGone {h : Hw} {g : GlazeSlot} {uma : Word} (hc : BindsClean h g uma) (n : SlotId) :
    BindsClean (bindGone h n) g uma where
  checks := (bindFault_withStreams h (Machine.bindGone h n).glz h.reqs g uma).trans hc.checks
  corrected := hc.corrected
  bad := hc.bad
  path := hc.path
  up := hc.up

theorem entryFault_bindGone (h : Hw) (n : SlotId) (g : GlazeSlot) : entryFault (bindGone h n) g = entryFault h g := rfl

theorem firstEntry_bindGone (h : Hw) (n : SlotId) (g : GlazeSlot) : firstEntry (bindGone h n) g = firstEntry h g := rfl

theorem GatedFirst.bindGone {h : Hw} {g : GlazeSlot} (hf : GatedFirst h g) (n : SlotId) :
    GatedFirst (bindGone h n) g where
  isLocal := hf.isLocal
  entries := hf.entries
  checks := by rw [firstEntry_bindGone, entryFault_bindGone, hf.checks]
  gate := by rw [firstEntry_bindGone, hf.gate]

/-- Slot `n` may take a bind of context `c` (R199). -/
structure TakesBind (h : Hw) (n : SlotId) (c : CtxId) : Prop where
  owned : slotOf h n = some c
  notRunning : (h.gslot n).state ≠ 1
  notPaused : (h.gslot n).state ≠ 5

/-- Nothing of the easel waits. -/
structure WaitsForNothing (x : Easel) : Prop where
  svc : x.svcBlocked = none
  stores : NoneDrains x
  core : x.blocked = none

theorem WaitsForNothing.settle {h : Hw} {e : EaselId} (hx : WaitsForNothing (h.easel e)) : settle h e = h :=
  settle_none hx.svc hx.stores hx.core

theorem WaitsForNothing.recordFault {h : Hw} {e : EaselId} (hx : WaitsForNothing (h.easel e)) (r : FaultRec) :
    WaitsForNothing ((recordFault h r).easel e) := by
  rcases recordFault_easel h r e with he | he <;> rw [he] <;> exact ⟨hx.svc, hx.stores, hx.core⟩

section
variable {s : State} {n : SlotId} {b : GlazeBind} (hb : s.hw.glz.binds.find? (fun b => b.slot == n) = some b)
  (hw : bindWaits s.hw b = false)

include hb in

theorem slot_of_find : b.slot = n := by simpa using List.find?_some hb

include hb hw

/-- A slot that is not the context's, or that is in use, refuses the bind. -/
theorem exec_glazeBind_refused
    (hr : slotOf s.hw n ≠ some b.ctx ∨ (s.hw.gslot n).state = 1 ∨ (s.hw.gslot n).state = 5) :
    exec (.glazeBind n) s =
      .next { s with hw := settle (recordFault (bindGone s.hw n) (refusedBind s.hw n b)) b.easel } := by
  refine congrArg (fun g => Host.Outcome.next { s with hw := g }) ?_
  beta_reduce
  rw [hb]
  refine (if_neg (by simp [hw])).trans (congrArg (settle · b.easel) ?_)
  exact if_pos hr

/-- A slot of the context that is not in use takes the bind, with its descriptor at a local offset without error. -/
theorem exec_glazeBind_taken {off : Nat} (hn : TakesBind s.hw n b.ctx) (hd : decodeUma s.hw b.ctx b.uma = .local off)
    (hc : CleanWords s off 64) :
    exec (.glazeBind n) s = .next { s with hw := settle (bindSlot (bindGone s.hw n) b off) b.easel } := by
  have hlocal : bindLocal (bindGone s.hw n) b off = bindSlot (bindGone s.hw n) b off := by
    obtain ⟨-, hbad, hpath, -⟩ := hc
    have hbad' : (bindGone s.hw n).mem.badRead off 64 = none := hbad
    have hpath' : (bindGone s.hw n).mem.pathBad off 64 = none := hpath
    rw [bindLocal, hbad', hpath']
  have huse : ¬ (slotOf (bindGone s.hw n) n ≠ some b.ctx ∨ ((bindGone s.hw n).gslot n).state = 1 ∨
      ((bindGone s.hw n).gslot n).state = 5) := by
    rintro (hne | hrun | hpaused)
    · exact hne hn.owned
    · exact hn.notRunning hrun
    · exact hn.notPaused hpaused
  refine congrArg (fun g => Host.Outcome.next { s with hw := g }) ?_
  beta_reduce
  rw [hb]
  refine (if_neg (by simp [hw])).trans (congrArg (settle · b.easel) ?_)
  refine (if_neg huse).trans ?_
  generalize hx : decodeUma _ b.ctx b.uma = x
  obtain rfl : x = .local off := hx.symm.trans hd
  exact hlocal

variable (hx : WaitsForNothing (s.hw.easel b.easel))
include hx

/-- A slot refuses a bind: the fault of the bind's context, and the bind leaves its queue. -/
theorem yields_glazeBind_refused
    (hr : slotOf s.hw n ≠ some b.ctx ∨ (s.hw.gslot n).state = 1 ∨ (s.hw.gslot n).state = 5)
    (hc : RunsClean s b.ctx) :
    Yields (.glazeBind n) s (fun t => TakesPrimary t b.ctx 0x63 b.uma ∧
      t.hw.glz.binds = (bindGone s.hw n).glz.binds ∧
      ((s.hw.gslot n).ctx ≠ b.ctx → t.hw.gslot n = s.hw.gslot n)) := by
  obtain ⟨hrun, hclean⟩ := hc
  have hgone : WaitsForNothing ((bindGone s.hw n).easel b.easel) := hx
  refine yields_run (exec_glazeBind_refused hb hw hr) (hgone.recordFault _).settle
    ⟨?_, recordFault_binds .., fun hne => ?_⟩
  · exact recordFault_takesPrimary (h := bindGone s.hw n) (r := refusedBind s.hw n b) rfl hrun hclean s.pending
  · exact recordFault_gslot (fun he => hne (Option.some.inj he).symm)

/-- A slot takes the bind of a local stream whose first entry is gated. -/
theorem yields_glazeBind_gated {off : Nat} {d : List Word} {ents : Bytes} (hn : TakesBind s.hw n b.ctx)
    (hd : decodeUma s.hw b.ctx b.uma = .local off) (hdesc : CleanWords s off 64)
    (hread : readDesc (bindGone s.hw n) b off = (d, ents, bindGone s.hw n))
    (hc : BindsClean s.hw (boundSlot b d ents) b.uma) (hf : GatedFirst s.hw (boundSlot b d ents)) :
    Yields (.glazeBind n) s (fun t => t.hw.gslot n = { firstEntry s.hw (boundSlot b d ents) with gated := true } ∧
      t.hw.glz.binds = (bindGone s.hw n).glz.binds ∧ (∀ m, m ≠ n → t.hw.gslot m = s.hw.gslot m) ∧
      t.hw.mem = s.hw.mem) := by
  have hgone : GatedFirst (bindGone s.hw n) (boundSlot b d ents) := hf.bindGone n
  have hstream : bindSlot (bindGone s.hw n) b off = streamBound (bindGone s.hw n) b d ents :=
    bindSlot_gated hread (hc.bindGone n) hgone
  have heasel : (streamBound (bindGone s.hw n) b d ents).easel b.easel = s.hw.easel b.easel :=
    Hw.easel_of_easels (streamBound_easels ..) b.easel
  have hsettle : settle (bindSlot (bindGone s.hw n) b off) b.easel = streamBound (bindGone s.hw n) b d ents := by
    rw [← heasel] at hx
    rw [hstream, hx.settle]
  obtain rfl : b.slot = n := slot_of_find hb
  rw [← firstEntry_bindGone s.hw b.slot]
  refine yields_run (exec_glazeBind_taken hb hw hn hd hdesc) hsettle
    ⟨gslot_streamBound hgone.gate, streamBound_binds .., fun m hm => ?_, streamBound_mem ..⟩
  exact gslot_streamBound_ne (bindGone s.hw b.slot) b d ents hm

end

end Sys2Proof.Machine
end

section
/-! Proofs about a running stream: a block verified, an entry completed. -/

namespace Sys2Proof.Machine

/-! ### GLAZE_BLOCK_VERIFY (R209, R210) -/

/-- A verified raw block enters the staging. -/
def GlazeSlot.staged (g : GlazeSlot) (b : Bytes) : GlazeSlot :=
  GlazeSlot.counted { g with
    nextBlock := g.nextBlock + 1, elems := g.elems ++ b, lens := g.lens ++ [b.length], got := [] }

/-- A block of a local stream that waits for its gate only enters the staging. -/
theorem stageBlock_gated {h : Hw} {n : SlotId} (hr : isRemote (gSrc (h.gslot n)) = false)
    (hg : (h.gslot n).gated = true) (b : Bytes) :
    stageBlock h n { elems := b, scales := [], ok := true } = h.modGslot n (GlazeSlot.staged · b) := by
  have hstaged : (fun g : GlazeSlot => GlazeSlot.counted { g with
      nextBlock := g.nextBlock + 1, got := [], elems := g.elems ++ b, scales := g.scales ++ []
      lens := g.lens ++ [b.length] }) = (GlazeSlot.staged · b) := by
    funext g
    simp only [GlazeSlot.staged, List.append_nil]
  simp only [stageBlock, hstaged]
  rw [pump_gated (by rw [Hw.gslot_modGslot]; exact hg)]
  exact fetchNext_idle (.inl (by rw [Hw.gslot_modGslot]; exact hr))

/-- Local offset and length of the next block of a local stream (R204). -/
def GlazeSlot.blockOff (g : GlazeSlot) : Nat := (gSrc g).toNat + 65536 * g.nextBlock
def GlazeSlot.blockLen (g : GlazeSlot) : Nat := gBlkLen g g.nextBlock

theorem blockReads_raw {g : GlazeSlot} (hr : isRemote (gSrc g) = false) (hc : gCipher g = false) :
    blockReads g = [(g.blockOff, g.blockLen)] := by
  simp [blockReads, hr, hc, GlazeSlot.blockOff, GlazeSlot.blockLen]

/-- A raw block needs no key and decodes to itself. -/
theorem verifyBlock_raw {h : Hw} {n : SlotId} (hr : isRemote (gSrc (h.gslot n)) = false)
    (hc : gCipher (h.gslot n) = false) (hb : gBalpa (h.gslot n) = false) (data tag : Bytes) :
    verifyBlock h n data tag =
      stageBlock (touchRead (h.countWrap (glzBlk n + 0x28) data.length) (h.gslot n).blockOff (h.gslot n).blockLen) n
        { elems := data, scales := [], ok := true } := by
  simp [verifyBlock, openBlock, blockOut, hc, hb, blockReads_raw hr hc]

/-- A running stream with room reads its next block, unciphered and local, and meets no fault. -/
structure ReadsBlock (h : Hw) (g : GlazeSlot) : Prop where
  running : g.state = 1
  more : g.nextBlock < gBlocks g
  isLocal : isRemote (gSrc g) = false
  plain : gCipher g = false
  room : g.lens.length < 4
  noWait : ∀ r ∈ blockReads g, chanWaits h r.1 r.2 = false
  noFault : blockFault h g = none

theorem ReadsBlock.data {h : Hw} {g : GlazeSlot} (hr : ReadsBlock h g) :
    blockData h g = some (h.mem.read g.blockOff g.blockLen, []) := by
  simp only [blockData, hr.isLocal, hr.plain, Bool.false_eq_true, if_false]
  rfl

theorem touchRead_gslot (h : Hw) (a k : Nat) (n : SlotId) : (touchRead h a k).gslot n = h.gslot n :=
  Hw.gslot_of_glz (MemTouched.refl h).touchRead.glz n

section
variable {s : State} {n : SlotId}

/-- The block that a stream has read is verified. -/
theorem exec_glazeBlockVerify (hr : ReadsBlock s.hw (s.hw.gslot n)) :
    exec (.glazeBlockVerify n false) s = .next { s with
      hw := verifyBlock s.hw n (s.hw.mem.read (s.hw.gslot n).blockOff (s.hw.gslot n).blockLen) [] } := by
  have hno : ¬ ((s.hw.gslot n).state ≠ 1 ∨ gBlocks (s.hw.gslot n) ≤ (s.hw.gslot n).nextBlock ∨
      (!(s.hw.gslot n).room) = true ∨
      ((blockReads (s.hw.gslot n)).any (fun r => chanWaits s.hw r.1 r.2)) = true) := by
    rintro (h | h | h | h)
    · exact h hr.running
    · exact absurd hr.more (Nat.not_lt.2 h)
    · simp [GlazeSlot.room, hr.room] at h
    · obtain ⟨r, hmem, hwait⟩ := List.any_eq_true.1 h
      exact Bool.false_ne_true ((hr.noWait r hmem).symm.trans hwait)
  refine congrArg (fun g => Host.Outcome.next { s with hw := g }) ?_
  refine (if_neg hno).trans ?_
  simp only [Bool.false_eq_true, if_false, hr.noFault, hr.data]

/-- The bytes of a raw block enter the staging after those there. -/
theorem yields_glazeBlockVerify (hr : ReadsBlock s.hw (s.hw.gslot n)) (hb : gBalpa (s.hw.gslot n) = false)
    (hg : (s.hw.gslot n).gated = true) :
    Yields (.glazeBlockVerify n false) s (fun t =>
      t.hw.gslot n =
        (s.hw.gslot n).staged (s.hw.mem.read (s.hw.gslot n).blockOff (s.hw.gslot n).blockLen) ∧
      (∀ m, m ≠ n → t.hw.gslot m = s.hw.gslot m) ∧ t.hw.mem.cells = s.hw.mem.cells) := by
  have hslot (k a len : Nat) (m : SlotId) :
      (touchRead (s.hw.countWrap (glzBlk n + 0x28) k) a len).gslot m = s.hw.gslot m := touchRead_gslot ..
  refine yields_run (exec_glazeBlockVerify hr) ((verifyBlock_raw hr.isLocal hr.plain hb ..).trans
    (stageBlock_gated (by rw [hslot]; exact hr.isLocal) (by rw [hslot]; exact hg) _)) ⟨?_, fun m hm => ?_, ?_⟩
  · rw [Hw.gslot_modGslot, hslot]
  · rw [Hw.gslot_modGslot_ne _ _ hm, hslot]
  · rw [Hw.modGslot_mem, touchRead_mem]
    rfl

/-! ### GLAZE_ENTRY_COMPLETE (R207, R208) -/

/-- The current entry is complete. -/
def GlazeSlot.entryEnded (g : GlazeSlot) : GlazeSlot :=
  { g with entriesDone := g.entriesDone + 1, cur := g.cur + 1, curPos := 0 }

/-- A stream that completes, with nothing left in the staging. -/
def GlazeSlot.completed (g : GlazeSlot) : GlazeSlot :=
  { g with state := 2, elems := [], scales := [], lens := [], got := [] }

/-- A running stream has performed all of its last entry, which signals nothing. -/
structure LastPerformed (g : GlazeSlot) : Prop where
  running : g.state = 1
  ungated : g.gated = false
  last : g.cur + 1 = gEntries g
  full : entryFull g = true
  noSignal : (curEntry g).sig = false

/-- Past its last entry a stream without a done signal completes. -/
theorem startEntry_done {h : Hw} (hc : gEntries (h.gslot n) ≤ (h.gslot n).cur)
    (hs : bit (nthW (h.gslot n).desc 7) 37 = false) :
    startEntry h n = (endReads h (· == n)).modGslot n GlazeSlot.completed := by
  rw [startEntry, if_pos hc]
  exact if_neg (by rw [hs]; exact Bool.false_ne_true)

/-- The last entry of a stream that signals nothing is complete. -/
theorem exec_glazeEntryComplete (hl : LastPerformed (s.hw.gslot n)) :
    exec (.glazeEntryComplete n) s = .next { s with
      hw := fetchNext (startEntry (s.hw.modGslot n GlazeSlot.entryEnded) n) n } := by
  refine congrArg (fun g => Host.Outcome.next { s with hw := g }) ?_
  refine (if_neg ?_).trans ?_
  · have hcur : ¬ gEntries (s.hw.gslot n) ≤ (s.hw.gslot n).cur := by
      have := hl.last
      omega
    simp [hl.running, hl.ungated, hl.full, hl.last, hcur]
  · simp only [hl.noSignal, Bool.false_eq_true, if_false]
    rfl

theorem yields_glazeEntryComplete (hl : LastPerformed (s.hw.gslot n))
    (hdone : bit (nthW (s.hw.gslot n).desc 7) 37 = false) :
    Yields (.glazeEntryComplete n) s (fun t => t.hw.gslot n = (s.hw.gslot n).entryEnded.completed ∧
      (∀ m, m ≠ n → t.hw.gslot m = s.hw.gslot m) ∧ t.hw.mem = s.hw.mem) := by
  have hended : (s.hw.modGslot n GlazeSlot.entryEnded).gslot n = (s.hw.gslot n).entryEnded := Hw.gslot_modGslot ..
  have hstart : startEntry (s.hw.modGslot n GlazeSlot.entryEnded) n =
      (endReads (s.hw.modGslot n GlazeSlot.entryEnded) (· == n)).modGslot n GlazeSlot.completed :=
    startEntry_done (by rw [hended]; exact hl.last.ge) (by rw [hended]; exact hdone)
  have hslot : ((endReads (s.hw.modGslot n GlazeSlot.entryEnded) (· == n)).modGslot n GlazeSlot.completed).gslot n =
      (s.hw.gslot n).entryEnded.completed := by rw [Hw.gslot_modGslot, Hw.gslot_endReads, hended]
  have hend : fetchNext (startEntry (s.hw.modGslot n GlazeSlot.entryEnded) n) n =
      (endReads (s.hw.modGslot n GlazeSlot.entryEnded) (· == n)).modGslot n GlazeSlot.completed := by
    rw [hstart]
    exact fetchNext_idle (.inr (by rw [hslot]; exact (by decide : (2 : BitVec 3) ≠ 1)))
  refine yields_run (exec_glazeEntryComplete hl) hend ⟨hslot, fun m hm => ?_, by simp⟩
  rw [Hw.gslot_modGslot_ne _ _ hm, Hw.gslot_endReads, Hw.gslot_modGslot_ne _ _ hm]

end

end Sys2Proof.Machine
end

section
/-! Proofs about a gate that is taken and what is delivered behind it, and about a slot that is released. -/

namespace Sys2Proof.Machine

/-! ### Delivery (R206, R207) -/

theorem deliverFault_eq_none {h : Hw} {g : GlazeSlot} {ws : List Wr} : deliverFault h g ws = none ↔
    destFault h g.ctx (curEntry g) = none ∧ writesBad h ws = none ∧
      ws.find? (fun w => (h.mem.pathBad w.1 w.2.length).isSome) = none := by
  unfold deliverFault
  cases destFault h g.ctx (curEntry g) with
  | some c => simp
  | none => cases writesBad h ws <;> simp

/-- What of the staged elements the current entry takes. -/
def GlazeSlot.deliverable (g : GlazeSlot) : Bytes := g.elems.take ((curEntry g).elemBytes - g.curPos)

/-- The Palette writes of a raw entry that delivers them. -/
def GlazeSlot.rawWrites (g : GlazeSlot) : List Wr := entryWrites (curEntry g) g.curPos g.deliverable []

/-- The stream once a raw entry has delivered them. -/
def GlazeSlot.delivered (g : GlazeSlot) : GlazeSlot :=
  GlazeSlot.counted { g with
    curPos := g.curPos + g.deliverable.length, elems := g.elems.drop g.deliverable.length
    lastElems := g.lastElems ++ g.deliverable }

/-- An entry under way for which staged output is there or still to come. -/
structure MayDeliver (h : Hw) (g : GlazeSlot) : Prop where
  running : g.state = 1
  entry : g.cur < gEntries g
  part : g.curPos < (curEntry g).elemBytes
  raw : gBalpa g = false
  own : (curEntry g).same = false
  fault : deliverFault h g g.rawWrites = none
  enough : (curEntry g).elemBytes - g.curPos ≤ g.elems.length ∨ g.nextBlock < gBlocks g

/-- The hardware once an entry has delivered. -/
def entryDelivered (h : Hw) (n : SlotId) : Hw :=
  countOut ((applyWrites h (h.gslot n).rawWrites).setGslot n (h.gslot n).delivered) n (h.gslot n).ctx
    (h.gslot n).deliverable.length

/-- A raw entry that does not wait delivers what it can take. -/
theorem pump_delivers {h : Hw} {n : SlotId} (hm : MayDeliver h (h.gslot n)) (hg : (h.gslot n).gated = false) :
    pump h n = entryDelivered h n := by
  obtain ⟨hrun, hentry, hpart, hraw, hown, hf, hen⟩ := hm
  have hgo : ¬ ((h.gslot n).state ≠ 1 ∨ (h.gslot n).gated = true ∨ gEntries (h.gslot n) ≤ (h.gslot n).cur ∨
      entryFull (h.gslot n) = true) := by
    simp [hrun, hg, entryFull]
    omega
  have hlen : ¬ ((h.gslot n).deliverable.length < (curEntry (h.gslot n)).elemBytes - (h.gslot n).curPos ∧
      (False ∨ gBlocks (h.gslot n) ≤ (h.gslot n).nextBlock)) := by
    rw [GlazeSlot.deliverable, List.length_take]
    rintro ⟨hlt, hor⟩
    rcases hen with hall | hmore <;> simp only [false_or] at hor <;> omega
  unfold GlazeSlot.rawWrites GlazeSlot.deliverable at hf
  unfold GlazeSlot.deliverable at hlen
  refine (if_neg hgo).trans ?_
  simp only [hown, hraw, Bool.false_eq_true, if_false, hf, List.length_nil, Nat.add_zero, List.drop_zero,
    List.append_nil, if_neg hlen]
  rfl

section
variable (h : Hw) (n : SlotId)

theorem memTouched_writes : MemTouched h (applyWrites h (h.gslot n).rawWrites) := (MemTouched.refl h).applyWrites _

theorem gslot_entryDelivered : (entryDelivered h n).gslot n = (h.gslot n).delivered := by
  simp [entryDelivered, countOut]

theorem gslot_entryDelivered_ne {m : SlotId} (hm : m ≠ n) : (entryDelivered h n).gslot m = h.gslot m := by
  simp [entryDelivered, countOut, Hw.gslot_setGslot_ne _ _ hm, Hw.gslot_of_glz (memTouched_writes h n).glz]

theorem entryDelivered_sync : (entryDelivered h n).sync = h.sync := by
  simp [entryDelivered, countOut, (memTouched_writes h n).sync]

theorem entryDelivered_sec : (entryDelivered h n).sec = h.sec := by
  simp [entryDelivered, countOut, (memTouched_writes h n).sec]

theorem entryDelivered_ctx (c : CtxId) : (entryDelivered h n).ctx c = h.ctx c := by
  simp [entryDelivered, countOut, Hw.ctx_of_ctxs (memTouched_writes h n).ctxs]

theorem entryDelivered_mem : (entryDelivered h n).mem = (applyWrites h (h.gslot n).rawWrites).mem := by
  simp [entryDelivered]

/-- The counters of streams lie below the registers of the router (Table 13-3). -/
theorem entryDelivered_reg {k : Nat} (h1 : 0x400000 ≤ k) (h2 : k < 0x1000000) :
    (entryDelivered h n).reg k = h.reg k := by
  have hk : k ≠ glzBlk n + 0x30 := by
    simp only [glzBlk, blkBase, Fin.val_ofNat]
    omega
  rw [entryDelivered, countOut, perfAdd_reg, Hw.countWrap, Hw.reg_setReg_ne _ _ hk, Hw.reg_setGslot,
    (memTouched_writes h n).reg k h1 h2]

/-- Delivery changes nothing that a stream's requests need to leave. -/
theorem glzSendFault_entryDelivered :
    glzSendFault (entryDelivered h n) (h.gslot n).delivered = glzSendFault h (h.gslot n) := by
  refine glzSendFault_congr rfl rfl (entryDelivered_sec ..) (by rw [entryDelivered_ctx]) (entryDelivered_reg _ _ ?_ ?_)
  · omega
  · have hlt : gCirc (h.gslot n) < 2 ^ 12 := Nat.mod_lt _ (by decide)
    omega

end

/-! ### GLAZE_GATE_TAKE (R207) -/

/-- The gate object of the current entry. -/
def GlazeSlot.gateObj (g : GlazeSlot) : ObjId := .mod (curEntry g).gateSo

/-- The stream once its gate is taken. -/
def GlazeSlot.ungated (g : GlazeSlot) : GlazeSlot := { g with gated := false }

/-- The hardware once the gate's count is decremented. -/
def gateTaken (h : Hw) (n : SlotId) : Hw :=
  let o := (h.gslot n).gateObj
  (h.setObj o (setFld (h.obj o) 0 48 (wfld (h.obj o) 0 48 - 1))).modGslot n GlazeSlot.ungated

section
variable (h : Hw) (n : SlotId)

theorem gslot_gateTaken : (gateTaken h n).gslot n = (h.gslot n).ungated := Hw.gslot_modGslot ..

theorem gslot_gateTaken_ne {m : SlotId} (hm : m ≠ n) : (gateTaken h n).gslot m = h.gslot m :=
  Hw.gslot_modGslot_ne _ _ hm

theorem gateTaken_mem : (gateTaken h n).mem = h.mem := rfl

theorem gateTaken_obj (o : ObjId) : (gateTaken h n).obj o = if o = (h.gslot n).gateObj then
    setFld (h.obj (h.gslot n).gateObj) 0 48 (wfld (h.obj (h.gslot n).gateObj) 0 48 - 1) else h.obj o :=
  (Hw.obj_congr rfl o).trans (Hw.obj_setObj_mod h _ _ o)

theorem mayDeliver_gateTaken {g : GlazeSlot} (hm : MayDeliver h g) : MayDeliver (gateTaken h n) g.ungated := by
  obtain ⟨hdest, hbad, hpath⟩ := deliverFault_eq_none.1 hm.fault
  exact { hm with fault := deliverFault_eq_none.2 ⟨hdest, hbad, hpath⟩ }

theorem glzSendFault_gateTaken (g : GlazeSlot) : glzSendFault (gateTaken h n) g.ungated = glzSendFault h g :=
  glzSendFault_congr rfl rfl rfl rfl rfl

end

section
variable {s : State} {n : SlotId}

theorem exec_glazeGateTake (hrun : (s.hw.gslot n).state = 1) (hg : (s.hw.gslot n).gated = true)
    (hb : isBarrier (s.hw.obj (s.hw.gslot n).gateObj) = false)
    (hpos : 0 < wfld (s.hw.obj (s.hw.gslot n).gateObj) 0 48) :
    exec (.glazeGateTake n) s = .next { s with hw := fetchNext (pump (gateTaken s.hw n) n) n } := by
  refine congrArg (fun g => Host.Outcome.next { s with hw := g }) (if_neg ?_)
  rintro (h | h | h | h)
  · exact h hrun
  · exact Bool.false_ne_true (h.symm.trans hg)
  · exact Bool.false_ne_true (hb.symm.trans h)
  · exact hpos.ne' h

/-- A gate is taken and what is staged of the entry is delivered; the stream reads on. -/
theorem yields_glazeGateTake (hg : (s.hw.gslot n).gated = true)
    (hb : isBarrier (s.hw.obj (s.hw.gslot n).gateObj) = false)
    (hpos : 0 < wfld (s.hw.obj (s.hw.gslot n).gateObj) 0 48) (hm : MayDeliver s.hw (s.hw.gslot n))
    (hs : isRemote (gSrc (s.hw.gslot n)) = true → glzSendFault s.hw (s.hw.gslot n) = none) :
    Yields (.glazeGateTake n) s (fun t => t.hw.gslot n = (s.hw.gslot n).ungated.delivered ∧
      (∀ m, m ≠ n → t.hw.gslot m = s.hw.gslot m) ∧ (∀ o, t.hw.obj o = (gateTaken s.hw n).obj o) ∧
      t.hw.mem = (applyWrites s.hw (s.hw.gslot n).rawWrites).mem) := by
  have hslot : (gateTaken s.hw n).gslot n = (s.hw.gslot n).ungated := gslot_gateTaken ..
  have hpump : pump (gateTaken s.hw n) n = entryDelivered (gateTaken s.hw n) n :=
    pump_delivers (by rw [hslot]; exact mayDeliver_gateTaken _ _ hm) (by rw [hslot]; rfl)
  have hdelivered : (entryDelivered (gateTaken s.hw n) n).gslot n = (s.hw.gslot n).ungated.delivered := by
    rw [gslot_entryDelivered, hslot]
  have hsends : OnlySends (entryDelivered (gateTaken s.hw n) n) (fetchNext (pump (gateTaken s.hw n) n) n) := by
    rw [hpump]
    refine onlySends_fetchNext fun hremote => ?_
    rw [gslot_entryDelivered, glzSendFault_entryDelivered, hslot, glzSendFault_gateTaken]
    rw [hdelivered] at hremote
    exact hs hremote
  refine ⟨_, exec_glazeGateTake hm.running hg hb hpos, ?_, fun m hmn => ?_, fun o => ?_, ?_⟩
  · exact (Hw.gslot_of_glz hsends.glz n).trans hdelivered
  · refine (Hw.gslot_of_glz hsends.glz m).trans ?_
    rw [gslot_entryDelivered_ne _ _ hmn, gslot_gateTaken_ne _ _ hmn]
  · exact Hw.obj_congr (hsends.sync.trans (entryDelivered_sync ..)) o
  · refine hsends.mem.trans ?_
    rw [entryDelivered_mem, hslot]
    exact applyWrites_mem_congr (gateTaken_mem ..) _

end

/-! ### GLZ_SLOT_RELEASE (R218, R220) -/

section
variable {s : State} {r : Requester} {n : SlotId}

/-- Offset of a slot's GLZ_SLOT_ALLOC in its block. -/
def slotAllocOff (n : SlotId) : Nat := 0x100 + 8 * (n.val % 32)

/-- The GLZ_ block of a slot. -/
def glzBlock (n : SlotId) : BlockId := .glz (Fin.ofNat 2 (n.val / 32))

theorem slotAllocOff_inArr (n : SlotId) : inArr (slotAllocOff n) 0x100 8 32 = true := by
  rw [inArr_iff, slotAllocOff]
  omega

/-- The slot that an offset of GLZ_SLOT_ALLOC names. -/
theorem slotNamed (n : SlotId) :
    Fin.ofNat 64 (32 * (Fin.ofNat 2 (n.val / 32)).val + elemAt (slotAllocOff n) 0x100 8) = n := by
  have hlt : n.val < 64 := n.isLt
  refine Fin.ext ?_
  simp only [elemAt, slotAllocOff, Fin.val_ofNat]
  omega

/-- BAR0 offset of a slot's GLZ_SLOT_ALLOC. -/
theorem slotAlloc_place (n : SlotId) : glzBlk n + 0x100 + 8 * glzIdx n = blkBase (glzBlock n) + slotAllocOff n :=
  Nat.add_assoc ..

/-- Bit 6, `valid`, is not among those kept (Table 6-7). -/
theorem bit_valid_cleared (w : Word) : bit (w &&& 0x3F) 6 = false := by
  rw [bit_eq_getLsbD, BitVec.getLsbD_and]
  exact Bool.and_false _

/-- The hardware once a slot's `valid` is cleared and the slot is freed. -/
def slotReleased (h : Hw) (n : SlotId) : Hw :=
  freeSlot (h.setReg (glzBlk n + 0x100 + 8 * glzIdx n) (h.breg (glzBlock n) (slotAllocOff n) &&& 0x3F &&& 0x7F)) n

theorem writeSlotAlloc_release {h : Hw} (hv : bit (h.breg (glzBlock n) (slotAllocOff n)) 6 = true) :
    writeSlotAlloc h n (h.breg (glzBlock n) (slotAllocOff n) &&& 0x3F) = slotReleased h n := by
  have hreg : h.reg (glzBlk n + 0x100 + 8 * glzIdx n) = h.breg (glzBlock n) (slotAllocOff n) :=
    congrArg h.reg (slotAlloc_place n)
  refine if_pos ?_
  rw [hreg, hv, bit_valid_cleared]
  rfl

theorem specialWrite_slotAlloc (h : Hw) (r : Requester) (n : SlotId) (w v : Word) (low : Bool) :
    specialWrite h r (glzBlock n) (slotAllocOff n) w v low = some (writeSlotAlloc h n w) :=
  (if_pos (slotAllocOff_inArr n)).trans (congrArg (fun m => some (writeSlotAlloc h m w)) (slotNamed n))

/-- Clearing `valid` frees the slot, and nothing else changes. -/
theorem yields_glzSlotRelease (hp : performs s.hw r (glzBlock n) (slotAllocOff n) = true)
    (hn : SMap.find s.hw.regs.whold (latchKey r (glzBlock n)) = none)
    (hv : bit (s.hw.breg (glzBlock n) (slotAllocOff n)) 6 = true) :
    Yields (.glzSlotRelease r n) s (fun t => t.hw.gslot n = GlazeSlot.init ∧ slotOf t.hw n = none ∧
      (∀ m, m ≠ n → t.hw.gslot m = s.hw.gslot m) ∧ t.hw.mem = s.hw.mem) := by
  have h8 : slotAllocOff n ≠ 8 := by
    rw [slotAllocOff]
    omega
  have hwrite : regWrite s.hw r (glzBlock n) (slotAllocOff n) (s.hw.breg (glzBlock n) (slotAllocOff n) &&& 0x3F) =
      slotReleased s.hw n := by
    rw [regWrite_eq ⟨hp, rfl, hn⟩, writeReg_whole rfl h8, specialWrite_slotAlloc, Option.getD_some,
      writeSlotAlloc_release hv]
  refine yields_run rfl hwrite ⟨Hw.gslot_setGslot .., ?_, fun m hm => ?_, rfl⟩
  · have hreg : (slotReleased s.hw n).reg (glzBlk n + 0x100 + 8 * glzIdx n) =
        s.hw.breg (glzBlock n) (slotAllocOff n) &&& 0x3F &&& 0x7F :=
      Hw.reg_setReg s.hw (glzBlk n + 0x100 + 8 * glzIdx n) _
    simp only [slotOf, hreg]
    rw [BitVec.and_assoc, show (0x3F &&& 0x7F : Word) = 0x3F from rfl, bit_valid_cleared]
    rfl
  · exact Hw.gslot_setGslot_ne (endReads _ (· == n)) _ hm

end

end Sys2Proof.Machine
end

section
/-! What streams promise, from the lemmas about their commands. -/

namespace Sys2Proof

open Sys2Proof.Machine

/-- Settles O24: each command that acts does what its `yields_` lemma says; the bind reads its descriptor from memory
(`readDesc_memory`), and what a gate lets through is `GlazeSlot.delivered`. -/
theorem glazeStreamsBindDeliverAndComplete : Obligations.GlazeStreamsBindDeliverAndComplete := by
  intro s n
  refine ⟨fun b hb hw hbl hsv hnd => ⟨?bind, fun hr hc _ => ?refuse⟩, ?verify, ?gate, ?complete,
    fun r hp hn hv => ?release⟩
  case bind =>
    intro off hn h1 h5 hd hdesc hs d g' g1 hf hr h0 hlist hdown he hg
    obtain ⟨hcorr, hbad, hpath, -⟩ := hlist
    exact yields_glazeBind_gated hb hw ⟨hsv, hnd, hbl⟩ ⟨hn, h1, h5⟩ hd hdesc (readDesc_memory hdesc.1 hs)
      ⟨hf, hcorr, hbad, hpath, hdown⟩ ⟨hr, h0, he, hg⟩
  case refuse => exact yields_glazeBind_refused hb hw ⟨hsv, hnd, hbl⟩ hr hc
  case verify =>
    intro hrun hnext hr hc hb hg hroom hw hf
    exact yields_glazeBlockVerify ⟨hrun, hnext, hr, hc, hroom, hw, hf⟩ hb hg
  case gate =>
    intro e o el hrun hg hentry hpart hraw hown hb hpos hf hs hen
    obtain ⟨t, ht, hslot, hothers, hobj, hmem⟩ :=
      yields_glazeGateTake hg hb hpos ⟨hrun, hentry, hpart, hraw, hown, hf, hen⟩ hs
    refine ⟨t, ht, ?_, fun o ho => ?_, hmem, ?_, ?_, ?_, ?_, hothers⟩
    · rw [hobj, gateTaken_obj]
      exact if_pos rfl
    · rw [hobj, gateTaken_obj]
      exact if_neg ho
    · rw [hslot]
      exact hrun
    all_goals
      rw [hslot]
      rfl
  case complete =>
    intro hrun hg hlast hfull hsig hdone
    obtain ⟨t, ht, hslot, hothers, hmem⟩ := yields_glazeEntryComplete ⟨hrun, hg, hlast, hfull, hsig⟩ hdone
    exact ⟨t, ht, by rw [hslot]; rfl, by rw [hslot]; rfl, by rw [hslot]; rfl, hothers, hmem⟩
  case release => exact yields_glzSlotRelease hp hn hv

end Sys2Proof
end

section
/-! Proofs about folding: a varnished slot goes home without changing what memory shows. -/

namespace Sys2Proof.Machine

/-! ### The newest byte of slots (R237) -/

theorem overlayByte_cons (s : SketchSlot) (l : List SketchSlot) (a : Nat) :
    overlayByte (s :: l) a = (overlayByte l a).or (slotByte s a) := by
  rw [overlayByte]
  cases overlayByte l a <;> rfl

/-- A slot holds no byte of another granule. -/
theorem slotByte_of_ne {s : SketchSlot} {a : Nat} (h : a / 64 ≠ s.granule) : slotByte s a = none :=
  if_neg (fun hs => h hs.1)

/-- Taking the oldest slot of its granule away leaves what the slots show but for what it alone showed. -/
theorem overlayByte_erase {u : List SketchSlot} {g : SketchSlot}
    (h : u.find? (fun t => t.granule == g.granule) = some g) (a : Nat) :
    overlayByte u a = (overlayByte (u.erase g) a).or (slotByte g a) := by
  induction u with
  | nil => cases h
  | cons s l ih =>
    by_cases hs : s.granule = g.granule
    · rw [List.find?_cons_of_pos (by simpa using hs), Option.some.injEq] at h
      rw [h, List.erase_cons_head, overlayByte_cons]
    · rw [List.find?_cons_of_neg (by simpa using hs)] at h
      have hne : s ≠ g := fun he => hs (congrArg SketchSlot.granule he)
      rw [List.erase_cons_tail (by simpa using hne), overlayByte_cons, overlayByte_cons, ih h]
      by_cases ha : a / 64 = g.granule
      · simp [slotByte_of_ne (s := s) (fun he => hs (he.symm.trans ha))]
      · simp [slotByte_of_ne ha]

/-- The slot folded next is the oldest of its granule in any pool. -/
theorem oldest_of_foldNext {u : List SketchSlot} {p : PartId} {g : SketchSlot} (h : foldNext u p = some g) :
    u.find? (fun t => t.granule == g.granule) = some g := by
  have hg := List.find?_some h
  simp only [Bool.and_eq_true, beq_iff_eq] at hg
  exact hg.2

/-! ### Writing home -/

theorem SMap.get_foldl_set {α : Type} [DecidableEq α] (d : α) (b : Nat) (f : Nat → α) (l : List Nat) (m : SMap α)
    (a : Nat) : SMap.get d (l.foldl (fun m i => SMap.set d m (b + i) (f i)) m) a =
      if b ≤ a ∧ a - b ∈ l then f (a - b) else SMap.get d m a := by
  induction l generalizing m with
  | nil => simp
  | cons i l ih =>
    rw [List.foldl_cons, ih, SMap.get_set]
    by_cases hi : a = b + i
    · simp [hi]
    · have hne (hb : b ≤ a) : a - b ≠ i := by omega
      by_cases hb : b ≤ a <;> simp [hb, hi, hne]

theorem Mem.good_iff {m : Mem} {w : Nat} : m.bad w = false ↔ SMap.get 0 m.ecc w < 3 := by simp [Mem.bad]

/-- A scrub takes a corrected word's errors away whole. -/
theorem Mem.bad_scrubbed {m : Mem} {w : Nat} (h : m.bad w = false) (a n : Nat) : (m.scrubbed a n).bad w = false := by
  have hget : SMap.get 0 (m.scrubbed a n).ecc w =
      if !(m.correctedAt a n).contains (8 * w) then SMap.get 0 m.ecc w else 0 :=
    SMap.get_filter 0 m.ecc (fun k => !(m.correctedAt a n).contains (8 * k)) w
  rw [Mem.good_iff] at h ⊢
  rw [hget]
  split <;> omega

/-- What folding home the words `ws` of slot `s` leaves, where no word is uncorrectable: beside counters and logs only
memory changes, whose cells take the bytes that the slot holds. -/
structure FoldsHome (s : SketchSlot) (h g : Hw) (ws : List Nat) : Prop where
  touched : MemTouched h g
  unfolded : g.mem.unfolded = h.mem.unfolded
  bad : ∀ w, h.mem.bad w = false → g.mem.bad w = false
  cells : ∀ a, SMap.get 0 g.mem.cells a =
    if a / 8 ∈ ws then (slotByte s a).getD (SMap.get 0 h.mem.cells a) else SMap.get 0 h.mem.cells a

theorem MemTouched.trans {h g k : Hw} (hg : MemTouched h g) (hk : MemTouched g k) : MemTouched h k :=
  ⟨by rw [hk.frame, hg.frame], fun r h1 h2 => (hk.reg r h1 h2).trans (hg.reg r h1 h2)⟩

theorem FoldsHome.refl (s : SketchSlot) (h : Hw) : FoldsHome s h h [] :=
  ⟨.refl h, rfl, fun _ hw => hw, fun _ => rfl⟩

theorem FoldsHome.trans {s : SketchSlot} {h g k : Hw} {ws ws' : List Nat} (hg : FoldsHome s h g ws)
    (hk : FoldsHome s g k ws') : FoldsHome s h k (ws ++ ws') := by
  refine ⟨hg.touched.trans hk.touched, hk.unfolded.trans hg.unfolded, fun w hw => hk.bad w (hg.bad w hw), fun a => ?_⟩
  rw [hk.cells, hg.cells]
  by_cases h1 : a / 8 ∈ ws <;> by_cases h2 : a / 8 ∈ ws' <;> cases slotByte s a <;> simp [h1, h2]

theorem foldsHome_touchRead (s : SketchSlot) (h : Hw) (a n : Nat) : FoldsHome s h (touchRead h a n) [] := by
  refine ⟨(MemTouched.refl h).touchRead, ?_, fun w hw => ?_, fun a => ?_⟩ <;> rw [touchRead_mem]
  · rfl
  · exact Mem.bad_scrubbed hw ..
  · rfl

/-- The places in home word `w` of the bytes that slot `s` holds. -/
def heldPlaces (s : SketchSlot) (w : Nat) : List Nat :=
  (List.range 8).filter (fun i => s.mask.toNat.testBit (8 * (w % 8) + i))

/-- The cells once the bytes that slot `s` holds of home word `w` are written. -/
def homeCells (s : SketchSlot) (w : Nat) (cells : List Host.Cell) : List Host.Cell :=
  (heldPlaces s w).foldl (fun m i => SMap.set 0 m (8 * w + i) ((s.bytes[8 * (w % 8) + i]?).getD 0)) cells

theorem get_homeCells {s : SketchSlot} {w : Nat} (hlen : s.bytes.length = 64) (hw : w / 8 = s.granule)
    (cells : List Host.Cell) (a : Nat) : SMap.get 0 (homeCells s w cells) a =
      if a / 8 = w then (slotByte s a).getD (SMap.get 0 cells a) else SMap.get 0 cells a := by
  rw [homeCells, SMap.get_foldl_set]
  by_cases ha : a / 8 = w
  · have hle : 8 * w ≤ a := by omega
    have hlt : a - 8 * w < 8 := by omega
    have hgran : a / 64 = s.granule := by omega
    have hplace : 8 * (w % 8) + (a - 8 * w) = a % 64 := by omega
    have hin : a % 64 < s.bytes.length := by omega
    cases hm : s.mask.toNat.testBit (a % 64) <;>
      simp [heldPlaces, slotByte, ha, hle, hlt, hgran, hplace, hm, hin]
  · have hout : ¬ (8 * w ≤ a ∧ a - 8 * w ∈ heldPlaces s w) := by
      rintro ⟨hle, hmem⟩
      have hlt : a - 8 * w < 8 := List.mem_range.1 (List.mem_of_mem_filter hmem)
      omega
    rw [if_neg hout, if_neg ha]

theorem foldWord_eq {s : SketchSlot} {h : Hw} {w : Nat} (hb : h.mem.bad w = false) :
    foldWord s h w = if heldPlaces s w = [] then h else
      let g := if (heldPlaces s w).length < 8 then touchRead h (8 * w) 8 else h
      { g with mem := { g.mem with cells := homeCells s w g.mem.cells, ecc := SMap.del g.mem.ecc w } } := by
  simp only [foldWord, hb, Bool.false_eq_true, and_false, if_false]
  rfl

/-- A word of the slot's granule goes home. -/
theorem foldsHome_foldWord {s : SketchSlot} {h : Hw} {w : Nat} (hlen : s.bytes.length = 64) (hw : w / 8 = s.granule)
    (hb : h.mem.bad w = false) : FoldsHome s h (foldWord s h w) [w] := by
  rw [foldWord_eq hb]
  split
  next hnone =>
    refine ⟨.refl h, rfl, fun _ h => h, fun a => ?_⟩
    have hsame : homeCells s w h.mem.cells = h.mem.cells := by rw [homeCells, hnone, List.foldl_nil]
    have hget := get_homeCells hlen hw h.mem.cells a
    rw [hsame] at hget
    simpa using hget
  next =>
    have hread : FoldsHome s h (if (heldPlaces s w).length < 8 then touchRead h (8 * w) 8 else h) [] := by
      split
      · exact foldsHome_touchRead ..
      · exact .refl s h
    refine hread.trans ⟨(MemTouched.refl _).setMem _, rfl, fun v hv => ?_, fun a => ?_⟩
    · rw [Mem.good_iff] at hv ⊢
      by_cases hvw : v = w
      · rw [hvw, SMap.get_del_same]
        decide
      · rwa [SMap.get_del_ne _ _ hvw]
    · simpa using get_homeCells hlen hw _ a

theorem foldsHome_foldWords {s : SketchSlot} {h : Hw} (hlen : s.bytes.length = 64) (ws : List Nat)
    (hws : ∀ w ∈ ws, w / 8 = s.granule) (hb : ∀ w, h.mem.bad w = false) :
    FoldsHome s h (ws.foldl (foldWord s) h) ws := by
  induction ws generalizing h with
  | nil => exact .refl s h
  | cons w ws ih =>
    have h1 := foldsHome_foldWord hlen (hws w List.mem_cons_self) (hb w)
    exact h1.trans (ih (fun v hv => hws v (List.mem_cons_of_mem w hv)) (fun v => h1.bad v (hb v)))

theorem foldsHome_touchReads (s : SketchSlot) (h : Hw) (l : List Nat) :
    FoldsHome s h (l.foldl (fun g w => touchRead g w 8) h) [] := by
  induction l generalizing h with
  | nil => exact .refl s h
  | cons w l ih => exact (foldsHome_touchRead s h w 8).trans (ih _)

/-- The home words of a slot. -/
def homeWords (s : SketchSlot) : List Nat := (List.range 8).map (8 * s.granule + ·)

theorem mem_homeWords (s : SketchSlot) (a : Nat) : a / 8 ∈ homeWords s ↔ a / 64 = s.granule := by
  simp only [homeWords, List.mem_map, List.mem_range]
  constructor
  · rintro ⟨k, hk, he⟩
    omega
  · intro ha
    exact ⟨a / 8 % 8, by omega, by omega⟩

/-- A good slot leaves those not yet folded, and all its words go home. -/
theorem foldsHome_foldSlot {s : SketchSlot} {h : Hw} (hlen : s.bytes.length = 64) (hb : ∀ w, h.mem.bad w = false) :
    FoldsHome s { h with mem := { h.mem with unfolded := h.mem.unfolded.erase s } } (foldSlot h s false)
      (homeWords s) := by
  have hgood : (slotWords s (64 * s.granule) 64).find? (fun w => h.mem.bad (w / 8)) = none := by simp [hb]
  have hreads := foldsHome_touchReads s { h with mem := { h.mem with unfolded := h.mem.unfolded.erase s } }
    (slotWords s (64 * s.granule) 64)
  simp only [foldSlot, hgood, Bool.false_eq_true, if_false]
  rw [← List.foldl_map (f := fun k => 8 * s.granule + k) (g := foldWord s)]
  refine hreads.trans (foldsHome_foldWords hlen (homeWords s) (fun w hw => ?_) (fun w => hreads.bad w (hb w)))
  have := (mem_homeWords s (8 * w)).1 (by simpa using hw)
  omega

/-- Folding a good slot that is the oldest of its granule changes no byte that memory shows (R237). -/
theorem foldSlot_byte {s : SketchSlot} {h : Hw} (hlen : s.bytes.length = 64) (hb : ∀ w, h.mem.bad w = false)
    (hold : h.mem.unfolded.find? (fun t => t.granule == s.granule) = some s) (a : Nat) :
    (foldSlot h s false).mem.byte a = h.mem.byte a := by
  have hf := foldsHome_foldSlot hlen hb
  rw [Mem.byte, hf.unfolded, hf.cells, Mem.byte, overlayByte_erase hold]
  have hhome : (if a / 8 ∈ homeWords s then (slotByte s a).getD (SMap.get 0 h.mem.cells a)
      else SMap.get 0 h.mem.cells a) = (slotByte s a).getD (SMap.get 0 h.mem.cells a) := by
    split
    next => rfl
    next hn => rw [slotByte_of_ne (fun he => hn ((mem_homeWords s a).2 he)), Option.getD_none]
  rw [hhome]
  cases overlayByte (h.mem.unfolded.erase s) a <;> rfl

end Sys2Proof.Machine

namespace Sys2Proof

open Sys2Proof.Machine

/-- Settles O22: the slot folded next is the oldest of its granule, so that its bytes at home show where it no longer
does (`foldSlot_byte`). -/
theorem foldingKeepsTheVarnishedImage : Obligations.FoldingKeepsTheVarnishedImage := by
  intro s p
  refine ⟨fun hlen hb g hg => ?_, fun hnone => ?_, ⟨_, rfl, rfl, rfl, rfl⟩⟩
  · have hslot : g.bytes.length = 64 := hlen g (List.mem_of_find?_eq_some hg)
    have hf := foldsHome_foldSlot hslot hb
    refine yields_run (g' := foldSlot s.hw g false) rfl (by simp only [hg]) ⟨?_, hf.unfolded, ?_⟩
    · exact foldSlot_byte hslot hb (oldest_of_foldNext hg)
    · exact (congrArg Hw.sk hf.touched.frame :)
  · exact yields_unchanged rfl (by simp only [hnone])

end Sys2Proof
end

section
/-! Proofs about SKETCH and SKETCHR, and about the waits of VARNISH, SCRAPE and SKOCC. -/

namespace Sys2Proof.Machine

/-! ### Sketch mode (R225, R227) -/

/-- The registers in force once an operand in the layout of SKETCH has been taken. -/
def CoreRegs.sketching (r : CoreRegs) (v : Word) : CoreRegs :=
  { r with sbm := v.setWidth 8, sketch := v.getLsbD 8 && decide (v.toNat % 256 ≠ 0) }

theorem setSketch_easels (h : Hw) (e : EaselId) (v : Word) :
    (setSketch h e v).easels = (h.modCur e (fun r => r.sketching v)).easels := by
  have hmask : (v.setWidth 8 != 0#8) = decide (v.toNat % 256 ≠ 0) := by
    rw [Bool.eq_iff_iff, bne_iff_ne, decide_eq_true_iff, ne_eq, ← BitVec.toNat_inj]
    simp
  have hregs : (fun r : CoreRegs =>
      { r with sbm := v.setWidth 8, sketch := bit v 8 && (v.setWidth 8 : BitVec 8) != 0 }) =
      fun r => r.sketching v := by
    funext r
    rw [CoreRegs.sketching, ← hmask]
    rfl
  simp only [setSketch]
  rw [hregs]

theorem setSketch_seq (h : Hw) (e : EaselId) (v : Word) :
    SMap.get 0 (setSketch h e v).sk.seqs ((h.easel e).actx.val * 208 + e.val) = BitVec.ofNat 8 (v.toNat / 65536) := by
  have hfield : BitVec.ofNat 8 (wfld v 16 8) = BitVec.ofNat 8 (v.toNat / 65536) := by
    refine BitVec.eq_of_toNat_eq ?_
    simp [wfld, fld, Nat.shiftRight_eq_div_pow]
  rw [← hfield]
  exact SMap.get_set_same ..

section
variable {s : State} {e : EaselId} {i : Instr} {w : Word} {pneg : Bool} {pred : BitVec 3} {dec : Option (BitVec 8)}
  {body : Hw → Eff} {v : Word}

/-- An instruction that takes an operand in the layout of SKETCH. -/
theorem yields_setSketch (hi : Issues s e pneg pred)
    (hx : exec i s = .next { s with hw := issue s.hw e w pneg pred dec body }) (hd : dec = none)
    (hb : body s.hw = .done (setSketch s.hw e v)) :
    Yields i s (fun t => regsOf t e = { (regsOf s e).sketching v with
        pc := (regsOf s e).pc + 8, serial := serialAfter s e } ∧
      SMap.get 0 t.hw.sk.seqs ((s.hw.easel e).actx.val * 208 + e.val) = BitVec.ofNat 8 (v.toNat / 65536) ∧
      t.hw.mem = s.hw.mem ∧ t.hw.sk.slots = s.hw.sk.slots ∧ ∀ e', e' ≠ e → t.hw.easel e' = s.hw.easel e') := by
  have hsame (e' : EaselId) : (setSketch s.hw e v).easel e' = (s.hw.modCur e (fun r => r.sketching v)).easel e' :=
    Hw.easel_of_easels (setSketch_easels ..) e'
  have hcur : ((setSketch s.hw e v).easel e).cur = (regsOf s e).sketching v := by
    rw [hsame, Hw.modCur, Hw.easel_modEasel, Easel.cur_setCur]
    rfl
  have hsvc : ((setSketch s.hw e v).easel e).service = (s.hw.easel e).service := by
    rw [hsame, Hw.modCur, Hw.easel_modEasel, Easel.setCur_service]
  refine yields_eff hi hx hd hb ⟨?_, setSketch_seq .., rfl, rfl, fun e' he => ?_⟩
  · simp only [applyEff, advance, regsOf, advanceTo_easel, Easel.cur_setCur, hcur, hsvc]
    rfl
  · exact (advanceTo_easel_ne _ _ he).trans ((hsame e').trans (Hw.easel_modEasel_ne _ _ he))

end

/-- The immediate of SKETCH holds no more than its fields (R227). -/
theorem sketch_decodes {f : FmtI} (hrd : f.rd = 0) (h1 : f.rs1 = 0) (hlt : f.imm.toNat < 2 ^ 24)
    (hgap : f.imm.toNat / 512 % 128 = 0) :
    resv (f.rd == 0 && f.rs1 == 0 && fld f.imm.toNat 9 7 == 0 && fld f.imm.toNat 24 14 == 0) = none := by
  have hmid : fld f.imm.toNat 9 7 = 0 := by simpa [fld, Nat.shiftRight_eq_div_pow] using hgap
  have hhigh : fld f.imm.toNat 24 14 = 0 := by
    rw [fld, Nat.shiftRight_eq_div_pow, Nat.div_eq_of_lt hlt, Nat.zero_mod]
  exact resv_of (by simp [hrd, h1, hmid, hhigh])

/-! ### Waits for the engines' work in sketch mode (R227, R235) -/

theorem onlyEasel_modEasel_of {s t : State} {e : EaselId} (h : OnlyEasel s t e) (g : Easel → Easel) :
    OnlyEasel s { t with hw := t.hw.modEasel e g } e := by
  obtain ⟨hpending, hframe, hothers⟩ := h
  exact ⟨hpending, hframe, fun e' he => (Hw.easel_modEasel_ne _ _ he).trans (hothers e' he)⟩

/-- Where nothing of the easel goes on but its context's wait, that wait alone is looked at. -/
theorem settle_settleCtx {h : Hw} {e : EaselId} (hs : (h.easel e).svcBlocked = none) (hd : NoneDrains (h.easel e)) :
    settle h e = settleCtx h e := by
  have hsvc : settleSvc h e = h := by simp only [settleSvc, hs]
  rw [settle, drainStores_none hd, hsvc]

/-- The core of a loaded context waits on easel `e`. -/
structure CtxWaits (h : Hw) (e : EaselId) (b : Blocked) : Prop where
  runs : (h.easel e).stopped = false
  loaded : (h.easel e).loaded.isSome = true
  blocked : (h.easel e).blocked = some b

theorem CtxWaits.stays {h : Hw} {e : EaselId} {b : Blocked} (hw : CtxWaits h e b) :
    ((h.easel e).stopped || (h.easel e).loaded.isNone) = false := by
  rw [hw.runs, Option.isNone_eq_false_iff.2 hw.loaded, Bool.false_or]

/-- Waits of kind `mk` begin to count their cycles once the engines' work in sketch mode is done (R235, R239). -/
def CountsFrom (mk : Option Nat → WaitFor) : Prop :=
  ∀ (h : Hw) (e : EaselId) (b : Blocked), CtxWaits h e b → b.what = mk none →
    settleCtx h e = if sketchDrained (h.easel e) then
        h.modEasel e (fun y => { y with blocked := some { b with what := mk (some h.now) } })
      else h

theorem countsFrom_varnish (br : BitVec 3) (n : Word) : CountsFrom (.varnish br n) := by
  intro h e b hw hb
  simp [settleCtx, hw.stays, hw.blocked, hb]

theorem countsFrom_scrape (m : BitVec 8) : CountsFrom (.scrape m) := by
  intro h e b hw hb
  simp [settleCtx, hw.stays, hw.blocked, hb]

theorem settleCtx_skocc {h : Hw} {e : EaselId} {b : Blocked} {rd : BitVec 5} (hw : CtxWaits h e b)
    (hb : b.what = .skocc rd) :
    settleCtx h e =
      if sketchDrained (h.easel e) then finishWait h e false (fun r => r.put rd (skoccValue h e)) else h := by
  simp [settleCtx, hw.stays, hw.blocked, hb]

/-- A context's core waits with an instruction that it stands at. -/
def waitingAt (s : State) (e : EaselId) (w : Word) (what : WaitFor) : Blocked :=
  { what := what, serial := (s.hw.easel e).core.serial, pc := (s.hw.easel e).core.pc, inst := w }

/-- The hardware once the core of easel `e` waits. -/
def Hw.waiting (h : Hw) (e : EaselId) (b : Blocked) : Hw := h.modEasel e (fun x => { x with blocked := some b })

@[simp] theorem Hw.waiting_easel (h : Hw) (e : EaselId) (b : Blocked) :
    (h.waiting e b).easel e = { h.easel e with blocked := some b } := Hw.easel_modEasel ..

/-- Waiting leaves the engines' queues. -/
theorem sketchDrained_waiting (h : Hw) (e : EaselId) (b : Blocked) :
    sketchDrained ((h.waiting e b).easel e) = sketchDrained (h.easel e) := by
  rw [Hw.waiting_easel]
  rfl

section
variable {s : State} {e : EaselId} {i : Instr} {w : Word} {pneg : Bool} {pred : BitVec 3} {dec : Option (BitVec 8)}
  {body : Hw → Eff}
  (hi : Issues s e pneg pred) (hsvc : (s.hw.easel e).service = false) (hd : NoneDrains (s.hw.easel e))
  (hs : (s.hw.easel e).svcBlocked = none)
  (hx : exec i s = .next { s with hw := settle (issue s.hw e w pneg pred dec body) e }) (hdec : dec = none)

include hi hsvc in
theorem ctxWaits_waiting (b : Blocked) : CtxWaits (s.hw.waiting e b) e b := by
  obtain ⟨⟨hready, -⟩, -⟩ := hi
  simp only [coreReady, hsvc, Bool.false_eq_true, if_false, Bool.and_eq_true, Bool.not_eq_true'] at hready
  obtain ⟨-, ⟨⟨-, hload⟩, -⟩, hstop⟩ := hready
  exact ⟨by rw [Hw.waiting_easel]; exact hstop, by rw [Hw.waiting_easel]; exact hload, by rw [Hw.waiting_easel]⟩

include hi hsvc hd hs hx hdec

/-- An instruction that makes the context wait, and whose wait is looked at at once. -/
theorem yields_waits {what : WaitFor} {P : State → Prop} (hb : body s.hw = .block s.hw what)
    (hp : P { s with hw := settleCtx (s.hw.waiting e (waitingAt s e w what)) e }) : Yields i s P := by
  subst hdec
  have hwait : issue s.hw e w pneg pred none body = s.hw.waiting e (waitingAt s e w what) := by
    rw [issue_takes hi w body, hb]
    simp only [applyEff, hsvc, Easel.cur]
    rfl
  refine yields_run hx (g' := settleCtx (s.hw.waiting e (waitingAt s e w what)) e) ?_ hp
  rw [hwait, settle_settleCtx (by simpa using hs) (by simpa using hd)]

/-- VARNISH and SCRAPE wait, and count their cycles from now where no work in sketch mode is left. -/
theorem yields_countedWait {mk : Option Nat → WaitFor} (hmk : CountsFrom mk) (hb : body s.hw = .block s.hw (mk none)) :
    Yields i s (fun t => OnlyEasel s t e ∧ regsOf t e = regsOf s e ∧ (t.hw.easel e).blocked.map (·.what) =
      some (mk (if sketchDrained (s.hw.easel e) then some s.hw.now else none))) := by
  refine yields_waits hi hsvc hd hs hx hdec hb ?_
  have hwaits := ctxWaits_waiting hi hsvc (waitingAt s e w (mk none))
  have honly := onlyEasel_modEasel s e (fun x => { x with blocked := some (waitingAt s e w (mk none)) })
  by_cases hdone : sketchDrained (s.hw.easel e) = true
  · rw [hmk _ e _ hwaits rfl, sketchDrained_waiting, if_pos hdone, if_pos hdone]
    refine ⟨onlyEasel_modEasel_of honly _, by simp [regsOf, Easel.cur], ?_⟩
    rw [Hw.easel_modEasel]
    rfl
  · rw [hmk _ e _ hwaits rfl, sketchDrained_waiting, if_neg hdone, if_neg hdone]
    exact ⟨honly, by simp [regsOf, Easel.cur], by simp [waitingAt]⟩

/-- SKOCC waits for work in sketch mode. -/
theorem yields_skocc_waits {rd : BitVec 5} (hb : body s.hw = .block s.hw (.skocc rd))
    (hwork : sketchDrained (s.hw.easel e) = false) :
    Yields i s (fun t => OnlyEasel s t e ∧ regsOf t e = regsOf s e ∧
      (t.hw.easel e).blocked.map (·.what) = some (.skocc rd)) := by
  refine yields_waits hi hsvc hd hs hx hdec hb ?_
  rw [settleCtx_skocc (ctxWaits_waiting hi hsvc _) rfl, sketchDrained_waiting, if_neg (Bool.eq_false_iff.1 hwork)]
  exact ⟨onlyEasel_modEasel s e _, by simp [regsOf, Easel.cur], by simp [waitingAt]⟩

/-- With none left it returns the held count (R227). -/
theorem yields_skocc_counts {rd : BitVec 5} (hb : body s.hw = .block s.hw (.skocc rd))
    (hdone : sketchDrained (s.hw.easel e) = true) :
    Yields i s (fun t => OnlyEasel s t e ∧ RegWritten s t e rd
      (BitVec.ofNat 64 (heldCount s.hw (s.hw.easel e).actx (partOf e))) ((regsOf s e).pc + 8)) := by
  refine yields_waits hi hsvc hd hs hx hdec hb ?_
  have hvalue : skoccValue (s.hw.waiting e (waitingAt s e w (.skocc rd))) e =
      BitVec.ofNat 64 (heldCount s.hw (s.hw.easel e).actx (partOf e)) := by
    rw [skoccValue, Hw.waiting_easel]
    rfl
  rw [settleCtx_skocc (ctxWaits_waiting hi hsvc _) rfl, sketchDrained_waiting, if_pos hdone, hvalue]
  refine ⟨onlyEasel_modEasel_of (onlyEasel_modEasel s e _) _, ?_⟩
  obtain ⟨-, hwritten⟩ := writesS_setS s e rd (BitVec.ofNat 64 (heldCount s.hw (s.hw.easel e).actx (partOf e)))
  have hregs (v : Word) (b : Blocked) :
      regsOf { s with hw := finishWait (s.hw.waiting e b) e false (fun r => r.put rd v) } e =
        regsOf { s with hw := advance (s.hw.setS e rd v) e } e := by
    simp [regsOf, finishWait, advance, advanceTo_easel, Hw.setS, Hw.modCur, Easel.cur, Easel.setCur, hsvc]
  unfold RegWritten at hwritten ⊢
  rwa [hregs]

end

/-! ### Slots in issue order (R235) -/

theorem insertSlot_perm (g : SketchSlot) (l : List SketchSlot) : (insertSlot g l).Perm (g :: l) := by
  induction l with
  | nil => exact .refl _
  | cons t l ih =>
    rw [insertSlot]
    split
    · exact .refl _
    · exact (ih.cons t).trans (.swap g t l)

theorem insertSlot_ordered (g : SketchSlot) {l : List SketchSlot} (h : l.Pairwise (fun a c => a.order ≤ c.order)) :
    (insertSlot g l).Pairwise (fun a c => a.order ≤ c.order) := by
  induction l with
  | nil => exact List.pairwise_singleton ..
  | cons t l ih =>
    obtain ⟨hfirst, hrest⟩ := List.pairwise_cons.1 h
    rw [insertSlot]
    split
    next hlt =>
      refine List.pairwise_cons.2 ⟨fun a ha => ?_, h⟩
      obtain rfl | ha := List.mem_cons.1 ha
      · omega
      · have := hfirst a ha
        omega
    next hle =>
      refine List.pairwise_cons.2 ⟨fun a ha => ?_, ih hrest⟩
      obtain rfl | ha := List.mem_cons.1 ((insertSlot_perm g l).mem_iff.1 ha)
      · omega
      · exact hfirst a ha

/-- Inserting slots one by one keeps them all, in issue order. -/
theorem insertSlots_ordered (l acc : List SketchSlot) (h : acc.Pairwise (fun a c => a.order ≤ c.order)) :
    (l.foldl (fun acc s => insertSlot s acc) acc).Perm (l ++ acc) ∧
      (l.foldl (fun acc s => insertSlot s acc) acc).Pairwise (fun a c => a.order ≤ c.order) := by
  induction l generalizing acc with
  | nil => exact ⟨.refl _, h⟩
  | cons g l ih =>
    obtain ⟨hperm, hord⟩ := ih (insertSlot g acc) (insertSlot_ordered g h)
    exact ⟨hperm.trans (((insertSlot_perm g acc).append_left l).trans List.perm_middle), hord⟩

theorem issueOrder_perm (l : List SketchSlot) : (issueOrder l).Perm l := by
  simpa [issueOrder] using (insertSlots_ordered l [] .nil).1

theorem issueOrder_ordered (l : List SketchSlot) : (issueOrder l).Pairwise (fun a c => a.order ≤ c.order) :=
  (insertSlots_ordered l [] .nil).2

/-! ### The points of VARNISH and SCRAPE (R235, R236, R239) -/

/-- Counting the bytes of slots for their contexts and partitions touches counters alone. -/
theorem tallySlots_frame (h : Hw) (k o : Nat) (l : List SketchSlot) : ∃ act perf,
    l.foldl (fun g s => (perfAdd g s.ctx k (slotLen s)).countWrap (blkBase (.skt s.part) + o) (slotLen s)) h =
      { h with regs := { h.regs with act := act }, ctxs := { h.ctxs with perf := perf } } := by
  induction l generalizing h with
  | nil => exact ⟨h.regs.act, h.ctxs.perf, rfl⟩
  | cons s l ih => exact ih ((perfAdd h s.ctx k (slotLen s)).countWrap (blkBase (.skt s.part) + o) (slotLen s))

/-- Committed slots leave the unvarnished ones and join the image in issue order. -/
theorem commitSlots_frame (h : Hw) (p : SketchSlot → Bool) : ∃ act perf, commitSlots h p =
    { h with
      regs := { h.regs with act := act }
      ctxs := { h.ctxs with perf := perf }
      sk := { h.sk with slots := h.sk.slots.filter (fun s => !p s) }
      mem := { h.mem with unfolded := h.mem.unfolded ++ issueOrder (h.sk.slots.filter p) } } :=
  tallySlots_frame ..

/-- Discarded slots leave them and wait to be zeroed. -/
theorem discardSlots_frame (h : Hw) (p : SketchSlot → Bool) : ∃ act perf, discardSlots h p =
    { h with
      regs := { h.regs with act := act }
      ctxs := { h.ctxs with perf := perf }
      sk := { h.sk with slots := h.sk.slots.filter (fun s => !p s), toZero := h.sk.toZero ++ h.sk.slots.filter p } } :=
  tallySlots_frame ..

/-- The instruction completes at its point: the prefetch lines of its easel are gone, and its core goes on. -/
theorem pointReached_easel {h g : Hw} {e : EaselId} (hg : g.easels = h.easels) :
    (finishWait (dropPrefetch g e) e false id).easel e =
      { h.easel e with
        prefetch := [], blocked := none
        core := (h.easel e).core.advance false ((h.easel e).core.pc + 8) } := by
  have he : (staleReads g e (fun _ => true)).easel e = h.easel e := Hw.easel_of_easels hg e
  simp only [finishWait, dropPrefetch, Hw.easel_modEasel, he]
  rfl

/-- What both points leave: the core has gone on, past its prefetch lines. -/
theorem pointReached {s : State} {g : Hw} {e : EaselId} (hsvc : (s.hw.easel e).service = false)
    (hg : g.easels = s.hw.easels) :
    let t : State := { s with hw := finishWait (dropPrefetch g e) e false id }
    (t.hw.easel e).blocked = none ∧ (regsOf t e).pc = (regsOf s e).pc + 8 ∧ (t.hw.easel e).prefetch = [] := by
  simp only [regsOf, pointReached_easel hg, Easel.cur, hsvc]
  exact ⟨trivial, rfl, trivial⟩

section
variable {s : State} {e : EaselId} {b : Blocked} {t0 : Nat} (hb : (s.hw.easel e).blocked = some b)
  (hsvc : (s.hw.easel e).service = false) (hdue : pointDue s.hw e t0 = true)
include hb hsvc hdue

/-- VARNISH_POINT (R235, R236). -/
theorem yields_varnishPoint {br : BitVec 3} {n : Word} (hw : b.what = .varnish br n (some t0)) :
    let p := varnishes (s.hw.easel e).actx e br n
    Yields (.varnishPoint e) s (fun t =>
      t.hw.sk.slots = s.hw.sk.slots.filter (fun g => !p g) ∧
      (∃ l, t.hw.mem.unfolded = s.hw.mem.unfolded ++ l ∧ l.Perm (s.hw.sk.slots.filter p) ∧
        l.Pairwise (fun a c => a.order ≤ c.order)) ∧
      (t.hw.easel e).blocked = none ∧ (regsOf t e).pc = (regsOf s e).pc + 8 ∧ (t.hw.easel e).prefetch = [] ∧
      t.hw.mem.cells = s.hw.mem.cells) := by
  intro p
  obtain ⟨act, perf, hfr⟩ := commitSlots_frame s.hw p
  obtain ⟨hblocked, hpc, hlines⟩ := pointReached (e := e) hsvc (g := commitSlots s.hw p) (by rw [hfr])
  refine yields_run (g' := finishWait (dropPrefetch (commitSlots s.hw p) e) e false id) rfl
    (by simp only [hb, hw, hdue, if_true]; rfl)
    ⟨?_, ⟨_, ?_, issueOrder_perm _, issueOrder_ordered _⟩, hblocked, hpc, hlines, ?_⟩
  · exact congrArg (·.sk.slots) hfr
  · exact congrArg (·.mem.unfolded) hfr
  · exact congrArg (·.mem.cells) hfr

/-- SCRAPE_POINT (R239). -/
theorem yields_scrapePoint {m : BitVec 8} (hw : b.what = .scrape m (some t0)) :
    let p : SketchSlot → Bool := fun g => g.ctx == (s.hw.easel e).actx && g.easel == e && m.getLsbD g.branch.toNat
    Yields (.scrapePoint e) s (fun t =>
      t.hw.sk.slots = s.hw.sk.slots.filter (fun g => !p g) ∧
      (t.hw.mem.unfolded = s.hw.mem.unfolded ∧ t.hw.sk.toZero = s.hw.sk.toZero ++ s.hw.sk.slots.filter p) ∧
      (t.hw.easel e).blocked = none ∧ (regsOf t e).pc = (regsOf s e).pc + 8 ∧ (t.hw.easel e).prefetch = [] ∧
      t.hw.mem.cells = s.hw.mem.cells) := by
  intro p
  obtain ⟨act, perf, hfr⟩ := discardSlots_frame s.hw p
  obtain ⟨hblocked, hpc, hlines⟩ := pointReached (e := e) hsvc (g := discardSlots s.hw p) (by rw [hfr])
  refine yields_run (g' := finishWait (dropPrefetch (discardSlots s.hw p) e) e false id) rfl
    (by simp only [hb, hw, hdue, if_true]; rfl) ⟨?_, ⟨?_, ?_⟩, hblocked, hpc, hlines, ?_⟩
  · exact congrArg (·.sk.slots) hfr
  · exact congrArg (·.mem.unfolded) hfr
  · exact congrArg (·.sk.toZero) hfr
  · exact congrArg (·.mem.cells) hfr

end

end Sys2Proof.Machine

namespace Sys2Proof

open Sys2Proof.Machine

/-- Settles O21: the mode is set as `yields_setSketch` says, each wait counts from where the engines' work in sketch
mode is done, and at its point the named slots move. -/
theorem sketchInstructionsControlSketchMode : Obligations.SketchInstructionsControlSketchMode := by
  intro s e x r
  refine ⟨fun f hi hrd => ⟨fun h1 hlt hgap => ?sketch, fun himm => ?sketchr⟩,
    fun f hi hsvc hd hs => ⟨fun hrd himm => ?varnish, fun hrd h1 himm => ?scrape, fun h1 himm => ?skocc⟩,
    fun b t0 hb hsvc hdue => ⟨fun br n hw => ?varnishPoint, fun m hw => ?scrapePoint⟩⟩
  case sketch => exact yields_setSketch hi rfl (sketch_decodes hrd h1 hlt hgap) rfl
  case sketchr => exact yields_setSketch hi rfl (resv_of (by simp [hrd, himm])) rfl
  case varnish =>
    have himm' : immBelow f 3 = true := decide_eq_true himm
    exact yields_countedWait hi hsvc hd hs rfl (resv_of (by simp [hrd, himm'])) (countsFrom_varnish _ _)
      (if_neg (Bool.eq_false_iff.1 hsvc))
  case scrape =>
    have himm' : immBelow f 8 = true := decide_eq_true himm
    exact yields_countedWait hi hsvc hd hs rfl (resv_of (by simp [hrd, h1, himm'])) (countsFrom_scrape _)
      (if_neg (Bool.eq_false_iff.1 hsvc))
  case skocc =>
    have hctx : ¬ x.service = true := Bool.eq_false_iff.1 hsvc
    have hdec : resv (f.rs1 == 0 && f.imm == 0) = none := resv_of (by simp [h1, himm])
    exact ⟨yields_skocc_counts hi hsvc hd hs rfl hdec (if_neg hctx),
      yields_skocc_waits hi hsvc hd hs rfl hdec (if_neg hctx)⟩
  case varnishPoint => exact yields_varnishPoint hb hsvc hdue hw
  case scrapePoint => exact yields_scrapePoint hb hsvc hdue hw

end Sys2Proof
end

section
/-! Proofs about the commits of firmware: what a commit of the blocks of sketch regions, collectives and synchronization
objects makes of its registers, and what it leaves. -/

namespace Sys2Proof.Machine

/-! ### Words listed one by one -/

section
variable {α : Type}

theorem SMap.sorted_foldl_put {β : Type} (key : β → Nat) (val : β → α) (l : List β) {m : SMap α}
    (h : SMap.sorted m = true) : SMap.sorted (l.foldl (fun m p => SMap.put m (key p) (val p)) m) = true := by
  induction l generalizing m with
  | nil => exact h
  | cons p l ih => exact ih (SMap.sorted_put _ _ h)

theorem SMap.mem_foldl_put {β : Type} (key : β → Nat) (val : β → α) (l : List β) {m : SMap α} {c : Nat × α}
    (h : c ∈ l.foldl (fun m p => SMap.put m (key p) (val p)) m) : (∃ p ∈ l, c = (key p, val p)) ∨ c ∈ m := by
  induction l generalizing m with
  | nil => exact .inr h
  | cons p l ih =>
    obtain ⟨q, hq, he⟩ | hm := ih h
    · exact .inl ⟨q, List.mem_cons_of_mem p hq, he⟩
    · exact (SMap.mem_put hm).imp (fun he => ⟨p, List.mem_cons_self, he⟩) id

/-- What is listed for a key once is found there, whatever the table held. -/
theorem SMap.find_foldl_put {l : SMap α} {k : Nat} {v : α} (hm : (k, v) ∈ l) (hu : ∀ v', (k, v') ∈ l → v' = v)
    (m : SMap α) : SMap.find (l.foldl (fun m p => SMap.put m p.1 p.2) m) k = some v := by
  induction l using List.reverseRecOn with
  | nil => cases hm
  | append_singleton l p ih =>
    rw [List.foldl_append, List.foldl_cons, List.foldl_nil]
    obtain ⟨j, w⟩ := p
    by_cases hj : k = j
    · subst hj
      rw [SMap.find_put_same, hu w (by simp)]
    · rw [SMap.find_put_ne _ _ hj]
      refine ih ?_ (fun v' h' => hu v' (List.mem_append_left _ h'))
      simpa [hj] using hm

end

/-! ### Blocks whose apply point leaves easels and memory -/

/-- The blocks that the services of contexts commit. -/
def Quiet (b : BlockId) : Prop := (∃ p, b = .skt p) ∨ b = .col ∨ ∃ i, b = .syn i

/-- What their apply points leave; beside the registers of events, none of the registers is touched. -/
structure AppliesQuietly (h g : Hw) : Prop where
  easels : g.easels = h.easels
  mem : g.mem = h.mem
  pins : g.pins = h.pins
  commit : g.regs.commit = h.regs.commit
  reg : ∀ k, 0x100000 ≤ k → g.reg k = h.reg k

theorem AppliesQuietly.refl (h : Hw) : AppliesQuietly h h := ⟨rfl, rfl, rfl, rfl, fun _ _ => rfl⟩

theorem appliesQuietly_clearNewObjs (old new : Hw) : AppliesQuietly new (clearNewObjs old new) := by
  refine List.foldlRecOn _ _ (motive := AppliesQuietly new) (.refl new) fun g hg c _ => ?_
  dsimp only
  split
  · exact hg
  · exact ⟨hg.easels, hg.mem, hg.pins, hg.commit, hg.reg⟩

theorem appliesQuietly_blkApply {b : BlockId} (hb : Quiet b) (old new : Hw) (cap : SMap Word) :
    AppliesQuietly new (blkApply old new b cap) := by
  obtain ⟨p, rfl⟩ | rfl | ⟨i, rfl⟩ := hb
  · exact .refl new
  · exact ⟨rfl, rfl, rfl, rfl, fun _ _ => rfl⟩
  · have hclear := appliesQuietly_clearNewObjs old new
    simp only [blkApply, synApply]
    split
    · exact hclear
    · refine ⟨hclear.easels, hclear.mem, hclear.pins, hclear.commit, fun k hk => ?_⟩
      rw [raiseEv_reg_ne _ _ _ _ (by omega), hclear.reg k hk]

/-! ### A commit of firmware (R39, R41, R42) -/

theorem Hw.blk_modBlk_ne (h : Hw) {b b' : BlockId} (f : BlkCommit → BlkCommit) (hne : blkBase b' ≠ blkBase b) :
    (h.modBlk b f).blk b' = h.blk b' := by
  simp only [Hw.blk, Hw.modBlk, SMap.get_update, if_neg hne]

/-- What a commit of block `b` leaves. -/
structure CommitFrame (b : BlockId) (h g : Hw) : Prop where
  easels : g.easels = h.easels
  mem : g.mem = h.mem
  pins : g.pins = h.pins
  blk : ∀ b', blkBase b' ≠ blkBase b → g.blk b' = h.blk b'

theorem CommitFrame.refl (b : BlockId) (h : Hw) : CommitFrame b h h := ⟨rfl, rfl, rfl, fun _ _ => rfl⟩

theorem CommitFrame.trans {b : BlockId} {h g k : Hw} (hg : CommitFrame b h g) (hk : CommitFrame b g k) :
    CommitFrame b h k :=
  ⟨hk.easels.trans hg.easels, hk.mem.trans hg.mem, hk.pins.trans hg.pins,
    fun b' hne => (hk.blk b' hne).trans (hg.blk b' hne)⟩

theorem commitFrame_apply {b : BlockId} (hb : Quiet b) (h old : Hw) (act staged cap : SMap Word)
    (f : BlkCommit → BlkCommit) : CommitFrame b h
      ((blkApply old { h with regs := { h.regs with act := act, staged := staged } } b cap).modBlk b f) := by
  have hq := appliesQuietly_blkApply hb old { h with regs := { h.regs with act := act, staged := staged } } cap
  refine ⟨hq.easels, hq.mem, hq.pins, fun b' hne => ?_⟩
  rw [Hw.blk_modBlk_ne _ _ hne, Hw.blk, hq.commit, Hw.blk]

/-- The hardware on which a commit of firmware goes: a commit in progress has been applied. -/
def commitBase (h : Hw) (b : BlockId) : Hw := if (h.blk b).busy then applyCaptured h b else h

theorem commitBase_frame {b : BlockId} (hb : Quiet b) (h : Hw) : CommitFrame b h (commitBase h b) := by
  unfold commitBase
  split
  · obtain ⟨act, hact⟩ := applyRegs_frame h (h.blk b).captured
    rw [applyCaptured, hact]
    exact commitFrame_apply hb h h act h.regs.staged _ _
  · exact .refl b h

theorem fwCommit_eq {h g : Hw} {b : BlockId} {cap : SMap Word} (hg : fwCommit h b cap = some g) :
    let h0 := commitBase h b
    let all := sharedCap h0 b cap
    g = (blkApply h0 (dropStaged (applyRegs h0 all) b) b all).modBlk b
      (fun c => { c with pend := false, seq := c.seq + 1, error := 0 }) := by
  rw [fwCommit] at hg
  exact (Option.some.inj (Option.ite_none_right_eq_some.1 hg).2).symm

/-- The word of a register whose staged fields `m` take those of `v`. -/
def withFields (old m v : Word) : Word := (old &&& ~~~m) ||| (v &&& m)

theorem sorted_sharedCap (h : Hw) (b : BlockId) (cap : SMap Word) : SMap.sorted (sharedCap h b cap) = true :=
  SMap.sorted_foldl_put Prod.fst Prod.snd cap (SMap.sorted_foldl_put _ _ _ rfl)

section
variable {h g : Hw} {b : BlockId} {cap : SMap Word} (hb : Quiet b) (hg : fwCommit h b cap = some g)
include hb hg

theorem fwCommit_frame : CommitFrame b h g := by
  rw [fwCommit_eq hg]
  obtain ⟨act, hact⟩ := applyRegs_frame (commitBase h b) (sharedCap (commitBase h b) b cap)
  rw [hact]
  exact (commitBase_frame hb h).trans (commitFrame_apply hb _ _ act _ _ _)

theorem fwCommit_reg {k : Nat} (hk : 0x100000 ≤ k) :
    g.reg k = (applyRegs (commitBase h b) (sharedCap (commitBase h b) b cap)).reg k := by
  rw [fwCommit_eq hg]
  exact (appliesQuietly_blkApply hb ..).reg k hk

/-- A committed word gives its register its staged fields. -/
theorem fwCommit_reg_mem {k : Nat} {v : Word} (hk : 0x100000 ≤ k) (hm : (k, v) ∈ cap)
    (hu : ∀ v', (k, v') ∈ cap → v' = v) : ∃ old, g.reg k = withFields old (regAt h.pins.variant1800 k).staged v := by
  have hfind : SMap.find (sharedCap (commitBase h b) b cap) k = some v := SMap.find_foldl_put hm hu _
  rw [fwCommit_reg hb hg hk, applyRegs_reg _ (sorted_sharedCap ..), hfind]
  exact ⟨_, by rw [← (commitBase_frame hb h).pins]; rfl⟩

/-- A register that neither it nor another has staged keeps its value, where no commit was in progress. -/
theorem fwCommit_reg_ne {k : Nat} (hk : 0x100000 ≤ k) (hidle : (h.blk b).busy = false) (hm : ∀ q ∈ cap, k ≠ q.1)
    (hs : ∀ q ∈ stagedWords h b, k ≠ q.1) : g.reg k = h.reg k := by
  have hbase : commitBase h b = h := if_neg (by simp [hidle])
  rw [fwCommit_reg hb hg hk, hbase]
  refine applyRegs_reg_ne h fun q hq => ?_
  obtain ⟨p, hp, rfl⟩ | hq := SMap.mem_foldl_put Prod.fst Prod.snd cap hq
  · exact hm p hp
  · exact hs q hq

end

/-- A block's staged words lie at or behind its base. -/
theorem blkBase_le_of_staged {h : Hw} {b : BlockId} (hb : blkBase b % 8 = 0) {q : Nat × Word}
    (hq : q ∈ stagedWords h b) : blkBase b ≤ q.1 := by
  obtain ⟨p, hp, rfl⟩ | hq := SMap.mem_foldl_put _ _ _ hq
  · obtain ⟨⟨b', o⟩, hblock, rfl⟩ := Option.map_eq_some_iff.1 (beq_iff_eq.1 (List.mem_filter.1 hp).2)
    have hplace := placedAt_blockOf _ _ _ hblock
    dsimp only at hb ⊢
    omega
  · cases hq

/-! ### Fields of committed words -/

theorem wfld_withFields (old v : Word) {m : Word} {lo len : Nat} (hm : ∀ i < len, m.getLsbD (lo + i) = true) :
    wfld (withFields old m v) lo len = wfld v lo len := by
  refine Nat.eq_of_testBit_eq fun i => ?_
  simp only [testBit_wfld, withFields, BitVec.getLsbD_or, BitVec.getLsbD_and, BitVec.getLsbD_not]
  by_cases hi : i < len
  · simp [hi, hm i hi]
  · simp [hi]

/-- Where every field is staged the word is the one committed. -/
theorem withFields_all (old v : Word) : withFields old 0xFFFFFFFFFFFFFFFF v = v := by
  have hnone : ~~~(0xFFFFFFFFFFFFFFFF : Word) = 0 := by decide
  rw [withFields, hnone, and_ones]
  simp

theorem bit_withFields (old v : Word) {m : Word} {i : Nat} (hm : m.getLsbD i = true) :
    bit (withFields old m v) i = bit v i := by
  simp [withFields, bit_eq_getLsbD, hm]

/-- The low bits of a field that was put. -/
theorem wfld_put_low (v lo : Nat) {len len' : Nat} (h : lo + len ≤ 64) (hle : len' ≤ len) :
    wfld (put v lo len) lo len' = v % 2 ^ len' := by
  refine Nat.eq_of_testBit_eq fun i => ?_
  rw [testBit_wfld, getLsbD_put, Nat.testBit_mod_two_pow]
  by_cases hi : i < len'
  · have hlt : lo + i < 64 := by omega
    have hlen : i < len := by omega
    simp [hi, hlt, hlen]
  · simp [hi]

/-! ### Registers that the services commit -/

theorem blockOf_skt (p : PartId) {o : Nat} (ho : o < 0x10000) : blockOf (blkBase (.skt p) + o) = some (.skt p, o) := by
  obtain ⟨x, hx⟩ : ∃ x, blkBase (.skt p) + o = x := ⟨_, rfl⟩
  have hp := p.isLt
  simp only [blkBase] at hx
  have hpart : Fin.ofNat 4 ((x - 0x120000) / 0x10000) = p := by
    refine Fin.ext ?_
    rw [Fin.val_ofNat]
    omega
  have hoff : x % 0x10000 = o := by omega
  rw [show blkBase (.skt p) + o = x from hx, blockOf]
  repeat rw [if_neg (by omega)]
  rw [if_pos (by omega), hpart, hoff]

theorem blockOf_col {o : Nat} (ho : o < 0x20000) : blockOf (colOff o) = some (.col, o) := by
  obtain ⟨x, hx⟩ : ∃ x, 0x160000 + o = x := ⟨_, rfl⟩
  have hoff : x - 0x160000 = o := by omega
  rw [show colOff o = x from hx, blockOf]
  repeat rw [if_neg (by omega)]
  rw [if_pos (by omega), hoff]

theorem blockOf_syn_zero {o : Nat} (ho : o < 0x80000) : blockOf (0x200000 + o) = some (.syn 0, o) := by
  obtain ⟨x, hx⟩ : ∃ x, 0x200000 + o = x := ⟨_, rfl⟩
  have hdie : Fin.ofNat 2 ((x - 0x200000) / 0x80000) = 0 := by
    refine Fin.ext ?_
    rw [Fin.val_ofNat, Fin.val_zero]
    omega
  have hoff : x % 0x80000 = o := by omega
  rw [hx, blockOf]
  repeat rw [if_neg (by omega)]
  rw [if_pos (by omega), hdie, hoff]

theorem inArr_eq_false {o base stride n : Nat} (h : ¬ (base ≤ o ∧ o < base + stride * n ∧ (o - base) % stride = 0)) :
    inArr o base stride n = false := Bool.eq_false_iff.2 (mt inArr_iff.1 h)

/-- The fields of a region's base (R222). -/
theorem staged_regionBase (v1800 : Bool) (p : PartId) {m : Nat} (hm : m < 64) :
    (regAt v1800 (blkBase (.skt p) + (0x600 + 16 * m))).staged = 0xFFFFFFFFFFFF := by
  rw [regAt_of_blockOf v1800 (blockOf_skt p (by omega))]
  have h1 : inArr (0x600 + 16 * m) 0x100 8 64 = false := inArr_eq_false (by omega)
  have h2 : inArr (0x600 + 16 * m) 0x600 16 64 = true := inArr_iff.2 (by omega)
  simp only [regInfo, sktInfo, h1, h2, if_neg (show 0x600 + 16 * m ≠ 0x10 by omega)]
  rfl

/-- Those of its configuration. -/
theorem staged_regionCfg (v1800 : Bool) (p : PartId) {m : Nat} (hm : m < 64) :
    (regAt v1800 (blkBase (.skt p) + (0x608 + 16 * m))).staged = 0xBF7FFFFF := by
  rw [regAt_of_blockOf v1800 (blockOf_skt p (by omega))]
  have h1 : inArr (0x608 + 16 * m) 0x100 8 64 = false := inArr_eq_false (by omega)
  have h2 : inArr (0x608 + 16 * m) 0x600 16 64 = false := inArr_eq_false (by omega)
  have h3 : inArr (0x608 + 16 * m) 0x608 16 64 = true := inArr_iff.2 (by omega)
  simp only [regInfo, sktInfo, h1, h2, h3, if_neg (show 0x608 + 16 * m ≠ 0x10 by omega)]
  rfl

/-- Those of a group (R359). -/
theorem staged_group (v1800 : Bool) {g : Nat} (hg : g < 64) :
    (regAt v1800 (colOff (0x100 + 8 * g))).staged = 0x103FF1FFF := by
  rw [regAt, blockOf_col (by omega)]
  have h1 : inArr (0x100 + 8 * g) 0x18 8 5 = false := inArr_eq_false (by omega)
  have h2 : inArr (0x100 + 8 * g) 0x100 8 64 = true := inArr_iff.2 (by omega)
  simp only [regInfo, colInfo, h1, h2, if_neg (show 0x100 + 8 * g ≠ 0x40 by omega)]
  rfl

/-- Those of a word of the member list. -/
theorem staged_members (v1800 : Bool) {k : Nat} (hk : k < 2048) :
    (regAt v1800 (colOff (0x10000 + 8 * k))).staged = 0xFFFFFFFFFFFFFFFF := by
  rw [regAt, blockOf_col (by omega)]
  have h1 : inArr (0x10000 + 8 * k) 0x18 8 5 = false := inArr_eq_false (by omega)
  have h2 : inArr (0x10000 + 8 * k) 0x100 8 64 = false := inArr_eq_false (by omega)
  have h3 : inArr (0x10000 + 8 * k) 0x10000 8 2048 = true := inArr_iff.2 (by omega)
  simp only [regInfo, colInfo, h1, h2, h3, if_neg (show 0x10000 + 8 * k ≠ 0x40 by omega)]
  rfl

/-- Those of a context's range of module-scope objects (R269). -/
theorem staged_modRange (v1800 : Bool) (c : CtxId) :
    (regAt v1800 (0x200000 + (0x100 + 8 * c.val))).staged = 0xFFFF7FFF := by
  have hc := c.isLt
  rw [regAt, blockOf_syn_zero (by omega)]
  have h1 : inArr (0x100 + 8 * c.val) 0x18 8 4 = false := inArr_eq_false (by omega)
  have h2 : inArr (0x100 + 8 * c.val) 0x100 8 64 = true := inArr_iff.2 (by omega)
  simp only [regInfo, h1, h2, if_neg (show 0x100 + 8 * c.val ≠ 0x10 by omega)]
  rfl

end Sys2Proof.Machine
end

section
/-! Proofs about the services of contexts: what each does, and what it answers. -/

namespace Sys2Proof.Machine

/-! ### The answer of a service (R424) -/

/-- The caller on easel `e` has its answer, s1 being `v` where the service states one, and goes on after the SVC. -/
def Answered (s t : State) (e : EaselId) (v : Option Nat) (status : Nat) : Prop :=
  (t.hw.easel e).blocked = none ∧ (t.hw.easel e).core.pc = (s.hw.easel e).core.pc + 8 ∧
    (t.hw.easel e).core.serial = (s.hw.easel e).core.serial + 1 ∧
    (∀ n, v = some n → (t.hw.easel e).core.get 1 = BitVec.ofNat 64 n) ∧
    (t.hw.easel e).core.get 2 = BitVec.ofNat 64 status ∧
    (∀ i, i ≠ 1 → i ≠ 2 → (t.hw.easel e).core.get i = (s.hw.easel e).core.get i) ∧ t.hw.mem = s.hw.mem

/-- The hardware once the caller has its answer. -/
def answerHw (g : Hw) (e : EaselId) (v : Word) (status : Nat) : Hw :=
  finishWait g e false (fun k => (k.put 1 v).put 2 (BitVec.ofNat 64 status))

section
variable (g : Hw) (e : EaselId) (v : Word) (status : Nat)

@[simp] theorem answerHw_ctx (c : CtxId) : (answerHw g e v status).ctx c = g.ctx c := rfl
@[simp] theorem answerHw_regionOf (p : PartId) (m : Nat) : regionOf (answerHw g e v status) p m = regionOf g p m := rfl
@[simp] theorem answerHw_modRange (c : CtxId) : modRange (answerHw g e v status) c = modRange g c := rfl
@[simp] theorem answerHw_groupReg (n : Nat) : groupReg (answerHw g e v status) n = groupReg g n := rfl
@[simp] theorem answerHw_groupMembers (n : Nat) : groupMembers (answerHw g e v status) n = groupMembers g n := rfl

end

theorem answered_answerHw {s : State} {g : Hw} {e : EaselId} {v : Option Nat} {w : Word} {status : Nat}
    (he : g.easels = s.hw.easels) (hm : g.mem = s.hw.mem) (hv : ∀ n, v = some n → w = BitVec.ofNat 64 n) :
    Answered s { s with hw := answerHw g e w status } e v status := by
  have heasel : (answerHw g e w status).easel e = { s.hw.easel e with
      core := (((s.hw.easel e).core.put 1 w).put 2 (BitVec.ofNat 64 status)).advance false ((s.hw.easel e).core.pc + 8)
      blocked := none } := by
    rw [answerHw, finishWait, Hw.easel_modEasel, Hw.easel_of_easels he]
    rfl
  have hget (i : BitVec 5) (r : CoreRegs) (pc : Word) : (r.advance false pc).get i = r.get i := rfl
  unfold Answered
  dsimp only
  rw [heasel]
  refine ⟨rfl, rfl, ?_, fun n hn => ?_, ?_, fun i h1 h2 => ?_, hm⟩
  · simp [CoreRegs.advance]
  · simp [hget, CoreRegs.get_put, hv n hn]
  · simp [hget, CoreRegs.get_put]
  · rw [hget, CoreRegs.get_put, if_neg (fun h => h2 h.1), CoreRegs.get_put, if_neg (fun h => h1 h.1)]

section
variable {s : State} {e : EaselId} {c : CtxId} {b : Blocked} {i : Instr} {n : BitVec 16}
  {body : Hw → CtxId → CoreRegs → Hw × Word × Nat} {g : Hw} {w : Word} {v : Option Nat} {status : Nat}
  {P : State → Prop}

/-- A service that a loaded context calls. -/
theorem service_loaded (hl : (s.hw.easel e).loaded = some c) (hb : (s.hw.easel e).blocked = some b)
    (hp : s.hw.fwu.paused = false) (hn : b.what = .svc n) (hbody : body s.hw c (s.hw.easel e).core = (g, w, status))
    (he : g.easels = s.hw.easels) : service s.hw e n body = answerHw g e w status := by
  have hres : s.hw.resident c e = true := by simp [Hw.resident, hl]
  have hres' : g.resident c e = true := by rwa [Hw.resident, Hw.easel_of_easels he]
  have hcaller : svcCaller s.hw e n = some c := by simp [svcCaller, hl, ctxBlocked_loaded hl, hb, hn]
  simp only [service, hcaller, hp, callerRegs, hres, hbody, finishCtx, hres', if_true, Bool.false_eq_true, if_false]
  rfl

theorem yields_service (hl : (s.hw.easel e).loaded = some c) (hb : (s.hw.easel e).blocked = some b)
    (hp : s.hw.fwu.paused = false) (hn : b.what = .svc n) (hx : exec i s = .next { s with hw := service s.hw e n body })
    (hbody : body s.hw c (s.hw.easel e).core = (g, w, status)) (he : g.easels = s.hw.easels) (hm : g.mem = s.hw.mem)
    (hv : ∀ n, v = some n → w = BitVec.ofNat 64 n) (hdone : P { s with hw := answerHw g e w status }) :
    Yields i s (fun t => Answered s t e v status ∧ P t) :=
  yields_run hx (service_loaded hl hb hp hn hbody he) ⟨answered_answerHw he hm hv, hdone⟩

end

/-! ### SKETCH_REGION (R222) -/

theorem lt_of_sketchPart {off : Nat} {p : PartId} (h : sketchPart off = some p) : off < 2 ^ 48 := by
  by_contra hge
  have hpal : isPal off = false := by simp [isPal]; omega
  have hcv : isCv off = false := by simp [isCv]; omega
  simp [sketchPart, partOfOff, hpal, hcv] at h

theorem freeRegion_lt {h : Hw} {p : PartId} {m : Nat} (hm : freeRegion h p = some m) : m < 64 :=
  List.mem_range.1 (List.mem_of_find?_eq_some hm)

theorem quiet_skt (p : PartId) : Quiet (.skt p) := .inl ⟨p, rfl⟩

section
variable {h g : Hw} {p : PartId} {m : Nat} {base cfg : Word}
  (hg : fwCommit h (.skt p) (regionCap p m base cfg) = some g)
include hg

/-- The region committed reads as its two words say. -/
theorem regionOf_committed (hm : m < 64) :
    regionOf g p m = (wfld base 0 48, wfld cfg 0 23, wfld cfg 24 6, bit cfg 31) := by
  have hbase : ∃ old, g.reg (blkBase (.skt p) + 0x600 + 16 * m) = withFields old 0xFFFFFFFFFFFF base := by
    rw [← staged_regionBase h.pins.variant1800 p hm, ← Nat.add_assoc]
    refine fwCommit_reg_mem (quiet_skt p) hg ?_ List.mem_cons_self ?_
    · simp only [blkBase]; omega
    · simp [regionCap]
  have hcfg : ∃ old, g.reg (blkBase (.skt p) + 0x608 + 16 * m) = withFields old 0xBF7FFFFF cfg := by
    rw [← staged_regionCfg h.pins.variant1800 p hm, ← Nat.add_assoc]
    refine fwCommit_reg_mem (quiet_skt p) hg ?_ (List.mem_cons_of_mem _ List.mem_cons_self) ?_
    · simp only [blkBase]; omega
    · simp [regionCap]
  obtain ⟨old, hbase⟩ := hbase
  obtain ⟨old', hcfg⟩ := hcfg
  simp only [regionOf, hbase, hcfg]
  rw [wfld_withFields old base (by decide), wfld_withFields old' cfg (by decide), wfld_withFields old' cfg (by decide),
    bit_withFields old' cfg (by decide)]

/-- Every other region stays where nobody else has staged any. -/
theorem regionOf_others (hidle : (h.blk (.skt p)).busy = false) (hs : stagedWords h (.skt p) = []) {m' : Nat}
    (hne : m' ≠ m) : regionOf g p m' = regionOf h p m' := by
  have hreg (o : Nat) (h1 : o ≠ 0x600 + 16 * m) (h2 : o ≠ 0x608 + 16 * m) :
      g.reg (blkBase (.skt p) + o) = h.reg (blkBase (.skt p) + o) := by
    refine fwCommit_reg_ne (quiet_skt p) hg ?_ hidle ?_ (by simp [hs])
    · simp only [blkBase]; omega
    · simp only [regionCap, List.mem_cons, List.not_mem_nil, or_false]
      rintro q (rfl | rfl) <;> dsimp only <;> omega
  have hbase := hreg (0x600 + 16 * m') (by omega) (by omega)
  have hcfg := hreg (0x608 + 16 * m') (by omega) (by omega)
  simp only [← Nat.add_assoc] at hbase hcfg
  simp only [regionOf, hbase, hcfg]

end

/-- A region's configuration word reads back as its pages, its context and valid. -/
theorem regionCfg_fields {pages : Nat} (hpages : pages < 2 ^ 23) (c : CtxId) :
    let cfg := put pages 0 23 ||| put c.val 24 6 ||| bitw true 31
    wfld cfg 0 23 = pages ∧ wfld cfg 24 6 = c.val ∧ bit cfg 31 = true := by
  have hc := c.isLt
  refine ⟨?_, ?_, ?_⟩
  · rw [wfld_or, wfld_or, wfld_put _ _ _ (by decide), wfld_put_beside _ (by decide), wfld_bitw_beside _ (by decide),
      Nat.mod_eq_of_lt hpages, Nat.or_zero, Nat.or_zero]
  · rw [wfld_or, wfld_or, wfld_put_beside _ (by decide), wfld_put _ _ _ (by decide), wfld_bitw_beside _ (by decide),
      Nat.zero_or, Nat.or_zero, Nat.mod_eq_of_lt (by omega)]
  · rw [bit_or, bit_bitw _ (by decide), Bool.or_true]

/-! ### SYNC_RANGE (R269) -/

theorem fwCommits_range {h g : Hw} {c : CtxId} {base n : Nat} (hg : fwCommits h (rangeCommits c base n) = some g) :
    let w := put base 0 15 ||| put n 16 16
    ∃ h1, fwCommit h (.syn 0) [(blkBase (.syn 0) + 0x100 + 8 * c.val, w)] = some h1 ∧
      fwCommit h1 (.syn 1) [(blkBase (.syn 1) + 0x100 + 8 * c.val, w)] = some g := by
  intro w
  simp only [rangeCommits, fwCommits] at hg
  cases h1 : fwCommit h (.syn 0) [(blkBase (.syn 0) + 0x100 + 8 * c.val, w)] with
  | none => simp [w, h1] at hg
  | some h1' =>
    refine ⟨h1', rfl, ?_⟩
    cases h2 : fwCommit h1' (.syn 1) [(blkBase (.syn 1) + 0x100 + 8 * c.val, w)] with
    | none => simp [w, h1, h2] at hg
    | some h2' => simpa [w, h1, h2] using hg

theorem findRange_le {l : List Buf} {n k b r : Nat} (h : findRange l n k b = some r) : r + n ≤ 32768 := by
  induction k generalizing b with
  | zero => cases h
  | succ k ih =>
    rw [findRange] at h
    split at h
    · cases h
    · split at h
      · exact ih h
      · cases h
        omega

theorem objRange_le {h : Hw} {n r : Nat} (hr : objRange h n = some r) : r + n ≤ 32768 := by
  unfold objRange at hr
  split at hr
  next hf =>
    cases hr
    exact findRange_le hf
  next => exact findRange_le hr

theorem quiet_syn (i : Fin 2) : Quiet (.syn i) := .inr (.inr ⟨i, rfl⟩)

section
variable {h g : Hw} {c : CtxId} {base n : Nat} (hg : fwCommits h (rangeCommits c base n) = some g)
include hg

theorem rangeCommits_frame : g.easels = h.easels ∧ g.mem = h.mem := by
  obtain ⟨h1, hg1, hg2⟩ := fwCommits_range hg
  have hf1 := fwCommit_frame (quiet_syn 0) hg1
  have hf2 := fwCommit_frame (quiet_syn 1) hg2
  exact ⟨hf2.easels.trans hf1.easels, hf2.mem.trans hf1.mem⟩

/-- The range committed is read from the first instance, which a commit of the second leaves. -/
theorem modRange_committed (hidle : (h.blk (.syn 1)).busy = false) (hn : 0 < n) (hle : base + n ≤ 32768) :
    modRange g c = (base, n) := by
  obtain ⟨h1, hg1, hg2⟩ := fwCommits_range hg
  have hc := c.isLt
  have hidle1 : (h1.blk (.syn 1)).busy = false := by
    rw [(fwCommit_frame (quiet_syn 0) hg1).blk (.syn 1) (by decide), hidle]
  have hsecond : g.reg (0x200100 + 8 * c.val) = h1.reg (0x200100 + 8 * c.val) := by
    refine fwCommit_reg_ne (quiet_syn 1) hg2 (by omega) hidle1 ?_ fun q hq => ?_
    · simp only [List.mem_singleton, forall_eq]
      have : blkBase (.syn 1) = 0x280000 := rfl
      omega
    · have : 0x280000 ≤ q.1 := blkBase_le_of_staged (b := .syn 1) (by decide) hq
      omega
  have hfirst : ∃ old, h1.reg (0x200100 + 8 * c.val) = withFields old 0xFFFF7FFF (put base 0 15 ||| put n 16 16) := by
    rw [← staged_modRange h.pins.variant1800 c, ← Nat.add_assoc]
    exact fwCommit_reg_mem (quiet_syn 0) hg1 (by omega) List.mem_cons_self (by simp)
  obtain ⟨old, hfirst⟩ := hfirst
  simp only [modRange, hsecond, hfirst]
  rw [wfld_withFields _ _ (by decide), wfld_withFields _ _ (by decide), wfld_or, wfld_or, wfld_put _ _ _ (by decide),
    wfld_put _ _ _ (by decide), wfld_put_beside _ (by decide), wfld_put_beside _ (by decide), Nat.or_zero, Nat.zero_or,
    Nat.mod_eq_of_lt (by omega), Nat.mod_eq_of_lt (by omega)]

end

/-! ### GROUP (R359) -/

theorem memberList_local {h : Hw} {c : CtxId} {uma : Word} {n : Nat} {l : List Nat}
    (hl : memberList h c uma n = some l) : l.length = n ∧ ∃ off, decodeUma h c uma = .local off := by
  unfold memberList at hl
  split at hl
  next off hoff =>
    obtain ⟨-, hl⟩ := Option.ite_none_right_eq_some.1 hl
    exact ⟨by simp [← Option.some.inj hl], off, hoff⟩
  next => cases hl

/-- Member entries are found at a multiple of 4, within the member list. -/
theorem findMembers_place {l : List Buf} {n k b r : Nat} (hb : b % 4 = 0) (h : findMembers l n k b = some r) :
    r % 4 = 0 ∧ r + n ≤ 8192 := by
  induction k generalizing b with
  | zero => cases h
  | succ k ih =>
    rw [findMembers] at h
    split at h
    · cases h
    · split at h
      · exact ih (Nat.mul_mod_left ..) h
      · cases h
        omega

/-- The word of four member entries. -/
def memberWord (l : List Nat) : Word := (List.range 4).foldl (fun w j => w ||| put ((l[j]?).getD 0) (16 * j) 16) 0

theorem mem_memberWords {base n : Nat} {l : List Nat} {q : Nat × Word} :
    q ∈ memberWords base n l ↔ ∃ i < n, q = (colOff (0x10000 + 8 * (base + i)), memberWord (l.drop (4 * i))) := by
  induction n generalizing base l with
  | zero => simp [memberWords]
  | succ n ih =>
    have hcons : memberWords base (n + 1) l =
        (colOff (0x10000 + 8 * base), memberWord l) :: memberWords (base + 1) n (l.drop 4) := rfl
    rw [hcons, List.mem_cons, ih]
    constructor
    · rintro (rfl | ⟨i, hi, rfl⟩)
      · exact ⟨0, by omega, rfl⟩
      · refine ⟨i + 1, by omega, ?_⟩
        rw [List.drop_drop, Nat.add_assoc, Nat.add_comm 1 i, Nat.mul_succ, Nat.add_comm 4]
    · rintro ⟨i, hi, rfl⟩
      cases i with
      | zero => exact .inl rfl
      | succ i =>
        refine .inr ⟨i, by omega, ?_⟩
        rw [List.drop_drop, Nat.add_assoc, Nat.add_comm 1 i, Nat.mul_succ, Nat.add_comm 4]

/-- A place among those where 16-bit values are put reads its value. -/
theorem wfld_foldl_put (f : Nat → Nat) (js : List Nat) (w : Word) {j : Nat} (hj : j < 4) :
    wfld (js.foldl (fun w i => w ||| put (f i) (16 * i) 16) w) (16 * j) 10 =
      wfld w (16 * j) 10 ||| if j ∈ js then f j % 2 ^ 10 else 0 := by
  induction js generalizing w with
  | nil => simp
  | cons i js ih =>
    rw [List.foldl_cons, ih, wfld_or, Nat.or_assoc]
    by_cases hi : i = j
    · subst hi
      rw [wfld_put_low _ _ (by omega) (by decide)]
      by_cases hjs : i ∈ js <;> simp [hjs]
    · rw [wfld_put_beside _ (by omega), Nat.zero_or]
      simp [Ne.symm hi]

theorem wfld_memberWord (l : List Nat) {j : Nat} (hj : j < 4) :
    wfld (memberWord l) (16 * j) 10 = (l[j]?).getD 0 % 2 ^ 10 := by
  have hzero : wfld 0 (16 * j) 10 = 0 := by simp [wfld, fld]
  rw [memberWord, wfld_foldl_put (fun j => (l[j]?).getD 0) _ _ hj, hzero, if_pos (List.mem_range.2 hj), Nat.zero_or]

theorem quiet_col : Quiet .col := .inr (.inl rfl)

/-- The words that GROUP commits. -/
def groupCap (g base n : Nat) (c : CtxId) (l : List Nat) : SMap Word :=
  memberWords (base / 4) (cdiv (2 ^ n) 4) l ++
    [(colOff (0x100 + 8 * g), put base 0 13 ||| put n 16 4 ||| put c.val 20 6 ||| bitw true 32)]

/-- A group's word reads back as its members' place, n, its context and valid. -/
theorem groupWord_fields {base n : Nat} (hbase : base < 8192) (hn : n ≤ 10) (c : CtxId) :
    let w := put base 0 13 ||| put n 16 4 ||| put c.val 20 6 ||| bitw true 32
    wfld w 0 13 = base ∧ wfld w 16 4 = n ∧ wfld w 20 6 = c.val ∧ bit w 32 = true := by
  have hc := c.isLt
  refine ⟨?_, ?_, ?_, ?_⟩
  · rw [wfld_or, wfld_or, wfld_or, wfld_put _ _ _ (by decide), wfld_put_beside _ (by decide),
      wfld_put_beside _ (by decide), wfld_bitw_beside _ (by decide), Nat.mod_eq_of_lt (by omega),
      Nat.or_zero, Nat.or_zero, Nat.or_zero]
  · rw [wfld_or, wfld_or, wfld_or, wfld_put_beside _ (by decide), wfld_put _ _ _ (by decide),
      wfld_put_beside _ (by decide), wfld_bitw_beside _ (by decide), Nat.mod_eq_of_lt (by omega),
      Nat.or_zero, Nat.or_zero, Nat.zero_or]
  · rw [wfld_or, wfld_or, wfld_or, wfld_put_beside _ (by decide), wfld_put_beside _ (by decide),
      wfld_put _ _ _ (by decide), wfld_bitw_beside _ (by decide), Nat.mod_eq_of_lt (by omega),
      Nat.or_zero, Nat.or_zero, Nat.zero_or]
  · rw [bit_or, bit_bitw _ (by decide), Bool.or_true]

section
variable {h k : Hw} {g base n : Nat} {c : CtxId} {l : List Nat}
  (hk : fwCommit h .col (groupCap g base n c l) = some k) (hg : g < 64)
include hk hg

theorem groupReg_committed : ∃ old, groupReg k g =
    withFields old 0x103FF1FFF (put base 0 13 ||| put n 16 4 ||| put c.val 20 6 ||| bitw true 32) := by
  rw [← staged_group h.pins.variant1800 hg]
  refine fwCommit_reg_mem quiet_col hk ?_ (List.mem_append_right _ List.mem_cons_self) fun v hv => ?_
  · simp only [colOff, blkBase]; omega
  · obtain hv | hv := List.mem_append.1 hv
    · obtain ⟨i, -, he⟩ := mem_memberWords.1 hv
      have hoff := congrArg Prod.fst he
      simp only [colOff] at hoff
      omega
    · simpa using hv

/-- The group committed is valid, the context's, and lies where its members were placed (R359). -/
theorem group_committed (hfit : base + 2 ^ n ≤ 8192) (hn : n ≤ 10) :
    wfld (groupReg k g) 0 13 = base ∧ wfld (groupReg k g) 16 4 = n ∧ wfld (groupReg k g) 20 6 = c.val ∧
      bit (groupReg k g) 32 = true := by
  obtain ⟨old, hword⟩ := groupReg_committed hk hg
  have hpos : 0 < 2 ^ n := Nat.two_pow_pos n
  obtain ⟨hbase, hsize, hctx, hvalid⟩ := groupWord_fields (base := base) (by omega) hn c
  rw [hword, wfld_withFields _ _ (by decide), wfld_withFields _ _ (by decide), wfld_withFields _ _ (by decide),
    bit_withFields _ _ (by decide)]
  exact ⟨hbase, hsize, hctx, hvalid⟩

/-- Each member of the list stands at its place. -/
theorem memberAt_committed (hplace : base % 4 = 0) (hfit : base + 2 ^ n ≤ 8192) {r : Nat} (hr : r < 2 ^ n) :
    memberAt k (base + r) = (l[r]?).getD 0 % 2 ^ 10 := by
  have hword : ∃ old, k.reg (colOff (0x10000 + 8 * (base / 4 + r / 4))) =
      withFields old 0xFFFFFFFFFFFFFFFF (memberWord (l.drop (4 * (r / 4)))) := by
    rw [← staged_members h.pins.variant1800 (k := base / 4 + r / 4) (by omega)]
    refine fwCommit_reg_mem quiet_col hk ?_
      (List.mem_append_left _ (mem_memberWords.2 ⟨r / 4, ?_, rfl⟩)) fun v hv => ?_
    · simp only [colOff, blkBase]; omega
    · rw [cdiv]; omega
    · obtain hv | hv := List.mem_append.1 hv
      · obtain ⟨i, -, he⟩ := mem_memberWords.1 hv
        obtain ⟨hoff, rfl⟩ := Prod.mk.inj he
        simp only [colOff] at hoff
        rw [show i = r / 4 by omega]
      · have hoff := congrArg Prod.fst (List.mem_singleton.1 hv)
        simp only [colOff] at hoff
        omega
  obtain ⟨old, hword⟩ := hword
  rw [memberAt, show (base + r) / 4 = base / 4 + r / 4 by omega, show (base + r) % 4 = r % 4 by omega, hword,
    withFields_all, wfld_memberWord _ (by omega), List.getElem?_drop, show 4 * (r / 4) + r % 4 = r by omega]

/-- The members of the group committed are those of the list. -/
theorem groupMembers_committed (hplace : base % 4 = 0) (hfit : base + 2 ^ n ≤ 8192) (hn : n ≤ 10)
    (hlen : l.length = 2 ^ n) (hfa : ∀ a ∈ l, a < 1024) : groupMembers k g = l := by
  obtain ⟨hbase, hsize, -, -⟩ := group_committed hk hg hfit hn
  simp only [groupMembers, hbase, hsize]
  refine List.ext_getElem (by simp [hlen]) fun r h1 h2 => ?_
  rw [List.getElem_map, List.getElem_range, memberAt_committed hk hg hplace hfit (by omega),
    List.getElem?_eq_getElem h2, Option.getD_some]
  exact Nat.mod_eq_of_lt (hfa _ (List.getElem_mem h2))

end

/-! ### What each service does -/

section
variable {s : State} {c : CtxId} {r : CoreRegs}

theorem sketchRegion_adds {p : PartId} {m : Nat} {g : Hw} (hpart : sketchPart (r.get 1).toNat = some p)
    (hadd : bit (r.get 3) 0 = true) (hfree : freeRegion s.hw p = some m) (hpages : (r.get 2).toNat < 2 ^ 23)
    (hg : fwCommit s.hw (.skt p) (regionCap p m (r.get 1)
      (put (r.get 2).toNat 0 23 ||| put c.val 24 6 ||| bitw true 31)) = some g) :
    sketchRegion s.hw c r = (g, BitVec.ofNat 64 m, 0) := by
  simp only [sketchRegion, hpart, hadd, hfree, if_true, if_neg (Nat.not_le.2 hpages), hg]

theorem syncRange_gives {base : Nat} {g : Hw} (hnone : (modRange s.hw c).2 = 0) (hn : (r.get 1).toNat ≤ 32768)
    (hrange : objRange s.hw (r.get 1).toNat = some base)
    (hg : fwCommits s.hw.useFree (rangeCommits c base (r.get 1).toNat) = some g) :
    syncRange s.hw c r = (g, BitVec.ofNat 64 base, 0) := by
  simp only [syncRange, hnone, ne_eq, not_true_eq_false, if_false, if_neg (Nat.not_lt.2 hn), hrange, hg]

theorem makeGroup_makes {g base : Nat} {l : List Nat} {k : Hw} (hn : (r.get 2).toNat ≤ 10)
    (hnew : bit (r.get 3) 6 = false)
    (hfree : (List.range 64).find? (fun g => !bit (s.hw.reg (colOff (0x100 + 8 * g))) 32) = some g)
    (hl : memberList s.hw c (r.get 1) (2 ^ (r.get 2).toNat) = some l)
    (hclean : ∀ off, decodeUma s.hw c (r.get 1) = .local off → s.hw.mem.corrected off (2 * 2 ^ (r.get 2).toNat) = 0)
    (hfa : ∀ a ∈ l, a < 1024) (hdistinct : distinct l = true) (hown : s.hw.fa ∈ l)
    (hplace : findMembers (memberRanges s.hw none) (2 ^ (r.get 2).toNat) 65 0 = some base)
    (hk : fwCommit s.hw .col (groupCap g base (r.get 2).toNat c l) = some k) :
    makeGroup s.hw c r = (k, BitVec.ofNat 64 g, 0) := by
  obtain ⟨-, off, hoff⟩ := memberList_local hl
  have hread : touchRead s.hw off (2 * 2 ^ (r.get 2).toNat) = s.hw := touchRead_clean (hclean off hoff)
  have hfa' : l.all (fun f => decide (f < 1024)) = true := by simpa using hfa
  have hown' : l.contains s.hw.fa = true := by simpa using hown
  unfold groupCap at hk
  simp only [makeGroup, hoff, hn, if_true, hread, hnew, decide_eq_false (Nat.not_lt.2 hn), Bool.not_false, Bool.true_or,
    Bool.not_true, Bool.or_false, Bool.false_eq_true, if_false, hfree, hl, hfa', hdistinct, hown', Bool.and_true,
    hplace, hk]

/-- A list of more than 2^10 members is refused, and nothing is read (R359). -/
theorem makeGroup_large (hn : 10 < (r.get 2).toNat) : makeGroup s.hw c r = svcFail s.hw 2 := by
  have hle : ¬ (r.get 2).toNat ≤ 10 := Nat.not_le.2 hn
  cases hd : decodeUma s.hw c (r.get 1) <;>
    simp only [makeGroup, hd, hn, hle, decide_true, Bool.true_or, if_true, if_false]

end

end Sys2Proof.Machine

namespace Sys2Proof

open Sys2Proof.Machine

/-- Settles O43: each service's body comes to its effect, a status and a result, which `yields_service` brings to the
caller; the registers committed read back as their words say. -/
theorem contextServicesAnswerTheirCaller : Obligations.ContextServicesAnswerTheirCaller := by
  intro s e c b hl hb hp r answers
  refine ⟨fun p m hw hpart hadd hfree hpages hok => ?region, fun base hw hnone hpos hle hrange hok => ?range,
    fun hw => ⟨fun g base l hn hnew hfree hlist hclean hfa hdistinct hown hplace hok => ?group, fun hn => ?large⟩,
    fun hw => ?notify, fun hw => ?yield⟩
  case region =>
    obtain ⟨g, hg⟩ := Option.isSome_iff_exists.1 hok
    have hf := fwCommit_frame (quiet_skt p) hg
    refine yields_service hl hb hp hw rfl (sketchRegion_adds hpart hadd hfree hpages hg) hf.easels hf.mem
      (fun n hn => by rw [Option.some.inj hn]) ⟨?_, fun hidle hs m' hm' hne => ?_⟩
    · obtain ⟨h1, h2, h3⟩ := regionCfg_fields hpages c
      rw [answerHw_regionOf, regionOf_committed hg (freeRegion_lt hfree), h1, h2, h3, wfld, fld,
        Nat.shiftRight_zero, Nat.mod_eq_of_lt (lt_of_sketchPart hpart)]
    · rw [answerHw_regionOf]
      exact regionOf_others hg hidle hs hne
  case range =>
    obtain ⟨g, hg⟩ := Option.isSome_iff_exists.1 hok
    obtain ⟨heasels, hmem⟩ := rangeCommits_frame hg
    refine yields_service hl hb hp hw rfl (syncRange_gives hnone hle hrange hg) heasels hmem
      (fun n hn => by rw [Option.some.inj hn]) fun hidle => ?_
    rw [answerHw_modRange]
    exact modRange_committed hg hidle hpos (objRange_le hrange)
  case group =>
    obtain ⟨k, hk⟩ := Option.isSome_iff_exists.1 hok
    have hf := fwCommit_frame quiet_col hk
    have hg : g < 64 := List.mem_range.1 (List.mem_of_find?_eq_some hfree)
    obtain ⟨hlen, -⟩ := memberList_local hlist
    obtain ⟨hfour, hfit⟩ := findMembers_place (by decide) hplace
    obtain ⟨-, -, hctx, hvalid⟩ := group_committed hk hg hfit hn
    refine yields_service hl hb hp hw rfl
      (makeGroup_makes hn hnew hfree hlist hclean hfa hdistinct hown hplace hk) hf.easels hf.mem
      (fun n hn => by rw [Option.some.inj hn]) ⟨?_, ?_, ?_⟩
    · rw [answerHw_groupMembers]
      exact groupMembers_committed hk hg hfour hfit hn hlen hfa
    · rw [answerHw_groupReg, hvalid]
    · rw [answerHw_groupReg, hctx]
  case large =>
    exact yields_service hl hb hp hw rfl (makeGroup_large hn) rfl rfl (fun _ h => nomatch h) rfl
  case notify =>
    exact yields_service hl hb hp hw rfl rfl rfl rfl (fun _ h => nomatch h) (pends_raiseEv s.hw s.pending _ _ [])
  case yield =>
    refine yields_service hl hb hp hw rfl rfl rfl rfl (fun _ h => nomatch h) ?_
    rw [answerHw_ctx, Hw.ctx_of_ctxs (Hw.useFree_ctxs _), Hw.ctx_modCtx]

end Sys2Proof
end

section
/-! Proofs about RELEASE, ACQUIRE and FENCE: the flag word that a RELEASE leaves in local memory, the lines that are
overtaken or discarded, and the waits of the core (R253 to R258). -/

namespace Sys2Proof.Machine

/-! ### A word written -/

theorem leNat_leBytes (n v : Nat) : leNat (leBytes n v) = v % 256 ^ n := by
  induction n generalizing v with
  | zero => simp [leBytes, leNat, Nat.mod_one]
  | succ n ih =>
    rw [leBytes, leNat, ih, Nat.pow_succ', Nat.mod_mul]
    simp

/-- A word that a clean write has put reads back. -/
theorem Mem.word_write_clean {m : Mem} {off : Nat} (v : Word) (hr : m.badRead off 8 = none) :
    (m.write off (leBytes 8 v.toNat)).word off = v := by
  have hlen : (leBytes 8 v.toNat).length = 8 := length_leBytes ..
  have hread : (m.write off (leBytes 8 v.toNat)).read off 8 = leBytes 8 v.toNat := by
    have hback := Mem.read_write_clean (m := m) (a := off) (bs := leBytes 8 v.toNat) (by rwa [hlen])
    rwa [hlen] at hback
  rw [Mem.word, hread, bWord, List.take_of_length_le hlen.le, leNat_leBytes]
  exact BitVec.eq_of_toNat_eq (by rw [BitVec.toNat_ofNat]; omega)

/-! ### Lines of an easel (R255, R257) -/

/-- Of the requests only whether their data may stay as a line changes. -/
theorem staleReads_reqs (h : Hw) (e : EaselId) (p : Nat → Bool) :
    (staleReads h e p).reqs.map (fun r => { r with fresh := true }) =
      h.reqs.map (fun r => { r with fresh := true }) := by
  simp only [staleReads, List.map_map]
  refine List.map_congr_left fun r _ => ?_
  simp only [Function.comp]
  split
  · split_ifs <;> rfl
  · rfl

/-- Prefetch lines of easel `e` have gone, and reads under way for it may leave none. -/
structure LinesGone (h g : Hw) (e : EaselId) : Prop where
  rest : { g with easels := h.easels, reqs := h.reqs } = h
  reqs : g.reqs.map (fun r => { r with fresh := true }) = h.reqs.map (fun r => { r with fresh := true })
  lines : ∃ l, g.easel e = { h.easel e with prefetch := l }
  others : ∀ e', e' ≠ e → g.easel e' = h.easel e'

/-- A write leaves the lines that it does not overtake. -/
theorem linesGone_dropLines (h : Hw) (e : EaselId) (a : Word) (n : Nat) : LinesGone h (dropLines h e a n) e where
  rest := rfl
  reqs := by simp only [dropLines, Hw.modEasel_reqs, staleReads_reqs]
  lines := ⟨_, Hw.easel_modEasel ..⟩
  others _ he := Hw.easel_modEasel_ne _ _ he

theorem linesGone_dropPrefetch (h : Hw) (e : EaselId) : LinesGone h (dropPrefetch h e) e where
  rest := rfl
  reqs := by simp only [dropPrefetch, Hw.modEasel_reqs, staleReads_reqs]
  lines := ⟨_, Hw.easel_modEasel ..⟩
  others _ he := Hw.easel_modEasel_ne _ _ he

theorem dropPrefetch_prefetch (h : Hw) (e : EaselId) : ((dropPrefetch h e).easel e).prefetch = [] :=
  congrArg Easel.prefetch (Hw.easel_modEasel (staleReads h e (fun _ => true)) e (fun x => { x with prefetch := [] }))

/-! ### The flag of a RELEASE in local memory (R253) -/

/-- The hardware once a flag word is in local memory: lines over it have gone. -/
def Hw.flagStored (h : Hw) (e : EaselId) (a : Word) (off : Nat) (v : Word) : Hw :=
  dropLines { h with mem := h.mem.write off (leBytes 8 v.toNat) } e a 8

/-- Only memory, easels and the freshness of reads change. -/
theorem flagStored_rest (h : Hw) (e : EaselId) (a : Word) (off : Nat) (v : Word) :
    { h.flagStored e a off v with easels := h.easels, mem := h.mem, reqs := h.reqs } = h ∧
      (h.flagStored e a off v).reqs.map (fun r => { r with fresh := true }) =
        h.reqs.map (fun r => { r with fresh := true }) := by
  unfold Hw.flagStored
  generalize h.mem.write off (leBytes 8 v.toNat) = m
  have hgone := linesGone_dropLines { h with mem := m } e a 8
  exact ⟨congrArg (fun g : Hw => { g with mem := h.mem }) hgone.rest, hgone.reqs⟩

/-- What a change of memory leaves of the easels once lines over it have gone. -/
theorem dropLines_setMem_easel (h : Hw) (m : Mem) (e : EaselId) (a : Word) (n : Nat) :
    (∃ l, (dropLines { h with mem := m } e a n).easel e = { h.easel e with prefetch := l }) ∧
      ∀ e', e' ≠ e → (dropLines { h with mem := m } e a n).easel e' = h.easel e' :=
  have hgone := linesGone_dropLines { h with mem := m } e a n
  ⟨hgone.lines, hgone.others⟩

theorem flagStored_easel (h : Hw) (e : EaselId) (a : Word) (off : Nat) (v : Word) :
    (∃ l, (h.flagStored e a off v).easel e = { h.easel e with prefetch := l }) ∧
      ∀ e', e' ≠ e → (h.flagStored e a off v).easel e' = h.easel e' := by
  unfold Hw.flagStored
  exact dropLines_setMem_easel ..

/-- The word holds the flag, and every other byte is as before. -/
theorem flagStored_mem {h : Hw} {off : Nat} (e : EaselId) (a v : Word) (hr : h.mem.badRead off 8 = none) :
    (h.flagStored e a off v).mem.word off = v ∧
      ∀ b, b < off ∨ off + 8 ≤ b → (h.flagStored e a off v).mem.byte b = h.mem.byte b := by
  have hmem : (h.flagStored e a off v).mem = h.mem.write off (leBytes 8 v.toNat) := dropLines_mem ..
  rw [hmem]
  exact ⟨Mem.word_write_clean v hr, fun b hb => Mem.byte_write_out _ _ _ _ (by rwa [length_leBytes])⟩

/-- A whole word that meets no error, no channel in retraining and no store of the core is written at once. -/
theorem storeLocal_flag {s : State} {e : EaselId} {a v inst : Word} {off : Nat} (hc : CleanWords s off 8)
    (hsb : sbHolds (s.hw.easel e) a 8 = false) : storeLocal s.hw e a off 8 v inst = s.hw.flagStored e a off v := by
  obtain ⟨-, hbad, hpath, hwait⟩ := hc
  simp only [storeLocal, hwait, hsb, Mem.badWrite_of_badRead hbad, hpath]
  rfl

/-! ### Waits of the core (R253, R258) -/

theorem Hw.loaded_modEasel (h : Hw) (e : EaselId) {f : Easel → Easel} (hf : ∀ x, (f x).loaded = x.loaded)
    (e' : EaselId) : ((h.modEasel e f).easel e').loaded = (h.easel e').loaded := by
  by_cases he : e' = e
  · rw [he, Hw.easel_modEasel, hf]
  · rw [Hw.easel_modEasel_ne _ _ he]

/-- Addresses decode alike while the same contexts are loaded (R29). -/
theorem decodeUma_modEasel (h : Hw) (e : EaselId) {f : Easel → Easel} (hf : ∀ x, (f x).loaded = x.loaded) (c : CtxId)
    (a : Word) : decodeUma (h.modEasel e f) c a = decodeUma h c a := by
  have hholder (off : Nat) : (h.modEasel e f).holder off = h.holder off := by
    simp only [Hw.holder, Hw.loaded_modEasel h e hf]
    rfl
  have hlocal (off : Nat) : decodeLocal (h.modEasel e f) c off = decodeLocal h c off := by
    simp only [decodeLocal, hholder]
    rfl
  simp only [decodeUma, hlocal]
  rfl

theorem settleCtx_fence {h : Hw} {e : EaselId} {b : Blocked} {m : BitVec 5} (hw : CtxWaits h e b)
    (hb : b.what = .fence m) :
    settleCtx h e = if fenceHolds h e m then finishWait h e false id else h := by
  simp [settleCtx, hw.stays, hw.blocked, hb]

/-- A core RELEASE waits while a store of its context is outstanding. -/
theorem settleCtx_release_waits {h : Hw} {e : EaselId} {b : Blocked} {sig : Bool} {scope : BitVec 2} {a v : Word}
    (hw : CtxWaits h e b) (hb : b.what = .release sig scope a v) (hout : storesDone (h.easel e) = false) :
    settleCtx h e = h := by
  simp [settleCtx, hw.stays, hw.blocked, hb, hout]

/-- The action of a core's wait is the context's, whatever mode the core is in. -/
def Hw.asContext (h : Hw) (e : EaselId) : Hw := h.modEasel e (fun x => { x with service := false })

theorem asContext_easel (h : Hw) (e : EaselId) : (h.asContext e).easel e = { h.easel e with service := false } :=
  Hw.easel_modEasel ..

theorem decodeUma_asContext (h : Hw) (e : EaselId) (c : CtxId) (a : Word) :
    decodeUma (h.asContext e) c a = decodeUma h c a :=
  decodeUma_modEasel h e (f := fun x => { x with service := false }) (fun _ => rfl) c a

theorem decodeUma_waiting (h : Hw) (e : EaselId) (b : Blocked) (c : CtxId) (a : Word) :
    decodeUma (h.waiting e b) c a = decodeUma h c a :=
  decodeUma_modEasel h e (f := fun x => { x with blocked := some b }) (fun _ => rfl) c a

/-- The hardware once a core RELEASE has stored its flag and gone on. -/
def Hw.released (h : Hw) (e : EaselId) (a : Word) (off : Nat) (v : Word) : Hw :=
  finishWait (((h.asContext e).flagStored e a off v).modEasel e
    (fun x => { x with service := (h.easel e).service })) e false id

/-- With its stores complete and room, a RELEASE of a clean local word stores its flag and goes on. -/
theorem settleCtx_flag {h : Hw} {e : EaselId} {b : Blocked} {scope : BitVec 2} {a v : Word} {off : Nat}
    (hw : CtxWaits h e b) (hb : b.what = .release false scope a v) (hdone : storesDone (h.easel e) = true)
    (hroom : (h.easel e).sb.length < 16) (hd : decodeUma h (h.easel e).actx a = .local off)
    (hc : CleanWords ⟨h, []⟩ off 8) (hsb : sbHolds (h.easel e) a 8 = false) :
    settleCtx h e = h.released e a off v := by
  have hfull : sbFull (h.easel e) = false := decide_eq_false (by omega)
  have hact : ((h.asContext e).easel e).actx = (h.easel e).actx := by rw [asContext_easel]; rfl
  have hsb' : sbHolds ((h.asContext e).easel e) a 8 = false := by rw [asContext_easel]; exact hsb
  have hpost : postFlag (h.asContext e) e b.inst a v = (h.asContext e).flagStored e a off v := by
    simp only [postFlag, hact, decodeUma_asContext, hd]
    exact storeLocal_flag (s := ⟨h.asContext e, []⟩) hc hsb'
  rw [Hw.released, ← hpost]
  simp only [settleCtx, hw.stays, hw.blocked, hb, hdone, releaseRoom, hfull, hd, Bool.false_eq_true, if_false,
    Bool.not_false, Bool.and_self, if_true]
  rfl

/-- What it leaves of the easels. -/
theorem released_easel (h : Hw) (e : EaselId) (a : Word) (off : Nat) (v : Word) :
    (∃ l, (h.released e a off v).easel e = { h.easel e with
      prefetch := l, blocked := none, core := (h.easel e).core.advance false ((h.easel e).core.pc + 8) }) ∧
    ∀ e', e' ≠ e → (h.released e a off v).easel e' = h.easel e' := by
  obtain ⟨⟨l, hl⟩, hothers⟩ := flagStored_easel (h.asContext e) e a off v
  refine ⟨⟨l, ?_⟩, fun e' hne => ?_⟩
  · rw [Hw.released, finishWait, Hw.easel_modEasel, Hw.easel_modEasel, hl, asContext_easel]
    rfl
  · rw [Hw.released, finishWait, Hw.easel_modEasel_ne _ _ hne, Hw.easel_modEasel_ne _ _ hne, hothers e' hne]
    exact Hw.easel_modEasel_ne _ _ hne

/-- The word holds the flag, and every other byte is as before. -/
theorem released_mem {h : Hw} {off : Nat} (e : EaselId) (a v : Word) (hr : h.mem.badRead off 8 = none) :
    (h.released e a off v).mem.word off = v ∧
      ∀ b, b < off ∨ off + 8 ≤ b → (h.released e a off v).mem.byte b = h.mem.byte b := by
  have hmem : (h.released e a off v).mem = ((h.asContext e).flagStored e a off v).mem := rfl
  rw [hmem]
  exact flagStored_mem (h := h.asContext e) e a v hr

/-- What it leaves beside easels and memory. -/
theorem released_rest (h : Hw) (e : EaselId) (a : Word) (off : Nat) (v : Word) :
    { h.released e a off v with easels := h.easels, mem := h.mem, reqs := h.reqs } = h ∧
      (h.released e a off v).reqs.map (fun r => { r with fresh := true }) =
        h.reqs.map (fun r => { r with fresh := true }) := by
  obtain ⟨hrest, hreqs⟩ := flagStored_rest (h.asContext e) e a off v
  exact ⟨congrArg (fun g : Hw => { g with easels := h.easels }) hrest, hreqs⟩

theorem fenceHolds_waiting (h : Hw) (e : EaselId) (b : Blocked) (m : BitVec 5) :
    fenceHolds (h.waiting e b) e m = fenceHolds h e m := by
  simp only [fenceHolds, bindPending, Hw.waiting_easel]
  rfl

section
variable {s : State} {e : EaselId} {i : Instr} {w : Word} {pneg : Bool} {pred : BitVec 3} {dec : Option (BitVec 8)}
  {body : Hw → Eff}
  (hi : Issues s e pneg pred) (hsvc : (s.hw.easel e).service = false) (hd : NoneDrains (s.hw.easel e))
  (hs : (s.hw.easel e).svcBlocked = none)
  (hx : exec i s = .next { s with hw := settle (issue s.hw e w pneg pred dec body) e }) (hdec : dec = none)
include hi hsvc hd hs hx hdec

/-- A core RELEASE waits for the stores of its context. -/
theorem yields_release_waits {scope : BitVec 2} {a v : Word} (hb : body s.hw = .block s.hw (.release false scope a v))
    (hout : storesDone (s.hw.easel e) = false) :
    Yields i s (fun t => OnlyEasel s t e ∧ regsOf t e = regsOf s e ∧
      (t.hw.easel e).blocked.map (·.what) = some (.release false scope a v)) := by
  refine yields_waits hi hsvc hd hs hx hdec hb ?_
  rw [settleCtx_release_waits (ctxWaits_waiting hi hsvc _) rfl (by rw [Hw.waiting_easel]; exact hout)]
  exact ⟨onlyEasel_modEasel s e _, by simp [regsOf, Easel.cur], by simp [waitingAt]⟩

/-- One that need not wait writes its flag and goes on. -/
theorem yields_release_flag {scope : BitVec 2} {a v : Word} {off : Nat}
    (hb : body s.hw = .block s.hw (.release false scope a v))
    (hdecode : decodeUma s.hw (s.hw.easel e).actx a = .local off) (hdone : storesDone (s.hw.easel e) = true)
    (hroom : (s.hw.easel e).sb.length < 16) (hc : CleanWords s off 8) (hsb : sbHolds (s.hw.easel e) a 8 = false) :
    Yields i s (fun t => t.hw.mem.word off = v ∧
      (∀ b, b < off ∨ off + 8 ≤ b → t.hw.mem.byte b = s.hw.mem.byte b) ∧
      WentOn s t e ∧ (t.hw.easel e).blocked = none ∧ OnlyMemory s t e) := by
  refine yields_waits hi hsvc hd hs hx hdec hb ?_
  have hwaits := ctxWaits_waiting hi hsvc (waitingAt s e w (.release false scope a v))
  have hwhat : (waitingAt s e w (.release false scope a v)).what = .release false scope a v := rfl
  generalize waitingAt s e w (.release false scope a v) = b at hwaits hwhat ⊢
  have he : (s.hw.waiting e b).easel e = { s.hw.easel e with blocked := some b } := Hw.waiting_easel ..
  rw [settleCtx_flag hwaits hwhat (by rw [he]; exact hdone) (by rw [he]; exact hroom)
    (by rw [decodeUma_waiting, he]; exact hdecode) hc (by rw [he]; exact hsb)]
  obtain ⟨-, hbad, -⟩ := hc
  obtain ⟨hword, hbytes⟩ := released_mem (h := s.hw.waiting e b) e a v hbad
  obtain ⟨⟨l, hl⟩, hothers⟩ := released_easel (s.hw.waiting e b) e a off v
  obtain ⟨hrest, hreqs⟩ := released_rest (s.hw.waiting e b) e a off v
  rw [he] at hl
  generalize (s.hw.waiting e b).released e a off v = g at *
  refine ⟨hword, hbytes, ?_, ?_, fun e' hne => ?_,
    congrArg (fun g : Hw => { g with easels := s.hw.easels }) hrest, hreqs, rfl⟩
  · simp only [WentOn, regsOf, hl, Easel.cur, hsvc, serialAfter]
    rfl
  · rw [hl]
  · exact (hothers e' hne).trans (Hw.easel_modEasel_ne _ _ hne)

/-- FENCE goes on where what its mask names is done. -/
theorem yields_fence_goesOn {m : BitVec 5} (hb : body s.hw = .block s.hw (.fence m))
    (hholds : fenceHolds s.hw e m = true) :
    Yields i s (fun t => OnlyEasel s t e ∧ WentOn s t e ∧ (t.hw.easel e).blocked = none) := by
  refine yields_waits hi hsvc hd hs hx hdec hb ?_
  rw [settleCtx_fence (ctxWaits_waiting hi hsvc _) rfl, fenceHolds_waiting, if_pos hholds]
  have he : (finishWait (s.hw.waiting e (waitingAt s e w (.fence m))) e false id).easel e = { s.hw.easel e with
      blocked := none, core := (s.hw.easel e).core.advance false ((s.hw.easel e).core.pc + 8) } := by
    simp [finishWait]
  refine ⟨onlyEasel_modEasel_of (onlyEasel_modEasel s e _) _, ?_, ?_⟩
  · simp only [WentOn, regsOf, he, Easel.cur, hsvc, serialAfter]
    rfl
  · rw [he]

/-- FENCE waits where something of it is not. -/
theorem yields_fence_waits {m : BitVec 5} (hb : body s.hw = .block s.hw (.fence m))
    (hholds : fenceHolds s.hw e m = false) :
    Yields i s (fun t => OnlyEasel s t e ∧ regsOf t e = regsOf s e ∧
      (t.hw.easel e).blocked.map (·.what) = some (.fence m)) := by
  refine yields_waits hi hsvc hd hs hx hdec hb ?_
  rw [settleCtx_fence (ctxWaits_waiting hi hsvc _) rfl, fenceHolds_waiting, if_neg (Bool.eq_false_iff.1 hholds)]
  exact ⟨onlyEasel_modEasel s e _, by simp [regsOf, Easel.cur], by simp [waitingAt]⟩

end

/-! ### What goes on at once (R253, R257) -/

/-- Neither mode of the core waits, and no store waits for a channel. -/
structure Easel.Quiet (x : Easel) : Prop where
  svc : x.svcBlocked = none
  drains : NoneDrains x
  ctx : x.blocked = none

theorem Easel.Quiet.settle {h : Hw} {e : EaselId} (hq : (h.easel e).Quiet) : settle h e = h :=
  settle_none hq.svc hq.drains hq.ctx

theorem Easel.Quiet.setCur {x : Easel} (hq : x.Quiet) (r : CoreRegs) : (x.setCur r).Quiet := by
  unfold Easel.setCur
  split <;> exact ⟨hq.svc, hq.drains, hq.ctx⟩

theorem Easel.Quiet.setQueue {x : Easel} (hq : x.Quiet) (q : Engine) (l : List QEntry) : (x.setQueue q l).Quiet := by
  cases q <;> exact ⟨hq.svc, hq.drains, hq.ctx⟩

theorem Easel.queue_setQueue (x : Easel) (q : Engine) (l : List QEntry) : (x.setQueue q l).queue q = l := by
  cases q <;> rfl

theorem Easel.queue_setCur (x : Easel) (r : CoreRegs) (q : Engine) : (x.setCur r).queue q = x.queue q := by
  unfold Easel.setCur
  cases q <;> split <;> rfl

theorem Easel.prefetch_setCur (x : Easel) (r : CoreRegs) : (x.setCur r).prefetch = x.prefetch := by
  unfold Easel.setCur
  split <;> rfl

/-- A core that may issue in context mode waits for nothing there. -/
theorem quiet_of_issues {s : State} {e : EaselId} {pneg : Bool} {pred : BitVec 3} (hi : Issues s e pneg pred)
    (hsvc : (s.hw.easel e).service = false) (hd : NoneDrains (s.hw.easel e)) (hs : (s.hw.easel e).svcBlocked = none) :
    (s.hw.easel e).Quiet := by
  obtain ⟨⟨hready, -⟩, -⟩ := hi
  simp only [coreReady, hsvc, Bool.false_eq_true, if_false, Bool.and_eq_true] at hready
  obtain ⟨-, ⟨⟨hblocked, -⟩, -⟩, -⟩ := hready
  exact ⟨hs, hd, Option.isNone_iff_eq_none.1 hblocked⟩

section
variable {s : State} {e : EaselId} {i : Instr} {w : Word} {pneg : Bool} {pred : BitVec 3} {dec : Option (BitVec 8)}
  {body : Hw → Eff} (hi : Issues s e pneg pred)
  (hx : exec i s = .next { s with hw := settle (issue s.hw e w pneg pred dec body) e }) (hdec : dec = none)
include hi hx hdec

/-- An instruction that goes on, and after which nothing of its easel waits. -/
theorem yields_goesOn {g : Hw} {P : State → Prop} (hb : body s.hw = .done g) (hq : (g.easel e).Quiet)
    (hp : P { s with hw := advance g e }) : Yields i s P := by
  subst hdec
  refine yields_run hx (g' := advance g e) ?_ hp
  rw [issue_takes hi w body, hb]
  refine Easel.Quiet.settle (h := advance g e) ?_
  rw [advance, advanceTo_easel]
  exact hq.setCur _

/-- The RELEASE of an engine enters its queue, and the core goes on. -/
theorem yields_release_queues (hq : (s.hw.easel e).Quiet) {q : Engine} {j : QEntry}
    (hb : body s.hw = .done (enqueue s.hw e q j)) (ho : j.order = s.hw.sk.issued) :
    Yields i s (fun t => { t.hw with easels := s.hw.easels, sk := s.hw.sk } = s.hw ∧
      t.hw.sk = { s.hw.sk with issued := s.hw.sk.issued + 1 } ∧ (∀ e', e' ≠ e → t.hw.easel e' = s.hw.easel e') ∧
      WentOn s t e ∧ (t.hw.easel e).queue q = (s.hw.easel e).queue q ++ [j]) := by
  have heasels := enqueue_easels (h := s.hw) (e := e) (q := q) ho
  have he : (enqueue s.hw e q j).easel e = (s.hw.easel e).setQueue q ((s.hw.easel e).queue q ++ [j]) := by
    rw [Hw.easel_of_easels heasels, Hw.easel_modEasel]
  refine yields_goesOn hi hx hdec hb (by rw [he]; exact hq.setQueue q _) ⟨rfl, rfl, fun e' hne => ?_, ?_, ?_⟩
  · exact (advanceTo_easel_ne _ _ hne).trans
      ((Hw.easel_of_easels heasels e').trans (Hw.easel_modEasel_ne _ _ hne))
  · simp only [WentOn, regsOf, advance, advanceTo_easel, Easel.cur_setCur, he, Easel.setQueue_cur,
      Easel.setQueue_service]
    rfl
  · simp only [advance, advanceTo_easel, Easel.queue_setCur, he, Easel.queue_setQueue]

/-- A FENCE that names nothing only goes on. -/
theorem yields_fence_none (hq : (s.hw.easel e).Quiet) (hb : body s.hw = .done s.hw) :
    Yields i s (fun t => OnlyEasel s t e ∧ WentOn s t e ∧ (t.hw.easel e).blocked = none) := by
  obtain ⟨⟨honly, -⟩, hregs⟩ := movesTo_advanceTo s e ((regsOf s e).pc + 8)
  refine yields_goesOn hi hx hdec hb hq ⟨honly, hregs, ?_⟩
  rw [advance, advanceTo_easel]
  exact (hq.setCur _).ctx

end

/-! ### ACQUIRE (R256, R257) -/

theorem LinesGone.refl (h : Hw) (e : EaselId) : LinesGone h h e := ⟨rfl, rfl, ⟨_, rfl⟩, fun _ _ => rfl⟩

/-- The lines of its easel that an ACQUIRE discards (Table 8-3). -/
def acquireLines (h : Hw) (e : EaselId) (scope : BitVec 2) (ce : Bool) : Hw :=
  if ce && scope != 0 then dropPrefetch h e else h

theorem linesGone_acquireLines (h : Hw) (e : EaselId) (scope : BitVec 2) (ce : Bool) :
    LinesGone h (acquireLines h e scope ce) e := by
  unfold acquireLines
  split
  · exact linesGone_dropPrefetch h e
  · exact .refl h e

theorem acquireLines_prefetch (h : Hw) (e : EaselId) {scope : BitVec 2} (hscope : scope ≠ 0) :
    ((acquireLines h e scope true).easel e).prefetch = [] := by
  rw [acquireLines, if_pos (by simpa using hscope), dropPrefetch_prefetch]

theorem acquireDiscard_eq (h : Hw) (e : EaselId) (scope : BitVec 2) (ce glz : Bool) :
    acquireDiscard h e scope ce glz = if glz && decide (2 ≤ scope.toNat)
      then dropStaging (acquireLines h e scope ce) (h.easel e).actx else acquireLines h e scope ce := rfl

/-- Easels and requests are what the discard of the lines leaves. -/
theorem acquireDiscard_frame (h : Hw) (e : EaselId) (scope : BitVec 2) (ce glz : Bool) :
    (acquireDiscard h e scope ce glz).easels = (acquireLines h e scope ce).easels ∧
      (acquireDiscard h e scope ce glz).reqs = (acquireLines h e scope ce).reqs := by
  rw [acquireDiscard_eq]
  split <;> exact ⟨rfl, rfl⟩

/-- No staging entry of the context is left from module scope on. -/
theorem acquireDiscard_staging (h : Hw) (e : EaselId) {scope : BitVec 2} (ce : Bool) (hscope : 2 ≤ scope.toNat) :
    ∀ g ∈ (acquireDiscard h e scope ce true).glz.staging, g.ctx ≠ (h.easel e).actx := by
  rw [acquireDiscard_eq, if_pos (by simpa using hscope)]
  intro g hg
  simpa using (List.mem_filter.1 hg).2

/-- ACQUIRE discards what its scope names, and the core goes on. -/
theorem yields_acquire {s : State} {e : EaselId} {i : Instr} {w : Word} {pneg : Bool} {pred : BitVec 3}
    {dec : Option (BitVec 8)} {body : Hw → Eff} {scope : BitVec 2} {ce glz : Bool} (hi : Issues s e pneg pred)
    (hx : exec i s = .next { s with hw := issue s.hw e w pneg pred dec body }) (hdec : dec = none)
    (hb : body s.hw = .done (acquireDiscard s.hw e scope ce glz)) :
    Yields i s (fun t => WentOn s t e ∧ (ce = true → scope ≠ 0 → (t.hw.easel e).prefetch = []) ∧
      (glz = true → 2 ≤ scope.toNat → ∀ g ∈ t.hw.glz.staging, g.ctx ≠ (s.hw.easel e).actx) ∧
      t.hw.mem = s.hw.mem ∧ SameReqs s t ∧ ∀ e', e' ≠ e → t.hw.easel e' = s.hw.easel e') := by
  obtain ⟨heasels, hreqs⟩ := acquireDiscard_frame s.hw e scope ce glz
  have hgone := linesGone_acquireLines s.hw e scope ce
  obtain ⟨l, hl⟩ := hgone.lines
  have he : (acquireDiscard s.hw e scope ce glz).easel e = { s.hw.easel e with prefetch := l } :=
    (Hw.easel_of_easels heasels e).trans hl
  refine yields_eff hi hx hdec hb ⟨?_, ?_, ?_, acquireDiscard_mem .., ?_, fun e' hne => ?_⟩
  · simp only [applyEff, WentOn, regsOf, advance, advanceTo_easel, Easel.cur_setCur, he]
    rfl
  · rintro rfl hscope
    have hnone := acquireLines_prefetch s.hw e hscope
    rw [hl] at hnone
    simp only [applyEff, advance, advanceTo_easel, Easel.prefetch_setCur, he]
    exact hnone
  · rintro rfl hscope
    exact acquireDiscard_staging s.hw e ce hscope
  · exact (congrArg _ hreqs).trans hgone.reqs
  · exact (advanceTo_easel_ne _ _ hne).trans ((Hw.easel_of_easels heasels e').trans (hgone.others e' hne))

/-! ### RELEASE_ACTION (R253) -/

/-- The flag of the RELEASE at the head of an engine's queue is stored, and its entry removed. -/
theorem yields_releaseAction {s : State} {e : EaselId} {q : Engine} {i : QEntry} {scope : BitVec 2} {off : Nat}
    (hq : (s.hw.easel e).Quiet) (hhead : ((s.hw.easel e).queue q).head? = some i) (hop : i.op = .release false scope)
    (hnew : i.started = false) (hstop : (s.hw.easel e).stopped = false) (hl : (s.hw.easel e).loaded = some i.ctx)
    (hd : decodeUma s.hw i.ctx (nthW i.xs 0) = .local off) (hc : CleanWords s off 8) :
    Yields (.releaseAction e q i.serial) s (fun t => t.hw.mem.word off = nthW i.xs 1 ∧
      (∀ b, b < off ∨ off + 8 ≤ b → t.hw.mem.byte b = s.hw.mem.byte b) ∧
      findEntry t.hw e q i.serial = none ∧ regsOf t e = regsOf s e) := by
  obtain ⟨-, hbad, hpath, hchan⟩ := hc
  obtain ⟨⟨l, hgl⟩, -⟩ := flagStored_easel s.hw e (nthW i.xs 0) off (nthW i.xs 1)
  obtain ⟨hword, hbytes⟩ := flagStored_mem e (nthW i.xs 0) (nthW i.xs 1) hbad
  have hflag : engineFlag s.hw e q i (nthW i.xs 0) (nthW i.xs 1) =
      releaseDone (s.hw.flagStored e (nthW i.xs 0) off (nthW i.xs 1)) e q i.serial := by
    simp only [engineFlag, hd, hchan, Mem.badWrite_of_badRead hbad, hpath]
    rfl
  generalize s.hw.flagStored e (nthW i.xs 0) off (nthW i.xs 1) = g at hgl hword hbytes hflag
  have hfind : findEntry s.hw e q i.serial = some i := by
    obtain ⟨rest, hrest⟩ := List.head?_eq_some_iff.1 hhead
    simp [findEntry, hrest]
  have hready : releaseReady (s.hw.easel e) q i = true := by
    simp [releaseReady, hop, EngOp.isRelease, hnew, hhead]
  have hdrop : (dropEntry g e q i.serial).easel e =
      (g.easel e).setQueue q (((g.easel e).queue q).filter (fun j => j.serial != i.serial)) := Hw.easel_modEasel ..
  have hgq : (g.easel e).Quiet := by
    rw [hgl]
    exact ⟨hq.svc, hq.drains, hq.ctx⟩
  refine yields_run rfl (g' := dropEntry g e q i.serial) ?_ ⟨hword, hbytes, ?_, ?_⟩
  · simp only [hfind, hready, hstop, hl, hop, hflag, Bool.not_true, bne_self_eq_false, Bool.or_self,
      Bool.false_eq_true, if_false]
    exact Easel.Quiet.settle (by rw [hdrop]; exact hgq.setQueue q _)
  · simp [findEntry, hdrop, Easel.queue_setQueue]
  · simp only [regsOf, hdrop, Easel.setQueue_cur, hgl]
    rfl

/-! ### What the operands name (R252) -/

/-- The number of an engine in bits [3:2] of RELEASE. -/
def releaseNo : Engine → Nat
  | .me => 1
  | .vu => 2
  | .ce => 3

theorem releaseEngine_core {f : FmtI} (himm : f.imm.toNat < 4) : releaseEngine f = none := by
  have hfield : fld f.imm.toNat 2 2 = 0 := by
    simp only [fld, Nat.shiftRight_eq_div_pow]
    omega
  simp only [releaseEngine, hfield]

theorem releaseEngine_of {f : FmtI} {q : Engine} (himm : f.imm.toNat / 4 = releaseNo q) : releaseEngine f = some q := by
  have hfield : fld f.imm.toNat 2 2 = releaseNo q := by
    simp only [fld, Nat.shiftRight_eq_div_pow]
    cases q <;> simp only [releaseNo] at himm ⊢ <;> omega
  cases q <;> simp only [releaseEngine, hfield, releaseNo]

/-- An immediate below 16 names a flag, not a synchronization object. -/
theorem imm_names_flag {f : FmtI} (himm : f.imm.toNat < 16) : f.imm.getLsbD 4 = false :=
  Nat.testBit_lt_two_pow (i := 4) himm

theorem releaseFault_aligned {t : Word} (hal : t.toNat % 8 = 0) (h : Hw) : releaseFault h false t = none := by
  simp [releaseFault, hal]

/-- What RELEASE does where it issues (R253). -/
def releaseBody (e : EaselId) (f : FmtI) (h : Hw) : Eff :=
  let x := h.easel e
  let t := x.cur.get f.rs1
  let v := x.cur.get f.rd
  match releaseFault h (f.imm.getLsbD 4) t with
  | some c => .fault c t
  | none =>
    match releaseEngine f with
    | none => if x.service then .done h else .block h (.release (f.imm.getLsbD 4) (scopeOf f) t v)
    | some q =>
      enqueueEff e q (newEntry h e (.release (f.imm.getLsbD 4) (scopeOf f)) noFmt (wordI 0x1D 0x00 f) [t, v]) h

theorem exec_release (e : EaselId) (f : FmtI) (s : State) : exec (.release e f) s = .next { s with
    hw := settle (issue s.hw e (wordI 0x1D 0x00 f) f.pneg f.pred (resv (immBelow f 5)) (releaseBody e f)) e } := rfl

theorem releaseBody_core {h : Hw} {e : EaselId} {f : FmtI} (himm : f.imm.toNat < 4)
    (hal : ((h.easel e).cur.get f.rs1).toNat % 8 = 0) (hctx : (h.easel e).service = false) :
    releaseBody e f h =
      .block h (.release false (f.imm.setWidth 2) ((h.easel e).cur.get f.rs1) ((h.easel e).cur.get f.rd)) := by
  simp only [releaseBody, imm_names_flag (show f.imm.toNat < 16 by omega), releaseFault_aligned hal,
    releaseEngine_core himm, hctx, Bool.false_eq_true, if_false]
  rfl

/-- The entry of an engine's RELEASE of a flag. -/
def releaseEntry (h : Hw) (e : EaselId) (f : FmtI) : QEntry :=
  newEntry h e (.release false (f.imm.setWidth 2)) noFmt (wordI 0x1D 0x00 f)
    [(h.easel e).cur.get f.rs1, (h.easel e).cur.get f.rd]

theorem releaseBody_engine {h : Hw} {e : EaselId} {f : FmtI} {q : Engine} (himm : f.imm.toNat / 4 = releaseNo q)
    (hal : ((h.easel e).cur.get f.rs1).toNat % 8 = 0) (hroom : ((h.easel e).queue q).length < 64) :
    releaseBody e f h = .done (enqueue h e q (releaseEntry h e f)) := by
  have hlt : f.imm.toNat < 16 := by cases q <;> simp only [releaseNo] at himm <;> omega
  simp only [releaseBody, imm_names_flag hlt, releaseFault_aligned hal, releaseEngine_of himm, enqueueEff,
    if_neg (Nat.not_le.2 hroom)]
  rfl

theorem scopeOf_toNat (f : FmtI) : (scopeOf f).toNat = f.imm.toNat % 4 := BitVec.toNat_setWidth ..

end Sys2Proof.Machine

namespace Sys2Proof

open Sys2Proof.Machine

/-- Settles O19: a core RELEASE waits or stores its flag as `yields_release_waits` and `yields_release_flag` say, that
of an engine enters its queue and acts at its head, and FENCE goes on exactly where `fenceHolds`. -/
theorem orderingInstructionsWaitAndAct : Obligations.OrderingInstructionsWaitAndAct := by
  intro s e x hd hs
  refine ⟨fun f hi hsvc => ?_, fun q i scope off hhead hop hnew hstop hl hb hdec hc =>
    yields_releaseAction ⟨hs, hd, hb⟩ hhead hop hnew hstop hl hdec hc⟩
  have hq : (s.hw.easel e).Quiet := quiet_of_issues hi hsvc hd hs
  have hctx : ¬ (s.hw.easel e).service = true := Bool.eq_false_iff.1 hsvc
  refine ⟨fun himm hal => ⟨fun off hdec hdone hroom hc hsb => ?flag, fun hout => ?waits⟩,
    fun q himm hal hroom => ?queues, fun hrd h1 himm => ?acquire, fun hrd h1 himm => ⟨fun hholds => ?goesOn, fun hne hholds => ?fenceWaits⟩⟩
  case flag =>
    exact yields_release_flag hi hsvc hd hs (exec_release e f s) (resv_of (decide_eq_true (by omega)))
      (releaseBody_core himm hal hsvc) hdec hdone hroom hc hsb
  case waits =>
    exact yields_release_waits hi hsvc hd hs (exec_release e f s) (resv_of (decide_eq_true (by omega)))
      (releaseBody_core himm hal hsvc) hout
  case queues =>
    have hlt : f.imm.toNat < 16 := by cases q <;> simp only at himm <;> omega
    refine (yields_release_queues hi (exec_release e f s) (resv_of (decide_eq_true (by omega))) hq
      (releaseBody_engine (by cases q <;> exact himm) hal hroom) rfl).imp fun t => ?_
    rintro ⟨hrest, hsk, hothers, hgo, hqueue⟩
    exact ⟨hrest, hsk, hothers, hgo, _, hqueue, rfl, rfl, rfl⟩
  case acquire =>
    have hscope := scopeOf_toNat f
    have hbelow : immBelow f 4 = true := decide_eq_true himm
    refine (yields_acquire hi rfl (resv_of (by simp [hrd, h1, hbelow])) rfl).imp fun t => ?_
    rintro ⟨hgo, hlines, hstaging, hrest⟩
    refine ⟨hgo, fun hce hsc => hlines hce fun h0 => ?_, fun hglz hsc => hstaging hglz (by omega), hrest⟩
    rw [h0] at hscope
    exact hsc hscope.symm
  case goesOn =>
    have hdec : resv (f.rd == 0 && f.rs1 == 0 && immBelow f 5) = none := by
      have hbelow : immBelow f 5 = true := decide_eq_true himm
      exact resv_of (by simp [hrd, h1, hbelow])
    by_cases h0 : f.imm = 0
    · exact yields_fence_none hi rfl hdec hq (if_pos (.inl h0))
    · exact yields_fence_goesOn hi hsvc hd hs rfl hdec (if_neg (not_or.2 ⟨h0, hctx⟩)) hholds
  case fenceWaits =>
    have hbelow : immBelow f 5 = true := decide_eq_true himm
    exact yields_fence_waits hi hsvc hd hs rfl (resv_of (by simp [hrd, h1, hbelow]))
      (if_neg (not_or.2 ⟨hne, hctx⟩)) hholds

end Sys2Proof
end

section
/-! Proofs about commands of the host that stand at the front of their queue: what the command finds once its dispatch
acquire is done, what its completion writes, and what the end of a command in progress leaves (R263, R396 to R398). -/

namespace Sys2Proof.Machine

@[simp] theorem Hw.fn_modFn (h : Hw) (f : FnId) (g : HifFn → HifFn) : (h.modFn f g).fn f = g (h.fn f) :=
  SMap.get_put_same ..

/-! ### The dispatch acquire (R263) -/

/-- Lines, staging entries and the freshness of reads are all that a discard for a context changes. -/
structure Discarded (h g : Hw) : Prop where
  frame : g = { h with easels := g.easels, reqs := g.reqs, glz := { h.glz with staging := g.glz.staging } }
  reqs : g.reqs.map (fun r => { r with fresh := true }) = h.reqs.map (fun r => { r with fresh := true })

theorem discarded_dispatchAcquire (h : Hw) (c : CtxId) : Discarded h (dispatchAcquire h c) := by
  have hlines : Discarded h
      ((allEasels.filter (fun e => (h.easel e).loaded == some c)).foldl (fun g e => dropPrefetch g e) h) := by
    refine List.foldlRecOn _ _ (motive := Discarded h) ⟨rfl, rfl⟩ fun g hg e _ => ?_
    refine ⟨?_, (linesGone_dropPrefetch g e).reqs.trans hg.reqs⟩
    rw [hg.frame]
    rfl
  refine ⟨?_, hlines.reqs⟩
  unfold dispatchAcquire
  rw [hlines.frame]
  rfl

/-- The next tag depends on the tags outstanding alone. -/
theorem freeTag_congr {l l' : List Request} (hl : l.map (·.tag) = l'.map (·.tag)) {ks ks' : List Request}
    (hk : ks.length = ks'.length) (t : BitVec 16) : freeTag l ks t = freeTag l' ks' t := by
  have hany (t : BitVec 16) : l.any (fun r => r.tag == t) = l'.any (fun r => r.tag == t) := by
    have h := congrArg (fun m : List (BitVec 16) => m.any (· == t)) hl
    simpa [List.any_map, Function.comp_def] using h
  induction ks generalizing ks' t with
  | nil =>
    obtain rfl := List.length_eq_zero_iff.1 hk.symm
    rfl
  | cons r ks ih =>
    cases ks' with
    | nil => cases hk
    | cons r' ks' =>
      have hlen : ks.length = ks'.length := Nat.succ.inj hk
      simp only [freeTag, hany, ih hlen]

theorem nextTag_congr {h g : Hw} (hr : g.reqs.map (fun r => { r with fresh := true }) =
    h.reqs.map (fun r => { r with fresh := true })) (ht : g.rte = h.rte) : g.nextTag = h.nextTag := by
  have htags := congrArg (List.map Request.tag) hr
  have hlen := congrArg List.length hr
  simp only [List.map_map, List.length_map] at htags hlen
  rw [Hw.nextTag, ht]
  exact freeTag_congr htags hlen _

/-! ### A command that starts (R396, R397) -/

/-- Queues of function `f`, registers and output are as a command at the front of its queue left them on starting. -/
structure CommandTaken (s : State) (f : FnId) (g : Hw) : Prop where
  fn : g.fn f = { s.hw.fn f with fetched := [] }
  regs : g.regs = s.hw.regs
  pins : g.pins = s.hw.pins
  out : g.out = s.hw.out
  link : g.hif.link = s.hw.hif.link

theorem discarded_started (s : State) (f : FnId) (k : HostCmd) :
    Discarded (s.hw.modFn f (fun x => { x with fetched := x.fetched.drop 1 })) (Started s f k) :=
  discarded_dispatchAcquire ..

@[simp] theorem started_sec (s : State) (f : FnId) (k : HostCmd) : (Started s f k).sec = s.hw.sec :=
  (congrArg Hw.sec (discarded_started s f k).frame :)

@[simp] theorem started_ctxs (s : State) (f : FnId) (k : HostCmd) : (Started s f k).ctxs = s.hw.ctxs :=
  (congrArg Hw.ctxs (discarded_started s f k).frame :)

@[simp] theorem started_slots (s : State) (f : FnId) (k : HostCmd) : (Started s f k).glz.slots = s.hw.glz.slots :=
  (congrArg (fun g : Hw => g.glz.slots) (discarded_started s f k).frame :)

@[simp] theorem started_nextTag (s : State) (f : FnId) (k : HostCmd) : (Started s f k).nextTag = s.hw.nextTag :=
  nextTag_congr (discarded_started s f k).reqs (congrArg Hw.rte (discarded_started s f k).frame :)

section
variable {s : State} {f : FnId} {op : Nat} {masks : List Word} {k : HostCmd} (hf : Fronts s f op true masks k)
include hf

theorem commandTaken_started : CommandTaken s f (Started s f k) := by
  obtain ⟨hfetched, -⟩ := hf
  have hframe := (discarded_started s f k).frame
  have hhif : (Started s f k).hif = (s.hw.modFn f (fun x => { x with fetched := x.fetched.drop 1 })).hif :=
    (congrArg Hw.hif hframe :)
  refine ⟨?_, (congrArg Hw.regs hframe :), (congrArg Hw.pins hframe :), (congrArg Hw.out hframe :),
    (congrArg HostIf.link hhif :)⟩
  have hfn : (Started s f k).fn f = (s.hw.modFn f (fun x => { x with fetched := x.fetched.drop 1 })).fn f := by
    simp only [Hw.fn, hhif]
  rw [hfn, Hw.fn_modFn, hfetched]
  rfl

theorem mayStart_fronts : mayStart (s.hw.fn f) = some k := by
  obtain ⟨hfetched, -, hbar, hlen, -⟩ := hf
  have hwait : (k.barrier && !(s.hw.fn f).inProgress.isEmpty) = false := by
    rcases hbar with hb | hb <;> simp [hb]
  simp [mayStart, hfetched, hwait, Nat.not_le.2 hlen]

/-- A command alone at the front does what its opcode says, and no other command starts after it. -/
theorem command_fronts {body : Hw → HostCmd → Hw} (hkeep : ((body (Started s f k) k).fn f).fetched = []) :
    command s.hw f op true masks body = body (Started s f k) k := by
  have hmay := mayStart_fronts hf
  obtain ⟨-, hop, -, -, hok, -⟩ := hf
  have hskip : skipAll (body (Started s f k) k) f = body (Started s f k) k := by
    rw [skipAll, hkeep]
    rfl
  simp only [command, hmay, hop, ne_eq, not_true_eq_false, if_false, if_true, hok]
  exact hskip

end

/-! ### Its completion (R397, R398) -/

theorem CommandTaken.reg {s : State} {f : FnId} {g : Hw} (ht : CommandTaken s f g) (k : Nat) :
    g.reg k = s.hw.reg k := by
  rw [Hw.reg, ht.regs, ht.pins, Hw.reg]

/-- What sending or holding back a message leaves of the queues and of what has been sent. -/
theorem sendMsix_leaves (h : Hw) (f : FnId) (v : Fin 3) :
    (∃ m, (sendMsix h f v).fn f = { h.fn f with msixPend := m }) ∧ ∃ l, (sendMsix h f v).out = h.out ++ l := by
  unfold sendMsix
  split
  · exact ⟨⟨_, Hw.fn_modFn ..⟩, [], (List.append_nil _).symm⟩
  · exact ⟨⟨_, rfl⟩, _, rfl⟩

/-- Where function `f`'s next completion entry goes (R398). -/
def cplAt (h : Hw) (f : FnId) : Nat := (h.reg (hifOff f 0x30)).toNat + 16 * (h.fn f).cplTail.toNat

/-- The entry is written, and the tail moves past it. -/
def entryWritten (h : Hw) (f : FnId) (w : Word × Word) : Hw :=
  (writeEntry h (cplAt h f) [w.1] (w.2 ||| bitw (h.fn f).cplPhase 63)).modFn f (fun y => { y with
    cplTail := ringNext (h.fn f).cplTail (cplSize h f)
    cplPhase := if ringNext (h.fn f).cplTail (cplSize h f) = 0 then !y.cplPhase else y.cplPhase })

theorem writeCpl_eq {h : Hw} {f : FnId} (hup : h.hostUp = true) (w : Word × Word) : writeCpl h f w =
    if (h.fn f).cplHead == (h.fn f).cplTail then sendMsix (entryWritten h f w) f 1 else entryWritten h f w := by
  simp only [writeCpl, hup, Bool.not_true, Bool.false_eq_true, if_false]
  rfl

theorem entryWritten_out (h : Hw) (f : FnId) (w : Word × Word) : (entryWritten h f w).out = h.out ++
    [.hostWrite (BitVec.ofNat 64 (cplAt h f)) (wBytes w.1) false,
      .hostWrite (BitVec.ofNat 64 (cplAt h f + 8)) (wBytes (w.2 ||| bitw (h.fn f).cplPhase 63)) false] := by
  have hfirst : wordsBytes [w.1] = wBytes w.1 := List.append_nil _
  have hout : (entryWritten h f w).out = h.out ++ [.hostWrite (BitVec.ofNat 64 (cplAt h f)) (wordsBytes [w.1]) false] ++
    [.hostWrite (BitVec.ofNat 64 (cplAt h f + 8)) (wBytes (w.2 ||| bitw (h.fn f).cplPhase 63)) false] := rfl
  rw [hout, hfirst, List.append_assoc]
  rfl

/-- A completion written to a ring while the link is up. -/
theorem writeCpl_leaves {h : Hw} {f : FnId} (hup : h.hostUp = true) (w : Word × Word) :
    (∃ ph m, (writeCpl h f w).fn f = { h.fn f with
      cplTail := ringNext (h.fn f).cplTail (cplSize h f), cplPhase := ph, msixPend := m }) ∧
    ∃ l, (writeCpl h f w).out = (entryWritten h f w).out ++ l := by
  have hfn : ∃ ph, (entryWritten h f w).fn f = { h.fn f with
      cplTail := ringNext (h.fn f).cplTail (cplSize h f), cplPhase := ph } := ⟨_, Hw.fn_modFn ..⟩
  obtain ⟨ph, hfn⟩ := hfn
  rw [writeCpl_eq hup]
  split
  · obtain ⟨⟨m, hm⟩, hout⟩ := sendMsix_leaves (entryWritten h f w) f 1
    exact ⟨⟨ph, m, by rw [hm, hfn]⟩, hout⟩
  · exact ⟨⟨ph, _, hfn⟩, [], (List.append_nil _).symm⟩

theorem HostCmd.tag_toNat (c : HostCmd) : c.tag.toNat = wfld (nthW c.words 0) 16 16 :=
  (BitVec.toNat_ofNat ..).trans (Nat.mod_eq_of_lt (wfld_lt ..))

/-- The command that has been taken completes at once: the ring has room, and nothing waits before it. -/
theorem completes_complete {s : State} {f : FnId} {op : Nat} {masks : List Word} {k : HostCmd} {g : Hw}
    (hf : Fronts s f op true masks k) (ht : CommandTaken s f g) (status : BitVec 8) (result : Nat) :
    Completes s { s with hw := complete g f k status result } f k status result := by
  obtain ⟨-, -, -, -, -, hwait, hon, hroom, hup⟩ := hf
  have hup' : g.hostUp = true := by rw [Hw.hostUp, ht.link]; exact hup
  have hsize : cplSize g f = cplSize s.hw f := by simp only [cplSize, ht.reg]
  have hon' : cplOn g f = true := by simpa only [cplOn, ht.reg, ht.fn] using hon
  have hroom' : cplFull g f = false := by simpa only [cplFull, hsize, ht.fn] using hroom
  have hat : cplAt g f = cplAt s.hw f := by simp only [cplAt, ht.reg, ht.fn]
  set w : Word × Word := (put (wfld (nthW k.words 0) 16 16) 0 16 ||| put status.toNat 16 8 |||
    put (wfld (nthW k.words 0) 8 6) 24 6 ||| put k.head.toNat 32 32, put result 0 63) with hw
  have hcomplete : complete g f k status result = (writeCpl g f w).modFn f (fun x => { x with cplWait := [] }) := by
    have hcpl : (g.fn f).cplWait = [] := by rw [ht.fn]; exact hwait
    simp only [complete, hcpl, List.nil_append, flushCpl, hon', hroom', Bool.not_true, Bool.false_eq_true, if_false]
    rfl
  obtain ⟨⟨ph, m, hfn⟩, l, hout⟩ := writeCpl_leaves hup' w
  rw [entryWritten_out, ht.out, hat, ht.fn] at hout
  have hfn' : (complete g f k status result).fn f = { s.hw.fn f with
      fetched := [], cplWait := [], cplTail := ringNext (s.hw.fn f).cplTail (cplSize s.hw f)
      cplPhase := ph, msixPend := m } := by
    rw [hcomplete, Hw.fn_modFn, hfn, hsize, ht.fn]
  have hout' : (complete g f k status result).out = (writeCpl g f w).out := by rw [hcomplete]; rfl
  refine ⟨?_, ?_, ?_, ?_, ?_, ?_⟩
  · rw [hfn']
  · rw [hfn']
  · rw [hfn']
  · intro o ho
    rw [hout', hout]
    simp [ho]
  · rw [hout', hout, HostCmd.tag_toNat]
    simp [cplAt, hw]
  · rw [hout', hout]
    simp [cplAt, hw]

section
variable {s : State} {f : FnId} {op : Nat} {masks : List Word} {k : HostCmd} (hf : Fronts s f op true masks k)
include hf

/-- A command that completes at once, after an effect that leaves the queues to the completion. -/
theorem yields_completes {i : Instr} {body : Hw → HostCmd → Hw} {g : Hw} {status : BitVec 8} {result : Nat}
    (hx : exec i s = .next { s with hw := command s.hw f op true masks body })
    (hb : body (Started s f k) k = complete g f k status result) (ht : CommandTaken s f g) :
    Yields i s (fun t => Completes s t f k status result ∧ HostOnly g t.hw) := by
  have hdone := completes_complete hf ht status result
  have hkeep : ((body (Started s f k) k).fn f).fetched = [] := by
    obtain ⟨hnone, -⟩ := hdone
    rw [hb]
    exact hnone
  exact yields_run hx ((command_fronts hf hkeep).trans hb) ⟨hdone, (HostOnly.refl g).complete⟩

/-- What is asked for is done where no status forbids it. -/
theorem yields_simple_done {i : Instr} {status : Hw → HostCmd → BitVec 8} {eff : Hw → HostCmd → Hw × Nat} {g : Hw}
    {result : Nat} (hx : exec i s = .next { s with hw := simple s.hw f op masks status eff })
    (hst : status (Started s f k) k = 0) (he : eff (Started s f k) k = (g, result)) (ht : CommandTaken s f g) :
    Yields i s (fun t => Completes s t f k 0 result ∧ HostOnly g t.hw) := by
  refine yields_completes hf hx ?_ ht
  simp only [hst, he, ne_eq, not_true_eq_false, if_false]

/-- A status that forbids it is the command's, and nothing else changes. -/
theorem yields_simple_refused {i : Instr} {status : Hw → HostCmd → BitVec 8} {eff : Hw → HostCmd → Hw × Nat}
    {st : BitVec 8} (hx : exec i s = .next { s with hw := simple s.hw f op masks status eff })
    (hst : status (Started s f k) k = st) (hne : st ≠ 0) :
    Yields i s (fun t => Completes s t f k st 0 ∧ HostOnly (Started s f k) t.hw) := by
  refine yields_completes hf hx ?_ (commandTaken_started hf)
  simp only [hst, if_pos hne]

/-- A command that reads from the host stays in progress (R397). -/
theorem yields_hostReads {i : Instr} {body : Hw → HostCmd → Hw} {a : Word} {n : Nat}
    (hx : exec i s = .next { s with hw := command s.hw f op true masks body })
    (hb : body (Started s f k) k = hold (hostRead (Started s f k) (.hostCmd f k.seq) none a a.toNat n) f k) :
    Yields i s (fun t => Holds s t f k ∧ .hostRead s.hw.nextTag a n ∈ t.hw.out ∧
      (∃ r ∈ t.hw.reqs, r.tag = s.hw.nextTag ∧ r.by_ = .hostCmd f k.seq ∧ r.host = true) ∧ t.hw.sec = s.hw.sec) := by
  have htaken := commandTaken_started hf
  set g := hostRead (Started s f k) (.hostCmd f k.seq) none a a.toNat n with hg
  have hfn : (hold g f k).fn f = { s.hw.fn f with
      fetched := [], inProgress := (s.hw.fn f).inProgress ++ [{ cmd := k, silent := false }] } := by
    have hsame : g.fn f = (Started s f k).fn f := rfl
    rw [hold, Hw.fn_modFn, hsame, htaken.fn]
  have hout : (hold g f k).out =
      (Started s f k).out ++ [.hostRead (Started s f k).nextTag (BitVec.ofNat 64 a.toNat) n] := rfl
  refine yields_run hx ((command_fronts hf ?_).trans hb) ⟨⟨?_, ?_, ?_⟩, ?_, ?_, started_sec s f k⟩
  · rw [hb, hfn]
  · rw [hfn]
  · rw [hfn]
  · rw [hfn]
  · rw [hout, started_nextTag]
    simp
  · exact ⟨_, List.mem_append_right _ (List.mem_singleton.2 rfl), started_nextTag s f k, rfl, rfl⟩

end

/-! ### What the end of a command in progress leaves (R399) -/

/-- A fact that survives changes of a function's queues, output, and the event of a queue that stops (R399). -/
structure SurvivesCompletion (P : Hw → Prop) : Prop where
  setFn : ∀ h f x, P h → P (h.setFn f x)
  emit : ∀ h o, P h → P (h.emit o)
  stopped : ∀ h p, P h → P (raiseEv h 0x181 p [])

section
variable {P : Hw → Prop} (hP : SurvivesCompletion P) {h : Hw} {f : FnId}
include hP

theorem SurvivesCompletion.modFn (g : HifFn → HifFn) (h0 : P h) : P (h.modFn f g) := hP.setFn _ _ _ h0

theorem SurvivesCompletion.sendMsix (v : Fin 3) (h0 : P h) : P (sendMsix h f v) := by
  unfold Machine.sendMsix
  split
  · exact hP.modFn _ h0
  · exact hP.emit _ _ h0

theorem SurvivesCompletion.writeCpl (w : Word × Word) (h0 : P h) : P (writeCpl h f w) := by
  by_cases hup : h.hostUp = true
  · have hentry : P (entryWritten h f w) := hP.modFn _ (hP.emit _ _ (hP.emit _ _ h0))
    rw [writeCpl_eq hup]
    split
    · exact hP.sendMsix _ hentry
    · exact hentry
  · rw [Machine.writeCpl, if_pos (by simpa using hup)]
    exact hP.stopped _ _ (hP.modFn _ (hP.modFn _ h0))

theorem SurvivesCompletion.flushCpl (l : List (Word × Word)) (h0 : P h) : P (flushCpl f l h) := by
  induction l generalizing h with
  | nil => exact hP.modFn _ h0
  | cons w l ih =>
    rw [Machine.flushCpl]
    split_ifs
    · exact ih h0
    · exact hP.modFn _ h0
    · exact ih (hP.writeCpl w h0)

theorem SurvivesCompletion.complete (c : HostCmd) (status : BitVec 8) (result : Nat) (h0 : P h) :
    P (complete h f c status result) := hP.flushCpl _ h0

theorem SurvivesCompletion.endRun (r : RunCmd) (status : BitVec 8) (result : Nat) (h0 : P h) :
    P (endRun h f r status result) := by
  unfold Machine.endRun
  split
  · exact h0
  · exact hP.complete _ _ _ h0

theorem SurvivesCompletion.endFences (n : Nat) (h0 : P h) : P (endFences f n h) := by
  induction n generalizing h with
  | zero => exact h0
  | succ n ih =>
    unfold Machine.endFences
    split
    · split
      · exact ih (hP.endRun _ _ _ (hP.modFn _ h0))
      · exact h0
    · exact h0

theorem SurvivesCompletion.skipReserved (n : Nat) (h0 : P h) : P (skipReserved f n h) := by
  induction n generalizing h with
  | zero => exact h0
  | succ n ih =>
    unfold Machine.skipReserved
    split
    · split
      · exact h0
      · exact ih (hP.complete _ _ _ (hP.modFn _ h0))
    · exact h0

theorem SurvivesCompletion.finishCmd (seq : Nat) (status : BitVec 8) (result : Nat) (h0 : P h) :
    P (finishCmd h f seq status result) := by
  unfold Machine.finishCmd
  split
  · exact hP.skipReserved _ (hP.endFences _ (hP.endRun _ _ _ (hP.modFn _ h0)))
  · exact h0

end

/-- The end of a command leaves every pending event but that of a stopped queue as it is (R402). -/
theorem pends_finishCmd {h : Hw} {cmds : List Instr} {src p : Nat} (hsrc : src ≠ 0x181) (f : FnId) (seq : Nat)
    (status : BitVec 8) (result : Nat) (hp : Pends ⟨h, cmds⟩ src p) :
    Pends ⟨finishCmd h f seq status result, cmds⟩ src p := by
  refine SurvivesCompletion.finishCmd (P := fun g => Pends ⟨g, cmds⟩ src p) ⟨fun _ _ _ h0 => h0, fun _ _ h0 => h0,
    fun g q hg => ?_⟩ seq status result hp
  exact ⟨(pendingBit_raiseEv_ne g q [] hsrc).trans hg.1, (payload_raiseEv_ne g q [] hsrc).trans hg.2⟩

end Sys2Proof.Machine
end

section
/-! Proofs about the key commands: the checks that they share, the blobs that install keys, and the keys that are
cleared, moved and removed (R437 to R439, R451). -/

namespace Sys2Proof.Machine

theorem HostOnly.sec {h g : Hw} (hs : HostOnly h g) : g.sec = h.sec := (congrArg Hw.sec hs.rest :)

theorem HostOnly.ctxs {h g : Hw} (hs : HostOnly h g) : g.ctxs = h.ctxs := (congrArg Hw.ctxs hs.rest :)

theorem SMap.find_del_ne {α : Type} (m : SMap α) {k k' : Nat} (hk : k' ≠ k) :
    SMap.find (SMap.del m k) k' = SMap.find m k' :=
  (SMap.find_filter m (fun j => j != k) k').trans (if_pos (by simpa using hk))

/-! ### The checks (R421, R441) -/

theorem keyStatus_congr {g h : Hw} (hc : g.ctxs = h.ctxs) (hs : g.sec = h.sec) (f : FnId) (k : HostCmd) :
    keyStatus g f k = keyStatus h f k := by
  simp only [keyStatus, fnStatus, tdiStatus, Hw.ctx_of_ctxs hc, hs]

theorem namedKey_congr {g h : Hw} (hc : g.ctxs = h.ctxs) (hs : g.sec = h.sec) (k : HostCmd) :
    namedKey g k = namedKey h k := by
  simp only [namedKey, Hw.ctx_of_ctxs hc, hs]

theorem wkeyInUse_congr {g h : Hw} (hg : g.glz.slots = h.glz.slots) (j : Nat) : wkeyInUse g j = wkeyInUse h j := by
  rw [wkeyInUse, hg, wkeyInUse]

/-- A key command of the assigned function is not refused when it starts. -/
theorem keyStatus_started {s : State} {f : FnId} {k : HostCmd} (hok : keyStatus s.hw f k = 0) :
    keyStatus (Started s f k) f k = 0 :=
  (keyStatus_congr (started_ctxs s f k) (started_sec s f k) f k).trans hok

@[simp] theorem started_ctx (s : State) (f : FnId) (k : HostCmd) (c : CtxId) : (Started s f k).ctx c = s.hw.ctx c :=
  Hw.ctx_of_ctxs (started_ctxs s f k) c

theorem namedKey_started (s : State) (f : FnId) (k : HostCmd) : namedKey (Started s f k) k = namedKey s.hw k :=
  namedKey_congr (started_ctxs s f k) (started_sec s f k) k

/-- Beside the queues, registers and output a command may change what it likes before it completes. -/
theorem CommandTaken.alike {s : State} {f : FnId} {h g : Hw} (ht : CommandTaken s f h)
    (hg : (g.hif, g.regs, g.pins, g.out) = (h.hif, h.regs, h.pins, h.out)) : CommandTaken s f g := by
  simp only [Prod.mk.injEq] at hg
  obtain ⟨hhif, hregs, hpins, hout⟩ := hg
  refine ⟨?_, hregs.trans ht.regs, hpins.trans ht.pins, hout.trans ht.out, by rw [hhif, ht.link]⟩
  rw [Hw.fn, hhif]
  exact ht.fn

section
variable {s : State} {f : FnId} {op : Nat} {masks : List Word} {k : HostCmd} (hf : Fronts s f op true masks k)
  {i : Instr} {status : Hw → HostCmd → BitVec 8} {eff : Hw → HostCmd → Hw × Nat}
  (hx : exec i s = .next { s with hw := simple s.hw f op masks status eff })
include hf hx

/-- A command whose effect is on keys alone. -/
theorem yields_keysDone {sec : Sec} (hst : status (Started s f k) k = 0)
    (he : eff (Started s f k) k = ({ Started s f k with sec := sec }, 0)) :
    Yields i s (fun t => Completes s t f k 0 0 ∧ t.hw.sec = sec) :=
  (yields_simple_done hf hx hst he ((commandTaken_started hf).alike rfl)).imp fun _ ⟨hdone, hsame⟩ => ⟨hdone, hsame.sec⟩

/-- One that a status refuses changes no key. -/
theorem yields_keysRefused {st : BitVec 8} (hst : status (Started s f k) k = st) (hne : st ≠ 0) :
    Yields i s (fun t => Completes s t f k st 0 ∧ t.hw.sec = s.hw.sec) :=
  (yields_simple_refused hf hx hst hne).imp fun _ ⟨hdone, hsame⟩ => ⟨hdone, hsame.sec.trans (started_sec s f k)⟩

end

/-- A command that installs a key reads its blob (R438, R439). -/
theorem readBlob_started {s : State} {f : FnId} {op : Nat} {masks : List Word} {k : HostCmd}
    (hf : Fronts s f op true masks k) (hok : keyStatus s.hw f k = 0) : readBlob (Started s f k) f k =
      hold (hostRead (Started s f k) (.hostCmd f k.seq) none (nthW k.words 1) (nthW k.words 1).toNat 1188) f k := by
  have htaken := commandTaken_started hf
  obtain ⟨-, -, -, -, -, -, -, -, hlink⟩ := hf
  have hup : (Started s f k).hostUp = true := by
    rw [Hw.hostUp, htaken.link]
    exact hlink
  simp [readBlob, keyStatus_started hok, hup]

/-! ### Job keys (R439) -/

/-- Moving send changes that bit alone, of the keys of the job. -/
theorem giveSend_cleared (m : SMap JobKey) (e : Nat) (job : BitVec 16) :
    (giveSend m e job).map (fun p => (p.1, { p.2 with send := false })) =
      m.map (fun p => (p.1, { p.2 with send := false })) := by
  rw [giveSend, List.map_map]
  refine List.map_congr_left fun p _ => ?_
  simp only [Function.comp]
  split <;> rfl

/-- Afterwards entry `e` alone of the job has send. -/
theorem giveSend_send {m : SMap JobKey} {e : Nat} {job : BitVec 16} {p : Nat × JobKey} (hp : p ∈ giveSend m e job)
    (hjob : p.2.job = job) : p.2.send = true ↔ p.1 = e := by
  obtain ⟨q, -, rfl⟩ := List.mem_map.1 hp
  by_cases hq : q.2.job = job
  · simp [hq]
  · rw [if_neg hq] at hjob
    exact absurd hjob hq

theorem find_giveSend {m : SMap JobKey} {j : Nat} {v : JobKey} (hv : SMap.find m j = some v) (e : Nat) :
    SMap.find (giveSend m e v.job) j = some { v with send := j == e } := by
  induction m with
  | nil => cases hv
  | cons p m ih =>
    obtain ⟨i, u⟩ := p
    rw [SMap.find] at hv
    by_cases hi : i = j
    · rw [if_pos hi] at hv
      obtain rfl := Option.some.inj hv
      simp [giveSend, SMap.find, hi]
    · rw [if_neg hi] at hv
      have hrest := ih hv
      simp only [giveSend] at hrest
      simp only [giveSend, List.map_cons]
      split <;> simpa [SMap.find, hi] using hrest

/-- The keys once key `v` has entered entry `e`, with send moved to it where it has send. -/
def jobKeyEntered (m : SMap JobKey) (e : Nat) (v : JobKey) : SMap JobKey :=
  if v.send then giveSend (SMap.put m e v) e v.job else SMap.put m e v

theorem find_jobKeyEntered (m : SMap JobKey) (e : Nat) (v : JobKey) : SMap.find (jobKeyEntered m e v) e = some v := by
  have hput : SMap.find (SMap.put m e v) e = some v := SMap.find_put_same ..
  unfold jobKeyEntered
  split
  next hsend => rw [find_giveSend hput, beq_self_eq_true, ← hsend]
  next => exact hput

theorem jobKeyEntered_send {m : SMap JobKey} {e : Nat} {v : JobKey} (hsend : v.send = true) {p : Nat × JobKey}
    (hp : p ∈ jobKeyEntered m e v) (hjob : p.2.job = v.job) (hps : p.2.send = true) : p.1 = e := by
  rw [jobKeyEntered, if_pos hsend] at hp
  exact (giveSend_send hp hjob).1 hps

/-! ### Blobs (R438) -/

/-- Refusing a key changes none, and raises its event with the context and the status (R451). -/
theorem refuseKey_leaves (h : Hw) (cmds : List Instr) (f : FnId) (k : HostCmd) (status : BitVec 8) :
    (refuseKey h f k status).sec = h.sec ∧
      Pends ⟨refuseKey h f k status, cmds⟩ 0x143 (k.ctx.val + status.toNat * 256) := by
  set g := if status = 0x0A then h.count 0x60040 1 else h with hg
  have hsec : g.sec = h.sec := by rw [hg]; split <;> rfl
  exact ⟨(HostOnly.refl _).finishCmd.sec.trans hsec,
    pends_finishCmd (by decide) f k.seq status 0 (pends_raiseEv g cmds 0x143 _ [])⟩

theorem raiseCtx_reg_ne (h : Hw) (src : Nat) (c : CtxId) (p : Nat) (d : List Word) {k : Nat}
    (hk : k ≠ 0x40200 + 8 * (src / 64)) : (raiseCtx h src c p d).reg k = h.reg k := raiseEv_reg_ne h src p d hk

/-- A blob that does not open is counted. -/
theorem refuseKey_counts (h : Hw) (f : FnId) (k : HostCmd) :
    (refuseKey h f k 0x0A).reg 0x60040 = (h.count 0x60040 1).reg 0x60040 := by
  have hsteady := (HostOnly.refl (raiseCtx (h.count 0x60040 1) 0x143 k.ctx (k.ctx.val + (0x0A : BitVec 8).toNat * 256)
    [])).finishCmd (f := f) (seq := k.seq) (status := 0x0A) (result := 0) |>.steady
  exact (hsteady.reg 0x60040 (by decide) (by decide)).trans (raiseCtx_reg_ne _ _ _ _ _ (by decide))

section
variable {s : State} {f : FnId} {k : HostCmd} {r : Request} {d : Bytes}

/-- The blob of a command that awaits it has come, and its context is still the function's. -/
structure BlobComes (s : State) (f : FnId) (k : HostCmd) (r : Request) : Prop where
  found : s.hw.reqs.find? (fun q => q.tag == r.tag && q.host) = some r
  issuer : r.by_ = .hostCmd f k.seq
  command : readingCmd s.hw f k.seq = some k
  allowed : keyStatus s.hw f k = 0

theorem BlobComes.yields_weightKey (hb : BlobComes s f k r) (hop : k.op = 0x21) {P : State → Prop}
    (hp : P { s with hw := wkeyBlob (dropReq s.hw r.tag) f k (sub d 0 1188) }) :
    Yields (.pcieCompletion r.tag (.data d)) s P := by
  have hreading : readingCmd (dropReq s.hw r.tag) f k.seq = some k := hb.command
  have hok : keyStatus (dropReq s.hw r.tag) f k = 0 := hb.allowed
  refine yields_run rfl (g' := wkeyBlob (dropReq s.hw r.tag) f k (sub d 0 1188)) ?_ hp
  simp [hb.found, hostAnswer, hb.issuer, cmdData, hreading, blobArrived, hok, hop]

theorem BlobComes.yields_jobKey (hb : BlobComes s f k r) (hop : k.op = 0x23) {P : State → Prop}
    (hp : P { s with hw := jobkeyBlob (dropReq s.hw r.tag) f k (sub d 0 1188) }) :
    Yields (.pcieCompletion r.tag (.data d)) s P := by
  have hreading : readingCmd (dropReq s.hw r.tag) f k.seq = some k := hb.command
  have hok : keyStatus (dropReq s.hw r.tag) f k = 0 := hb.allowed
  refine yields_run rfl (g' := jobkeyBlob (dropReq s.hw r.tag) f k (sub d 0 1188)) ?_ hp
  simp [hb.found, hostAnswer, hb.issuer, cmdData, hreading, blobArrived, hok, hop]

end

/-- A weight key that a blob wraps is bound to the context in its free slot. -/
theorem wkeyBlob_installs {h : Hw} {f : FnId} {k : HostCmd} {b key : Bytes} (hopen : unwrapBlob h k.ctx 1 b = some key)
    (hj : leNat (sub b 4 4) < 128) (huse : wkeyInUse h (leNat (sub b 4 4)) = false)
    (hfree : ∀ q, SMap.find h.sec.wkeys (leNat (sub b 4 4)) = some q → q.1 = k.ctx) :
    (wkeyBlob h f k b).sec.wkeys = SMap.put h.sec.wkeys (leNat (sub b 4 4)) (k.ctx, key) := by
  have hother : (SMap.find h.sec.wkeys (leNat (sub b 4 4))).any (fun q => q.1 != k.ctx) = false := by
    cases hq : SMap.find h.sec.wkeys (leNat (sub b 4 4)) with
    | none => rfl
    | some q => simp [hfree q hq]
  simp only [wkeyBlob, hopen, if_neg (Nat.not_le.2 hj), hother, huse, Bool.or_self, Bool.false_eq_true, if_false]
  rw [(HostOnly.refl _).finishCmd.sec]

/-- The job key that a blob wraps, as it is installed. -/
def newJobKey (h : Hw) (k : HostCmd) (b key : Bytes) : JobKey :=
  { id := BitVec.ofNat 16 (leNat (sub b 4 2)), key := key, job := (h.ctx k.ctx).job, nonce := 0
    send := bit (nthW k.words 2) 0 }

/-- A job key under a fresh ID enters a free entry. -/
theorem jobkeyBlob_installs {h : Hw} {f : FnId} {k : HostCmd} {b key : Bytes} {e : Nat}
    (hopen : unwrapBlob h k.ctx 2 b = some key) (hjob : leNat (sub b 6 2) = (h.ctx k.ctx).job.toNat)
    (hfresh : BitVec.ofNat 16 (leNat (sub b 4 2)) ∉ h.sec.everHeld)
    (hfree : (List.range 64).find? (fun e => (SMap.find h.sec.jobKeys e).isNone) = some e) :
    (jobkeyBlob h f k b).sec = { h.sec with
      jobKeys := jobKeyEntered h.sec.jobKeys e (newJobKey h k b key)
      everHeld := h.sec.everHeld ++ [BitVec.ofNat 16 (leNat (sub b 4 2))] } := by
  have hsame : BitVec.ofNat 16 (leNat (sub b 6 2)) = (h.ctx k.ctx).job := by rw [hjob]; exact BitVec.ofNat_toNat ..
  have hheld : h.sec.everHeld.contains (BitVec.ofNat 16 (leNat (sub b 4 2))) = false := by simpa using hfresh
  simp only [jobkeyBlob, hopen, hsame, ne_eq, not_true_eq_false, if_false, hheld, Bool.false_eq_true, hfree]
  rw [(HostOnly.refl _).finishCmd.sec]
  rfl

/-- One under an ID that has been held before is refused. -/
theorem jobkeyBlob_refuses {h : Hw} {f : FnId} {k : HostCmd} {b key : Bytes}
    (hopen : unwrapBlob h k.ctx 2 b = some key) (hjob : leNat (sub b 6 2) = (h.ctx k.ctx).job.toNat)
    (hheld : BitVec.ofNat 16 (leNat (sub b 4 2)) ∈ h.sec.everHeld) : jobkeyBlob h f k b = refuseKey h f k 0x0B := by
  have hsame : BitVec.ofNat 16 (leNat (sub b 6 2)) = (h.ctx k.ctx).job := by rw [hjob]; exact BitVec.ofNat_toNat ..
  have hheld' : h.sec.everHeld.contains (BitVec.ofNat 16 (leNat (sub b 4 2))) = true := by simpa using hheld
  simp only [jobkeyBlob, hopen, hsame, ne_eq, not_true_eq_false, if_false, hheld', if_true]

/-! ### Commands that act at once (R437 to R439) -/

section
variable {s : State} {f : FnId} {masks : List Word} {k : HostCmd} (hok : keyStatus s.hw f k = 0)
include hok

/-- A pair from the generator replaces the context's (R437). -/
theorem yields_wkeyGenkem (hf : Fronts s f 0x20 true [] k) :
    Yields (.wkeyGenkem f) s (fun t => Completes s t f k 0 0 ∧
      (t.hw.ctx k.ctx).kem = some (Config.kemKeygen (Config.drbg s.hw.sec.drbgNext)) ∧
      (t.hw.ctx k.ctx).evidence = [] ∧ t.hw.sec.drbgNext = s.hw.sec.drbgNext + 1 ∧
      (t.hw.ctx k.ctx).measurement = (s.hw.ctx k.ctx).measurement) := by
  set g := (drawKey (Started s f k)).2.modCtx k.ctx (fun x =>
    { x with kem := some (Config.kemKeygen (drawKey (Started s f k)).1), evidence := [] }) with hg
  refine (yields_simple_done (g := g) (result := 0) hf rfl (keyStatus_started hok) rfl
    ((commandTaken_started hf).alike rfl)).imp fun t ht => ?_
  obtain ⟨hdone, hsame⟩ := ht
  have hbefore : (drawKey (Started s f k)).2.ctx k.ctx = s.hw.ctx k.ctx := Hw.ctx_of_ctxs (started_ctxs s f k) _
  have hctx : t.hw.ctx k.ctx = { s.hw.ctx k.ctx with
      kem := some (Config.kemKeygen (Config.drbg s.hw.sec.drbgNext)), evidence := [] } := by
    rw [Hw.ctx_of_ctxs hsame.ctxs, hg, Hw.ctx_modCtx, hbefore, drawKey, started_sec]
  have hnext : t.hw.sec.drbgNext = (Started s f k).sec.drbgNext + 1 := by rw [hsame.sec]; rfl
  rw [started_sec] at hnext
  refine ⟨hdone, ?_, ?_, hnext, ?_⟩ <;> rw [hctx]

/-- A slot bound to the context that no stream uses is cleared (R264). -/
theorem yields_wkeyClear (hf : Fronts s f 0x22 true [0x7F] k) {key : Bytes}
    (hkey : SMap.find s.hw.sec.wkeys (wfld (nthW k.words 1) 0 7) = some (k.ctx, key))
    (huse : wkeyInUse s.hw (wfld (nthW k.words 1) 0 7) = false) :
    Yields (.wkeyClear f) s (fun t => Completes s t f k 0 0 ∧
      t.hw.sec = { s.hw.sec with wkeys := SMap.del s.hw.sec.wkeys (wfld (nthW k.words 1) 0 7) }) := by
  have huse' : wkeyInUse (Started s f k) (wfld (nthW k.words 1) 0 7) = false :=
    (wkeyInUse_congr (started_slots s f k) _).trans huse
  refine yields_keysDone hf rfl ?_ (by simp only [started_sec])
  simp [keyStatus_started hok, hkey, huse', firstStatus]

/-- A slot that is not the context's is left (R421). -/
theorem yields_wkeyClear_refused (hf : Fronts s f 0x22 true [0x7F] k)
    (hnone : ∀ key, SMap.find s.hw.sec.wkeys (wfld (nthW k.words 1) 0 7) ≠ some (k.ctx, key)) :
    Yields (.wkeyClear f) s (fun t => Completes s t f k 3 0 ∧ t.hw.sec = s.hw.sec) := by
  have hother : (SMap.find s.hw.sec.wkeys (wfld (nthW k.words 1) 0 7)).any (fun q => q.1 == k.ctx) = false := by
    cases hq : SMap.find s.hw.sec.wkeys (wfld (nthW k.words 1) 0 7) with
    | none => rfl
    | some q =>
      refine beq_false_of_ne fun hc => hnone q.2 ?_
      rw [hq, ← hc]
  refine yields_keysRefused hf rfl ?_ (by decide)
  simp [keyStatus_started hok, hother, firstStatus]

/-- Send moves to the named entry of the job. -/
theorem yields_jobkeySend (hf : Fronts s f 0x24 true [0xFFFF] k) {e : Nat} {key : JobKey}
    (hnamed : namedKey s.hw k = some (e, key)) :
    Yields (.jobkeySend f) s (fun t => Completes s t f k 0 0 ∧
      t.hw.sec = { s.hw.sec with jobKeys := giveSend s.hw.sec.jobKeys e (s.hw.ctx k.ctx).job }) := by
  refine yields_keysDone hf rfl ?_ (by simp only [namedKey_started, hnamed, started_sec, started_ctx])
  simp [keyStatus_started hok, namedKey_started, hnamed, firstStatus]

theorem yields_jobkeySend_refused (hf : Fronts s f 0x24 true [0xFFFF] k) (hnamed : namedKey s.hw k = none) :
    Yields (.jobkeySend f) s (fun t => Completes s t f k 3 0 ∧ t.hw.sec = s.hw.sec) := by
  refine yields_keysRefused hf rfl ?_ (by decide)
  simp [keyStatus_started hok, namedKey_started, hnamed, firstStatus]

/-- A named entry without send is removed. -/
theorem yields_jobkeyRetire (hf : Fronts s f 0x25 true [0xFFFF] k) {e : Nat} {key : JobKey}
    (hnamed : namedKey s.hw k = some (e, key)) (hsend : key.send = false) :
    Yields (.jobkeyRetire f) s (fun t => Completes s t f k 0 0 ∧
      t.hw.sec = { s.hw.sec with jobKeys := SMap.del s.hw.sec.jobKeys e }) := by
  refine yields_keysDone hf rfl ?_ (by simp only [namedKey_started, hnamed, started_sec])
  simp [keyStatus_started hok, namedKey_started, hnamed, hsend, firstStatus]

/-- One with send, or a name of none, is refused. -/
theorem yields_jobkeyRetire_refused (hf : Fronts s f 0x25 true [0xFFFF] k)
    (hno : (namedKey s.hw k).any (fun p => !p.2.send) = false) :
    Yields (.jobkeyRetire f) s (fun t => Completes s t f k 3 0 ∧ t.hw.sec = s.hw.sec) := by
  refine yields_keysRefused hf rfl ?_ (by decide)
  simp [keyStatus_started hok, namedKey_started, hno, firstStatus]

end

end Sys2Proof.Machine

namespace Sys2Proof

open Sys2Proof.Machine

/-- Settles O44: commands that act at once complete as `yields_keysDone` and `yields_keysRefused` say, those that read
a blob as `yields_hostReads`, and a blob that has come installs its key or is refused. -/
theorem keyCommandsMakeMoveAndClearKeys : Obligations.KeyCommandsMakeMoveAndClearKeys := by
  intro s f k c x w all ok reads slot keys
  refine ⟨fun hf hok => ?genkem, fun hf hok => ?weightReads, fun hf hok => ?jobReads, fun r d hr hby hk hok => ?blob,
    fun hf hok => ?clear, fun hf hok => ?send, fun hf hok => ?retire⟩
  case genkem => exact yields_wkeyGenkem hok hf
  case weightReads =>
    exact yields_hostReads hf rfl (readBlob_started hf hok)
  case jobReads => exact yields_hostReads hf rfl (readBlob_started hf hok)
  case blob =>
    intro b j kid
    have hb : BlobComes s f k r := ⟨hr, hby, hk, hok⟩
    refine ⟨fun hop hopen => ?closed, fun key hop hopen hj huse hfree => ?weight,
      fun key e hop hopen hjob hfresh hfree => ?job, fun key hop hopen hjob hheld => ?held⟩
    case closed =>
      have hopen' : unwrapBlob (dropReq s.hw r.tag) k.ctx 1 b = none := hopen
      have hno : wkeyBlob (dropReq s.hw r.tag) f k b = refuseKey (dropReq s.hw r.tag) f k 0x0A := by
        simp only [wkeyBlob, hopen']
      obtain ⟨hsec, hpends⟩ := refuseKey_leaves (dropReq s.hw r.tag) s.pending f k 0x0A
      refine hb.yields_weightKey hop ?_
      rw [hno]
      exact ⟨hsec, hpends, (refuseKey_counts _ f k).trans (Hw.reg_count (dropReq s.hw r.tag) _ _)⟩
    case weight =>
      have hput := wkeyBlob_installs (h := dropReq s.hw r.tag) (f := f) hopen hj huse hfree
      refine hb.yields_weightKey hop ⟨?_, fun i hi => ?_⟩
      · exact (congrArg (SMap.find · j) hput).trans (SMap.find_put_same ..)
      · exact (congrArg (SMap.find · i) hput).trans (SMap.find_put_ne _ _ hi)
    case job =>
      have hsec := jobkeyBlob_installs (h := dropReq s.hw r.tag) (f := f) hopen hjob hfresh hfree
      refine hb.yields_jobKey hop ?_
      rw [hsec]
      exact ⟨find_jobKeyEntered .., List.mem_append_right _ (List.mem_singleton.2 rfl),
        fun hsend p hp hpj hps => jobKeyEntered_send hsend hp hpj hps⟩
    case held =>
      obtain ⟨hsec, hpends⟩ := refuseKey_leaves (dropReq s.hw r.tag) s.pending f k 0x0B
      refine hb.yields_jobKey hop ?_
      rw [jobkeyBlob_refuses (h := dropReq s.hw r.tag) hopen hjob hheld]
      exact ⟨hsec, hpends⟩
  case clear =>
    refine ⟨fun ⟨key, hkey⟩ huse => (yields_wkeyClear hok hf hkey huse).imp fun t ht => ?_,
      yields_wkeyClear_refused hok hf⟩
    obtain ⟨hdone, hsec⟩ := ht
    rw [hsec]
    exact ⟨hdone, SMap.find_del_same .., fun i hi => SMap.find_del_ne _ hi⟩
  case send =>
    refine ⟨fun e key hnamed => (yields_jobkeySend hok hf hnamed).imp fun t ht => ?_,
      fun hnamed => yields_jobkeySend_refused hok hf hnamed⟩
    obtain ⟨hdone, hsec⟩ := ht
    rw [hsec]
    exact ⟨hdone, giveSend_cleared .., fun p hp hjob => giveSend_send hp hjob⟩
  case retire =>
    refine ⟨fun e key hnamed hsend => (yields_jobkeyRetire hok hf hnamed hsend).imp fun t ht => ?_,
      fun e key hnamed hsend => yields_jobkeyRetire_refused hok hf (by simp [hnamed, hsend]),
      fun hnamed => yields_jobkeyRetire_refused hok hf (by simp [hnamed])⟩
    obtain ⟨hdone, hsec⟩ := ht
    rw [hsec]
    exact ⟨hdone, SMap.find_del_same .., fun i hi => SMap.find_del_ne _ hi⟩

end Sys2Proof
end
